-- ==== Sys2Proof/Word.lean ====
section
/-! DEFINITION. The plain types that commands and state are made of: words, unit numbers and mesh frames. -/

namespace Sys2Proof

abbrev Byte := BitVec 8
abbrev W16 := BitVec 16
abbrev W32 := BitVec 32
abbrev W64 := BitVec 64

/-- A sparse array: pairs of key and value, keys strictly rising, a key that is not listed holding the array's default. -/
abbrev Tab (α : Type) := List (Nat × α)

/-- Furrow number, 0 to 15 (R15). -/
abbrev Fur := Fin 16
/-- Freeze domain of a furrow (R46). -/
abbrev Dom := Fin 2
/-- Drill of a furrow (R125). -/
abbrev DrillNo := Fin 8
/-- Queue slot (R249, R250). -/
abbrev QSlot := Fin 64
/-- Context slot (R254). -/
abbrev CSlot := Fin 48
/-- Stack port (R140). -/
abbrev StackNo := Fin 32
/-- Mesh port (R292). -/
abbrev PortNo := Fin 16

/-- What an L2 covers, coded as in events 0x0512 and 0x8540 (R327). -/
inductive Scope where
  | furrow | half0 | half1 | block
  deriving DecidableEq, Repr

/-- The recovery domains of R323: half d of furrow f (or domain 0 of an unsplit one), furrow f, and the block. -/
inductive RecDomain where
  | half (f : Fur) (d : Dom)
  | furrow (f : Fur)
  | block
  deriving DecidableEq, Repr

/-- A port-S agent of a furrow (R105). -/
inductive Agent where
  | relay
  | window (j : Fin 16)
  | drill (k : DrillNo)
  /-- A host command, named by its queue slot and its SEQUENCE. -/
  | host (q : QSlot) (seq : W32)
  deriving DecidableEq, Repr

/-- A requester of a stack port, in the fixed order of R141. -/
inductive Requester where
  | drill (f : Fur) (k : DrillNo)
  | dispatcher
  | remoteCopy
  deriving DecidableEq, Repr

/-- What PATROL finds in a 4 KiB unit (R348): no error, one that ECC corrects, or one that it cannot. -/
inductive UnitRead where
  | good | corrected | uncorrectable
  deriving DecidableEq, Repr

/-- How a memory answered a read (R144, R263): data, an uncorrectable HBM error, or a translation fault. -/
inductive ReadOutcome where
  | good | uncorrectable | translation
  deriving DecidableEq, Repr

/-- A transport frame of the mesh: header words h0 to h3 and the payload bytes (R294). -/
structure Frame where
  h0 : W64
  h1 : W64
  h2 : W64
  h3 : W64
  payload : List Byte
  deriving DecidableEq, Repr

/-- Why a port left UP, coded as in event 0x0801 (R298). -/
inductive DownCause where
  | pcsLock | replayLimit | linkSilence
  deriving DecidableEq, Repr

end Sys2Proof
end

