-- ==== Sys2Proof/Syntax.lean ====
section
/-! DEFINITION. The commands of the block: one constructor for each row of spec/opcode_table.json, in the table's order. -/

namespace Sys2Proof

/-- The freeze domain of a beat, and the bricks whose residue checks fail on the results that commit in it, which silicon decides (R174). -/
structure BeatAt where
  dom : Dom
  mismatch : BitVec 4
  deriving DecidableEq, Repr

/-- A command or event of the block. The operand `op` of a slot operation is bits [39:0] of its slot (R56, R61); `sl` says which of
a unit's two slots issues it; `q` is a queue slot whose head packet carries the command's parameters (R241). An operand that comes
from outside the block (a frame, a reading, the outcome of a test) is the environment's. -/
inductive Instr where
  /-- REGISTER_WRITE (R10): A host write to a register that has no row of its own sets or clears its fields by access code, and reserved and read-only fields are ignored. -/
  | registerWrite (off : BitVec 26) (wide : Bool) (v : W64)
  /-- BAD_REGISTER_ACCESS (R9): A host access to the register window that is not an aligned 64-bit or 32-bit access is discarded or reads zero, and records class 0x05. -/
  | badRegisterAccess (off : BitVec 26) (bytes : Nat) (write : Bool)
  /-- DEBUG_WINDOW_REFUSED (R374): An access to a debug-window region that is not open reads zero or is discarded, and records event 0x0B06. -/
  | debugWindowRefused (off : BitVec 26) (write : Bool)
  /-- BEAT_ATTEMPT (R38): On a tick, a RUNNING freeze domain checks every condition of its pending beat, and then either retires the whole beat or freezes it. -/
  | beatAttempt (f : Fur) (b : BeatAt)
  /-- OPERATION_COMMIT (R33): An operation issued in beat b commits its result at the end of beat b + L − 1. -/
  | operationCommit (f : Fur) (d : Dom) (mismatch : BitVec 4)
  /-- PAIR_LOSS_FREEZE (R175): A domain running a four-brick routine freezes at its next beat boundary after one of its pairs is disabled. -/
  | pairLossFreeze (f : Fur) (d : Dom)
  /-- TILE_CHUNK_SWAP (R164): With AUTOSWAP, the course swaps its live and standby sets at the end of the last beat of every chunk. -/
  | tileChunkSwap (f : Fur) (d : Dom)
  /-- OS_DRAIN_READ (R168): After an OS tile swaps, cell row r is read and written to its windrow entry in beat s + byte 9 + r. -/
  | osDrainRead (f : Fur) (d : Dom)
  /-- END (R82): The END bit of a word returns from the routine, or ends it at depth 0, after any call in the word. -/
  | endWord (f : Fur) (d : Dom)
  /-- DRAIN_END (R36): When the last in-flight operation of a finished routine commits, the domain enters IDLE, frees its scoreboard entries and completes its START. -/
  | drainEnd (f : Fur) (d : Dom)
  /-- LOOP (R77): Opens a loop on a counter over the following BODY words, with a count from COUNT or from a layer register. -/
  | loop (f : Fur) (d : Dom) (op : BitVec 40)
  /-- CALL (R80): Calls a routine, costing two beats with no issue. -/
  | call (f : Fur) (d : Dom) (op : BitVec 40)
  /-- CALLIF (R80): Calls a routine if a flag equals SENSE, costing two beats whether or not the call is taken. -/
  | callif (f : Fur) (d : Dom) (op : BitVec 40)
  /-- RET (R80): Returns to the caller, or ends the routine at depth 0. -/
  | ret (f : Fur) (d : Dom) (op : BitVec 40)
  /-- HALT (R82): Ends the routine at any depth. -/
  | halt (f : Fur) (d : Dom) (op : BitVec 40)
  /-- ADD (R66): D = A + B. -/
  | add (f : Fur) (d : Dom) (sl : Fin 2) (op : BitVec 40)
  /-- SUB (R66): D = A − B. -/
  | sub (f : Fur) (d : Dom) (sl : Fin 2) (op : BitVec 40)
  /-- MUL (R66): D = the low 64 bits of A × B. -/
  | mul (f : Fur) (d : Dom) (sl : Fin 2) (op : BitVec 40)
  /-- AND (R66): D = A and B. -/
  | andOp (f : Fur) (d : Dom) (sl : Fin 2) (op : BitVec 40)
  /-- OR (R66): D = A or B. -/
  | orOp (f : Fur) (d : Dom) (sl : Fin 2) (op : BitVec 40)
  /-- XOR (R66): D = A xor B. -/
  | xorOp (f : Fur) (d : Dom) (sl : Fin 2) (op : BitVec 40)
  /-- SHL (R66): Shifts A left. -/
  | shl (f : Fur) (d : Dom) (sl : Fin 2) (op : BitVec 40)
  /-- SHR (R66): Shifts A right logically. -/
  | shr (f : Fur) (d : Dom) (sl : Fin 2) (op : BitVec 40)
  /-- SAR (R66): Shifts A right arithmetically. -/
  | sar (f : Fur) (d : Dom) (sl : Fin 2) (op : BitVec 40)
  /-- MIN (R66): D = the signed minimum of A and B. -/
  | minOp (f : Fur) (d : Dom) (sl : Fin 2) (op : BitVec 40)
  /-- MAX (R66): D = the signed maximum of A and B. -/
  | maxOp (f : Fur) (d : Dom) (sl : Fin 2) (op : BitVec 40)
  /-- LDI (R66): Loads a sign-extended immediate into D. -/
  | ldi (f : Fur) (d : Dom) (sl : Fin 2) (op : BitVec 40)
  /-- SHOR (R66): Shifts A left by 29 and ORs in the immediate. -/
  | shor (f : Fur) (d : Dom) (sl : Fin 2) (op : BitVec 40)
  /-- CMP (R66): Writes a flag from a condition on A and B. -/
  | cmp (f : Fur) (d : Dom) (sl : Fin 2) (op : BitVec 40)
  /-- RDL (R66): Reads the iterations that remain on a loop counter. -/
  | rdl (f : Fur) (d : Dom) (sl : Fin 2) (op : BitVec 40)
  /-- RDLY (R66): Reads a live layer register. -/
  | rdly (f : Fur) (d : Dom) (sl : Fin 2) (op : BitVec 40)
  /-- RDA (R66): Reads an address register. -/
  | rda (f : Fur) (d : Dom) (sl : Fin 2) (op : BitVec 40)
  /-- LDN (R66): Narrow load of 8 scratchpad bytes into a scalar register. -/
  | ldn (f : Fur) (d : Dom) (op : BitVec 40)
  /-- STN (R66): Narrow store of a scalar register into 8 scratchpad bytes. -/
  | stn (f : Fur) (d : Dom) (op : BitVec 40)
  /-- ASET (R67): Sets BASE and TV2 of an address register. -/
  | aset (f : Fur) (d : Dom) (op : BitVec 40)
  /-- ASTR (R67): Sets STRIDE of an address register. -/
  | astr (f : Fur) (d : Dom) (op : BitVec 40)
  /-- ASTEP (R67): Steps one or two address registers by their strides. -/
  | astep (f : Fur) (d : Dom) (op : BitVec 40)
  /-- ALY (R67): Loads an address register from a live layer register. -/
  | aly (f : Fur) (d : Dom) (op : BitVec 40)
  /-- AADD (R67): Adds a scalar register to BASE. -/
  | aadd (f : Fur) (d : Dom) (op : BitVec 40)
  /-- AMOV (R67): Copies one address register to another. -/
  | amov (f : Fur) (d : Dom) (op : BitVec 40)
  /-- TWS (R163): Runs a weight-stationary tile operation on the course. -/
  | tws (f : Fur) (d : Dom) (op : BitVec 40)
  /-- TWT (R167): Runs a weight-stationary transposed tile operation. -/
  | twt (f : Fur) (d : Dom) (op : BitVec 40)
  /-- TOS (R168): Runs an output-stationary tile operation. -/
  | tos (f : Fur) (d : Dom) (op : BitVec 40)
  /-- TES (R169): Runs an element-strip tile operation. -/
  | tes (f : Fur) (d : Dom) (op : BitVec 40)
  /-- SWAP (R154): Exchanges the live and standby sets of the named pairs. -/
  | swap (f : Fur) (d : Dom) (op : BitVec 40)
  /-- SLD (R69): Loads one standby row into each masked brick. -/
  | sld (f : Fur) (d : Dom) (op : BitVec 40)
  /-- WCLR (R201): Clears windrow entries and their poison marks. -/
  | wclr (f : Fur) (d : Dom) (op : BitVec 40)
  /-- WRD (R201): Reads a windrow entry into a vector register. -/
  | wrd (f : Fur) (d : Dom) (op : BitVec 40)
  /-- WWR (R201): Writes a vector register into a windrow entry. -/
  | wwr (f : Fur) (d : Dom) (op : BitVec 40)
  /-- FMA (R210): Fused a × b + c. -/
  | fma (f : Fur) (d : Dom) (sl : Fin 2) (op : BitVec 40)
  /-- FMS (R210): Fused a × b − c. -/
  | fms (f : Fur) (d : Dom) (sl : Fin 2) (op : BitVec 40)
  /-- FNMA (R210): Fused −a × b + c. -/
  | fnma (f : Fur) (d : Dom) (sl : Fin 2) (op : BitVec 40)
  /-- FADD (R210): Floating-point add. -/
  | fadd (f : Fur) (d : Dom) (sl : Fin 2) (op : BitVec 40)
  /-- FSUB (R210): Floating-point subtract. -/
  | fsub (f : Fur) (d : Dom) (sl : Fin 2) (op : BitVec 40)
  /-- FMUL (R210): Floating-point multiply. -/
  | fmul (f : Fur) (d : Dom) (sl : Fin 2) (op : BitVec 40)
  /-- FMIN (R211): Element-wise floating-point minimum. -/
  | fmin (f : Fur) (d : Dom) (sl : Fin 2) (op : BitVec 40)
  /-- FMAX (R211): Element-wise floating-point maximum. -/
  | fmax (f : Fur) (d : Dom) (sl : Fin 2) (op : BitVec 40)
  /-- FCMP (R211): Element-wise floating-point comparison mask. -/
  | fcmp (f : Fur) (d : Dom) (sl : Fin 2) (op : BitVec 40)
  /-- SEL (R211): Selects a or b by C. -/
  | sel (f : Fur) (d : Dom) (sl : Fin 2) (op : BitVec 40)
  /-- FABS (R211): Clears the sign bit. -/
  | fabs (f : Fur) (d : Dom) (sl : Fin 2) (op : BitVec 40)
  /-- FNEG (R211): Inverts the sign bit. -/
  | fneg (f : Fur) (d : Dom) (sl : Fin 2) (op : BitVec 40)
  /-- MOV (R211): Copies A, or a broadcast scalar, to D. -/
  | mov (f : Fur) (d : Dom) (sl : Fin 2) (op : BitVec 40)
  /-- PERM (R211): Permutes elements or bytes of A by B. -/
  | perm (f : Fur) (d : Dom) (sl : Fin 2) (op : BitVec 40)
  /-- ROT (R211): Rotates the elements of A. -/
  | rot (f : Fur) (d : Dom) (sl : Fin 2) (op : BitVec 40)
  /-- IADD (R212): Integer add with wrap. -/
  | iadd (f : Fur) (d : Dom) (sl : Fin 2) (op : BitVec 40)
  /-- ISUB (R212): Integer subtract with wrap. -/
  | isub (f : Fur) (d : Dom) (sl : Fin 2) (op : BitVec 40)
  /-- IAND (R212): Bitwise and. -/
  | iand (f : Fur) (d : Dom) (sl : Fin 2) (op : BitVec 40)
  /-- IOR (R212): Bitwise or. -/
  | ior (f : Fur) (d : Dom) (sl : Fin 2) (op : BitVec 40)
  /-- IXOR (R212): Bitwise xor. -/
  | ixor (f : Fur) (d : Dom) (sl : Fin 2) (op : BitVec 40)
  /-- ISHL (R212): Integer shift left. -/
  | ishl (f : Fur) (d : Dom) (sl : Fin 2) (op : BitVec 40)
  /-- ISHR (R212): Integer logical shift right. -/
  | ishr (f : Fur) (d : Dom) (sl : Fin 2) (op : BitVec 40)
  /-- ISAR (R212): Integer arithmetic shift right. -/
  | isar (f : Fur) (d : Dom) (sl : Fin 2) (op : BitVec 40)
  /-- IMIN (R212): Integer minimum. -/
  | imin (f : Fur) (d : Dom) (sl : Fin 2) (op : BitVec 40)
  /-- IMAX (R212): Integer maximum. -/
  | imax (f : Fur) (d : Dom) (sl : Fin 2) (op : BitVec 40)
  /-- CVT (R213): Converts FP32 to a format with a chosen rounding mode. -/
  | cvt (f : Fur) (d : Dom) (sl : Fin 2) (op : BitVec 40)
  /-- CVTSR (R213): Converts FP32 to a format with stochastic rounding. -/
  | cvtsr (f : Fur) (d : Dom) (sl : Fin 2) (op : BitVec 40)
  /-- CVTMX (R214): Converts to an MX element type, or writes the block scales. -/
  | cvtmx (f : Fur) (d : Dom) (sl : Fin 2) (op : BitVec 40)
  /-- CVTIN (R215): Converts a brick-format element to FP32. -/
  | cvtin (f : Fur) (d : Dom) (sl : Fin 2) (op : BitVec 40)
  /-- EXP2 (R216): Computes 2^x. -/
  | exp2 (f : Fur) (d : Dom) (op : BitVec 40)
  /-- LOG2 (R216): Computes log2 x. -/
  | log2 (f : Fur) (d : Dom) (op : BitVec 40)
  /-- RSQRT (R216): Computes the reciprocal square root. -/
  | rsqrt (f : Fur) (d : Dom) (op : BitVec 40)
  /-- RCP (R216): Computes the reciprocal. -/
  | rcp (f : Fur) (d : Dom) (op : BitVec 40)
  /-- TANH (R216): Computes the hyperbolic tangent. -/
  | tanh (f : Fur) (d : Dom) (op : BitVec 40)
  /-- SIGM (R216): Computes the logistic sigmoid. -/
  | sigm (f : Fur) (d : Dom) (op : BitVec 40)
  /-- RSUM (R217): Sums each 64-lane segment in a fixed tree. -/
  | rsum (f : Fur) (d : Dom) (op : BitVec 40)
  /-- RMAX (R217): Takes the maximum of each 64-lane segment in a fixed tree. -/
  | rmax (f : Fur) (d : Dom) (op : BitVec 40)
  /-- VLD (R72): Loads lanes of a vector register from a scratchpad row. -/
  | vld (f : Fur) (d : Dom) (op : BitVec 40)
  /-- VST (R72): Stores lanes of a vector register to a scratchpad row. -/
  | vst (f : Fur) (d : Dom) (op : BitVec 40)
  /-- DRI_DGO (R134): Starts, or latches, the armed inbound list of a drill. -/
  | driDgo (f : Fur) (d : Dom) (op : BitVec 40)
  /-- DTILE (R137): Releases one drill tile of run-ahead credit. -/
  | dtile (f : Fur) (d : Dom) (op : BitVec 40)
  /-- DSTOP (R134): Takes a RUNNING drill to STOPPING. -/
  | dstop (f : Fur) (d : Dom) (op : BitVec 40)
  /-- DPUT (R138): Hands a row formed from a vector register to a drill's put queue. -/
  | dput (f : Fur) (d : Dom) (op : BitVec 40)
  /-- DTEND (R139): Ends the current outbound drill tile early. -/
  | dtend (f : Fur) (d : Dom) (op : BitVec 40)
  /-- DRO_DGO (R134): Starts, or latches, the armed outbound list of a drill. -/
  | droDgo (f : Fur) (d : Dom) (op : BitVec 40)
  /-- SADD (R283): Adds to a signal counter. -/
  | sadd (f : Fur) (d : Dom) (op : BitVec 40)
  /-- SSUB (R283): Subtracts from a signal counter. -/
  | ssub (f : Fur) (d : Dom) (op : BitVec 40)
  /-- SSET (R283): Sets a signal counter. -/
  | sset (f : Fur) (d : Dom) (op : BitVec 40)
  /-- SWAIT (R283): Retires only when its own furrow's counter has reached the value, and freezes on cause 6 until then. -/
  | swait (f : Fur) (d : Dom) (op : BitVec 40)
  /-- SIGNAL_ARRIVE (R285): A counter change from another furrow takes effect at the end of a tick of the target furrow. -/
  | signalArrive (f : Fur)
  /-- MISS (R225): Issues vector registers and CTRL to a mortar unit, whose result is sampled LATENCY advancing ticks later. -/
  | miss (f : Fur) (d : Dom) (sl : Fin 2) (op : BitVec 40)
  /-- MORTAR_ERROR (R232): MO_ERR sampled high sets FU_STICKY.MORTAR, records 0x0901 and freezes the owning domain from the next tick. -/
  | mortarError (f : Fur) (u : Fin 4) (code : W16)
  /-- LONG_FREEZE (R42): A domain frozen longer than LIMIT_US sets LONGFREEZE and records event 0x0110 once. -/
  | longFreeze (f : Fur) (d : Dom)
  /-- COUNTER_WRAP (R41): A 48-bit counter wraps, sets its OVF bit and records event 0x8E01. -/
  | counterWrap (f : Fur) (d : Dom) (c : BitVec 8)
  /-- KEEPER_STEP_DOWN (R44): 4 µs after the last brick operation, keeper issue steps down in eight 125 ns steps. -/
  | keeperStepDown (f : Fur) (d : Dom)
  /-- CLOCK_GATE (R45): After 20 µs of idle or cause-6 waiting, the furrow gates its beat clock. -/
  | clockGate (f : Fur)
  /-- CLOCK_UNGATE (R45): When the gating condition ends, the clock ungates within 64 ticks. -/
  | clockUngate (f : Fur)
  /-- FU_THAW (R54): A write of 1 to FU_CTRL.THAWd takes a FAULTED domain with clear L1 bits to IDLE and abandons its work. -/
  | fuThaw (f : Fur) (mask : BitVec 2)
  /-- COMMAND_FETCH (R251): The queue engine fetches a packet between QS_HEAD and QS_TAIL and advances QS_SEQ. -/
  | commandFetch (q : QSlot)
  /-- NOP (R244): Does nothing and completes at acceptance. -/
  | nop (q : QSlot)
  /-- BARRIER (R244): Is accepted once every earlier command of the queue is complete. -/
  | barrier (q : QSlot)
  /-- TIMESTAMP (R244): Completes with the device timebase at acceptance. -/
  | timestamp (q : QSlot)
  /-- LOAD_PROGRAM (R89): Checks a load image and waits for the target segments to be free of held sets. -/
  | loadProgram (q : QSlot)
  /-- PROGRAM_STORE_LOAD (R90): Once no domain holds an intersecting set, the image's segments and routine entries are written in one step. -/
  | programStoreLoad (q : QSlot) (seq : W32)
  /-- CONFIGURE (R93): Accepts a run of values for the next layer bank. -/
  | configure (q : QSlot)
  /-- CONFIGURE_APPLY (R94): The values are written to the next bank once any earlier START has swapped. -/
  | configureApply (q : QSlot) (seq : W32)
  /-- START (R95): Checks the routine entry and enters STARTING to form its footprint. -/
  | start (q : QSlot)
  /-- HOST_CALL (R97): Enters a routine as START does, without swapping banks. -/
  | hostCall (q : QSlot)
  /-- SCOREBOARD_ENTRY (R117): A waiting entrant enters all its regions on the first tick on which they are admissible. -/
  | scoreboardEntry (f : Fur)
  /-- SPLIT (R48): Requests a split or a join of a furrow, and waits for the conditions. -/
  | split (q : QSlot)
  /-- SPLIT_CHANGE (R48): Once the conditions hold, the furrow changes mode and clears registers, rings and drills. -/
  | splitChange (f : Fur)
  /-- FALLOW (R119): Sets a new fallow mask, putting groups to sleep and waking others. -/
  | fallow (q : QSlot)
  /-- FALLOW_SLEEP (R119): Once no scoreboard entry intersects it, a group powers down and loses its contents. -/
  | fallowSleep (f : Fur)
  /-- FALLOW_WAKE_END (R119): 12 µs after waking, a group ends WAKING with zero rows. -/
  | fallowWakeEnd (f : Fur)
  /-- COPY (R245): Copies bytes between segments and scratchpads on a copy engine. -/
  | copy (q : QSlot)
  /-- FILL (R244): Fills a segment range with a repeated pattern. -/
  | fill (q : QSlot)
  /-- COPY_DONE (R244): A COPY or FILL completes when its last byte is written and acknowledged. -/
  | copyDone (q : QSlot) (seq : W32)
  /-- ARM_DRILL (R127): Arms a drill with a block list and parameters. -/
  | armDrill (q : QSlot)
  /-- REARM_DRILL (R148): Supplies new bases to a persistent drill. -/
  | rearmDrill (q : QSlot)
  /-- DISARM_DRILL (R135): Returns a drill to IDLE at the host's request. -/
  | disarmDrill (q : QSlot)
  /-- SCRATCH_WRITE (R245): Writes up to 96 payload bytes into a scratchpad row. -/
  | scratchWrite (q : QSlot)
  /-- SCRATCH_READ (R245): Reads up to 512 bytes of a scratchpad row into a segment. -/
  | scratchRead (q : QSlot)
  /-- FENCE_SIGNAL (R278): Signals a fence after every earlier command of the queue completes. -/
  | fenceSignal (q : QSlot)
  /-- FENCE_OPERATION (R276): The memory performs an indivisible read, comparison and write of the fence. -/
  | fenceOperation (q : QSlot) (seq : W32) (out : ReadOutcome)
  /-- FENCE_WAIT (R279): Takes a fence-watch slot and waits for the fence to reach VALUE. -/
  | fenceWait (q : QSlot)
  /-- FENCE_WATCH_READ (R279): A watch slot reads its fence periodically or after a signal, and completes the wait when the value is reached. -/
  | fenceWatchRead (k : Fin 256) (out : ReadOutcome)
  /-- FENCE_WAIT_DEADLINE (R279): At the deadline the slot reads once more, and completes with OK or TIMEOUT. -/
  | fenceWaitDeadline (k : Fin 256) (out : ReadOutcome)
  /-- SIGNAL_SET (R287): Sets, adds to or subtracts from a signal counter of the context. -/
  | signalSet (q : QSlot)
  /-- WINDOW_OPEN (R310): Opens a mesh window on a scratchpad range. -/
  | windowOpen (q : QSlot)
  /-- WINDOW_CLOSE (R313): Requests the close of a mesh window. -/
  | windowClose (q : QSlot)
  /-- WINDOW_CLOSED (R313): Once no frame is being committed into it, the window closes and the command completes. -/
  | windowClosed (f : Fur) (j : Fin 16)
  /-- REMOTE_COPY (R314): Sends segment bytes to a remote window as WRITE frames on a lane. -/
  | remoteCopy (q : QSlot)
  /-- REMOTE_SIGNAL (R315): Sends a fence signal or a counter signal to a remote device. -/
  | remoteSignal (q : QSlot)
  /-- COMPLETION_RECORD_WRITE (R247): A finished command's record is written to the completion ring when there is room, and QS_RETIRED advances. -/
  | completionRecordWrite (q : QSlot)
  /-- QS_ENABLE (R250): QS_CTRL.ENABLE takes a FREE or STOPPED slot to ACTIVE after checks. -/
  | qsEnable (q : QSlot)
  /-- QS_DISABLE (R250): QS_CTRL.DISABLE takes an ACTIVE or FROZEN slot to DRAINING. -/
  | qsDisable (q : QSlot)
  /-- QUEUE_STOPPED (R250): When its last accepted command completes, a DRAINING slot enters STOPPED and discards unaccepted commands. -/
  | queueStopped (q : QSlot)
  /-- QS_THAW (R250): QS_CTRL.THAW takes a FROZEN slot to ACTIVE. -/
  | qsThaw (q : QSlot)
  /-- QS_UNBIND (R250): QS_CTRL.UNBIND takes a STOPPED slot to FREE. -/
  | qsUnbind (q : QSlot)
  /-- QS_TAIL_WRITE (R251): A doorbell write sets the end of the queue, and an out-of-range value freezes the queue. -/
  | qsTailWrite (q : QSlot) (v : W64)
  /-- QS_HEAD_WRITE (R250): A write of QS_HEAD in FREE or STOPPED also sets QS_RETIRED. -/
  | qsHeadWrite (q : QSlot) (v : W64)
  /-- QS_CQ_HEAD_WRITE (R248): The host advances the completion ring head and frees room for records. -/
  | qsCqHeadWrite (q : QSlot) (v : W64)
  /-- CX_CFG_WRITE (R254): Writes a context slot's identity and flags, if no queue or furrow is bound. -/
  | cxCfgWrite (c : CSlot) (v : W64)
  /-- CX_THAW (R322): CX_CTRL.THAW clears CX_STATUS.FROZEN. -/
  | cxThaw (c : CSlot)
  /-- CX_ASSIGN_WRITE (R255): Requests a new owner, or none, for a furrow and sets PENDING. -/
  | cxAssignWrite (f : Fur) (v : W64)
  /-- FURROW_OWNERSHIP_CHANGE (R256): Once the furrow is quiet, it leaves its context and is joined, disarmed, zeroed and handed over. -/
  | furrowOwnershipChange (f : Fur)
  /-- SEGMENT_FIELD_WRITE (R268): A write of an entry's BASE, GRANULES or ACCESS fields, allowed only as the rule states. -/
  | segmentFieldWrite (i : BitVec 15) (reg : Fin 3) (v : W64)
  /-- SEGMENT_CREATE (R260): OP CREATE validates a FREE entry and makes it VALID. -/
  | segmentCreate (i : BitVec 15)
  /-- SEGMENT_FREE (R259): OP FREE frees a VALID entry, or makes it DYING while it has users. -/
  | segmentFree (i : BitVec 15)
  /-- SEGMENT_RELEASE (R259): A DYING entry whose REFS reach zero is freed with GEN + 1, or retired. -/
  | segmentRelease (i : BitVec 15)
  /-- DESCRIPTOR_FETCH (R128): A drill fetches a block descriptor from its list. -/
  | descriptorFetch (f : Fur) (k : DrillNo)
  /-- DRILL_BLOCK_BEGIN (R132): A drill checks a block before moving any row of it and takes a segment reference. -/
  | drillBlockBegin (f : Fur) (k : DrillNo)
  /-- PORT_S_TRANSFER (R106): A port-S agent checks its tag once and, if it passes, occupies the bank port for one or two ticks. -/
  | portSTransfer (f : Fur) (a : Agent)
  /-- PORT_S_COMMIT (R106): A port-S write commits its bytes, tag and poison at the end of its last tick. -/
  | portSCommit (f : Fur) (a : Agent)
  /-- STACK_SLOT_GRANT (R141): For each slot, a stack port grants one pending piece by priority, round-robin and guard count. -/
  | stackSlotGrant (st : StackNo)
  /-- ROWS_LAND (R144): Returned data lands in the scratchpad, and failing requests poison their rows. -/
  | rowsLand (f : Fur) (k : DrillNo) (out : ReadOutcome)
  /-- WRITE_ACKNOWLEDGE (R136): Memory acknowledges an OUT write, ending its outstanding block. -/
  | writeAcknowledge (f : Fur) (k : DrillNo)
  /-- DRILL_LIST_END (R136): A drill's list ends, and the drill enters IDLE or PARKED and completes its arming command. -/
  | drillListEnd (f : Fur) (k : DrillNo)
  /-- DRILL_STOPPED (R133): A STOPPING drill finishes its last outstanding block and enters IDLE or PARKED. -/
  | drillStopped (f : Fur) (k : DrillNo)
  /-- DRILL_THAW (R149): DL_CTRL.THAWk takes a FROZEN drill with clear sticky bits to IDLE. -/
  | drillThaw (f : Fur) (mask : BitVec 8)
  /-- RELAY_SEND (R146): A TEE drill hands a row to its furrow's relay output, one row per tick. -/
  | relaySend (f : Fur) (k : DrillNo)
  /-- RELAY_ARRIVE (R146): A relayed row reaches the next furrow's input buffer after the relay hop. -/
  | relayArrive (f : Fur)
  /-- RELAY_WRITE (R147): The relay input writes a buffered row into the RECV drill's destination. -/
  | relayWrite (f : Fur)
  /-- L2_RESET (R327): An L2 fault or request stops and clears one furrow or half. -/
  | l2Reset (f : Fur) (sc : Scope)
  /-- L2_COMPLETE (R327): At the end of the L2 the domains enter IDLE, port S resumes, and record 0x8540 is written. -/
  | l2Complete (f : Fur) (sc : Scope) (failing : BitVec 2)
  /-- L3_RESET (R328): A block reset stops the dispatcher and furrows, frees queues and resets every furrow. -/
  | l3Reset
  /-- L3_COMPLETE (R328): The L3 ends with DC_STATUS.READY set and record 0x8540. -/
  | l3Complete (failing : BitVec 32)
  /-- L3_TIMEOUT (R328): An L3 that has not completed within 100 ms, or 400 ms after a watchdog fault, becomes L4. -/
  | l3Timeout
  /-- L4_ENTRY (R329): The block stops, sets L4_NEEDED, keeps FAULT_N asserted and waits for reconfiguration. -/
  | l4Entry
  /-- RECOVERY_WINDOW_CLOSE (R324): A recovery window closes 1 ms after its recovery completes. -/
  | recoveryWindowClose (r : RecDomain)
  /-- FAULT_N_RELEASE (R331): FAULT_N is released once no recovery runs and the sticky bits are clear, at least 10 µs after assertion. -/
  | faultNRelease
  /-- PSTORE_ECC_ERROR (R85): An uncorrectable program store error raises fault 0x0106 at L2. -/
  | pstoreEccError (f : Fur) (addr : BitVec 18)
  /-- FURROW_CONTROL_FAULT (R321): An inconsistent state in furrow control raises fault 0x0108 at L2. -/
  | furrowControlFault (f : Fur) (unit : BitVec 2)
  /-- DISPATCHER_ERROR (R321): An internal dispatcher or queue engine error raises fault 0x0508 at L3. -/
  | dispatcherError (unit : BitVec 2) (index : W16)
  /-- REEVE_WATCHDOG (R321): The reeve watchdog expiry raises fault 0x0509 at L3. -/
  | reeveWatchdog (report : W32)
  /-- SEGMENT_TABLE_ERROR (R321): An uncorrectable segment table error raises fault 0x0604 at L3. -/
  | segmentTableError (i : BitVec 15)
  /-- CONFIGURATION_UPSET (R321): A configuration upset reported by the Svetsy host raises fault 0x0520 at L4. -/
  | configurationUpset (report : W32)
  /-- RESET_FURROW (R321): DC_CTRL.RESET_FURROW requests an L2 of a furrow. -/
  | resetFurrow (mask : W16)
  /-- RESET_BLOCK (R321): DC_CTRL.RESET_BLOCK requests an L3. -/
  | resetBlock
  /-- DBG_THAW (R322): DC_CTRL.DBG_THAW thaws the debug master once DC_STICKY.DEBUG is clear. -/
  | dbgThaw
  /-- GO (R337): RV_DOORBELL.GO hands a mailbox packet to the reeve. -/
  | goMailbox
  /-- ACK (R337): RV_DOORBELL.ACK returns the mailbox from DONE to IDLE. -/
  | ackMailbox
  /-- MAILBOX_TAKE (R338): The reeve takes the packet, checks it and carries out the management command. -/
  | mailboxTake
  /-- RV_NOP (R339): A management command that does nothing. -/
  | rvNop
  /-- MAINT_START (R342): Starts, or defers, a maintenance activity. -/
  | maintStart
  /-- MAINT_END (R345): Cancels or ends a maintenance activity by ticket. -/
  | maintEnd
  /-- ACTIVITY_BEGIN (R342): A QUEUED activity begins at the 10 µs check once it is compatible. -/
  | activityBegin
  /-- ACTIVITY_CLAIM (R343): A CLAIMING activity takes its furrow OFFLINE once the furrow is quiet. -/
  | activityClaim (k : Fin 16)
  /-- ACTIVITY_END (R344): An activity finishes, and its furrow returns to IDLE with cleared bricks, windrow and vector registers. -/
  | activityEnd (k : Fin 16) (ok : Bool) (failing : BitVec 2)
  /-- AUTO_ACTIVITY (R346): The reeve starts a PATROL, RETRAIN or MARGIN on its own under RV_POLICY. -/
  | autoActivity (activity : BitVec 4) (target : Byte)
  /-- PATROL_READ (R348): PATROL reads and scrubs one 4 KiB unit of its stack. -/
  | patrolRead (k : Fin 16) (out : UnitRead)
  /-- RETRAIN_END (R349): A stack retraining ends, is repeated, or raises fault 0x0406. -/
  | retrainEnd (k : Fin 16) (ok : Bool)
  /-- MARGIN_STEP (R351): MARGIN tests one frequency step for 2 s, and sets the new ceiling when the sweep stops. -/
  | marginStep (k : Fin 16) (passed written : Bool)
  /-- CANARY_SAMPLE (R350): Every 62.5 µs the reeve samples canaries, and lowers CEILING after 16 low samples. -/
  | canarySample (f : Fur) (low : BitVec 16)
  /-- PLAN_DUE (R352): 24 powered hours after a plan is made, DUE is set. -/
  | planDue (f : Fur)
  /-- CLOCK_PLAN_UPDATE (R354): Every 10 µs the reeve re-evaluates ceiling, budget and thermal limits and sets each furrow's frequency. -/
  | clockPlanUpdate
  /-- RV_BUDGET_WRITE (R355): Sets the power budget, and an out-of-range value is ignored with event 0x0A04. -/
  | rvBudgetWrite (v : W64)
  /-- THERMAL_HOLD_STEP (R356): While a die sensor is at HOT, the die's thermal limit falls one step every 100 µs. -/
  | thermalHoldStep (die : Fin 4) (temps : List W16)
  /-- THERMAL_RECOVERY_STEP (R356): Below HOT − 2 °C, the thermal limit rises one step every 1 ms. -/
  | thermalRecoveryStep (die : Fin 4) (temps : List W16)
  /-- CRITICAL_TEMPERATURE (R356): A sensor at CRIT raises fault 0x0A02 at L3. -/
  | criticalTemperature (sensor : Fin 20) (temp : W16)
  /-- THERMAL_RELEASE (R356): After a critical L3, the reeve releases the furrows once every sensor is below HOT − 10 °C. -/
  | thermalRelease (temps : List W16)
  /-- THROTTLE_ASSERT (R357): THROTTLE_N low for 100 ns forces every furrow to FMIN. -/
  | throttleAssert (lowNs : Nat)
  /-- THROTTLE_RELEASE (R357): THROTTLE_N rising after an assertion returns the furrows to R354. -/
  | throttleRelease
  /-- KEY_LOAD (R358): Unwraps and loads a bound key pair into a key slot. -/
  | keyLoad
  /-- KEY_ERASE (R359): Empties a key slot at once. -/
  | keyErase
  /-- DEBUG_ENABLE (R360): Verifies a debug token, evicts protected contexts and enables debug. -/
  | debugEnable
  /-- DEBUG_DISABLE (R361): Ends debug. -/
  | debugDisable
  /-- DEBUG_EXPIRY (R361): Debug ends when the token's DURATION expires. -/
  | debugExpiry
  /-- MESH_DR_READ (R301): Reads an MS_ register of a device along a port path. -/
  | meshDrRead
  /-- MESH_DR_WRITE (R301): Writes an MS_ register of a device along a port path, unless LOCK refuses it. -/
  | meshDrWrite
  /-- MGMT_TIMEOUT (R301): A directed-route command without an answer within 1 ms completes with TIMEOUT. -/
  | mgmtTimeout
  /-- CLEAR_F (R368): GL_CTRL.CLEAR_F empties partition F. -/
  | clearF
  /-- CLEAR_I (R368): GL_CTRL.CLEAR_I empties partition I. -/
  | clearI
  /-- GLEANER_STORE (R369): The store takes one queued record every 200 ns and assigns its SEQUENCE. -/
  | gleanerStore
  /-- PROBE_CTRL_WRITE (R375): Enables or disables the probe port, and ignores an enable that is too fast. -/
  | probeCtrlWrite (v : W64)
  /-- CAPTURE_HOLD (R377): GL_CAP_CTRL.HOLD holds every furrow on cause 7. -/
  | captureHold
  /-- CAPTURE_RELEASE (R379): GL_CAP_CTRL.RELEASE ends the hold. -/
  | captureRelease
  /-- CAPTURE_SELECT (R378): A GL_CAP_SEL write loads GL_CAP_DATA with the selected state within 1 µs. -/
  | captureSelect (v : W64)
  /-- DEBUG_PSTORE_WRITE (R92): A debug write into the program store takes effect, or is refused with fault 0x0107 if the segment is held. -/
  | debugPstoreWrite (f : Fur) (off : BitVec 18) (wide : Bool) (v : W64)
  /-- MESH_PORT_ENABLE (R298): MS_Pp_CTRL.EN starts training a port, or disables it. -/
  | meshPortEnable (p : PortNo) (en : Bool)
  /-- PCS_LOCK (R298): A TRAINING port whose PCS locks enters HELLO. -/
  | pcsLock (p : PortNo)
  /-- LINK_DOWN (R298): A lost PCS lock, a replay limit or LINK silence takes the port DOWN and discards its buffers. -/
  | linkDown (p : PortNo) (cause : DownCause)
  /-- PORT_RETRAIN (R298): 1 ms after entering DOWN, the port returns to TRAINING. -/
  | portRetrain (p : PortNo)
  /-- HELLO_SEND (R298): A port in HELLO sends a HELLO frame every 10 µs. -/
  | helloSend (p : PortNo)
  /-- LINK_SEND (R296): A receiving port sends a LINK acknowledgement at least every 256 ns while frames arrive. -/
  | linkSend (p : PortNo)
  /-- PORT_TRANSMIT (R297): A port sends its next waiting frame in order of kind, while it holds credit. -/
  | portTransmit (p : PortNo)
  /-- MESH_FRAME_RECEIVE (R296): A port receives a whole frame, checks FCS and LINKSEQ and buffers, forwards or discards it. -/
  | meshFrameReceive (p : PortNo) (good : Bool) (fr : Frame)
  /-- LINK_FRAME (R296): A LINK frame acknowledges frames, updates credits or requests a replay. -/
  | linkFrame (p : PortNo)
  /-- HELLO_FRAME (R299): A HELLO stores the neighbour and brings the port UP. -/
  | helloFrame (p : PortNo)
  /-- MGMT_FRAME (R301): A MGMT frame is forwarded one hop or served at its last hop and returned. -/
  | mgmtFrame (p : PortNo)
  /-- FRAME_FORWARD (R303): A Lane frame is routed by primary or alternate port, or by loopback to the device's own transport. -/
  | frameForward (src : Fin 17)
  /-- FRAME_DROP (R304): A frame without a usable port or credit for 1 ms is dropped and recorded. -/
  | frameDrop (src : Fin 17)
  /-- LANE_FRAME_DELIVER (R307): A data frame of a lane is processed at its turn, held, answered as a duplicate, or refused. -/
  | laneFrameDeliver
  /-- WRITE_FRAME_COMMIT (R312): A WRITE frame's rows are written into the window with PRODUCE, and the frame commits and is acknowledged. -/
  | writeFrameCommit (src : W16) (lane : BitVec 6)
  /-- FSIG_FRAME (R315): An FSIG frame is checked and applied to a local fence. -/
  | fsigFrame (src : W16) (lane : BitVec 6) (out : ReadOutcome)
  /-- CSIG_FRAME (R316): A CSIG frame is checked and applied to a signal counter. -/
  | csigFrame (src : W16) (lane : BitVec 6)
  /-- ACK_FRAME (R307): An ACK acknowledges a lane's frames up to its LSEQ and completes their commands. -/
  | ackFrame
  /-- NAK_FRAME (R308): A NAK fails the lane, defers a resend, or resynchronises it. -/
  | nakFrame
  /-- NAK_BUSY_RESEND (R308): 2 µs after a NAK of REASON 2, the frame is sent again. -/
  | nakBusyResend (dest : W16) (lane : BitVec 6)
  /-- LANE_RETRANSMIT (R308): After RTO_US without progress, the oldest frame is resent, and after the last retry the lane fails. -/
  | laneRetransmit (dest : W16) (lane : BitVec 6)
  /-- THAW_PAIR (R317): MS_CTRL action 1 thaws a source and lane pair. -/
  | thawPair (id : W16) (lane : BitVec 6)
  /-- THAW_SOURCE (R317): MS_CTRL action 2 thaws a source and all its pairs. -/
  | thawSource (id : W16)
  /-- RESET_SENDER_LANE (R308): MS_CTRL action 3 resets a FAILED sender lane. -/
  | resetSenderLane (id : W16) (lane : BitVec 6)
  /-- RESET_SENDER_LANES (R308): MS_CTRL action 4 resets every FAILED sender lane to a destination. -/
  | resetSenderLanes (id : W16)
  /-- SYNC_IN_EDGE (R386): A SYNC_IN pulse is decoded, and at a valid marker the timebase slews or is set. -/
  | syncInEdge (sinceLast high : Nat)
  /-- SYNC_OUT_PULSE (R387): SYNC_OUT drives a pulse at each millisecond of the timebase. -/
  | syncOutPulse
  /-- BLOCK_RESET (R388): The block reset input puts every register at reset and every output at rest. -/
  | blockReset
  /-- RELEASE_STAGE_1 (R389): Release of outputs drives READY low. -/
  | releaseStage1
  /-- RELEASE_STAGE_2 (R389): Release of write enables leaves the block in reset. -/
  | releaseStage2
  /-- RELEASE_STAGE_3 (R393): Release of resets starts the timebase and the start-up sequence. -/
  | releaseStage3
  /-- FIRMWARE_LOADED (R393): The reeve has loaded and verified its firmware, and the remaining start-up steps run to READY. -/
  | firmwareLoaded (ok : Bool) (failing : BitVec 32) (reach : Bool) (bad : List (Fur × Nat))
  /-- STARTUP_TIMEOUT (R394): Failing firmware, or no READY within 400 ms, enters L4. -/
  | startupTimeout (firmwareFailed : Bool)
  deriving DecidableEq, Repr

end Sys2Proof
end

