-- ==== Sys2Proof/Decode.lean ====
section
/-! DEFINITION. Commands spelled by table words. No row of spec/opcode_table.json gives bits: every command arrives as a register access,
a packet, a frame or an event, so no word spells one. -/

namespace Sys2Proof

/-- The command that a table word spells: none, for every word. -/
def decodeTableWord (_nbits _w : Nat) : Option Instr := none

end Sys2Proof
end

