-- ==== Sys2Proof/Machine/Bits.lean ====
section
/-! DEFINITION. Bit fields, little-endian bytes (R7), serial comparison (R274) and small list helpers. -/

namespace Sys2Proof.Machine

/-- Field of `len` bits from bit `lo` of a number. -/
def nfld (x lo len : Nat) : Nat := x / 2 ^ lo % 2 ^ len

/-- Field of `len` bits from bit `lo` of a word. -/
def fld {n : Nat} (w : BitVec n) (lo len : Nat) : Nat := nfld w.toNat lo len

/-- Bit `i` of a word. -/
def bitOf {n : Nat} (w : BitVec n) (i : Nat) : Bool := w.getLsbD i

/-- A Bool as a number. -/
def b2n (b : Bool) : Nat := if b then 1 else 0

/-- Bit `i` of `w` set to `b`. -/
def setBit {n : Nat} (w : BitVec n) (i : Nat) (b : Bool) : BitVec n :=
  if b then w ||| BitVec.twoPow n i else w &&& ~~~ BitVec.twoPow n i

/-- `v` placed at bit `lo`. -/
def at' (v lo : Nat) : Nat := v * 2 ^ lo

/-- A 64-bit word from a number. -/
def w64 (x : Nat) : W64 := BitVec.ofNat 64 x
def w32 (x : Nat) : W32 := BitVec.ofNat 32 x
def byteOf (x : Nat) : Byte := BitVec.ofNat 8 x

/-- `x` as `n` little-endian bytes (R7). -/
def toLe (n x : Nat) : List Byte :=
  match n with
  | 0 => []
  | m + 1 => BitVec.ofNat 8 x :: toLe m (x / 256)

/-- Little-endian bytes as a number (R7). -/
def ofLe (bs : List Byte) : Nat :=
  match bs with
  | [] => 0
  | b :: r => b.toNat + 256 * ofLe r

/-- Value a has reached value b in an n-bit space (R274). -/
def reached {n : Nat} (a b : BitVec n) : Bool := decide ((a - b).toNat < 2 ^ (n - 1))

/-- Signed value of the low `n` bits of a number. -/
def sint (n x : Nat) : Int := if x % 2 ^ n < 2 ^ (n - 1) then (x % 2 ^ n : Nat) else ((x % 2 ^ n : Nat) : Int) - (2 ^ n : Nat)

/-- ceil(a / b). -/
def cdiv (a b : Nat) : Nat := if b = 0 then 0 else (a + b - 1) / b

/-- Saturating increment of a 32-bit count. -/
def satInc (x : W32) : W32 := if x = 0xFFFFFFFF#32 then x else x + 1

/-- Replaces element `i` of a list. -/
def lset {α : Type} (l : List α) (i : Nat) (v : α) : List α := l.set i v

/-- Removes the first element that satisfies `p`. -/
def eraseFirst {α : Type} (p : α → Bool) (l : List α) : List α :=
  match l with
  | [] => []
  | a :: r => if p a then r else a :: eraseFirst p r

/-- Applies `f` to the first element that satisfies `p`. -/
def mapFirst {α : Type} (p : α → Bool) (f : α → α) (l : List α) : List α :=
  match l with
  | [] => []
  | a :: r => if p a then f a :: r else a :: mapFirst p f r

end Sys2Proof.Machine
end

