-- ==== Sys2Proof/Machine/Aes.lean ====
section
/-! DEFINITION. AES-256 and the XTS mode on 16-byte data units (R270: IEEE Std 1619, NIST SP 800-38E), byte values as numbers. -/

namespace Sys2Proof.Machine

/-- Multiplication by x in GF(2^8) modulo x^8 + x^4 + x^3 + x + 1. -/
def gfTwice (a : Nat) : Nat := if a < 128 then 2 * a else (2 * a - 256) ^^^ 0x1B

/-- Product in GF(2^8), `n` bits of `b`. -/
def gfMulN (n a b : Nat) : Nat :=
  match n with
  | 0 => 0
  | k + 1 => (if b % 2 = 1 then a else 0) ^^^ gfMulN k (gfTwice a) (b / 2)
def gfMul (a b : Nat) : Nat := gfMulN 8 a b

/-- a^254, the inverse of a, and 0 for 0. -/
def gfInv (a : Nat) : Nat :=
  let a2 := gfMul a a
  let a3 := gfMul a2 a
  let a12 := (fun x => gfMul x x) ((fun x => gfMul x x) a3)
  let a15 := gfMul a12 a3
  let sq := fun x => gfMul x x
  let a240 := sq (sq (sq (sq a15)))
  gfMul a240 (gfMul a12 a2)

def rotl8 (a n : Nat) : Nat := (a * 2 ^ n % 256) + a / 2 ^ (8 - n)

/-- The S-box and its inverse. -/
def aesSub (a : Nat) : Nat :=
  let b := gfInv a
  b ^^^ rotl8 b 1 ^^^ rotl8 b 2 ^^^ rotl8 b 3 ^^^ rotl8 b 4 ^^^ 0x63
def aesUnsub (a : Nat) : Nat := gfInv (rotl8 a 1 ^^^ rotl8 a 3 ^^^ rotl8 a 6 ^^^ 0x05)

def xorList (xs ys : List Nat) : List Nat := xs.zipWith (fun a b => a ^^^ b) ys

/-- Words of the key schedule, newest first, from the 8 words before: `n` more words, the next being number `i`. -/
def aesExpand (n i rcon : Nat) (ws : List (List Nat)) : List (List Nat) :=
  match n with
  | 0 => ws
  | k + 1 =>
    let prev := ws.headD []
    let back := ws.getD 7 []
    let t := if i % 8 = 0 then
        (match (prev.drop 1 ++ prev.take 1).map aesSub with | [] => [] | a :: r => (a ^^^ rcon) :: r)
      else if i % 8 = 4 then prev.map aesSub else prev
    aesExpand k (i + 1) (if i % 8 = 0 then gfTwice rcon else rcon) (xorList back t :: ws)

/-- The 15 round keys of a 32-byte key. -/
def aesKeys (key : List Nat) : List (List Nat) :=
  let w0 := (List.range 8).map (fun i => (key.drop (4 * i)).take 4)
  let ws := (aesExpand 52 8 1 w0.reverse).reverse
  (List.range 15).map (fun r => ((ws.drop (4 * r)).take 4).flatten)

/-- Row shifts and column mixing of the state in column order. -/
def shiftRows (s : List Nat) : List Nat := (List.range 16).map (fun i => s.getD ((i + 4 * (i % 4)) % 16) 0)
def unshiftRows (s : List Nat) : List Nat := (List.range 16).map (fun i => s.getD ((i + 16 - 4 * (i % 4)) % 16) 0)
def mixWith (m : List Nat) (s : List Nat) : List Nat :=
  (List.range 16).map (fun i =>
    let c := i / 4 * 4
    (List.range 4).foldl (fun acc j => acc ^^^ gfMul (m.getD ((j + 4 - i % 4) % 4) 0) (s.getD (c + j) 0)) 0)

/-- One block encrypted, and decrypted, under the round keys `k :: ks`. -/
def aesRounds (ks : List (List Nat)) (s : List Nat) : List Nat :=
  match ks with
  | [] => s
  | [k] => xorList (shiftRows (s.map aesSub)) k
  | k :: r => aesRounds r (xorList (mixWith [2, 3, 1, 1] (shiftRows (s.map aesSub))) k)
def aesEnc (key s : List Nat) : List Nat :=
  match aesKeys key with
  | [] => s
  | k :: r => aesRounds r (xorList s k)
def aesUnrounds (ks : List (List Nat)) (s : List Nat) : List Nat :=
  match ks with
  | [] => s
  | [k] => xorList ((unshiftRows s).map aesUnsub) k
  | k :: r => aesUnrounds r (mixWith [14, 11, 13, 9] (xorList ((unshiftRows s).map aesUnsub) k))
def aesDec (key s : List Nat) : List Nat :=
  match (aesKeys key).reverse with
  | [] => s
  | k :: r => aesUnrounds r (xorList s k)

/-- A 16-byte unit at device address 16 × u encrypted, or decrypted, under data key `k1` and tweak key `k2` (R270). -/
def xtsUnit (dec : Bool) (key : List Byte) (u : Nat) (bs : List Byte) : List Byte :=
  let k := key.map BitVec.toNat
  let t := aesEnc ((k.drop 32).take 32) ((toLe 16 u).map BitVec.toNat)
  let x := xorList (bs.map BitVec.toNat) t
  (xorList (if dec then aesDec (k.take 32) x else aesEnc (k.take 32) x) t).map byteOf

end Sys2Proof.Machine
end

