-- ==== Sys2Proof/Config.lean ====
section
/-! DEFINITION. What an implementation fixes and the spec leaves open: free values (opaque, no body) and figures of the carrier. -/

namespace Sys2Proof.Config

/-- The n-th free 32-bit value: whatever the machine holds where the spec says undefined (log 2). -/
opaque freeWord : Nat → W32

/-- Bytes of a row poisoned on entry (R144), byte i of free value n (log 2). -/
opaque freeByte : Nat → Nat → Byte

/-- The weight field read from a cell whose 32 bits were last written as an FP32 accumulator (R153, log 8). -/
opaque weightOfAcc : W32 → Byte

/-- The FP32 value read from a cell whose weight field was last loaded over it (R153, R168, log 8). -/
opaque accOfWeight : W32 → Byte → W32

/-- MO_RES of mortar unit UNIT_ID: result lanes, from MO_CTRL, MO_A, MO_B, MO_SPLIT and state (R229, log 9). -/
opaque mortarResult : W32 → BitVec 23 → List W32 → List W32 → Bool → Nat → List W32

/-- MO_PRES of mortar unit UNIT_ID, from the same inputs and the operands' marks MO_PA and MO_PB (R223, R230, log 9). -/
opaque mortarMarks : W32 → BitVec 23 → List W32 → List W32 → Byte × Byte → Bool → Nat → BitVec 8

/-- State word of mortar unit UNIT_ID after an issue, from the inputs of mortarMarks (R229, log 9). -/
opaque mortarNext : W32 → BitVec 23 → List W32 → List W32 → Byte × Byte → Bool → Nat → Nat

/-- What a mortar unit drives on MO_STAT in a given state (R223, R236, log 9). -/
opaque mortarStat : W32 → Nat → W32

/-- State of a mortar unit after MO_ABANDON: whether it keeps what earlier issues left is the unit's own design (R233, log 9). -/
opaque mortarAbandon : W32 → Nat → Nat

/-- MS_SERIAL of the Svetsy device (R319, log 6). -/
opaque serial : W64

/-- RV_NONCE after its n-th replacement (R360, R363, log 6). -/
opaque nonce : Nat → W64

/-- The root-key interface's unwrap of 80 bytes (R358): none when the integrity check fails (log 10). -/
opaque kwUnwrap : List Byte → Option (List Byte)

/-- Whether the token's signature verifies against the debug authority key (R360, log 10). -/
opaque tokenVerifies : List Byte → Bool

/-- Firmware revision that the reeve boots (R393, log 6). -/
opaque firmwareRevision : W16

/-- Birth record F_PASS of a furrow, none where no valid birth record exists (R353, log 11). -/
opaque birthFPass : Nat → Option Nat

/-- Full-load draw in W of a furrow at a step, from the birth record (R355, R396, log 11). -/
opaque drawAtStep : Nat → Nat → Nat

/-- Draw in W of a furrow that is clock gated, and of one that is OFFLINE for maintenance (R355, log 11). -/
opaque gatedDraw : Nat → Nat
opaque maintenanceDraw : Nat → Nat

/-- Shared allowance in W (R355, log 11). -/
opaque sharedAllowance : Nat

/-- Probe signals of a group that only the build's probe list defines (R376, log 12). -/
opaque probeGroup : W16 → Nat → W64 → W32

/-- Whether the build's probe list has a group of a source (R376, log 12). -/
opaque probeListed : W16 → Nat → Bool

/-- Reading of a temperature sensor at a powered time, in 0.1 °C (R356, R363, log 91). -/
opaque sensor : Nat → W64 → W16

/-- Corrected errors within the last second, at a powered time, that requests other than PATROL's met in a stack (R346, log 91). -/
opaque correctedErrors : Nat → W64 → Nat

/-- Whether memory fails the read that a FENCE_WAIT makes at its acceptance (R281): by the count of free values (log 103). -/
opaque readFails : Nat → Bool

/-- Whether, of two results of one slot that commit to one destination in one beat, the later issued is kept (R35 orders slots only, log 14). -/
opaque sameSlotLater : Bool

/-- Size of the carrier's HBM in bytes: 1,536 GiB (R260). -/
def hbmBytes : Nat := 1536 * 2 ^ 30

/-- Bytes of one HBM stack: 48 GiB. -/
def stackBytes : Nat := 48 * 2 ^ 30

end Sys2Proof.Config
end

