-- ==== Sys2Proof/Machine/FurrowState.lean ====
section
/-! DEFINITION. The state of a furrow: freeze domains with their pipelines and courses, scratchpad, bricks, windrow, drills, relay. -/

namespace Sys2Proof.Machine

/-- States of a freeze domain (R53). -/
inductive DomState where
  | reset | offline | idle | starting | running | draining | faulted | unused
  deriving DecidableEq, Repr

/-- A command named by its queue slot and SEQUENCE. -/
structure CmdRef where
  q : Nat
  seq : W32
  deriving DecidableEq, Repr

/-- A vector register: lanes of the domain's view and one poison mark for each 64-lane segment (R205). -/
structure VReg where
  lanes : Tab W32
  marks : BitVec 8
  deriving DecidableEq, Repr

def VReg.zero : VReg := ⟨[], 0⟩

/-- A windrow entry: 512 FP32 lanes and its poison mark (R200). -/
structure WEntry where
  lanes : Tab W32
  mark : Bool
  deriving DecidableEq, Repr

def WEntry.zero : WEntry := ⟨[], false⟩

/-- One cell row of one register set: the 512 bytes last loaded as weights, the accumulators written since (by column), and the
poison mark (R153, R158, R168, R173). -/
structure CellRow where
  wt : List Byte
  accs : Tab (Option W32)
  mark : Bool
  deriving DecidableEq, Repr

def CellRow.zero : CellRow := ⟨[], [], false⟩

/-- An open loop (R77): its counter, call depth, first body word, address after the body, iterations left. -/
structure Loop where
  ctr : Nat
  depth : Nat
  start : Nat
  stop : Nat
  left : Nat
  deriving DecidableEq, Repr

/-- A level of the return stack (R81, R82): the caller, its next word, its end address and BRICKS as START or its own call read them
(R86), and an END that waits for the return. -/
structure CallFrame where
  rid : Nat
  ret : Nat
  stop : Nat
  bricks : Nat
  endPending : Bool
  deriving DecidableEq, Repr

/-- How a course write takes its value (R163, R202). -/
inductive WinMode where
  | replace | accum
  /-- BIAS: the result plus the named bias entry. -/
  | bias (entry : Nat)
  /-- BIAS of an empty reduction: the bias entry's bits, copied (R189). -/
  | copyBias (entry : Nat)
  deriving DecidableEq, Repr

/-- What an operation in flight writes when it commits (R33). -/
inductive Effect where
  | sreg (i : Nat) (v : W64)
  | areg (i : Nat) (v : W64)
  | flag (i : Nat) (v : Bool)
  /-- Lanes `lo` onwards of a vector register, and the marks of the segments in `segs`. -/
  | vreg (i lo : Nat) (vals : List W32) (segs marks : BitVec 8)
  /-- Lanes `lo` onwards of entry `e` of physical brick `b`; `sums` the physical bricks that formed the checked sums of a course write
(R174), with the tile's SAT and FLUSH. -/
  | win (b e : Nat) (mode : WinMode) (lo : Nat) (vals : List W32) (mark : Bool) (sums : BitVec 4) (sat flush : Bool)
  | winClear (b e count : Nat)
  /-- Bytes of one scratchpad row from `addr`, with the tag mode of the access. -/
  | row (addr : Nat) (bytes : List Byte) (tag : Nat) (poison : Bool)
  | standby (b row : Nat) (bytes : List Byte) (mark : Bool)
  /-- Exchange of the sets of physical pairs; the PAIRS operand that an explicit SWAP names; `auto` for the course's own swap. -/
  | swap (pairs named : BitVec 2) (auto : Bool)
  /-- One OS step: column `a` of operand A, row `bs` of operand B for each brick, into set `sets` of each brick. -/
  | mac (fmtA fmtB : Nat) (first sat flush : Bool) (a : List Nat) (aMark : Bool) (bs : List (Nat × Nat × List Nat × Bool))
  | counter (c op v : Nat)
  deriving DecidableEq, Repr

/-- An operation in flight: the beat at whose end it commits, its issue beat, slot, operation code, routine and word, by how many beats a
later write has overtaken it, and whether it issued with the audit on, so that it has stamped its destination (R51). -/
structure Flight where
  due : Nat
  issue : Nat
  slot : Nat
  code : Nat
  rid : Nat
  addr : Nat
  overtaken : Nat
  stamped : Bool
  eff : Effect
  deriving DecidableEq, Repr

/-- An addition of the course to a windrow lane that has committed, with the beat that issued it (R186). -/
structure LaneAdd where
  issue : Nat
  sat : Bool
  flush : Bool
  val : W32
  deriving DecidableEq, Repr

/-- The committed additions to a windrow lane before which an earlier-issued one in flight is still to be put, in issue order, and the lane
before the first of them (R186). -/
structure LaneLog where
  base : W32
  adds : List LaneAdd
  deriving DecidableEq, Repr

def LaneLog.none : LaneLog := ⟨0, []⟩

/-- A row read by the course: bytes and poison mark. -/
structure RowBuf where
  bytes : List Byte
  mark : Bool
  deriving DecidableEq, Repr

/-- The running tile operation: descriptor and streams as sampled in the issue beat (R160), beats already run, and operand rows held. -/
structure Course where
  op : Nat
  m : Nat
  n : Nat
  k : Nat
  fmtA : Nat
  fmtB : Nat
  init : Nat
  autoswap : Bool
  sat : Bool
  flush : Bool
  e0 : Nat
  pstep : Nat
  bias : Nat
  row : Nat
  tagA : Nat
  tagB : Nat
  faBase : Nat
  faStride : Int
  fbBase : Nat
  fbStride : Int
  nb : Nat
  t : Nat
  cost : Nat
  rid : Nat
  addr : Nat
  feed : RowBuf
  scales : List RowBuf
  deriving DecidableEq, Repr

/-- What the last tick of a domain did: word attempted, whether its beat retired, whether a keeper operation ran, whether MO_ADV was high,
and whether the course was busy (R44, R165, R224, R376). -/
structure TickInfo where
  addr : Nat
  retired : Bool
  kept : Bool
  adv : Bool
  busy : Bool
  /-- Ticks so far, modulo 8, and the probe signals of the last seven before this one (R375). -/
  no : Nat
  recent : List W32
  deriving DecidableEq, Repr

/-- A freeze domain (R38, R53, R64). -/
structure Domain where
  st : DomState
  sregs : Vector W64 32
  aregs : Vector W64 16
  flags : BitVec 4
  vregs : Vector VReg 32
  live : Tab W64
  next : Tab W64
  loops : List Loop
  stack : List CallFrame
  /-- Running routine and the store byte address of the word to attempt. -/
  rid : Nat
  pos : Nat
  /-- Beats of the word at `pos` that have retired (R59). -/
  done : Nat
  /-- Beats left in which no slot issues (R80), and whether an END takes effect after them (R82). -/
  idle : Nat
  endAfter : Bool
  /-- Address after the running routine, and its BRICKS, as START or the call read them from the table (R86). -/
  stop : Nat
  bricks : Nat
  /-- The routine that START or CALL entered, its segments (R91), and the command. -/
  entered : Nat
  held : BitVec 8
  /-- Its footprint template, as START or CALL read it from the table (R86, R87). -/
  foot : W64
  cmd : Option CmdRef
  isCall : Bool
  runBeats : Nat
  runFrozen : Nat
  /-- Beats advanced by the pipelines, drain included. -/
  beat : Nat
  flights : List Flight
  /-- By 512 × windrow entry + lane, while an addition to the entry that was issued earlier is in flight (R186, log 73). -/
  lateAdds : Tab LaneLog
  course : Option Course
  ticks : W64
  beats : W64
  frozen : Vector (BitVec 48) 8
  keeper : BitVec 48
  auditRec : W32
  auditSup : W32
  combos : List (Nat × Nat)
  causes : BitVec 8
  frozenSince : Option W64
  longReported : Bool
  /-- Keeper: device time of the last brick operation, step-down phase in eighths, and the eighths gathered (R44). -/
  lastBrick : Option W64
  keeperPhase : Nat
  keeperAcc : Nat
  /-- Beats retired when each mortar unit last issued (R227). -/
  lastMiss : Vector (Option W64) 4
  /-- Rows handed over by DPUT so far, and the last of them (R285). -/
  puts : Nat
  lastPut : Option Nat
  /-- A debug or capture hold of this domain (R40 cause 7, R377). -/
  hold : Bool
  /-- HA_Dd_FIRST, and whether a poisoned windrow write has been recorded since START (R218). -/
  haFirst : W64
  winFirst : Bool
  /-- Deadline of a pending wake or ungating before STARTING ends is the environment's; this is the tick count of STARTING (R95). -/
  startLeft : Nat
  /-- A pair of the running routine's course has been disabled (R175, R50): the domain freezes at its next beat boundary. -/
  pairLost : Bool
  /-- P0 of events about the last beat that retired. -/
  lastPos : Nat
  tick : TickInfo
  deriving DecidableEq, Repr

def Domain.atReset (st : DomState) : Domain :=
  { st := st, sregs := Vector.replicate 32 0, aregs := Vector.replicate 16 0, flags := 0, vregs := Vector.replicate 32 VReg.zero,
    live := [], next := [], loops := [], stack := [], rid := 0, pos := 0, done := 0, idle := 0, endAfter := false, stop := 0, bricks := 0, entered := 0,
    held := 0, foot := 0, cmd := none, isCall := false, runBeats := 0, runFrozen := 0, beat := 0, flights := [], lateAdds := [], course := none, ticks := 0,
    beats := 0, frozen := Vector.replicate 8 0, keeper := 0, auditRec := 0, auditSup := 0, combos := [], causes := 0,
    frozenSince := none, longReported := false, lastBrick := none, keeperPhase := 0, keeperAcc := 0,
    lastMiss := Vector.replicate 4 none, puts := 0, lastPut := none, hold := false, haFirst := 0, winFirst := false, startLeft := 0, pairLost := false, lastPos := 0,
    tick := ⟨0, false, false, false, false, 0, []⟩ }

/-- States of a drill (R133). -/
inductive DrillState where
  | idle | armed | running | stopping | parked | frozen
  deriving DecidableEq, Repr

/-- A block descriptor (R129). -/
structure Desc where
  w0 : W64
  w1 : W64
  w2 : W64
  w3 : W64
  deriving DecidableEq, Repr

/-- A piece of a request that waits for a slot of its stack (R140): device byte range, the row for a strided block, and whether it is the
extra slot of a request that writes part of an encrypted unit (R270). -/
structure Piece where
  lo : Nat
  hi : Nat
  row : Nat
  extra : Bool
  deriving DecidableEq, Repr

/-- An outstanding block (R137): descriptor, index, tile, memory base after translation, rows begun, moved, taken and failed. -/
structure Block where
  desc : Desc
  idx : Nat
  tile : Nat
  seg : Option Nat
  host : Bool
  enc : Option Nat
  /-- Key erasures of the block's time before the check of R132 (R271). -/
  since : Nat
  mem : Nat
  prio : Nat
  pieces : List Piece
  /-- Failing requests: device byte range and whether by translation (R144). -/
  failed : List (Nat × Nat × Bool)
  landed : Nat
  begun : Nat
  moved : Nat
  poisoned : Nat
  /-- Rows of an OUT block taken from the scratchpad and not yet written: row index, bytes, poison. -/
  outRows : List (Nat × List Byte × Bool)
  /-- Put-queue rows taken by the block (R285). -/
  putIds : List Nat
  deriving DecidableEq, Repr

/-- A row returned by memory, or taken from the relay, that waits for port S: block index, row index, bytes, poison. -/
structure LandRow where
  idx : Nat
  row : Nat
  bytes : List Byte
  poison : Bool
  /-- TEE: already written, already handed to the relay output (R146). -/
  written : Bool
  relayed : Bool
  deriving DecidableEq, Repr

/-- A base of a persistent list (R148). -/
structure Base where
  handle : W32
  offset : BitVec 44
  deriving DecidableEq, Repr

/-- A row of a put queue (R138), numbered so that R285 can tell when memory has it. -/
structure PutRow where
  id : Nat
  bytes : List Byte
  poison : Bool
  deriving DecidableEq, Repr

/-- A drill (R125 to R151). -/
structure Drill where
  st : DrillState
  out : Bool
  mode : BitVec 2
  persist : Bool
  depth : Nat
  /-- A latched DGO and its direction (R134). -/
  latched : Option Bool
  prio : Nat
  listScratch : Bool
  listHandle : W32
  listOffset : Nat
  count : Nat
  bases : Vector Base 4
  relayBase : W16
  relayRows : W16
  /-- Descriptor store of a persistent list, and descriptors fetched but not begun. -/
  store : List Desc
  fetched : List Desc
  fetchIdx : Nat
  next : Nat
  tile : Nat
  /-- DTILE operations since the drill entered IDLE or PARKED. -/
  credit : Nat
  /-- Whether the next block belongs to a tile that has begun. -/
  midTile : Bool
  /-- The tile whose block last took a put-queue row. -/
  tilePut : Option Nat
  /-- Tiles that DTEND has ended before all of their blocks began, oldest first, each with the rows of the put queue that it has received
  (R139). -/
  ended : List (Nat × Nat)
  blocks : List Block
  landing : List LandRow
  putq : List PutRow
  cmd : Option CmdRef
  /-- The DISARM_DRILLs that wait for IDLE (R135). -/
  disarm : List CmdRef
  listRows : Nat
  listPois : Nat
  lastSeen : Bool
  rows : W64
  poisoned : W64
  waits : Vector (BitVec 48) 5
  faultDesc : W16
  faultStatus : W16
  faultReason : BitVec 4
  deriving DecidableEq, Repr

def Drill.atReset : Drill :=
  { st := .idle, out := false, mode := 0, persist := false, depth := 0, latched := none, prio := 0, listScratch := false,
    listHandle := 0, listOffset := 0, count := 0, bases := Vector.replicate 4 ⟨0, 0⟩, relayBase := 0, relayRows := 0,
    store := [], fetched := [], fetchIdx := 0, next := 0, tile := 0, credit := 0, midTile := false, tilePut := none, ended := [], blocks := [],
    landing := [], putq := [], cmd := none, disarm := [], listRows := 0, listPois := 0, lastSeen := false, rows := 0,
    poisoned := 0, waits := Vector.replicate 5 0, faultDesc := 0, faultStatus := 0, faultReason := 0 }

/-- A routine table entry: the words FU_RTi_CTRL, FU_RTi_SIG and FU_RTi_FOOT (R99). -/
structure Routine where
  ctrl : W64
  sig : W64
  foot : W64
  deriving DecidableEq, Repr

def Routine.zero : Routine := ⟨0, 0, 0⟩

/-- A ring in force (R112 to R115). -/
structure Ring where
  defn : W64
  head : Nat
  tail : Nat
  count : Nat
  deriving DecidableEq, Repr

def Ring.none : Ring := ⟨0, 0, 0, 0⟩

/-- A held entry of the region scoreboard (R116). KIND and SLOT as SP_SBk_HOLDER codes them. -/
structure Region where
  base : Nat
  len : Nat
  w : Bool
  kind : Nat
  ref : CmdRef
  deriving DecidableEq, Repr

/-- An entrant that waits for the scoreboard, with the dispatcher's acceptance number (R117). -/
structure Entrant where
  order : Nat
  kind : Nat
  ref : CmdRef
  regions : List (Nat × Nat × Bool)
  deriving DecidableEq, Repr

/-- A port-S transfer in progress (R105, R106); `desc` for a drill's read of a descriptor (R128). -/
structure Xfer where
  agent : Agent
  addr : Nat
  len : Nat
  write : Bool
  tag : Nat
  ring : Option Nat
  bytes : List Byte
  poison : Bool
  idx : Nat
  row : Nat
  desc : Bool
  deriving DecidableEq, Repr

/-- A port-W write that committed: domain, byte address, length, poison (R110). -/
structure WRow where
  dom : Dom
  addr : Nat
  len : Nat
  mark : Bool
  deriving DecidableEq, Repr

/-- A counter change on its way from another furrow (R285): issuing domain 2f + d, counter, operation (0 set, 1 add, 2 subtract), value. -/
structure Change where
  src : Nat
  ctr : Nat
  op : Nat
  v : Nat
  /-- The last put row that the issuing domain had handed over: memory must acknowledge it and every earlier one first (R285, R288). -/
  after : Option Nat
  /-- Time at which the change left its furrow, once it has. -/
  left : Option W64
  deriving DecidableEq, Repr

/-- A row on the relay: bytes and poison (R146). -/
structure RelayRow where
  bytes : List Byte
  poison : Bool
  deriving DecidableEq, Repr

/-- A mesh window (R310). -/
structure Window where
  isOpen : Bool
  base : BitVec 25
  length : BitVec 26
  srcId : W16
  srcMask : W16
  lanes : W64
  bytes : W64
  wait : W64
  /-- WINDOW_CLOSEs that wait (R313). -/
  closing : List CmdRef
  deriving DecidableEq, Repr

def Window.closed : Window := ⟨false, 0, 0, 0, 0, 0, 0, 0, []⟩

/-- Kind of claim the reeve holds on a furrow (R343). -/
inductive Claim where
  | none | claiming | owned
  deriving DecidableEq, Repr

/-- A furrow. -/
structure Furrow where
  doms : Vector Domain 2
  drills : Vector Drill 8
  split : Bool
  gated : Bool
  gateSince : Option W64
  sticky : BitVec 20
  ovf : BitVec 18
  /-- FU_CLOCK: LENT, BUDGET, THERMAL, THROTTLE, CEILING, CURRENT. -/
  lent : Bool
  budgetHeld : Bool
  thermalHeld : Bool
  throttled : Bool
  ceiling : Byte
  current : Byte
  stallLimit : W32
  auditEn : Bool
  pstore : Tab Byte
  routines : Tab Routine
  data : Tab Byte
  full : Tab Bool
  poison : Tab Bool
  fallow : BitVec 16
  waking : BitVec 16
  /-- End of each wake in progress, by group (R119). -/
  wakeEnd : Tab W64
  zeroing : Bool
  spSticky : BitVec 16
  portClashes : W32
  swClashes : W32
  board : List Region
  waiting : List Entrant
  rings : Vector Ring 16
  xfers : List Xfer
  /-- Port-S agents whose next transfer waits, the longest wait first (R105). -/
  asks : List Agent
  /-- Port-W writes to rows that committed on the last tick of their domains (R110). -/
  wRows : List WRow
  counters : Tab W16
  changes : List Change
  /-- Rows on the link to the next furrow, each with the powered time at which it was sent (R146, log 42), and the input buffer. -/
  relayOut : List (RelayRow × W64)
  relayIn : List RelayRow
  dlSticky : W32
  dlOvf : BitVec 40
  homeSlots : Vector W64 2
  homeBytes : Vector W64 2
  wrSticky : BitVec 6
  haSticky : BitVec 10
  /-- Windrow entries by 1,024 × physical brick + entry. -/
  windrow : Tab WEntry
  /-- Cell rows by ((physical brick × 2) + set) × 128 + row, and the live set of each pair. -/
  cells : Tab CellRow
  liveSet : BitVec 2
  /-- Pairs in service, and the last residue mismatch of each brick (R174). -/
  inService : BitVec 2
  /-- Pairs disabled while the furrow is split: the halves that owned them refuse START until the join (R50). -/
  halfLost : BitVec 2
  mismatch : Vector (Option W64) 4
  mortarState : Vector Nat 4
  mortarCode : Vector W16 4
  mortarErrs : Vector W32 4
  mortarIssues : Vector W64 4
  /-- Waiting LOAD_PROGRAMs (R91), in acceptance order: target mask and command. -/
  loads : List (BitVec 8 × CmdRef)
  /-- A pending change of split mode, and pending FALLOW masks, with their commands. -/
  modeChange : Option (Bool × CmdRef)
  fallowWait : List (BitVec 16 × CmdRef)
  /-- Wakes that a FALLOW has begun and that have not ended, with the command (R119). -/
  wakes : List (BitVec 16 × CmdRef)
  owned : Bool
  owner : BitVec 6
  pendingAssign : Bool
  assignZeroing : Bool
  /-- The tick at which the change that is now zeroing took effect (R256). -/
  zeroAt : W64
  release : Bool
  target : BitVec 6
  claim : Claim
  windows : Vector Window 16
  /-- RV_MARGINf: F_PASS, COUNT, DUE, BIRTH, GUARD, SPAN_H, AGE_H (R363), and the time of the plan in force. -/
  plan : W64
  planAt : Option W64
  /-- Time spanned by the counted measurements, in ns; F_PASS of the latest counted plan, and its time (R352). -/
  planSpan : Nat
  countPass : Byte
  countAt : Option W64
  lowSamples : Vector Nat 16
  thermalLimit : Option Nat
  deriving DecidableEq, Repr

end Sys2Proof.Machine

namespace Sys2Proof.Config

/-- Kind 7 of R378: the pipeline registers of the unit of a slot, as the build's probe list lays them out, from the furrow, domain and slot, the
domain's beat and its operations in flight of that slot, the course where the slot is the bricks', and the mortar units' states (log 12). -/
opaque pipelineDump : Nat → Nat → Nat → Nat → List Machine.Flight → Option Machine.Course → Vector Nat 4 → List Byte

end Sys2Proof.Config
end

