-- ==== Sys2Proof/Machine/BlockState.lean ====
section
/-! DEFINITION. The shared state of the block: the build, queues, contexts, segments, stack ports, fences, faults and the gleaner. -/

namespace Sys2Proof.Machine

/-- What kreuf-build fixed, and the carrier that the block is loaded on (R15, R22, R23). -/
structure Build where
  furrows : Nat
  /-- FT_BRICKS.BUILT. -/
  built : W32
  scratchMib : Nat
  lanes : Nat
  depth : Nat
  mortar : Nat
  formats : BitVec 10
  audit : Bool
  tvk2 : Bool
  minor : Byte
  fmaxBuild : Byte
  /-- FT_CARRIER of the target grade: sites that offer only pair 0, and full sites. -/
  twoSites : W16
  fullSites : Byte
  lat : Vector Byte 32
  mortars : Vector W64 4
  /-- Sites of the physical carrier that offer only pair 0 (R22). -/
  carrierTwo : W16
  /-- PCIe AtomicOp Requester Enable of the endpoint (R277). -/
  atomicOp : Bool
  deriving DecidableEq, Repr

/-- The latency sheet of the reference build (R26). -/
def Build.refLat : Vector Byte 32 :=
  #v[3, 5, 8, 1, 2, 4, 7, 11, 13, 4, 1, 128, 2, 3, 4, 2, 3, 9, 12, 1, 1, 1, 6, 0, 0, 0, 0, 0, 0, 0, 0, 0]

/-- TVK3 F16-B4-S32 on an SV9-16 carrier (R2, R18; MINOR, FMAX_BUILD and the carrier: log 3). -/
def Build.reference : Build :=
  { furrows := 16, built := 0xAAAAAAAA, scratchMib := 32, lanes := 512, depth := 1024, mortar := 0, formats := 0x3FF,
    audit := false, tvk2 := false, minor := 0, fmaxBuild := 92, twoSites := 0, fullSites := 16, lat := Build.refLat,
    mortars := Vector.replicate 4 0, carrierTwo := 0, atomicOp := true }

/-- States of a queue slot (R250). -/
inductive QState where
  | free | stopped | active | draining | frozen
  deriving DecidableEq, Repr

/-- A fetched packet, and the SEQUENCE that QS_SEQ required of it (R252, R253). -/
structure Packet where
  words : List W64
  units : Nat
  seq : W32
  deriving DecidableEq, Repr

/-- An accepted command (R242), named by the value that QS_SEQ had at its fetch: what its packet said, the segments it references, how far its work is, and whether it has completed. -/
structure Cmd where
  seq : W32
  opcode : W16
  units : Nat
  words : List W64
  quiet : Bool
  segs : List Nat
  order : Nat
  /-- 0 accepted, 1 waits for the scoreboard, 2 at work, 3 finished and waiting for its record. -/
  stage : Nat
  done : Bool
  r0 : Nat
  r1 : Nat
  /-- Bytes still to be moved by a SCRATCH command, with the row's poison. -/
  buf : List Byte
  bufMark : Bool
  /-- Key erasures before the command's check (R271). -/
  since : Nat
  deriving DecidableEq, Repr

/-- A record that waits to be written (R247), or, of a QUIET command that ended OK, for the room that it would have needed (R242). `time` is
set once the ring has room for it: the command completes then (R247, R248). -/
structure Rec where
  /-- SEQUENCE of the packet, and the QS_SEQ value that names the command. -/
  seq : W32
  key : W32
  opcode : W16
  status : Nat
  r0 : Nat
  r1 : Nat
  quiet : Bool
  time : Option W64
  deriving DecidableEq, Repr

/-- A queue slot (R250 to R257). -/
structure Queue where
  st : QState
  cfg : W64
  ring : W64
  cq : W64
  tail : W32
  head : W32
  retired : W32
  seq : W32
  cqTail : W32
  cqHead : W32
  fault : W64
  fetched : List Packet
  /-- What steps 1 to 3 of R243 have found of the head of `fetched`, where what they read has changed since: a status and whether it freezes the
  queue, or none (R242, log 96). -/
  headJudged : Option (Option (Nat × Bool))
  /-- Accepted and not retired, in sequence order. -/
  cmds : List Cmd
  ready : List Rec
  deriving DecidableEq, Repr

def Queue.atReset : Queue := ⟨.free, 0, 0, 0, 0, 0, 0, 0, 0, 0, 0, [], none, [], []⟩

/-- A context slot (R254), with the times at which its queue slots froze (R322). -/
structure Ctx where
  cfg : W64
  frozen : Bool
  freezes : List W64
  deriving DecidableEq, Repr

/-- A segment table entry (R258). STATE 0 FREE, 1 VALID, 2 DYING, 3 RETIRED. -/
structure Seg where
  st : BitVec 2
  host : Bool
  base : BitVec 43
  granules : BitVec 24
  gen : W16
  owner : BitVec 12
  oR : Bool
  oW : Bool
  oF : Bool
  xF : Bool
  enc : Bool
  keySlot : BitVec 6
  refs : Nat
  deriving DecidableEq, Repr

def Seg.zero : Seg := ⟨0, false, 0, 0, 0, 0, false, false, false, false, false, 0, 0⟩

/-- A stack port (R141, R142, R349). -/
structure StackPort where
  g : Nat
  rr : Vector Nat 8
  retraining : Bool
  failed : Bool
  deriving DecidableEq, Repr

def StackPort.zero : StackPort := ⟨0, Vector.replicate 8 0, false, false⟩

/-- A job of the remote-copy engine, of a fence or of a SCRATCH_READ: its command, priority, the number of its request, and the pieces that wait for slots (R140,
R277, R314). -/
structure Job where
  ref : CmdRef
  prio : Nat
  ask : Nat
  pieces : List Piece
  deriving DecidableEq, Repr

/-- A copy engine's job (R245): bytes read and not yet written, each with its mark, bytes written, poisoned bytes written, whether the extra
slot of a partial encrypted unit has been had (R270), and the number of its pending request. -/
structure CopyJob where
  ref : CmdRef
  prio : Nat
  ask : Option Nat
  wr : Nat
  pois : Nat
  extra : Bool
  buf : List (Byte × Bool)
  deriving DecidableEq, Repr

/-- A fence-watch slot (R279, R291). -/
structure Watch where
  /-- 0 FREE, 1 WATCHING, 2 DONE (R280). -/
  st : Nat
  ref : CmdRef
  timedOut : Bool
  handle : W32
  offset : BitVec 44
  target : W64
  last : W64
  deadline : W64
  reads : W32
  failed : W32
  order : Nat
  /-- The queue has entered DRAINING or FROZEN since the wait was accepted (R280). -/
  ending : Bool
  /-- Key erasures before the command's check (R271). -/
  since : Nat
  deriving DecidableEq, Repr

def Watch.free : Watch := ⟨0, ⟨0, 0⟩, false, 0, 0, 0, 0, 0, 0, 0, 0, false, 0⟩

/-- A recovery and its window (R323 to R328): phase 0 detected or frozen, 1 between reset and completion, 2 complete. -/
structure Recov where
  dom : RecDomain
  level : Nat
  code : W16
  source : W16
  scope : Scope
  fur : Nat
  /-- The frozen master of an L1: domain 2f + d, or 32 + 8f + k for drill k. Of 0x0106, the store address of the failing word. -/
  master : Nat
  phase : Nat
  detect : W64
  finished : W64
  byDebug : Bool
  deriving DecidableEq, Repr

/-- The DC_ registers and the recoveries (R331, R336). -/
structure Dc where
  ready : Bool
  /-- READY has been 1 since stage 3 (R392). -/
  started : Bool
  l4 : Bool
  l3 : Bool
  sticky : W64
  frCfg : W64
  frBase : W64
  frTail : W32
  frHead : W32
  frLost : W32
  recovL2 : W32
  recovL3 : W32
  last : W64
  lastTime : W64
  /-- FAULT_N asserted since. -/
  faultN : Option W64
  debugFrozen : Bool
  recovs : List Recov
  /-- Records without number and PHASE that found the ring full since the last reference cycle, for the order of a cycle's records (R334, log 25). -/
  ringLost : List (List Byte)
  deriving DecidableEq, Repr

def Dc.zero : Dc :=
  ⟨false, false, false, false, 0, 0, 0, 0, 0, 0, 0, 0, 0, 0, none, false, [], []⟩

/-- A record on its way to the gleaner's store (R364). -/
structure GRec where
  time : W64
  code : W16
  source : W16
  p0 : W32
  p1 : W32
  p2 : W32
  deriving DecidableEq, Repr

/-- The gleaner (R366 to R381): the store by index as four words, its fill, and the probe port and capture registers. -/
structure Gleaner where
  store : Tab (W64 × W64 × W64 × W64)
  fillF : Nat
  fillI : Nat
  seq : W32
  lostF : W32
  lostI : W32
  sticky : BitVec 3
  imask : W16
  intake : List GRec
  /-- Records that the intake queue has refused since the last reference cycle, for the order of a cycle's records (R369, log 25). -/
  refused : List GRec
  /-- SEQUENCE of the last record stored in each partition, 0 before any (R368, log 59). -/
  lastF : W32
  lastI : W32
  probeCtrl : W64
  probeSel : W64
  probeDly : W64
  capSel : W64
  capData : List Byte
  capValid : Bool
  held : Bool
  /-- Beats that the hold has frozen (R379, log 85). -/
  heldBeats : W32
  deriving DecidableEq, Repr

/-- The image of an EXPORT (R381): the header's figures as they stood at its start, and the records below FILL_F and FILL_I by index. -/
structure Image where
  serial : W64
  seq : W32
  fillF : Nat
  fillI : Nat
  lostF : W32
  lostI : W32
  time : W64
  records : Tab (W64 × W64 × W64 × W64)
  deriving DecidableEq, Repr

def Gleaner.zero : Gleaner := ⟨[], 0, 0, 1, 0, 0, 0, 0, [], [], 0, 0, 0, 0, 0, 0, [], false, false, 0⟩

end Sys2Proof.Machine
end

