-- ==== Sys2Proof/Machine/MeshState.lean ====
section
/-! DEFINITION. The state of the mesh (R292 to R319) and of the reeve (R337 to R363), and of the board pins (R383 to R391). -/

namespace Sys2Proof.Machine

/-- States of a mesh port (R298). -/
inductive PortState where
  | disabled | training | hello | up | down
  deriving DecidableEq, Repr

/-- A Seq frame in the replay buffer (R296), and how often it has been replayed. -/
structure Replay where
  frame : Frame
  times : Nat
  deriving DecidableEq, Repr

/-- A mesh port. -/
structure Port where
  st : PortState
  en : Bool
  nbrSerial : W64
  nbrId : W16
  nbrValid : Bool
  nbrSeen : Bool
  nbrPort : BitVec 4
  tx : W64
  rx : W64
  replays : W64
  credits : Nat
  /-- Next LINKSEQ to send, and the LINKSEQ expected (R296). -/
  txSeq : W16
  rxSeq : W16
  replay : List Replay
  /-- Frames of the replay buffer that a REPLAY has asked for and that have not been sent again: how many, from the end. -/
  resend : Nat
  /-- A REPLAY has been asked for and the expected frame has not arrived; the LINK that asks waits to be sent. -/
  asked : Bool
  askDue : Bool
  ingress : List Frame
  /-- LINK and HELLO frames received, and MGMT frames that wait to be sent. -/
  ctl : List Frame
  mgmtOut : List Frame
  since : W64
  lastHello : Option W64
  lastLink : Option W64
  /-- Round-robin position over the lanes (R297). -/
  rr : Nat
  /-- The last frame put on the wire. -/
  wire : Option Frame
  deriving DecidableEq, Repr

def Port.atReset : Port :=
  { st := .disabled, en := false, nbrSerial := 0, nbrId := 0, nbrValid := false, nbrSeen := false, nbrPort := 0, tx := 0, rx := 0,
    replays := 0, credits := 0, txSeq := 0, rxSeq := 0, replay := [], resend := 0, asked := false, askDue := false, ingress := [],
    ctl := [], mgmtOut := [], since := 0, lastHello := none, lastLink := none, rr := 0, wire := none }

/-- A frame of a sender lane that is not acknowledged (R306): the command, the bytes it counts, whether it is the command's last, whether
it waits to be sent, its retries, when it was last sent, and a deferred resend (R308). -/
structure LaneFrame where
  frame : Frame
  ref : CmdRef
  bytes : Nat
  last : Bool
  due : Bool
  retries : Nat
  sentAt : W64
  busyAt : Option W64
  deriving DecidableEq, Repr

/-- A command whose frames have not all been sent (R306): frames formed and not numbered, with the bytes that each counts, and whether
all of its frames have been formed. -/
structure LaneJob where
  ref : CmdRef
  order : Nat
  ready : List (Frame × Nat)
  whole : Bool
  deriving DecidableEq, Repr

/-- A sender lane to one destination (R306, R308, R309); FAILED holds the status that later commands complete with. -/
structure SendLane where
  next : W16
  synced : Bool
  failed : Option Nat
  jobs : List LaneJob
  unacked : List LaneFrame
  moved : W64
  /-- Since when the lane's next frame has had no usable port (R303). -/
  noPort : Option W64
  deriving DecidableEq, Repr

def SendLane.clear : SendLane := ⟨0, false, none, [], [], 0, none⟩

/-- A receiver pair of source and lane (R307, R317): the frame at its turn, with the rows already committed, and the frames held; of an FSIG of an
HBM fence the number of its request at the stack port and the slots that it waits for (R277). -/
structure RecvLane where
  expect : W16
  valid : Bool
  frozen : Bool
  cur : Option Frame
  rows : Nat
  held : List Frame
  slots : Option (Nat × List Piece)
  deriving DecidableEq, Repr

def RecvLane.clear : RecvLane := ⟨0, false, false, none, 0, [], none⟩

/-- A frame in transit: the port that it arrived on, and since when it has had no usable port, or no credit on its port (R303, R304). -/
structure Transit where
  frame : Frame
  port : Nat
  noPort : Option W64
  noCredit : Option W64
  deriving DecidableEq, Repr

/-- The mesh transport. -/
structure Mesh where
  id : W16
  valid : Bool
  lock : Bool
  hops : Byte
  retries : BitVec 4
  rto : W16
  sticky : BitVec 5
  drops : W64
  ports : Vector Port 16
  routes : Tab W64
  /-- Sender lanes by 64 × destination + lane; receiver pairs by 64 × source + lane; sources frozen. -/
  send : Tab SendLane
  recv : Tab RecvLane
  frozenSrcs : Tab Bool
  transit : List Transit
  /-- Lane frames for this device that have not been processed, with the port (16 for the loopback). -/
  arrivals : List (Frame × Nat)
  /-- ACK and NAK frames that wait to be sent, and since when each has had no usable port. -/
  answers : List (Frame × Option W64)
  /-- Round-robin position of the loopback. -/
  rr : Nat
  /-- The directed-route command on its way: opcode and time (R301). -/
  mgmt : Option (W16 × W64)
  deriving DecidableEq, Repr

def Mesh.atReset : Mesh :=
  { id := 0, valid := false, lock := false, hops := 8, retries := 6, rto := 20, sticky := 0, drops := 0,
    ports := Vector.replicate 16 Port.atReset, routes := [], send := [], recv := [], frozenSrcs := [], transit := [], arrivals := [],
    answers := [], rr := 0, mgmt := none }

/-- States of a maintenance activity (R363 RV_ACTk). -/
inductive ActState where
  | free | queued | claiming | running | done | failed | aborted | cancelled
  deriving DecidableEq, Repr

/-- An entry RV_ACTk (R342, R363). `step` is the MARGIN step under test, or the failures of a RETRAIN, or the next PATROL unit. -/
structure Activity where
  ticket : W16
  target : Byte
  kind : BitVec 4
  st : ActState
  result : Byte
  started : W64
  finished : W64
  step : Nat
  /-- Time for which THROTTLE_N has paused a MARGIN, and since when it pauses it now (R347). -/
  paused : Nat
  pausedAt : Option W64
  /-- A PATROL's last stack-port slot, in powered time, and whether corrected data waits to be written back in a further one (R348). -/
  slot : W64
  rewrite : Bool
  deriving DecidableEq, Repr

def Activity.free : Activity := ⟨0, 0, 0, .free, 0, 0, 0, 0, 0, none, 0, false⟩

/-- States of the mailbox (R337). -/
inductive Mbx where
  | idle | busy | done
  deriving DecidableEq, Repr

/-- The reeve. -/
structure Reeve where
  booted : Bool
  fwRev : W16
  /-- Attempts at the firmware that have failed since stage 3 (R394). -/
  attempts : Nat
  seq : W32
  mbx : Mbx
  /-- The packet has been taken, and its command has not completed. -/
  taken : Bool
  cmd : Vector W64 16
  res : Vector W64 4
  policy : BitVec 3
  budget : W16
  hot : W16
  share : Nat
  unmet : Bool
  /-- A furrow has ungated since the last evaluation: the next is due at once (R355, log 89). -/
  woke : Bool
  /-- Times the nonce has been replaced (R360). -/
  nonces : Nat
  /-- DEBUG_ENABLE between its steps 1 and 4: SCOPE, DURATION and contexts evicted (R360). -/
  evicting : Option (BitVec 4 × W32 × Nat)
  debugEnd : W64
  acts : Vector Activity 16
  ticket : W16
  /-- Readings of the sensors that commands gave, and when (R363, log 91). -/
  temps : Vector W16 20
  tempAt : Vector (Option W64) 20
  /-- Dies that a thermal hold has stepped down, and the last step of each (R356). -/
  holding : BitVec 4
  dieStep : Vector (Option W64) 4
  /-- A critical temperature keeps the furrows OFFLINE (R356). -/
  critical : Bool
  lastPlan : Option W64
  /-- When the last PATROL of each stack began, in powered time (R346). -/
  lastPatrol : Vector W64 32
  /-- Temperature of each stack's site at the stack's last training, and when PATROL met corrected errors, within the last second (R346). -/
  trainTemp : Vector W16 32
  corrected : Vector (List W64) 32
  lastCanary : Vector (Option W64) 16
  deriving DecidableEq, Repr

def Reeve.atReset : Reeve :=
  { booted := false, fwRev := 0, attempts := 0, seq := 0, mbx := .idle, taken := false, cmd := Vector.replicate 16 0, res := Vector.replicate 4 0,
    policy := 7, budget := 2400, hot := 950, share := 0, unmet := false, woke := false, nonces := 0, evicting := none, debugEnd := 0,
    acts := Vector.replicate 16 Activity.free, ticket := 1, temps := Vector.replicate 20 0, tempAt := Vector.replicate 20 none, holding := 0,
    dieStep := Vector.replicate 4 none, critical := false, lastPlan := none, lastPatrol := Vector.replicate 32 0, trainTemp := Vector.replicate 32 0, corrected := Vector.replicate 32 [], lastCanary := Vector.replicate 16 none }

/-- The reference clock (R385), THROTTLE_N as counted, the SYNC decoder and the SYNC_OUT code (R357, R386, R387); READY and FAULT_N follow from DC_STATUS and R331. -/
structure Pins where
  /-- The 100 MHz reference clock runs (R385); no command stops it (log 60). -/
  refClock : Bool
  /-- Stage 1 of the release has come: outputs are driven (R389). -/
  outputs : Bool
  /-- THROTTLE_N counts as asserted (R357). -/
  throttle : Bool
  /-- SYNC_IN: the data bits of the frame in progress, and the time that the last complete frame gave for the next marker. -/
  syncBits : Option (List Bool)
  /-- SYNC_OUT: pulses driven, the millisecond of the last, and its symbol: 0 or 1 for a data bit, 2 for the marker. -/
  syncPulses : Nat
  syncLast : Option Nat
  syncHigh : Nat
  deriving DecidableEq, Repr

def Pins.atRest : Pins :=
  { refClock := true, outputs := false, throttle := false, syncBits := none, syncPulses := 0, syncLast := none, syncHigh := 0 }

end Sys2Proof.Machine
end

