-- ==== Sys2Proof/Machine/State.lean ====
section
/-! DEFINITION. The state of the block, the reasons to stop, and the state after reset. -/

namespace Sys2Proof.Machine

/-- Why a command can stop the model. No command of this spec does. -/
inductive Fault where
  /-- Raised by no meaning: the spec gives every address outside its memories an outcome of its own (BOUNDS, zero, ignored). Safe. -/
  | absentAddress
  deriving DecidableEq, Repr

/-- Why a command has no meaning. -/
inductive Refusal where
  /-- Raised by the dispatch arm of a command that has no meaning yet, under the command's mnemonic. Safe. -/
  | notModelled (mnemonic : String)
  deriving DecidableEq, Repr

/-- The block and the memories behind its ports. -/
structure State where
  /-- Commands that wait, first in first out. -/
  pending : List Instr
  /-- Free values taken so far (log 2). -/
  free : Nat
  build : Build
  /-- Device timebase in ns (R13), and the slew that remains (R386). -/
  time : W64
  /-- Powered time since stage 3 in ns, which SYNC_IN does not set (R346, R352, R393, R394; log 83). -/
  uptime : W64
  slew : Int
  /-- Release stage reached (R389): 0 before stage 1, 3 running; and how the block was started (0x8500: 1 power-up, 2 block reset, 3 reconfiguration). -/
  release : Nat
  startKind : Nat
  furs : Vector Furrow 16
  queues : Vector Queue 64
  ctxs : Vector Ctx 48
  segs : Tab Seg
  stackPorts : Vector StackPort 32
  copies : List CopyJob
  remotes : List Job
  /-- Accepted FENCE_SIGNALs of HBM fences that wait for their two slots (R277), and SCRATCH_READs whose bytes wait for theirs (R140). -/
  fences : List Job
  /-- Requests that the dispatcher and the mesh have made at the stack ports (R141). -/
  requests : Nat
  watches : Vector Watch 256
  /-- Commands accepted so far, the dispatcher's round-robin positions and guard count (R246). -/
  accepted : Nat
  dispRR : Vector Nat 8
  dispG : Nat
  dc : Dc
  gl : Gleaner
  ms : Mesh
  rv : Reeve
  pins : Pins
  /-- Margin history in configuration flash (R353), by furrow: the plans made, oldest first, as RV_MARGINf words, each with the powered time
at which it was made, on one scale from start-up to start-up (log 60). -/
  flash : Vector (List (W64 × Nat)) 16
  /-- The export area of configuration flash, and the image that a running EXPORT writes there (R381). -/
  image : Option Image
  imageWork : Option Image
  /-- FT_BRICKS.ACTIVE (R23). -/
  active : W32
  /-- Contents of the key slots that are loaded: slot, 64 key bytes (R270, R358). -/
  keys : List (Nat × List Byte)
  /-- Key erasures so far, and the count after the last erasure of each slot (R271). -/
  erasures : Nat
  erased : Tab Nat
  /-- RV_DEBUG: ENABLED and SCOPE (R361). -/
  debugOn : Bool
  debugScope : BitVec 4
  /-- The host's read port: data of the last register access that returned any (log 4). -/
  hostRead : W64
  hostMem : Tab Byte
  hostBad : Tab Bool
  hbm : Tab Byte
  hbmBad : Tab Bool
  deriving DecidableEq, Repr

/-- A furrow at block reset (R53, R55, R124, R151, R219, R363; log 7 where the spec gives no value). -/
def Furrow.atReset (audit : Bool) : Furrow :=
  { doms := Vector.replicate 2 (Domain.atReset .reset), drills := Vector.replicate 8 Drill.atReset, split := false, gated := false,
    gateSince := none, sticky := 0, ovf := 0, lent := false, budgetHeld := false, thermalHeld := false, throttled := false,
    ceiling := 56, current := 56, stallLimit := 0x000F4240, auditEn := audit, pstore := [], routines := [], data := [], full := [],
    poison := [], fallow := 0, waking := 0, wakeEnd := [], zeroing := false, spSticky := 0, portClashes := 0, swClashes := 0,
    board := [], waiting := [], rings := Vector.replicate 16 Ring.none, xfers := [], asks := [], wRows := [], counters := [], changes := [], relayOut := [],
    relayIn := [], dlSticky := 0, dlOvf := 0, homeSlots := Vector.replicate 2 0, homeBytes := Vector.replicate 2 0, wrSticky := 0,
    haSticky := 0, windrow := [], cells := [], liveSet := 0, inService := 0, halfLost := 0, mismatch := Vector.replicate 4 none,
    mortarState := Vector.replicate 4 0, mortarCode := Vector.replicate 4 0, mortarErrs := Vector.replicate 4 0,
    mortarIssues := Vector.replicate 4 0, loads := [], modeChange := none, fallowWait := [], wakes := [], owned := false, owner := 0,
    pendingAssign := false, assignZeroing := false, zeroAt := 0, release := false, target := 0, claim := .none,
    windows := Vector.replicate 16 Window.closed, plan := 0x0000000600000000, planAt := none, planSpan := 0, countPass := 0, countAt := none, lowSamples := Vector.replicate 16 0, thermalLimit := none }

/-- The block with build `b` in block reset: every register at its reset value, memories with nothing listed (R388, R395). -/
def State.blank (b : Build) : State :=
  { pending := [], free := 0, build := b, time := 0, uptime := 0, slew := 0, release := 0, startKind := 1,
    furs := Vector.replicate 16 (Furrow.atReset b.audit), queues := Vector.replicate 64 Queue.atReset,
    ctxs := Vector.replicate 48 ⟨0, false, []⟩, segs := [], stackPorts := Vector.replicate 32 StackPort.zero, copies := [],
    remotes := [], fences := [], requests := 0, watches := Vector.replicate 256 Watch.free, accepted := 0, dispRR := Vector.replicate 8 0, dispG := 0,
    dc := Dc.zero, gl := Gleaner.zero, ms := Mesh.atReset, rv := Reeve.atReset, pins := Pins.atRest, flash := Vector.replicate 16 [], image := none, imageWork := none, active := 0, keys := [], erasures := 0, erased := [],
    debugOn := false, debugScope := 0, hostRead := 0, hostMem := [], hostBad := [], hbm := [], hbmBad := [] }

/-- The block right after reset: the reference build of R2 on its carrier, held until the release of R389. -/
def State.reset : State := State.blank Build.reference

end Sys2Proof.Machine
end

