-- ==== Sys2Proof/Machine/Tables.lean ====
section
/-! DEFINITION. Sparse arrays: reading, writing, clearing, and the canonical form that every write keeps. -/

namespace Sys2Proof.Machine

/-- The element at key `k`, or the default `d` where none is listed. -/
def tget {α : Type} (d : α) (t : Tab α) (k : Nat) : α :=
  match t with
  | [] => d
  | (k', v) :: r => if k' = k then v else if k < k' then d else tget d r k

/-- The array with `v` at key `k`: the pair is listed only when `v` differs from the default. -/
def tset {α : Type} [DecidableEq α] (d : α) (t : Tab α) (k : Nat) (v : α) : Tab α :=
  match t with
  | [] => if v = d then [] else [(k, v)]
  | (k', v') :: r =>
    if k' = k then (if v = d then r else (k, v) :: r)
    else if k < k' then (if v = d then (k', v') :: r else (k, v) :: (k', v') :: r)
    else (k', v') :: tset d r k v

/-- Keys strictly rising, above `lo` where given. -/
def keysRise {α : Type} (lo : Option Nat) (t : Tab α) : Bool :=
  match t with
  | [] => true
  | (k, _) :: r => (match lo with | none => true | some l => decide (l < k)) && keysRise (some k) r

/-- The canonical form: keys strictly rising and no element equal to the default. -/
def twf {α : Type} [DecidableEq α] (d : α) (t : Tab α) : Bool :=
  keysRise none t && t.all (fun p => !decide (p.2 = d))

/-- The array with every key of the half-open range [lo, hi) back at the default. -/
def tclear {α : Type} (t : Tab α) (lo hi : Nat) : Tab α :=
  t.filter (fun p => !(decide (lo ≤ p.1) && decide (p.1 < hi)))

/-- The array with `f` applied to every listed element of the range [lo, hi); results equal to the default are dropped. -/
def tmap {α : Type} [DecidableEq α] (d : α) (f : α → α) (t : Tab α) (lo hi : Nat) : Tab α :=
  t.filterMap (fun p =>
    if lo ≤ p.1 ∧ p.1 < hi then (if f p.2 = d then none else some (p.1, f p.2)) else some p)

/-- Writes a run of elements at consecutive keys from `k`. -/
def tputs {α : Type} [DecidableEq α] (d : α) (t : Tab α) (k : Nat) (vs : List α) : Tab α :=
  match vs with
  | [] => t
  | v :: r => tputs d (tset d t k v) (k + 1) r

/-- Writes a list of keyed elements, in list order. -/
def tputAll {α : Type} [DecidableEq α] (d : α) (t : Tab α) (ps : List (Nat × α)) : Tab α :=
  match ps with
  | [] => t
  | (k, v) :: r => tputAll d (tset d t k v) r

/-- Reads `n` elements at consecutive keys from `k`. -/
def tgets {α : Type} (d : α) (t : Tab α) (k n : Nat) : List α :=
  match n with
  | 0 => []
  | m + 1 => tget d t k :: tgets d t (k + 1) m

end Sys2Proof.Machine
end

