-- ==== Sys2Proof/Machine/Ops.lean ====
section
/-! DEFINITION. The shared operations: reaching furrows, domains and drills, memory bytes, gleaner and fault ring records, completion. -/

namespace Sys2Proof.Machine

/-- Outcome of a command. -/
abbrev Res := Host.Outcome State Fault Refusal

/-! ### Reaching the parts of the state -/

def State.fur (s : State) (f : Fur) : Furrow := s.furs[f]
def State.setFur (s : State) (f : Fur) (x : Furrow) : State := { s with furs := s.furs.set f x }
def State.modFur (s : State) (f : Fur) (g : Furrow → Furrow) : State := s.setFur f (g (s.fur f))
def Furrow.dom (x : Furrow) (d : Dom) : Domain := x.doms[d]
def Furrow.setDom (x : Furrow) (d : Dom) (y : Domain) : Furrow := { x with doms := x.doms.set d y }
def State.dom (s : State) (f : Fur) (d : Dom) : Domain := (s.fur f).dom d
def State.setDom (s : State) (f : Fur) (d : Dom) (y : Domain) : State := s.setFur f ((s.fur f).setDom d y)
def State.modDom (s : State) (f : Fur) (d : Dom) (g : Domain → Domain) : State := s.setDom f d (g (s.dom f d))
def Furrow.drill (x : Furrow) (k : DrillNo) : Drill := x.drills[k]
def Furrow.setDrill (x : Furrow) (k : DrillNo) (y : Drill) : Furrow := { x with drills := x.drills.set k y }
def State.drill (s : State) (f : Fur) (k : DrillNo) : Drill := (s.fur f).drill k
def State.setDrill (s : State) (f : Fur) (k : DrillNo) (y : Drill) : State := s.setFur f ((s.fur f).setDrill k y)
def State.modDrill (s : State) (f : Fur) (k : DrillNo) (g : Drill → Drill) : State := s.setDrill f k (g (s.drill f k))
def State.queue (s : State) (q : QSlot) : Queue := s.queues[q]
def State.setQueue (s : State) (q : QSlot) (x : Queue) : State := { s with queues := s.queues.set q x }
def State.modQueue (s : State) (q : QSlot) (g : Queue → Queue) : State := s.setQueue q (g (s.queue q))

def furOf (n : Nat) : Fur := Fin.ofNat 16 n
def domOf (n : Nat) : Dom := Fin.ofNat 2 n
def drillOf (n : Nat) : DrillNo := Fin.ofNat 8 n
def slotOf (n : Nat) : QSlot := Fin.ofNat 64 n

def Build.latOf (b : Build) (i : Nat) : Nat := (b.lat.toList.getD i 0).toNat
def Build.bytes (b : Build) : Nat := b.scratchMib * 2 ^ 20
def Build.banks (b : Build) : Nat := 2 * b.scratchMib
def Build.rows (b : Build) : Nat := b.scratchMib * 2048
/-- Bricks of furrow `f` as built: 0, 2 or 4 (R23). -/
def Build.bricksOf (b : Build) (f : Nat) : Nat := 2 * nfld b.built.toNat (2 * f) 2

def Domain.sreg (x : Domain) (i : Nat) : W64 := x.sregs.toList.getD i 0
def Domain.areg (x : Domain) (i : Nat) : W64 := x.aregs.toList.getD i 0
def Domain.vreg (x : Domain) (i : Nat) : VReg := x.vregs.toList.getD i VReg.zero
def Domain.ly (x : Domain) (i : Nat) : W64 := tget 0 x.live i
def vput {α : Type} {n : Nat} (v : Vector α n) (i : Nat) (x : α) : Vector α n := if h : i < n then v.set i x h else v
def vat {α : Type} {n : Nat} (d : α) (v : Vector α n) (i : Nat) : α := if h : i < n then v[i] else d

/-- Time since `t` on the timebase. -/
def State.since (s : State) (t : W64) : Nat := (s.time - t).toNat
/-- Powered time since `t` (log 83). -/
def State.powered (s : State) (t : W64) : Nat := (s.uptime - t).toNat

/-! ### Memory bytes: host memory and HBM (R262, R263) -/

def State.hostRd (s : State) (a n : Nat) : List Byte := tgets 0 s.hostMem a n
def State.hbmRd (s : State) (a n : Nat) : List Byte := tgets 0 s.hbm a n

/-- Bytes written to host memory; a write removes an error mark. -/
def State.hostWr (s : State) (a : Nat) (bs : List Byte) : State :=
  { s with hostMem := tputs 0 s.hostMem a bs, hostBad := tclear s.hostBad a (a + bs.length) }

/-- Bytes written to HBM; `bad` for the reserved ECC pattern of R145. -/
def State.hbmWr (s : State) (a : Nat) (bs : List Byte) (bad : Bool) : State :=
  { s with
    hbm := tputs 0 s.hbm a bs
    hbmBad := if bad then tputs false s.hbmBad a (List.replicate bs.length true) else tclear s.hbmBad a (a + bs.length) }

/-- Whether a range holds a byte that reads back as an error. -/
def tany (t : Tab Bool) (lo hi : Nat) : Bool := t.any (fun p => decide (lo ≤ p.1) && decide (p.1 < hi) && p.2)

/-! ### Records: the gleaner's intake and the fault ring (R332 to R335, R366 to R370) -/

/-- SOURCE of R335. -/
def srcOf (klass index : Nat) : W16 := BitVec.ofNat 16 (klass * 4096 + index)
def srcDom (f : Fur) (d : Dom) : W16 := srcOf 1 (2 * f.val + d.val)
def srcDrill (f : Fur) (k : DrillNo) : W16 := srcOf 2 (8 * f.val + k.val)
def srcBlock : W16 := srcOf 0 0

/-- Whether a record offered in the same dispatcher cycle goes before another: lower SOURCE, or equal SOURCE and lower CODE (R369). -/
def GRec.before (a b : GRec) : Bool :=
  decide (a.source.toNat < b.source.toNat) || (a.source == b.source && decide (a.code.toNat < b.code.toNat))

/-- A record among others of its dispatcher cycle, in the order of R369. -/
def insertRec (r : GRec) (l : List GRec) : List GRec :=
  match l with
  | [] => [r]
  | x :: t => if x.before r then x :: insertRec r t else r :: x :: t

/-- Whether a record is informational (R365). -/
def GRec.info (r : GRec) : Bool := bitOf r.code 15

/-- A saturating count, of which `a` have been taken back and `b` counted instead. -/
def recount (v : W32) (a b : Nat) : W32 := if v = BitVec.allOnes 32 then v else BitVec.ofNat 32 (min (2 ^ 32 - 1) (v.toNat + b - a))

/-- The records that `t` holds or has refused beyond those of `s` are of one dispatcher cycle, that of one command: they are offered to the intake
queue in the order of R369, and those of them are refused that then find it full (log 25). -/
def State.ordered (s t : State) : State :=
  let n := s.gl.intake.length
  let m := s.gl.refused.length
  let lost := t.gl.refused.drop m
  if t.gl.intake.length ≤ n + 1 ∧ lost = [] then t
  else
    let all := (t.gl.intake.drop n ++ lost).foldr insertRec []
    let room := t.gl.intake.length - n
    let out := all.drop room
    let count := fun (info : Bool) (l : List GRec) => (l.filter (fun r => r.info == info)).length
    { t with gl := { t.gl with
        intake := t.gl.intake.take n ++ all.take room
        refused := t.gl.refused.take m ++ out
        lostF := recount t.gl.lostF (count false lost) (count false out)
        lostI := recount t.gl.lostI (count true lost) (count true out) } }

/-- Offers one record to the gleaner: masked when informational (R370), refused when the intake queue is full (R369). -/
def State.offer (s : State) (code : Nat) (source : W16) (p0 p1 p2 : Nat) : State :=
  let info := decide (0x8000 ≤ code)
  if info && bitOf s.gl.imask (nfld code 8 7) && decide (nfld code 8 7 ≠ 0) && decide (code ≠ 0x8500) && decide (code ≠ 0x8540) then s
  else
    let r : GRec := ⟨s.time, BitVec.ofNat 16 code, source, BitVec.ofNat 32 p0, BitVec.ofNat 32 p1, BitVec.ofNat 32 p2⟩
    if s.gl.intake.length < 256 then { s with gl := { s.gl with intake := s.gl.intake ++ [r] } }
    else { s with gl := { s.gl with
        refused := s.gl.refused ++ [r]
        lostF := if info then s.gl.lostF else satInc s.gl.lostF
        lostI := if info then satInc s.gl.lostI else s.gl.lostI
        sticky := s.gl.sticky ||| 4 } }

/-- The fault ring's bytes of one record (R333). `lev` is byte 28. -/
def frBytes (c : W32) (log2 : Nat) (code : Nat) (source : W16) (time : W64) (p0 p1 p2 lev : Nat) : List Byte :=
  let phase := (c.toNat / 2 ^ log2 + 1) % 2
  toLe 4 c.toNat ++ toLe 2 code ++ toLe 2 source.toNat ++ toLe 8 time.toNat ++ toLe 4 p0 ++ toLe 4 p1 ++ toLe 4 p2
    ++ toLe 2 lev ++ toLe 2 (at' phase 15)

/-- Writes a record to the fault ring while it is enabled and has room; a record that finds it full is dropped and counted (R332). -/
def State.ringRecord (s : State) (code : Nat) (source : W16) (p0 p1 p2 lev : Nat) : State :=
  let log2 := fld s.dc.frCfg 0 5
  if bitOf s.dc.frCfg 63 then
    if (s.dc.frTail - s.dc.frHead).toNat < 2 ^ log2 then
      let a := fld s.dc.frBase 12 52 * 4096 + 32 * (s.dc.frTail.toNat % 2 ^ log2)
      let s' := s.hostWr a (frBytes s.dc.frTail log2 code source s.time p0 p1 p2 lev)
      { s' with dc := { s'.dc with frTail := s'.dc.frTail + 1 } }
    else { s with dc := { s.dc with
        frLost := satInc s.dc.frLost, sticky := setBit s.dc.sticky 36 true
        ringLost := s.dc.ringLost ++ [((frBytes s.dc.frTail log2 code source s.time p0 p1 p2 lev).drop 4).take 26] } }
  else s

/-- A fault record: to the fault ring and to the gleaner (R334). -/
def State.faultRecord (s : State) (code : Nat) (source : W16) (p0 p1 p2 lev : Nat) : State :=
  (s.ringRecord code source p0 p1 p2 lev).offer code source p0 p1 p2

/-! ### Completion status codes (R248) -/

def stOk : Nat := 0
def stPoisoned : Nat := 1
def stStale : Nat := 0x0101
def stBounds : Nat := 0x0102
def stPermission : Nat := 0x0103
def stSignature : Nat := 0x0104
def stTimeout : Nat := 0x0105
def stBadOpcode : Nat := 0x0106
def stBadParam : Nat := 0x0107
def stDeferred : Nat := 0x0108
def stBusy : Nat := 0x0109
def stShape : Nat := 0x010A

/-! ### Segment references (R266) -/

def State.seg (s : State) (i : Nat) : Seg := tget Seg.zero s.segs i
def State.setSeg (s : State) (i : Nat) (x : Seg) : State := { s with segs := tset Seg.zero s.segs i x }
def State.refSeg (s : State) (i : Nat) : State := s.setSeg i { s.seg i with refs := (s.seg i).refs + 1 }
def State.unrefSeg (s : State) (i : Nat) : State := s.setSeg i { s.seg i with refs := (s.seg i).refs - 1 }
def State.unrefSegs (s : State) (is : List Nat) : State :=
  match is with
  | [] => s
  | i :: r => (s.unrefSeg i).unrefSegs r

/-! ### Commands of a queue: finding, changing and finishing -/

def Queue.cmd? (x : Queue) (seq : W32) : Option Cmd := x.cmds.find? (fun c => decide (c.seq = seq) && !c.done)

def State.cmd? (s : State) (r : CmdRef) : Option Cmd := (s.queue (slotOf r.q)).cmd? r.seq

def State.modCmd (s : State) (r : CmdRef) (g : Cmd → Cmd) : State :=
  s.modQueue (slotOf r.q) (fun x => { x with cmds := mapFirst (fun c => decide (c.seq = r.seq) && !c.done) g x.cmds })

/-- Drops the completed commands at the front and moves QS_RETIRED past them (R252). -/
def retire (cs : List Cmd) (n : W32) : List Cmd × W32 :=
  match cs with
  | [] => ([], n)
  | c :: r => if c.done then retire r (n + BitVec.ofNat 32 c.units) else (c :: r, n)

/-- Frees the scoreboard entries that a command holds, and drops it from the waiting entrants (R118). -/
def Furrow.leaveBoard (x : Furrow) (r : CmdRef) : Furrow :=
  { x with board := x.board.filter (fun e => e.ref != r), waiting := x.waiting.filter (fun e => e.ref != r) }

/-- A host command that holds scoreboard entries until its completion: COPY, SCRATCH_WRITE and SCRATCH_READ (R116). -/
def Cmd.holdsBoard (c : Cmd) : Bool := c.opcode == 0x0200 || c.opcode == 0x0204 || c.opcode == 0x0205

/-- The scoreboard entries of a host command end in every furrow (R118); those of a START or CALL end with its drain. -/
def State.leaveBoards (s : State) (r : CmdRef) : State :=
  match s.cmd? r with
  | some c => if c.holdsBoard then { s with furs := s.furs.map (fun x => x.leaveBoard r) } else s
  | none => s

/-- The command has completed: its segment references end (R266), a host command's scoreboard entries too (R116, R118), and QS_RETIRED moves where
it can. -/
def State.completed (s : State) (r : CmdRef) : State :=
  let segs := match s.cmd? r with | some c => c.segs | none => []
  let s1 := ((s.leaveBoards r).modCmd r (fun c => { c with done := true })).unrefSegs segs
  s1.modQueue (slotOf r.q) (fun x =>
    let p := retire x.cmds x.retired
    { x with cmds := p.1, retired := p.2 })

/-- A fence-watch slot in DONE is free once the record of its command is written, or would have been (R280). -/
def State.freeWatch (s : State) (r : CmdRef) : State :=
  { s with watches := s.watches.map (fun k => if k.st = 2 ∧ k.ref = r then Watch.free else k) }

/-- A queue enters DRAINING or FROZEN: a wait of it that is WATCHING ends at its next read (R280). -/
def State.endWaits (s : State) (q : QSlot) : State :=
  { s with watches := s.watches.map (fun k => if k.st = 1 ∧ k.ref.q = q.val then { k with ending := true } else k) }

/-- Records for which the completion ring has room (R248). -/
def Queue.room (x : Queue) : Nat := 2 ^ fld x.cfg 16 5 - (x.cqTail - x.cqHead).toNat

/-- The waiting records that now have room are ready to write, at time `t` unless they were before (R247, R248); the record of a QUIET command
that ended OK takes none. -/
def stampRecs (t : W64) (room : Nat) (l : List Rec) : List Rec :=
  match l with
  | [] => []
  | k :: r =>
    if room = 0 then k :: r
    else { k with time := some (k.time.getD t) } :: stampRecs t (if k.quiet then room else room - 1) r

/-- Whether the record of a QUIET command would have been written. -/
def Rec.gone (k : Rec) : Bool := k.quiet && k.time.isSome

/-- A record among those of its queue that became ready on the same cycle, in ascending SEQUENCE. -/
def insertReady (k : Rec) (l : List Rec) : List Rec :=
  match l with
  | [] => [k]
  | x :: r => if (x.key - k.key).toNat < 2 ^ 31 then k :: x :: r else x :: insertReady k r

/-- The records that have become ready at once, behind the `n` that were ready before, stand in ascending SEQUENCE (R247). -/
def readyInOrder (n : Nat) (l : List Rec) : List Rec :=
  let new := (l.drop n).takeWhile (fun k => k.time.isSome)
  l.take n ++ new.foldr insertReady [] ++ l.drop (n + new.length)

/-- The records of a queue take the room that its completion ring has, those that finished first before the others; QUIET commands whose records
would have been written have completed (R242). -/
def State.giveRoom (s : State) (q : QSlot) : State :=
  let x := s.queue q
  let l := readyInOrder (x.ready.takeWhile (fun k => k.time.isSome)).length (stampRecs s.time x.room x.ready)
  (l.filter Rec.gone).foldl (fun s k => (s.completed ⟨q.val, k.key⟩).freeWatch ⟨q.val, k.key⟩)
    (s.setQueue q { x with ready := l.filter (fun k => !k.gone) })

/-- The record of a finished command. -/
def Cmd.record (c : Cmd) (status r0 r1 : Nat) : Rec :=
  ⟨w32 (fld (c.words.getD 0 0) 32 32), c.seq, c.opcode, status, r0, r1, c.quiet && decide (status = stOk), none⟩

/-- The command has finished its work with a status, and its record waits for room (R242, R247, R248). RESULT0 and RESULT1 are given as R244
has them. -/
def State.finish (s : State) (r : CmdRef) (status r0 r1 : Nat) : State :=
  match s.cmd? r with
  | none => s
  | some c =>
    if c.stage = 3 then s
    else
      ((s.modCmd r (fun c => { c with stage := 3 })).modQueue (slotOf r.q) (fun x =>
        { x with ready := x.ready ++ [c.record status r0 r1] })).giveRoom (slotOf r.q)

def State.finishOpt (s : State) (r : Option CmdRef) (status r0 r1 : Nat) : State :=
  match r with
  | none => s
  | some x => s.finish x status r0 r1

/-! ### One dispatcher cycle (R247, R369) -/

/-- The records of `y` beyond those of `x` became ready on one cycle: they stand in ascending SEQUENCE, the room going to the first. -/
def Queue.cycle (x y : Queue) : Queue :=
  let n := x.ready.length
  if y.ready.length ≤ n + 1 then y
  else
    let new := y.ready.drop n
    { y with ready := y.ready.take n
        ++ List.zipWith (fun k t => { k with time := t }) (new.foldr insertReady []) (new.map Rec.time) }

/-- Where record `c` of the fault ring lies in host memory (R332). -/
def Dc.ringAddr (x : Dc) (c : W32) : Nat := fld x.frBase 12 52 * 4096 + 32 * (c.toNat % 2 ^ fld x.frCfg 0 5)

/-- A fault record without its number and PHASE among others of its dispatcher cycle: ascending SOURCE, then CODE (R333, R334). -/
def insertBody (b : List Byte) (l : List (List Byte)) : List (List Byte) :=
  match l with
  | [] => [b]
  | x :: r =>
    let key := fun (y : List Byte) => ofLe ((y.drop 2).take 2) * 2 ^ 16 + ofLe (y.take 2)
    if key x < key b then x :: insertBody b r else b :: x :: r

/-- The fault ring's records that `t` holds or has dropped beyond those of `s` are of one dispatcher cycle: they come to the ring in the order of
R334, and those of them are dropped that then find it full. -/
def State.ringOrdered (s t : State) : State :=
  let n := (t.dc.frTail - s.dc.frTail).toNat
  let m := s.dc.ringLost.length
  let lost := t.dc.ringLost.drop m
  if (n ≤ 1 && lost == []) || t.dc.frCfg != s.dc.frCfg || t.dc.frBase != s.dc.frBase then t
  else
    let num := fun (j : Nat) => s.dc.frTail + BitVec.ofNat 32 j
    let bodies := ((List.range n).map (fun j => ((t.hostRd (t.dc.ringAddr (num j)) 32).drop 4).take 26) ++ lost).foldr insertBody []
    (List.range n).foldl (fun u j =>
      u.hostWr (t.dc.ringAddr (num j)) (toLe 4 (num j).toNat ++ bodies.getD j []
        ++ (t.hostRd (t.dc.ringAddr (num j) + 30) 2)))
      { t with dc := { t.dc with ringLost := t.dc.ringLost.take m ++ bodies.drop n } }

/-- `t` is `s` after one dispatcher cycle: its new records stand in the orders of R247, R334 and R369 (log 25). -/
def State.oneCycle (s t : State) : State :=
  let u := s.ordered (s.ringOrdered t)
  { u with queues := Vector.ofFn (fun q => s.queues[q].cycle u.queues[q]) }

end Sys2Proof.Machine
end

