-- ==== Sys2Proof/Machine/Memory.lean ====
section
/-! DEFINITION. Memory through segments: the check of R264, where a byte lies (R262, R263), encryption (R270, R271), error marks (R144,
R145), and the pieces of requests (R140). -/

namespace Sys2Proof.Machine

/-- A place in memory: host or HBM, address, the key slot of an encrypted segment, and the number of key erasures before the check that the
user of the place passed (R271). -/
structure Loc where
  host : Bool
  addr : Nat
  key : Option Nat
  since : Nat
  deriving DecidableEq, Repr

def Loc.at (l : Loc) (n : Nat) : Loc := { l with addr := l.addr + n }
/-- The place, for a user whose check passed after `n` erasures. -/
def Loc.checked (l : Loc) (n : Nat) : Loc := { l with since := n }

/-- Key pair in a key slot, bytes 8 to 71 of the plaintext of R358; none while the slot is empty. -/
def State.keyBytes (s : State) (slot : Nat) : Option (List Byte) :=
  (s.keys.find? (fun (p : Nat × List Byte) => p.1 == slot)).map (fun p => (p.2.drop 8).take 64)

/-- The key pair for a user of a place in key slot `k`: none when the slot is empty or has been erased since the user's check (R271). -/
def State.keyFor (s : State) (l : Loc) (k : Nat) : Option (List Byte) := if l.since < tget 0 s.erased k then none else s.keyBytes k

/-- Empties the key slots that `p` names, and counts the erasures (R271, R359). -/
def State.eraseKeys (s : State) (p : Nat → List Byte → Bool) : State :=
  let gone := (s.keys.filter (fun (q : Nat × List Byte) => p q.1 q.2)).map Prod.fst
  let n := s.erasures + 1
  { s with
    keys := s.keys.filter (fun (q : Nat × List Byte) => !p q.1 q.2)
    erasures := n
    erased := gone.foldl (fun t k => tset 0 t k n) s.erased }

/-- Whether a key slot holds a key bound to CONTEXT_ID `id` (R359). -/
def State.keyBound (s : State) (slot id : Nat) : Bool :=
  s.keys.any (fun (p : Nat × List Byte) => p.1 == slot && ofLe (p.2.take 8) == id)

/-! ### The check of R264 -/

/-- Segment index and generation of a handle (R261). -/
def hIndex (h : Nat) : Nat := h % 2 ^ 15
def hGen (h : Nat) : Nat := nfld h 15 16

def Seg.bytes (x : Seg) : Nat := x.granules.toNat * 2 ^ 21

/-- Step 3: some VALID context slot has the segment's owner, with its key slot enabled and loaded for that owner. -/
def State.keyReady (s : State) (g : Seg) : Bool :=
  s.ctxs.toList.any (fun c => bitOf c.cfg 63 && bitOf c.cfg 55 && fld c.cfg 0 12 == g.owner.toNat && fld c.cfg 48 6 == g.keySlot.toNat)
    && s.keyBound g.keySlot.toNat g.owner.toNat

/-- Permission `perm` (0 O_R, 1 O_W, 2 O_F or X_F, 3 X_F) of context `id` in a segment (R265). -/
def Seg.allows (g : Seg) (id : Nat) (perm : Nat) : Bool :=
  let own := g.owner.toNat == id
  match perm with
  | 0 => own && g.oR
  | 1 => own && g.oW
  | 2 => (own && g.oF) || g.xF
  | _ => g.xF

/-- Step 4 of R264: whether a run of `len` bytes from `off` ends beyond the segment. -/
def State.beyondSeg (s : State) (h off len : Nat) : Bool := decide ((s.seg (hIndex h)).bytes < off + len)

/-- The check of R264 for a use by context `id`: a status, or none when it passes. -/
def State.segCheck (s : State) (id h off len perm : Nat) : Option Nat :=
  let g := s.seg (hIndex h)
  if hIndex h = 0 || g.st ≠ 1 || g.gen.toNat ≠ hGen h then some stStale
  else if !g.allows id perm then some stPermission
  else if g.enc && !s.keyReady g then some stPermission
  else if s.beyondSeg h off len then some stBounds
  else none

/-- Where byte `off` of a segment lies (R262), for a user that is checked now. -/
def State.locOf (s : State) (h off : Nat) : Loc :=
  let g := s.seg (hIndex h)
  ⟨g.host, g.base.toNat * 2 ^ 21 + off, if g.enc then some g.keySlot.toNat else none, s.erasures⟩

/-! ### Bytes -/

/-- Plaintext of `n` 16-byte units from unit `u`. -/
def State.plainUnits (s : State) (key : List Byte) (u n : Nat) : List Byte :=
  match n with
  | 0 => []
  | k + 1 => xtsUnit true key u (s.hbmRd (16 * u) 16) ++ s.plainUnits key (u + 1) k

/-- Bytes that no rule gives: those of free value `s.free` (log 2). -/
def State.freeBytes (s : State) (n : Nat) : List Byte := (List.range n).map (Config.freeByte s.free)
def State.bumpFree (s : State) : State := { s with free := s.free + 1 }

/-- What memory answers to a read of `n` bytes: the bytes, and how it went. A failing byte, and every byte of a request that fails in
translation, is undefined (R144): a free value. -/
def State.memRead (s : State) (l : Loc) (n : Nat) : List Byte × ReadOutcome :=
  if l.host then
    (if tany s.hostBad l.addr (l.addr + n) then (s.freeBytes n, .translation) else (s.hostRd l.addr n, .good))
  else
    let plain : Option (List Byte) := match l.key with
      | none => some (s.hbmRd l.addr n)
      | some k => (s.keyFor l k).map (fun key =>
          let u := l.addr / 16
          ((s.plainUnits key u ((l.addr + n + 15) / 16 - u)).drop (l.addr % 16)).take n)
    match plain with
    | none => (s.freeBytes n, .translation)
    | some bs =>
      if tany s.hbmBad l.addr (l.addr + n) then
        (bs.mapIdx (fun i b => if tget false s.hbmBad (l.addr + i) then Config.freeByte s.free i else b), .uncorrectable)
      else (bs, .good)

/-- Ciphertext of plaintext units from unit `u`. -/
def cipherUnits (key : List Byte) (u n : Nat) (bs : List Byte) : List Byte :=
  match n with
  | 0 => []
  | k + 1 => xtsUnit false key u (bs.take 16) ++ cipherUnits key (u + 1) k (bs.drop 16)

/-- Bytes written to memory; `poison` for the reserved ECC pattern in HBM (R145). A write whose key has been erased is discarded, with
event 0x0603 (R271); the flag says so. -/
def State.memWrite (s : State) (l : Loc) (bs : List Byte) (poison : Bool) (seg : Nat) : State × Bool :=
  if l.host then (s.hostWr l.addr bs, false)
  else match l.key with
  | none => (s.hbmWr l.addr bs poison, false)
  | some k =>
    match s.keyFor l k with
    | none => (s.offer 0x0603 srcBlock seg k bs.length, true)
    | some key =>
      let u := l.addr / 16
      let n := (l.addr + bs.length + 15) / 16 - u
      let old := s.plainUnits key u n
      let new := old.take (l.addr % 16) ++ bs ++ old.drop (l.addr % 16 + bs.length)
      ({ s with
        hbm := tputs 0 s.hbm (16 * u) (cipherUnits key u n new)
        hbmBad := if poison then tputs false s.hbmBad l.addr (List.replicate bs.length true)
          else tclear s.hbmBad l.addr (l.addr + bs.length) }, false)

/-- Bytes of a run that read as an uncorrectable error, in order. -/
def State.badMap (s : State) (l : Loc) (n : Nat) : List Bool :=
  if l.host then List.replicate n false else tgets false s.hbmBad l.addr n

/-! ### Stacks and pieces (R140, R262) -/

/-- Stack that holds device address `a`. -/
def stackOf (a : Nat) : Nat := 2 * (a / (96 * 2 ^ 30)) + a / 4096 % 2

/-- Pieces of a run [lo, hi) of one request: cuts at every 4 KiB boundary, `fuel` pieces at most. -/
def cutPieces (fuel lo hi row : Nat) : List Piece :=
  match fuel with
  | 0 => []
  | k + 1 =>
    if hi ≤ lo then []
    else
      let e := min hi ((lo / 4096 + 1) * 4096)
      ⟨lo, e, row, false⟩ :: cutPieces k e hi row

def piecesOf (lo hi row : Nat) : List Piece := cutPieces ((hi - lo) / 4096 + 2) lo hi row

/-- The extra slot of a request [lo, hi) that writes part of a 16-byte unit at either end (R270): one, at the first such unit. -/
def extraPiece (lo hi row : Nat) : List Piece :=
  if lo % 16 ≠ 0 then [⟨lo, min hi (lo / 16 * 16 + 16), row, true⟩]
  else if hi % 16 ≠ 0 then [⟨max lo (hi / 16 * 16), hi, row, true⟩]
  else []

/-- Cuts of a run [lo, hi) at every 2 MiB granule: its requests (R140). -/
def granuleCuts (fuel lo hi : Nat) : List (Nat × Nat) :=
  match fuel with
  | 0 => []
  | k + 1 =>
    if hi ≤ lo then []
    else
      let e := min hi ((lo / 2 ^ 21 + 1) * 2 ^ 21)
      (lo, e) :: granuleCuts k e hi

/-- Pieces of a run that is written to an encrypted segment, the extra slots of its requests first among their own. -/
def encPieces (lo hi row : Nat) : List Piece :=
  (granuleCuts ((hi - lo) / 2 ^ 21 + 2) lo hi).flatMap (fun q => extraPiece q.1 q.2 row ++ piecesOf q.1 q.2 row)

/-- Whether a run touches a stack that retrains or has failed: an access to it waits without a grant (R349). -/
def State.stackHeld (s : State) (l : Loc) (n : Nat) : Bool :=
  !l.host && (piecesOf l.addr (l.addr + n) 0).any (fun p =>
    let st := vat StackPort.zero s.stackPorts (stackOf p.lo)
    st.retraining || st.failed)

end Sys2Proof.Machine
end

