-- ==== Sys2Proof/Machine/DrillOps.lean ====
section
/-! DEFINITION. Block descriptors (R129), the rows and requests of a block (R131, R140), the put queue and DTEND (R138, R139), outstanding
blocks and stopping (R133, R137), rows that have moved (R136, R145), and the signals that wait for put rows (R285, R288). -/

namespace Sys2Proof.Machine

/-! ### Descriptor fields (R129) -/

def Desc.offset (d : Desc) : Nat := fld d.w0 0 44
def Desc.stride (d : Desc) : Int := sint 32 (fld d.w1 32 32)
def Desc.handle (d : Desc) : Nat := fld d.w1 0 32
def Desc.spkind (d : Desc) : Nat := fld d.w2 57 2
def Desc.sp (d : Desc) : Nat := fld d.w2 32 25
def Desc.ringNo (d : Desc) : Nat := fld d.w2 32 4
def Desc.spread (d : Desc) : Nat := fld d.w2 26 2
def Desc.bytes (d : Desc) : Nat := fld d.w2 16 10
def Desc.rows (d : Desc) : Nat := fld d.w2 0 16
def Desc.last (d : Desc) : Bool := bitOf d.w3 17
def Desc.tileEnd (d : Desc) : Bool := bitOf d.w3 16
def Desc.policy (d : Desc) : Nat := fld d.w3 8 2
def Desc.prioEn (d : Desc) : Bool := bitOf d.w3 7
def Desc.prio (d : Desc) : Nat := fld d.w3 4 3
def Desc.tag (d : Desc) : Nat := fld d.w3 0 3

/-- The descriptor with another row count. -/
def Desc.withRows (d : Desc) (n : Nat) : Desc := { d with w2 := w64 (d.w2.toNat / 2 ^ 16 * 2 ^ 16 + n % 2 ^ 16) }

/-! ### Rows and requests of a block -/

def Block.rows (b : Block) : Nat := b.desc.rows
def Block.isPut (b : Block) : Bool := b.desc.spkind == 2
def Block.contig (b : Block) : Bool := decide (b.desc.stride = (b.desc.bytes : Int))
/-- Memory address of row `i`. -/
def Block.rowAddr (b : Block) (i : Nat) : Nat := ((b.mem : Int) + (i : Int) * b.desc.stride).toNat
/-- Scratchpad address of row `i` of a scratchpad-address block (R131). -/
def Desc.rowSp (d : Desc) (i : Nat) : Nat := d.sp + i % 2 ^ d.spread * 0x80000 + i / 2 ^ d.spread * 512

/-- Requests, cut at granules, that carry bytes of row `i` (R140): byte ranges. -/
def Block.requests (b : Block) (i : Nat) : List (Nat × Nat) :=
  let a := b.rowAddr i
  let z := a + b.desc.bytes
  let run := if b.contig then (b.mem, b.mem + b.rows * b.desc.bytes) else (a, z)
  (List.range (if z = 0 then 0 else (z - 1) / 2 ^ 21 + 1 - a / 2 ^ 21)).map (fun j =>
    let g := a / 2 ^ 21 + j
    (max run.1 (g * 2 ^ 21), min run.2 ((g + 1) * 2 ^ 21)))

/-- Rows that receive bytes of a request. -/
def Block.rowsOf (b : Block) (r : Nat × Nat) : Nat :=
  if b.contig then (if b.desc.bytes = 0 then 0 else (r.2 - 1 - b.mem) / b.desc.bytes + 1 - (r.1 - b.mem) / b.desc.bytes) else 1

/-- Whether row `i` is the first that receives bytes of a request. -/
def Block.firstOf (b : Block) (i : Nat) (r : Nat × Nat) : Bool := !b.contig || decide (b.rowAddr i ≤ r.1)

/-- Whether a piece that covers bytes of row `i` waits for a slot. -/
def Block.rowWaits (b : Block) (i : Nat) : Bool :=
  b.pieces.any (fun p => decide (p.lo < b.rowAddr i + b.desc.bytes) && decide (b.rowAddr i < p.hi))

/-- Whether row `i` of an OUT block has been taken from the scratchpad or the put queue. -/
def Block.taken (b : Block) (i : Nat) : Bool := decide (i < b.moved) || b.outRows.any (fun r => r.1 == i)

/-- Whether every row that a piece of an OUT block covers has been taken: before that it is no request. -/
def Block.pieceReady (b : Block) (p : Piece) : Bool :=
  if b.contig then
    let lo := (p.lo - b.mem) / b.desc.bytes
    let hi := (p.hi - 1 - b.mem) / b.desc.bytes
    (List.range (hi + 1 - lo)).all (fun j => b.taken (lo + j))
  else b.taken p.row

/-! ### Put queue and DTEND -/

/-- Rows of the put queue that a block takes, oldest first. -/
def Block.takePuts (b : Block) (q : List PutRow) : Block :=
  { b with
    outRows := b.outRows ++ q.mapIdx (fun i r => (b.begun + i, r.bytes, r.poison))
    putIds := b.putIds ++ q.map PutRow.id
    begun := b.begun + q.length }

/-- Every waiting row of the put queue goes to the open put-queue blocks of tile `t`. -/
def fillPuts (t : Nat) (bs : List Block) (q : List PutRow) : List Block × List PutRow :=
  match bs with
  | [] => ([], q)
  | b :: r =>
    if b.isPut && b.tile == t then
      let n := b.rows - b.begun
      let p := fillPuts t r (q.drop n)
      (b.takePuts (q.take n) :: p.1, p.2)
    else
      let p := fillPuts t r q
      (b :: p.1, p.2)

/-- The block cut to the rows that it has taken; the last unit of an encrypted run may now be partial, and costs its request the extra slot of
R270 unless the request's first unit has it or the unit was the last before. -/
def Block.cut (b : Block) : Block :=
  let n := b.begun
  let z := b.mem + b.rows * b.desc.bytes
  let h := b.mem + n * b.desc.bytes
  { b with
    desc := b.desc.withRows n
    pieces := b.pieces.filterMap (fun p =>
      if b.contig then
        (if h ≤ p.lo then none else some { p with hi := min p.hi h })
      else if p.row < n then some p else none)
      ++ (if b.contig && b.enc.isSome && h % 16 != 0 && h / 16 != z / 16 && max b.mem (h / 2 ^ 21 * 2 ^ 21) % 16 == 0
        then [⟨h / 16 * 16, h, 0, true⟩] else []) }

/-- Whether every row of the block has been moved. -/
def Block.over' (b : Block) : Bool := decide (b.rows ≤ b.moved)

/-- Rows of the put queue that ended tiles have received. -/
def Drill.keptRows (x : Drill) : Nat := x.ended.foldl (fun n e => n + e.2) 0

/-- The current tile of an OUT drill: that of the first put-queue block with a row to come, or the first that has blocks to begin and has not
been ended. -/
def Drill.currentTile (x : Drill) : Nat :=
  match x.blocks.find? (fun b => b.isPut && decide (b.begun < b.rows)) with
  | some b => b.tile
  | none => (((List.range (x.ended.length + 1)).map (fun i => x.tile + i)).find? (fun t => !x.ended.any (fun e => e.1 == t))).getD x.tile

/-- DTEND (R139): the rows that the tile has received are kept, those of its blocks still to begin in the put queue, and no other row of it is
written. -/
def Drill.endTile (x : Drill) : Drill :=
  let t := x.currentTile
  let p := fillPuts t x.blocks x.putq
  if x.tilePut == some t || decide (x.keptRows < x.putq.length) then
    { x with
      putq := p.2, tilePut := some t
      ended := if x.tile ≤ t then x.ended ++ [(t, p.2.length - x.keptRows)] else x.ended
      blocks := p.1.map (fun b => if b.tile = t then b.cut else b) }
  else x

/-- Blocks all of whose rows have moved end, and their segment references with them (R132, R137). -/
def State.dropBlocks (s : State) (f : Fur) (k : DrillNo) : State :=
  let x := s.drill f k
  let gone := x.blocks.filter Block.over'
  (s.setDrill f k { x with blocks := x.blocks.filter (fun b => !b.over') }).unrefSegs (gone.filterMap Block.seg)

def State.endTile (s : State) (f : Fur) (k : DrillNo) : State :=
  let x := s.drill f k
  if x.st = .running ∨ x.st = .stopping then (s.setDrill f k x.endTile).dropBlocks f k else s

/-! ### Outstanding blocks (R137), stopping (R133) -/

/-- Whether the drill moves rows now. -/
def Drill.moving (x : Drill) : Bool := x.st == .running || x.st == .stopping

/-- Whether a RECV or RECV_TEE drill, which takes its rows from the relay (R147). -/
def Drill.isRecv (x : Drill) : Bool := decide (2 ≤ x.mode.toNat)

/-- Whether a block has made its first memory request: an IN block of memory as it begins, an OUT block once it has taken the rows of a
piece, a block of the relay never (R137, log 76). -/
def Drill.requested (x : Drill) (b : Block) : Bool :=
  if x.out then
    decide (0 < b.moved) || b.outRows.any (fun r => b.host ||
      (piecesOf (b.rowAddr r.1) (b.rowAddr r.1 + b.desc.bytes) 0).any (fun q =>
        b.pieces.all (fun p => p.extra || !(decide (p.lo < q.hi) && decide (q.lo < p.hi)) || b.pieceReady p)))
  else !x.isRecv

/-- Outstanding blocks: those of the four oldest that have made a request. -/
def Drill.outstanding (x : Drill) : Nat := ((x.blocks.take 4).filter x.requested).length

/-- Whether a block has begun no row and made no request: it ends when its drill stops (R133, log 76). -/
def Drill.untouched (x : Drill) (b : Block) : Bool := (x.out || x.isRecv) && b.begun == 0

/-- A RUNNING drill goes to STOPPING: no new block begins, and a block that is not outstanding and has begun no row ends (R133). -/
def State.beginStop (s : State) (f : Fur) (k : DrillNo) : State :=
  let x := s.drill f k
  if x.st = .running then
    (s.setDrill f k { x with st := .stopping, blocks := x.blocks.filter (fun b => !x.untouched b) }).unrefSegs
      ((x.blocks.filter x.untouched).filterMap Block.seg)
  else s

/-! ### Rows that have moved (R136, R137, R144) -/

/-- One row of the block of descriptor `idx` has moved; the block ends with its last row, and policy STOP then stops the drill. -/
def State.rowMoved (s : State) (f : Fur) (k : DrillNo) (idx : Nat) (poison : Bool) : State :=
  let x := s.drill f k
  let n := b2n poison
  let blocks := mapFirst (fun b => b.idx == idx)
    (fun b => { b with moved := b.moved + 1, poisoned := b.poisoned + n }) x.blocks
  let stop := blocks.any (fun b => b.over' && b.desc.policy == 1 && b.failed != [])
  let s1 := (s.setDrill f k { x with
    blocks := blocks
    listRows := x.listRows + 1, listPois := x.listPois + n
    rows := x.rows + 1, poisoned := x.poisoned + BitVec.ofNat 64 n }).dropBlocks f k
  if stop then s1.beginStop f k else s1

def Block.loc (b : Block) (a : Nat) : Loc := ⟨b.host, a, b.enc, b.since⟩

/-- One row of an OUT block is in memory (R136, R145). DESIGN CHOICE: P2 of event 0x0403 counts the rows of the list before this one (log 98). -/
def State.ackRow (s : State) (f : Fur) (k : DrillNo) (b : Block) (i : Nat) (bytes : List Byte) (poison : Bool) : State :=
  let x := s.drill f k
  let o := s.memWrite (b.loc (b.rowAddr i)) (bytes.take b.desc.bytes) poison (b.seg.getD 0)
  let s1 := if poison && b.host then o.1.offer 0x0403 (srcDrill f k) (at' k.val 28 + b.idx) i x.listRows else o.1
  let s2 := s1.modDrill f k (fun z => { z with
    listPois := z.listPois + b2n (o.2 && !poison)
    blocks := mapFirst (fun c => c.idx == b.idx)
      (fun c => { c with outRows := c.outRows.filter (fun (q : Nat × List Byte × Bool) => q.1 != i), putIds := c.putIds.drop 1 }) z.blocks })
  s2.rowMoved f k b.idx poison

/-- The parts of a row whose slots have been granted are in memory. -/
def State.partRow (s : State) (b : Block) (i : Nat) (bytes : List Byte) (poison : Bool) : State :=
  let a := b.rowAddr i
  (piecesOf a (a + b.desc.bytes) 0).foldl (fun s p =>
    if b.pieces.any (fun q => decide (q.lo < p.hi) && decide (p.lo < q.hi)) then s
    else (s.memWrite (b.loc p.lo) ((bytes.drop (p.lo - a)).take (p.hi - p.lo)) poison (b.seg.getD 0)).1) s

/-- The requests of an OUT drill that have been granted complete, before the drill is dropped (R327 step 2, R328 step 2). -/
def State.flushDrill (s : State) (f : Fur) (k : DrillNo) : State :=
  let x := s.drill f k
  if x.out then
    ((x.blocks.take 4).flatMap (fun b => b.outRows.map (fun q => (b, q)))).foldl (fun s (p : Block × Nat × List Byte × Bool) =>
      if p.1.rowWaits p.2.1 then s.partRow p.1 p.2.1 p.2.2.1 p.2.2.2 else s.ackRow f k p.1 p.2.1 p.2.2.1 p.2.2.2) s
  else s

/-! ### Signals that wait for put rows (R285, R288) -/

/-- Whether memory has acknowledged a put row of furrow `g` and every earlier one of its domain. DESIGN CHOICE: a row that has been dropped without an
acknowledgement, its drill stopped or its list ended, holds nothing back any more (R285, log 105). -/
def State.putDone (s : State) (g : Fur) (id : Nat) : Bool :=
  let far := fun (n : Nat) => n % 2 != id % 2 || decide (id < n)
  (s.fur g).drills.toList.all (fun k => k.putq.all (fun r => far r.id) && k.blocks.all (fun b => b.putIds.all far))

/-- Whether a change may leave its furrow. -/
def State.hasLeft (s : State) (c : Change) : Bool :=
  match c.after with | none => true | some id => s.putDone (furOf (c.src / 2)) id

/-- The changes to counters of furrow `f` that leave their furrows now. -/
def State.leaveChanges (s : State) (f : Fur) : State :=
  if (s.fur f).changes = [] then s
  else s.modFur f (fun x => { x with
    changes := x.changes.map (fun c => if c.left.isNone && s.hasLeft c then { c with left := some s.time } else c) })

end Sys2Proof.Machine
end

