-- ==== Sys2Proof/Machine/Faults.lean ====
section
/-! DEFINITION. Raising a fault: recovery domains, windows, escalation, and the first step of an L2, L3 or L4 (R320 to R331); and when a
host write reaches its register (R388, R392). -/

namespace Sys2Proof.Machine

/-- Recovery domain of an L1 fault of freeze domain `d` (R323). -/
def State.recDom (s : State) (f : Fur) (d : Dom) : RecDomain :=
  if (s.fur f).split then .half f d else .half f 0

def State.openRec (s : State) (r : RecDomain) : Option Recov := s.dc.recovs.find? (fun x => x.dom == r)
def State.dropRec (s : State) (r : RecDomain) : State :=
  { s with dc := { s.dc with recovs := s.dc.recovs.filter (fun x => x.dom != r) } }
def State.addRec (s : State) (x : Recov) : State := { s with dc := { s.dc with recovs := s.dc.recovs ++ [x] } }

/-- L2 recoveries in progress (R326). -/
def State.l2Running (s : State) : Nat := (s.dc.recovs.filter (fun x => x.level == 2 && x.phase != 2)).length

/-- Whether an L3 or L4 has stopped the block (R328 step 1, R329). -/
def State.stopped (s : State) : Bool := s.dc.l3 || s.dc.l4 || s.dc.recovs.any (fun x => decide (4 ≤ x.level))

def scopeCode (x : Scope) : Nat := match x with | .furrow => 0 | .half0 => 1 | .half1 => 2 | .block => 3

/-- Scope of an L2 in a recovery domain (R323). -/
def State.scopeOf (s : State) (r : RecDomain) : Scope × Nat :=
  match r with
  | .half f d => (if (s.fur f).split then (if d = 0 then .half0 else .half1) else .furrow, f.val)
  | .furrow f => (.furrow, f.val)
  | .block => (.block, 0)

def scopeDoms (x : Scope) : List Dom := match x with | .furrow => [0, 1] | .half0 => [0] | .half1 => [1] | .block => [0, 1]

/-- The scope's domains enter RESET: no further beat of the scope retires (R327 step 1). -/
def Furrow.stopDoms (x : Furrow) (ds : List Dom) : Furrow :=
  ds.foldl (fun y d =>
    if (y.dom d).st = .unused then y else y.setDom d { y.dom d with st := .reset, causes := 0, frozenSince := none }) x

/-- DC_LAST and the recovery counts and sticky bits of a recovery of level 2 or above (R331, R336). -/
def State.noteRecovery (s : State) (level code : Nat) (scope : Scope) (fur : Nat) (esc req : Bool) : State :=
  let st0 := if level = 2 then setBit s.dc.sticky (48 + fur) true
    else if level = 3 then setBit s.dc.sticky 33 true else s.dc.sticky
  let last := at' code 48 + (if level = 2 then at' fur 36 else 0) + at' (scopeCode scope) 34 + at' (b2n esc) 33
    + at' (b2n req) 32 + level
  { s with dc := { s.dc with
      sticky := if esc then setBit st0 37 true else st0
      recovL2 := if level = 2 then satInc s.dc.recovL2 else s.dc.recovL2
      recovL3 := if level = 3 then satInc s.dc.recovL3 else s.dc.recovL3
      last := w64 last
      lastTime := s.time
      faultN := match s.dc.faultN with | some t => some t | none => some s.time } }

/-- LEVEL byte of a fault record (R333). -/
def levByte (level : Nat) (esc req : Bool) : Nat := level + 8 * b2n esc + 16 * b2n req

/-- The parameters of a fault. -/
structure FaultInfo where
  code : Nat
  source : W16
  p0 : Nat
  p1 : Nat
  p2 : Nat
  deriving DecidableEq, Repr

/-- Detection of an L4: the block stops, its domains too, and no L2 or L3 is in progress any more; the record is written, FAULT_N is asserted;
L4_ENTRY does the rest (R329, R336). -/
def State.startL4 (s : State) (i : FaultInfo) (esc req : Bool) : State :=
  let s1 := s.faultRecord i.code i.source i.p0 i.p1 i.p2 (levByte 4 esc req)
  let s2 := (s1.noteRecovery 4 i.code .block 0 esc req).dropRec .block
  let s3 := s2.addRec ⟨.block, 4, BitVec.ofNat 16 i.code, i.source, .block, 0, 0, 0, s.time, 0, false⟩
  { s3 with
    furs := s3.furs.map (fun x => x.stopDoms [0, 1])
    dc := { s3.dc with
      ready := false, l3 := false
      recovs := s3.dc.recovs.filter (fun x => !(x.level == 2 && x.phase != 2)) } }

/-- Detection of an L3 (R328 step 1): it absorbs every L2 in progress, and is a recovery of B; with B's window open it is an L4 (R323,
R325, R326). -/
def State.startL3 (s : State) (i : FaultInfo) (esc conc req : Bool) : State :=
  match s.openRec .block with
  | some _ => s.startL4 i true req
  | none =>
    let s1 := s.faultRecord i.code i.source i.p0 i.p1 i.p2 (levByte 3 (esc || conc) req)
    let s2 := s1.noteRecovery 3 i.code .block 0 esc req
    { s2 with
      furs := s2.furs.map (fun x => x.stopDoms [0, 1])
      dc := { s2.dc with
        ready := false, l3 := true
        sticky := if conc then setBit s2.dc.sticky 32 true else s2.dc.sticky
        recovs := s2.dc.recovs.filter (fun x => !(x.level == 2 && x.phase != 2)) ++
          [⟨.block, 3, BitVec.ofNat 16 i.code, i.source, .block, 0, 0, 0, s.time, 0, false⟩] } }

/-- Detection of an L2 (R327 step 1); a third at once starts an L3 instead, unless DEBUG_ENABLE asked for it (R326). -/
def State.startL2 (s : State) (r : RecDomain) (i : FaultInfo) (esc req byDebug : Bool) : State :=
  if 2 ≤ s.l2Running && !byDebug then (s.dropRec r).startL3 i esc true req
  else
    let sc := s.scopeOf r
    let s1 := s.faultRecord i.code i.source i.p0 i.p1 i.p2 (levByte 2 esc req)
    let s2 := ((s1.noteRecovery 2 i.code sc.1 sc.2 esc req).dropRec r).addRec
      ⟨r, 2, BitVec.ofNat 16 i.code, i.source, sc.1, sc.2, 0, 0, s.time, 0, byDebug⟩
    s2.modFur (furOf sc.2) (fun x => x.stopDoms (scopeDoms sc.1))

/-- A fault of level L1 to L3 of a recovery domain: with a window of the domain open it escalates (R325). `master` names the frozen
master of an L1. -/
def State.raise (s : State) (level : Nat) (r : RecDomain) (i : FaultInfo) (master : Nat) : State :=
  match s.openRec r with
  | some o =>
    let lv := max level o.level + 1
    if lv = 2 then s.startL2 r i true false false
    else if lv = 3 then (s.dropRec r).startL3 i true false false
    else s.startL4 i true false
  | none =>
    if level = 1 then
      (s.faultRecord i.code i.source i.p0 i.p1 i.p2 (levByte 1 false false)).addRec
        ⟨r, 1, BitVec.ofNat 16 i.code, i.source, (s.scopeOf r).1, (s.scopeOf r).2, master, 0, s.time, 0, false⟩
    else if level = 2 then s.startL2 r i false false false
    else s.startL3 i false false false

def masterDom (f : Fur) (d : Dom) : Nat := 2 * f.val + d.val
def masterDrill (f : Fur) (k : DrillNo) : Nat := 32 + 8 * f.val + k.val

/-- The L1 recovery of a master completes at its thaw (R324). -/
def State.masterThawed (s : State) (master : Nat) : State :=
  { s with dc := { s.dc with recovs := s.dc.recovs.map (fun x =>
      if x.level == 1 && x.phase == 0 && x.master == master then { x with phase := 2, finished := s.time } else x) } }

/-- P0 of the schedule's events: routine [31:24], word address [17:0] (R53). -/
def posWord (rid addr : Nat) : Nat := at' (rid % 256) 24 + addr % 2 ^ 18

/-- The domain freezes as an L1 fault: FAULTED, the beat not retired; the fault is raised in its recovery domain (R272, R321). -/
def State.freezeDomain (s : State) (f : Fur) (d : Dom) (i : FaultInfo) : State :=
  (s.modDom f d (fun x => { x with st := .faulted, causes := 0, frozenSince := none })).raise 1 (s.recDom f d) i (masterDom f d)

/-- LEVEL byte of the records of an L1 fault of recovery domain `r`: with a window open they carry the level that R325 gives, and ESC; an L3 that
finds the window of B open is an L4 (R323). -/
def State.faultLevel (s : State) (r : RecDomain) : Nat :=
  match s.openRec r with
  | none => levByte 1 false false
  | some o =>
    let lv := max 1 o.level + 1
    let up := if lv = 2 && decide (2 ≤ s.l2Running) then 3 else lv
    levByte (if up = 3 && (s.openRec .block).isSome then 4 else up) true false

/-- Whether an L4 has been detected: the block does nothing further, and its registers can only be read (R329). -/
def State.dead (s : State) : Bool := s.dc.l4 || s.dc.recovs.any (fun x => x.level == 4)

/-- Whether an L2 in progress covers domain `d` of furrow `f` (R327). -/
def State.underL2 (s : State) (f : Fur) (d : Dom) : Bool :=
  s.dc.recovs.any (fun r => r.level == 2 && r.phase != 2 && r.scope != .block && r.fur == f.val && (scopeDoms r.scope).contains d)

/-- Whether a recovery of the block was reached from a fault of domain `d`, of its drills or of its mortar units (R323). -/
def State.risenFrom (s : State) (f : Fur) (d : Dom) (r : Recov) : Bool :=
  let split := (s.fur f).split
  let i := r.source.toNat % 4096
  let own := match r.source.toNat / 4096 with
    | 1 => decide (i = 2 * f.val + (if split then d.val else 0)) && r.code != 0x0106 && r.code != 0x0108
    | 2 => decide (i / 8 = f.val) && (!split || decide (i % 8 / 4 = d.val))
    | 3 => decide (i / 4 = f.val) && (!split || decide (i % 4 / 2 = d.val))
    | _ => false
  r.dom == .block && own

/-- The recovery that domain `d`'s own faults have started now: of its recovery domain, or of the block where they have escalated to it (R323, R325). -/
def State.ownStop (s : State) (f : Fur) (d : Dom) : Option Recov :=
  s.dc.recovs.find? (fun r => (r.dom == s.recDom f d || s.risenFrom f d r) && r.detect == s.time)

/-- Whether a fault of domain `d` itself has been detected now: a further one of the same tick is the same fault (R325). -/
def State.stoppedNow (s : State) (f : Fur) (d : Dom) : Bool := (s.ownStop f d).isSome

/-- Level of the record of a further error of the tick on which a fault of domain `d` has been detected: that of the first (R325). -/
def State.sameTickLevel (s : State) (f : Fur) (d : Dom) : Nat :=
  match s.ownStop f d with
  | some r => levByte r.level (decide (2 ≤ r.level) && r.code != 0x0512) false
  | none => levByte 1 false false

/-- Whether a recovery of the block or of the whole furrow has stopped domain `d` now, and none of its own has (R323, R325). -/
def State.stoppedBeside (s : State) (f : Fur) (d : Dom) : Bool :=
  (s.dom f d).st == .reset && !s.stoppedNow f d &&
    s.dc.recovs.any (fun r => (r.dom == .block || r.dom == .furrow f) && decide (2 ≤ r.level) && r.detect == s.time)

/-- A fault of domain `d` beside the recovery that has stopped it on the same tick: it is of another recovery domain, and starts its own (R325); an
L2 that it escalates to is absorbed by an L3 in progress (R326). -/
def State.faultBeside (s : State) (f : Fur) (d : Dom) (i : FaultInfo) : State :=
  let t := s.raise 1 (s.recDom f d) i (masterDom f d)
  if t.dc.l3 then { t with dc := { t.dc with recovs := t.dc.recovs.filter (fun x => !(x.level == 2 && x.phase != 2)) } } else t

/-- FT_BRICKS.ACTIVE of furrow `f` after its pairs in service change (R23, R175). -/
def State.showActive (s : State) (f : Fur) : State :=
  let built := s.build.bricksOf f.val
  let x := (s.fur f).inService
  let n := b2n (bitOf x 0 && decide (2 ≤ built)) + b2n (bitOf x 1 && decide (4 ≤ built))
  { s with active := BitVec.ofNat 32 (s.active.toNat - at' (nfld s.active.toNat (2 * f.val) 2) (2 * f.val) + at' n (2 * f.val)) }

/-- A pair in service or out of it; one that a split furrow loses is lost to its half until the join (R50, R175). -/
def Furrow.setPair (x : Furrow) (pair : Nat) (on : Bool) : Furrow :=
  { x with
    inService := setBit x.inService pair on
    halfLost := if x.split && bitOf x.inService pair && !on then setBit x.halfLost pair true else x.halfLost }

/-- Whether the loss of the pair freezes domain `d` of furrow `f`: of a split furrow the half that owned the pair, OFFLINE in a BRICK_TEST or
MARGIN too, unless it is frozen or in reset (R50, log 72); of an unsplit one a domain that runs, or has called from, a routine compiled for four bricks, or
whose course uses four (R175). -/
def State.needsPair (s : State) (f : Fur) (pair : Nat) (d : Dom) : Bool :=
  let x := s.fur f
  let y := x.dom d
  if x.split then d.val == pair && (y.st == .running || y.st == .idle || y.st == .starting || y.st == .draining || y.st == .offline)
  else y.st == .running && (y.bricks == 4 || y.stack.any (fun c => c.bricks == 4) ||
    (match y.course with | some c => c.nb == 4 | none => false))

/-- Whether the loss of a pair has stopped domain `d` on this tick: its other pair's loss counts as the same fault (R325). -/
def State.pairStopped (s : State) (f : Fur) (d : Dom) : Bool :=
  (s.dom f d).pairLost && s.stoppedNow f d

/-- A brick and its pair partner are disabled (R174): fault 0x0301 at level 1, whether or not a domain freezes. A RUNNING domain freezes at
its next beat boundary, any other at once. A pair that is already disabled records nothing; the second pair that a domain loses on one tick
only writes its record (R325). -/
def State.disablePair (s : State) (f : Fur) (brick cause : Nat) : State :=
  let pair := brick / 2
  if !bitOf (s.fur f).inService pair then s
  else
    let hit := (if s.needsPair f pair 0 then [(0 : Dom)] else []) ++ (if s.needsPair f pair 1 then [(1 : Dom)] else [])
    let s1 := (s.modFur f (fun x => x.setPair pair false)).showActive f
    let i : FaultInfo := ⟨0x0301, srcDom f (if (s.fur f).split then domOf pair else 0), at' f.val 24 + brick, pair, cause⟩
    let whole : Dom := if (s.fur f).split then domOf pair else 0
    if s.pairStopped f whole then s1.faultRecord i.code i.source i.p0 i.p1 i.p2 (s.sameTickLevel f whole)
    else match hit with
    | d :: _ =>
      if (s1.dom f d).st = .running then
        (s1.modDom f d (fun x => { x with pairLost := true })).raise 1 (s1.recDom f d) i (masterDom f d)
      else s1.freezeDomain f d i
    | [] => s1.faultRecord i.code i.source i.p0 i.p1 i.p2 (levByte 1 false false)

/-! ### Host accesses -/

/-- A host write of `bytes` bytes at `off`: discarded in block reset (R388) and at L4, discarded with event 0x0506 before READY (R392). -/
def State.hostWrite (s : State) (off bytes : Nat) (body : State → State) : State :=
  if s.release ≠ 3 || s.dead then s
  else if !s.dc.started then s.offer 0x0506 srcBlock off bytes 1
  else body s

/-- Offset of register `r` of furrow `f`'s block (R237). -/
def furOff (f : Fur) (r : Nat) : Nat := 0x1000000 + 0x100000 * f.val + r

/-- A host write to a furrow's block: the registers of a furrow that is not built ignore it. -/
def State.furrowWrite (s : State) (f : Fur) (r : Nat) (body : State → State) : State :=
  s.hostWrite (furOff f r) 8 (fun s => if f.val < s.build.furrows then body s else s)

end Sys2Proof.Machine
end

