-- ==== Sys2Proof/Machine/Num.lean ====
section
/-! DEFINITION. Exact numbers, the element formats of R176, rounding (R190), and the exception flags of R218. -/

namespace Sys2Proof.Machine

/-- A decoded value: (−1)^neg × m × 2^e when finite. -/
inductive Num where
  | nan
  | inf (neg : Bool)
  | fin (neg : Bool) (m : Nat) (e : Int)
  deriving DecidableEq, Repr

def Num.isNan (x : Num) : Bool := match x with | .nan => true | _ => false
def Num.isZero (x : Num) : Bool := match x with | .fin _ m _ => m == 0 | _ => false
def Num.isNeg (x : Num) : Bool := match x with | .nan => false | .inf n => n | .fin n _ _ => n
def Num.negate (x : Num) : Num := match x with | .nan => .nan | .inf n => .inf (!n) | .fin n m e => .fin (!n) m e

/-- Value scaled by a power of two. -/
def Num.scale (x : Num) (k : Int) : Num := match x with | .fin n m e => .fin n m (e + k) | y => y

/-- floor(log2 |x|) of a nonzero finite value. -/
def numLog2 (m : Nat) (e : Int) : Int := (Nat.log2 m : Int) + e

/-- Special codes of a format (R176): IEEE infinities and NaN, E4M3's single NaN, or none. -/
inductive Specials where
  | ieee | e4m3 | none
  deriving DecidableEq, Repr

/-- A floating-point format: exponent and fraction widths, bias, special codes, canonical NaN (R176). -/
structure Fp where
  ew : Nat
  fw : Nat
  bias : Nat
  sp : Specials
  nan : Nat
  deriving DecidableEq, Repr

def fp32 : Fp := ⟨8, 23, 127, .ieee, 0x7FC00000⟩
def bf16 : Fp := ⟨8, 7, 127, .ieee, 0x7FC0⟩
def fp16 : Fp := ⟨5, 10, 15, .ieee, 0x7E00⟩
def e5m2 : Fp := ⟨5, 2, 15, .ieee, 0x7E⟩
def e4m3 : Fp := ⟨4, 3, 7, .e4m3, 0x7F⟩
def e3m2 : Fp := ⟨3, 2, 3, .none, 0⟩
def e2m3 : Fp := ⟨2, 3, 1, .none, 0⟩
def e2m1 : Fp := ⟨2, 1, 1, .none, 0⟩

def Fp.width (p : Fp) : Nat := 1 + p.ew + p.fw

/-- Exponent of the smallest normal number. -/
def Fp.emin (p : Fp) : Int := 1 - (p.bias : Int)

def Fp.signBit (p : Fp) (neg : Bool) : Nat := if neg then 2 ^ (p.ew + p.fw) else 0

/-- Code of the largest finite magnitude (R176). -/
def Fp.maxCode (p : Fp) : Nat :=
  match p.sp with
  | .ieee => (2 ^ p.ew - 1) * 2 ^ p.fw - 1
  | .e4m3 => 2 ^ (p.ew + p.fw) - 2
  | .none => 2 ^ (p.ew + p.fw) - 1

/-- Code of infinity, where the format has one. -/
def Fp.infCode (p : Fp) : Nat := (2 ^ p.ew - 1) * 2 ^ p.fw

/-- A code of the format, decoded. -/
def Fp.decode (p : Fp) (bits : Nat) : Num :=
  let neg := decide (bits / 2 ^ (p.ew + p.fw) % 2 = 1)
  let ex := nfld bits p.fw p.ew
  let fr := nfld bits 0 p.fw
  if p.sp = .ieee ∧ ex = 2 ^ p.ew - 1 then (if fr = 0 then .inf neg else .nan)
  else if p.sp = .e4m3 ∧ ex = 2 ^ p.ew - 1 ∧ fr = 2 ^ p.fw - 1 then .nan
  else if ex = 0 then .fin neg fr (p.emin - p.fw)
  else .fin neg (2 ^ p.fw + fr) ((ex : Int) - p.bias - p.fw)

/-- Whether a code is subnormal in the format. -/
def Fp.subnormal (p : Fp) (bits : Nat) : Bool := nfld bits p.fw p.ew == 0 && nfld bits 0 p.fw != 0

/-- Decoding with FLUSH: a subnormal is taken as a zero of its sign (R185). -/
def Fp.decodeF (p : Fp) (flush : Bool) (bits : Nat) : Num :=
  if flush && p.subnormal bits then .fin (decide (bits / 2 ^ (p.ew + p.fw) % 2 = 1)) 0 0 else p.decode bits

/-- A rounding rule (R190, R195). -/
inductive Rnd where
  | rne | rz | rdn | rup
  | sr (r : Nat)
  deriving DecidableEq, Repr

/-- The rule that RM codes (R190). -/
def Rnd.ofRM (rm : Nat) : Rnd := match rm with | 0 => .rne | 1 => .rz | 2 => .rdn | _ => .rup

/-- Whether the magnitude lo + rem / 2^sh rounds away from zero. -/
def Rnd.up (r : Rnd) (neg : Bool) (lo rem sh : Nat) : Bool :=
  match r with
  | .rne => decide (2 ^ sh < 2 * rem) || (decide (2 ^ sh = 2 * rem) && decide (lo % 2 = 1))
  | .rz => false
  | .rdn => neg && rem != 0
  | .rup => !neg && rem != 0
  | .sr d => decide (d < rem * 65536 / 2 ^ sh)

/-- m × 2^e rounded to a multiple of 2^q, as (multiplier, q), where q is e when nothing is lost. -/
def roundAt (r : Rnd) (neg : Bool) (m : Nat) (e q : Int) : Nat × Int :=
  if q ≤ e then (m * 2 ^ (e - q).toNat, q)
  else
    let sh := (q - e).toNat
    let lo := m / 2 ^ sh
    (if r.up neg lo (m % 2 ^ sh) sh then lo + 1 else lo, q)

/-- m × 2^e rounded to the precision of the format, with no upper bound on the exponent (R191). -/
def Fp.round (p : Fp) (r : Rnd) (neg : Bool) (m : Nat) (e : Int) : Nat × Int :=
  if m = 0 then (0, p.emin - p.fw)
  else roundAt r neg m e (max (numLog2 m e - p.fw) (p.emin - p.fw))

/-- Code of the magnitude k × 2^q that `Fp.round` gives, or none when it lies above the largest finite value. -/
def Fp.encode (p : Fp) (k : Nat) (q : Int) : Option Nat :=
  let k' := if k = 2 ^ (p.fw + 1) then 2 ^ p.fw else k
  let q' := if k = 2 ^ (p.fw + 1) then q + 1 else q
  let code := if k' < 2 ^ p.fw then k' else (q' + p.fw + p.bias).toNat * 2 ^ p.fw + (k' - 2 ^ p.fw)
  if code ≤ p.maxCode then some code else none

/-- Exception flags in HA_STICKY order: INVALID, OVERFLOW, FLUSHED, CLAMPED, SCALENAN (R218). -/
abbrev Raised := BitVec 5
def fInvalid : Raised := 1
def fOverflow : Raised := 2
def fFlushed : Raised := 4
def fClamped : Raised := 8
def fScaleNan : Raised := 16

/-- A code with the flags that producing it raised. -/
structure Val where
  bits : Nat
  fl : Raised
  deriving DecidableEq, Repr

/-- Whether a finite overflow stays at the largest finite value: by SAT, or by a rounding mode toward it (R191). -/
def heldAtMax (r : Rnd) (neg sat : Bool) : Bool :=
  sat || (match r with | .rz => true | .rdn => !neg | .rup => neg | _ => false)

/-- A finite exact value rounded into an IEEE format: R184, R185, R210. `zneg` is the sign of an exact zero. -/
def Fp.finish (p : Fp) (r : Rnd) (sat flush : Bool) (neg : Bool) (m : Nat) (e : Int) : Val :=
  let kq := p.round r neg m e
  match p.encode kq.1 kq.2 with
  | none => if heldAtMax r neg sat then ⟨p.signBit neg + p.maxCode, fOverflow⟩ else ⟨p.signBit neg + p.infCode, fOverflow⟩
  | some c =>
    if flush && decide (c ≠ 0) && decide (c < 2 ^ p.fw) then ⟨p.signBit neg, fFlushed⟩ else ⟨p.signBit neg + c, 0⟩

/-- An exact result written in an IEEE format. -/
def Fp.write (p : Fp) (r : Rnd) (sat flush : Bool) (x : Num) : Val :=
  match x with
  | .nan => ⟨p.nan, 0⟩
  | .inf neg => ⟨p.signBit neg + p.infCode, 0⟩
  | .fin neg m e => p.finish r sat flush neg m e

/-- Exact product; an infinity times zero is NaN (R183). -/
def mulNum (a b : Num) : Num :=
  match a, b with
  | .nan, _ => .nan
  | _, .nan => .nan
  | .inf n, .inf n' => .inf (n != n')
  | .inf n, .fin n' m _ => if m = 0 then .nan else .inf (n != n')
  | .fin n m _, .inf n' => if m = 0 then .nan else .inf (n != n')
  | .fin n m e, .fin n' m' e' => .fin (n != n') (m * m') (e + e')

/-- Exact sum; `rdn` gives the sign of the zero sum of unlike addends (R186, R210). -/
def addNum (rdn : Bool) (a b : Num) : Num :=
  match a, b with
  | .nan, _ => .nan
  | _, .nan => .nan
  | .inf n, .inf n' => if n = n' then .inf n else .nan
  | .inf n, .fin _ _ _ => .inf n
  | .fin _ _ _, .inf n' => .inf n'
  | .fin n m e, .fin n' m' e' =>
    let q := min e e'
    let x : Int := (if n then -1 else 1) * ((m * 2 ^ (e - q).toNat : Nat) : Int)
    let y : Int := (if n' then -1 else 1) * ((m' * 2 ^ (e' - q).toNat : Nat) : Int)
    if x + y = 0 then .fin (if n = n' then n else rdn) 0 0
    else .fin (decide (x + y < 0)) (x + y).natAbs q

/-- INVALID: a NaN from operands that hold none. -/
def invalidOf (x : Num) (ops : List Num) : Raised := if x.isNan && !(ops.any Num.isNan) then fInvalid else 0

/-- FLUSHED of the operands: some code is subnormal and FLUSH is set. -/
def flushedOf (p : Fp) (flush : Bool) (codes : List Nat) : Raised :=
  if flush && codes.any p.subnormal then fFlushed else 0

/-- Order of two non-NaN values with −0.0 below +0.0 as `lt` for FMIN and FMAX (R211). -/
def numLt (a b : Num) : Bool :=
  match a, b with
  | .inf n, .inf n' => n && !n'
  | .inf n, .fin _ _ _ => n
  | .fin _ _ _, .inf n' => !n'
  | .fin n m e, .fin n' m' e' =>
    let q := min e e'
    let x : Int := (if n then -1 else 1) * ((m * 2 ^ (e - q).toNat : Nat) : Int)
    let y : Int := (if n' then -1 else 1) * ((m' * 2 ^ (e' - q).toNat : Nat) : Int)
    decide (x < y)
  | _, _ => false

/-- The element formats by code of R157: width in bits and decoding with FLUSH. An MXFP8 E5M2 source has the infinities of R176 (R183, log 31). -/
def fmtFp (c : Nat) : Option Fp :=
  match c with
  | 0 => some e4m3 | 1 => some e5m2 | 2 => some e4m3 | 3 => some e5m2 | 6 => some e3m2 | 7 => some e2m3 | 8 => some e2m1
  | 10 => some bf16 | 11 => some fp16 | _ => none

def fmtWidth (c : Nat) : Nat :=
  match c with
  | 0 => 8 | 1 => 8 | 2 => 8 | 3 => 8 | 4 => 8 | 5 => 8 | 6 => 6 | 7 => 6 | 8 => 4 | 9 => 4 | 10 => 16 | 11 => 16 | _ => 0

/-- Whether the code names an MX format (R157). -/
def fmtMx (c : Nat) : Bool := c == 2 || c == 3 || c == 4 || c == 6 || c == 7 || c == 8

/-- A signed integer as an exact value; −0 does not arise. -/
def numOfInt (x : Int) (e : Int) : Num := .fin (decide (x < 0)) x.natAbs e

/-- An element, decoded: the floating formats under FLUSH, INT8 and INT4, and MXINT8 as X × 2^−6 (R176, R182, R185). -/
def elemNum (c : Nat) (flush : Bool) (raw : Nat) : Num :=
  match fmtFp c with
  | some p => p.decodeF flush raw
  | none => if c = 4 then numOfInt (sint 8 raw) (-6) else if c = 5 then numOfInt (sint 8 raw) 0 else numOfInt (sint 4 raw) 0

/-- Whether FLUSH takes the element as zero. -/
def elemSubnormal (c : Nat) (raw : Nat) : Bool := match fmtFp c with | some p => p.subnormal raw | none => false

/-- Whether FT_FORMATS lists the format of code `c` (bits of FT_FORMATS: R24 table). -/
def fmtPresent (ft : BitVec 10) (c : Nat) : Bool :=
  match c with
  | 0 => bitOf ft 0 | 1 => bitOf ft 1 | 2 => bitOf ft 2 | 3 => bitOf ft 2 | 4 => bitOf ft 5 | 5 => bitOf ft 6
  | 6 => bitOf ft 3 | 7 => bitOf ft 3 | 8 => bitOf ft 4 | 9 => bitOf ft 7 | 10 => bitOf ft 8 | 11 => bitOf ft 9
  | _ => false

end Sys2Proof.Machine
end

