-- ==== Sys2Proof/Machine/Chunk.lean ====
section
/-! DEFINITION. Products and chunk sums of the bricks (R178 to R189), and the classes and layouts of operands (R156 to R158). -/

namespace Sys2Proof.Machine

/-- Classes of R156. -/
inductive Klass where
  | b8 | b16 | narrow
  deriving DecidableEq, Repr

def fmtClass (c : Nat) : Klass :=
  match c with
  | 10 => .b16 | 11 => .b16 | 6 => .narrow | 7 => .narrow | 8 => .narrow | 9 => .narrow | _ => .b8

/-- Kc, Nb, G and c of R156; G depends on whether the feed is MXFP6. -/
def Klass.kc (k : Klass) : Nat := match k with | .narrow => 256 | _ => 128
def Klass.nb (k : Klass) : Nat := match k with | .b16 => 256 | _ => 512
def Klass.blocks (k : Klass) : Nat := match k with | .narrow => 8 | _ => 4
/-- Fraction bits F of the window (R179). -/
def Klass.frac (k : Klass) : Nat := match k with | .b16 => 72 | _ => 64
/-- Reduction elements per cell (R163). -/
def Klass.perCell (k : Klass) : Nat := match k with | .narrow => 2 | _ => 1
def feedGroup (fmtA : Nat) : Nat := if fmtWidth fmtA = 16 || fmtWidth fmtA = 6 then 2 else 4

/-- Byte `i` of a row, zero beyond it. -/
def rowByte (bs : List Byte) (i : Nat) : Nat := (bs.getD i 0).toNat

/-- Element `k` of M row `m` in its feed row (R158). -/
def feedElem (fmt : Nat) (row : List Byte) (m k : Nat) : Nat :=
  let base := 512 / feedGroup fmt * (m % feedGroup fmt)
  match fmtWidth fmt with
  | 16 => rowByte row (base + 2 * k) + 256 * rowByte row (base + 2 * k + 1)
  | 6 =>
    let g := base + 3 * (k / 4)
    nfld (rowByte row g + 256 * rowByte row (g + 1) + 65536 * rowByte row (g + 2)) (6 * (k % 4)) 6
  | 4 => nfld (rowByte row (base + k / 2)) (4 * (k % 2)) 4
  | _ => rowByte row (base + k)

/-- Element of column `n` in a per-brick row, 8-bit or 16-bit (R158). -/
def colElem (fmt : Nat) (row : List Byte) (n : Nat) : Nat :=
  if fmtWidth fmt = 16 then rowByte row (2 * n) + 256 * rowByte row (2 * n + 1) else rowByte row n

/-- Element `x` (0 or 1) of column `n` in a standby row (R158). -/
def cellElem (fmt : Nat) (row : List Byte) (x n : Nat) : Nat :=
  if fmtWidth fmt = 4 then nfld (rowByte row (256 * x + n / 2)) (4 * (n % 2)) 4 else colElem fmt row n

/-- A product with its block scales (R182); whether its NaN arose from operands that hold none. -/
structure Prod where
  v : Num
  bad : Bool
  deriving DecidableEq, Repr

/-- The product; an exact zero is +0.0 in every mode (R187 to R189, log 67). -/
def brickProd (fmtA fmtB : Nat) (flush : Bool) (a b sA sB : Nat) : Prod :=
  if sA = 0xFF || sB = 0xFF then ⟨.nan, false⟩
  else
    let x := elemNum fmtA flush a
    let y := elemNum fmtB flush b
    let p := mulNum x y
    ⟨if p.isZero then .fin false 0 0 else p.scale ((sA : Int) + sB - 254), p.isNan && !x.isNan && !y.isNan⟩

/-- emax of R180: the largest floor(log2 |p|) of the nonzero finite products. -/
def chunkMax (ps : List Prod) : Option Int :=
  ps.foldl (fun acc p =>
    match p.v with
    | .fin _ m e => if m = 0 then acc else
        (match acc with | none => some (numLog2 m e) | some k => some (max k (numLog2 m e)))
    | _ => acc) none

/-- sign(p) × floor(|p| × 2^(F − emax)), the magnitude of each product truncated alone (R180). -/
def chunkTerm (f : Nat) (emax : Int) (p : Prod) : Int :=
  match p.v with
  | .fin n m e =>
    let sh := e + f - emax
    let t : Nat := if 0 ≤ sh then m * 2 ^ sh.toNat else m / 2 ^ (-sh).toNat
    if n then -(t : Int) else t
  | _ => 0

/-- Result of a course step: FP32 code, OVERFLOW and INVALID of WR_STICKY. -/
structure CVal where
  bits : Nat
  ovf : Bool
  inv : Bool
  deriving DecidableEq, Repr

def CVal.of (v : Val) : CVal := ⟨v.bits, v.fl &&& fOverflow != 0, v.fl &&& fInvalid != 0⟩

/-- The chunk sum of R180 with R183 to R185. -/
def chunkSum (f : Nat) (sat flush : Bool) (ps : List Prod) : CVal :=
  let pos := ps.any (fun p => p.v == .inf false)
  let neg := ps.any (fun p => p.v == .inf true)
  let nan := ps.any (fun p => p.v.isNan)
  if nan || (pos && neg) then
    ⟨fp32.nan, false, !(ps.any (fun p => p.v.isNan && !p.bad))⟩
  else if pos then ⟨fp32.infCode, false, false⟩
  else if neg then ⟨fp32.signBit true + fp32.infCode, false, false⟩
  else match chunkMax ps with
    | none => ⟨0, false, false⟩
    | some emax =>
      let i := ps.foldl (fun acc p => acc + chunkTerm f emax p) 0
      if i = 0 then ⟨0, false, false⟩
      else CVal.of (fp32.finish .rne sat flush (decide (i < 0)) i.natAbs (emax - f))

/-- One product rounded once to FP32 (R187 first product, R188). -/
def roundProd (sat flush : Bool) (p : Prod) : CVal :=
  let v := fp32.write .rne sat flush p.v
  ⟨v.bits, v.fl &&& fOverflow != 0, p.bad⟩

/-- An OS step: RNE(acc + p), fused (R187). -/
def fuseProd (sat flush : Bool) (acc : Nat) (p : Prod) : CVal :=
  let a := fp32.decodeF flush acc
  let s := addNum false a p.v
  let v := fp32.write .rne sat flush s
  ⟨v.bits, v.fl &&& fOverflow != 0, p.bad || (s.isNan && !a.isNan && !p.v.isNan)⟩

end Sys2Proof.Machine
end

