-- ==== Sys2Proof/Machine/Course.lean ====
section
/-! DEFINITION. The course: tile descriptors and their checks (R159, R160), folding (R161), stream reads (R162, R166), and the results of
each beat (R163 to R173). -/

namespace Sys2Proof.Machine

/-- What a domain sees of its furrow when it attempts a beat. -/
structure Env where
  b : Build
  f : Fur
  d : Dom
  fu : Furrow
  x : Domain
  /-- Furrows owned by the issuing furrow's context (R284). -/
  mine : W16
  time : W64
  /-- Number of free values taken so far (log 2). -/
  free : Nat
  deriving DecidableEq, Repr

/-- Lanes of the domain's view (R46). -/
def Env.h (v : Env) : Nat := if v.fu.split then v.b.lanes / 2 else v.b.lanes

/-- Bricks in service in the domain's course (R153, R175). -/
def Env.act (v : Env) : Nat :=
  let built := v.b.bricksOf v.f.val
  let p0 := bitOf v.fu.inService 0 && decide (2 ≤ built)
  let p1 := bitOf v.fu.inService 1 && decide (4 ≤ built)
  if v.fu.split then (if (if v.d.val = 0 then p0 else p1) then 2 else 0)
  else 2 * b2n p0 + 2 * b2n p1

/-- Physical brick of logical brick `b` (R161, R175). -/
def Env.phys (v : Env) (b : Nat) : Nat :=
  if v.fu.split then 2 * v.d.val + b
  else if bitOf v.fu.inService 0 then b else b + 2

/-- Latency classes of a bank (R101): 0 near, 1 middle, 2 far. -/
def bankClass (bank : Nat) : Nat := if bank < 16 then 0 else if bank < 40 then 1 else 2
def Env.readLat (v : Env) (addr : Nat) : Nat := v.b.latOf (bankClass (addr / 0x80000))
def Env.writeLat (v : Env) (addr : Nat) : Nat := v.b.latOf (4 + bankClass (addr / 0x80000))

/-- Key of a cell row in the furrow's table. -/
def cellKey (brick set row : Nat) : Nat := (brick * 2 + set) * 128 + row
def winKey (brick entry : Nat) : Nat := brick * 1024 + entry
def Furrow.cell (x : Furrow) (brick set row : Nat) : CellRow := tget CellRow.zero x.cells (cellKey brick set row)
def Furrow.went (x : Furrow) (brick entry : Nat) : WEntry := tget WEntry.zero x.windrow (winKey brick entry)
/-- Live set of a physical brick's pair. -/
def Furrow.liveOf (x : Furrow) (brick : Nat) : Nat := b2n (bitOf x.liveSet (brick / 2))

/-- Byte `c` of a cell row read as weights; accumulators written over it leave a free value (log 8). -/
def CellRow.weights (r : CellRow) : List Byte :=
  if r.accs = [] then r.wt
  else (List.range 512).map (fun c => match tget none r.accs c with
    | some a => Config.weightOfAcc a
    | none => r.wt.getD c 0)

/-- Accumulator of column `c` of a cell row; a weight loaded over it leaves a free value (log 8). -/
def CellRow.acc (r : CellRow) (c : Nat) : W32 :=
  match tget none r.accs c with
  | some a => a
  | none => match r.wt[c]? with | none => 0 | some w => Config.accOfWeight 0 w

/-- The tile descriptor as numbers (R159). -/
def tileCourse (v : Env) (op ly fa fb rid addr : Nat) : Course :=
  let l0 := v.x.ly ly
  let l1 := v.x.ly (ly + 1)
  let l2 := v.x.ly (ly + 2)
  let a := v.x.areg fa
  let b := v.x.areg fb
  { op := op, m := fld l0 0 16, n := fld l0 16 16, k := fld l0 32 16, fmtA := fld l0 48 4, fmtB := fld l0 52 4,
    init := fld l0 56 2, autoswap := bitOf l0 58, sat := bitOf l0 59, flush := bitOf l0 60,
    e0 := fld l1 0 10, pstep := fld l1 16 10, bias := fld l1 32 10, row := fld l1 48 7,
    tagA := fld l2 0 3, tagB := fld l2 4 3,
    faBase := fld a 0 25, faStride := sint 32 (fld a 32 32), fbBase := fld b 0 25, fbStride := sint 32 (fld b 32 32),
    nb := min (if v.fu.split then 2 else 4) v.x.bricks, t := 0, cost := 0, rid := rid, addr := addr, feed := ⟨[], false⟩, scales := [] }

def Course.klass (c : Course) : Klass := fmtClass c.fmtA
def Course.nc (c : Course) : Nat := c.nb * c.klass.nb
/-- P and C of R161. -/
def Course.passes (c : Course) : Nat := cdiv c.n c.nc
def Course.chunks (c : Course) : Nat := cdiv c.k c.klass.kc
def Course.mx (c : Course) : Bool := c.op == 0 && (fmtMx c.fmtA || fmtMx c.fmtB)

/-- Whether the output, and the reduction, is empty (R170). -/
def Course.emptyOut (c : Course) : Bool :=
  match c.op with
  | 0 => c.m == 0 || c.n == 0
  | 1 => c.m == 0 || c.k == 0
  | 2 => c.k == 0 || c.n == 0
  | _ => c.m == 0 || c.n == 0
def Course.emptyRed (c : Course) : Bool :=
  match c.op with
  | 0 => c.k == 0
  | 1 => c.n == 0
  | 2 => c.m == 0
  | _ => c.k == 0

/-- Scale rows of a chunk and scale beats S (R166). -/
def Course.rB (c : Course) : Nat := if c.op = 0 && fmtMx c.fmtB then c.nb * c.klass.blocks else 0
def Course.rA (c : Course) : Nat := if c.op = 0 && fmtMx c.fmtA then cdiv (c.m * c.klass.blocks) 512 else 0
def Course.sBeats (b : Build) (c : Course) : Nat := if c.mx then c.rB + c.rA + b.latOf 2 else 0

/-- Feed beats of a chunk Bf (R164), and of an OS tile (R168). -/
def Course.bf (b : Build) (c : Course) : Nat :=
  if c.op = 2 || c.autoswap then max c.m (b.latOf 11) else c.m

/-- Beat cost of the operation (R165, R167, R168, R169, R170). -/
def Course.beatCost (b : Build) (c : Course) : Nat :=
  if c.emptyOut then 0
  else if c.emptyRed then
    match c.op with
    | 1 => c.chunks * c.m
    | 2 => c.passes * c.chunks * b.latOf 11
    | _ => c.passes * c.m
  else
    match c.op with
    | 0 => c.passes * c.chunks * (c.sBeats b + c.bf b)
    | 1 => c.passes * c.chunks * c.bf b
    | 2 => c.passes * c.chunks * c.bf b + b.latOf 9 + b.latOf 11 - 1
    | _ => c.passes * c.m

/-- Whether R157 lets the pair of formats run in the mode. -/
def formatsAllowed (op a b : Nat) : Bool :=
  let fmtOk := decide (a < 12) && decide (b < 12) && b != 6 && b != 7
  let modeOk := op == 0 || (!fmtMx a && !fmtMx b && a != 9 && b != 9)
  let pairOk := decide (fmtClass a = fmtClass b) &&
    (if a = 5 || b = 5 || a = 9 || b = 9 || a = 4 || b = 4 then a == b else true)
  fmtOk && modeOk && pairOk

/-- Whether the entries that the operation writes, and the bias entries, lie within WINDROW_DEPTH. -/
def Course.rangeOk (b : Build) (c : Course) : Bool :=
  if c.emptyOut then true
  else match c.op with
    | 1 => decide (c.e0 + c.m * cdiv c.chunks (4 * c.nb) ≤ b.depth)
    | 2 => decide (c.e0 + c.passes * c.chunks * 128 ≤ b.depth)
    | _ => decide (c.e0 + (c.passes - 1) * c.pstep + c.m ≤ b.depth) &&
        (c.init != 2 || decide (c.bias + c.passes ≤ b.depth))

/-- Checks of a tile operation after the busy check, in R160's order: reason 10, or reason 2 for the tags. -/
def tileFault (v : Env) (op ly fb : Nat) (c : Course) : Option Nat :=
  let l0 := v.x.ly ly
  let l1 := v.x.ly (ly + 1)
  let l2 := v.x.ly (ly + 2)
  let l3 := v.x.ly (ly + 3)
  let reserved := fld l0 61 3 + fld l1 10 6 + fld l1 26 6 + fld l1 42 6 + fld l1 55 9 + fld l2 3 1 + fld l2 7 57 + l3.toNat
  let unused :=
    (if op = 3 then 0 else c.row) +
    (if (op = 0 || op = 3) && c.init == 2 then 0 else c.bias) +
    (if op = 0 || op = 3 then 0 else c.pstep) +
    (if op = 2 || c.mx then 0 else c.tagB + fb) +
    (if op = 3 then b2n c.autoswap else 0)
  if 252 < ly then some 10
  else if reserved ≠ 0 then some 10
  else if unused ≠ 0 then some 10
  else if !formatsAllowed op c.fmtA c.fmtB then some 10
  else if c.init = 3 || (c.init = 2 && !(op = 0 || op = 3)) then some 10
  else if op = 2 && !c.autoswap then some 10
  else if op = 3 && decide (1 < c.k) then some 10
  else if !c.rangeOk v.b then some 10
  else if 2 < c.tagA || 2 < c.tagB then some 2
  else none

/-- A stream read of the course: stream (false FA, true FB), logical brick, address as formed (R162), tag mode. -/
structure CRead where
  fb : Bool
  brick : Nat
  addr : Int
  tag : Nat
  deriving DecidableEq, Repr

/-- What the course does in relative beat `t` (R161 to R170). -/
inductive CBeat where
  | none
  | scale (i : Nat)
  | feed (p j m : Nat)
  | initial (p j m : Nat)
  deriving DecidableEq, Repr

def Course.at (b : Build) (c : Course) (t : Nat) : CBeat :=
  if c.emptyRed then
    match c.op with
    | 1 => .initial 0 (t / c.m) (t % c.m)
    | 2 => .initial (t / 128 / c.chunks) (t / 128 % c.chunks) (t % 128)
    | _ => .initial (t / c.m) 0 (t % c.m)
  else
    match c.op with
    | 0 =>
      let per := c.sBeats b + c.bf b
      let i := t / per
      let r := t % per
      if r < c.rB + c.rA then .scale (i * (c.rB + c.rA) + r)
      else if r < c.sBeats b then .none
      else if r - c.sBeats b < c.m then .feed (i / c.chunks) (i % c.chunks) (r - c.sBeats b) else .none
    | 3 => .feed (t / c.m) 0 (t % c.m)
    | _ =>
      let i := t / c.bf b
      if i < c.passes * c.chunks && decide (t % c.bf b < c.m) then .feed (i / c.chunks) (i % c.chunks) (t % c.bf b) else .none

/-- Address of a per-brick row (R162). -/
def perBrick (base : Nat) (stride : Int) (p nb b m : Nat) : Int :=
  (base : Int) + p * stride + ((m / 1024) * nb + b) * 0x80000 + (m % 1024) * 512

/-- Stream reads of relative beat `t`, before CONSUME is reduced to PEEK. -/
def Course.readsAt (b : Build) (c : Course) (t : Nat) : List CRead :=
  match c.at b t with
  | .none => []
  | .initial _ _ _ => []
  | .scale i => [⟨true, 0, (c.fbBase : Int) + i * 512, c.tagB⟩]
  | .feed p j m =>
    let row := if m % feedGroup c.fmtA = 0 then
        [⟨false, 0, (c.faBase : Int) + j * c.faStride + (m / feedGroup c.fmtA) * 512, c.tagA⟩] else []
    match c.op with
    | 0 => row
    | 2 => row ++ (List.range c.nb).map (fun q => ⟨true, q, perBrick c.fbBase c.fbStride p c.nb q m, c.tagB⟩)
    | _ => (List.range c.nb).map (fun q => ⟨false, q, perBrick c.faBase c.faStride p c.nb q m, c.tagA⟩)

/-- Whether a later beat of the operation reads the same row of the same stream. DESIGN CHOICE: a row that one operation reads through both FA
and FB is reduced to a PEEK by the later reads of its own stream alone (R162, log 101). -/
def Course.readsAgain (b : Build) (c : Course) (r : CRead) : Bool :=
  (List.range (c.cost - c.t - 1)).any (fun i =>
    (c.readsAt b (c.t + 1 + i)).any (fun r' => r'.fb == r.fb && r'.addr == r.addr))

/-- The stream reads of the course's next beat, a CONSUME that is not the row's last read made a PEEK (R162). -/
def Course.reads (b : Build) (c : Course) : List CRead :=
  (c.readsAt b c.t).map (fun r => if r.tag = 2 && c.readsAgain b r then { r with tag := 1 } else r)

/-- Rows read by the course this beat, in the order of `reads`; a refused read is a zero row without poison (R104). -/
abbrev CRows := List RowBuf

/-- Mode latency: byte 7, 8 or 9 (R152). -/
def Course.lat (b : Build) (c : Course) : Nat := b.latOf (match c.op with | 1 => 8 | 2 => 9 | _ => 7)

/-- How a result of pass `p` and chunk `j` is written (R163, R167, R168, R169). -/
def Course.mode (c : Course) (first : Bool) (p : Nat) : WinMode :=
  if !first then .accum
  else match c.init with
    | 0 => .replace
    | 1 => .accum
    | _ => .bias (c.bias + p)

/-- Valid columns of logical brick `b` in pass `p` (R170). -/
def Course.cols (c : Course) (p b : Nat) : Nat := min c.klass.nb (c.n - p * c.nc - b * c.klass.nb)

/-- A course write: result lanes with their flags, a poisoned lane holding a free value (R173, R198). -/
def laneVals (free : Nat) (vs : List (CVal × Bool)) : List W32 :=
  vs.mapIdx (fun i v => if v.2 then Config.freeWord (1024 * free + i) else w32 v.1.bits)

/-- Results of one course beat: effects with their latency, WR flags (OVERFLOW, INVALID), free values taken, course with its operand
rows, and the pairs that swap at the end of the beat. -/
structure COut where
  effs : List (Nat × Effect)
  ovf : Bool
  inv : Bool
  free : Nat
  c : Course
  swap : Bool
  deriving DecidableEq, Repr

/-- Physical bricks of the given logical ones. -/
def Env.bricksOf (v : Env) (bs : List Nat) : BitVec 4 := bs.foldl (fun acc b => setBit acc (v.phys b) true) 0

/-- Whether the course's next beat carries a feed (R164, R171). -/
def Course.feeds (b : Build) (c : Course) : Bool := match c.at b c.t with | .feed _ _ _ => true | _ => false

/-- Physical pairs of the course. -/
def Env.pairsOf (v : Env) (nb : Nat) : BitVec 2 :=
  (List.range nb).foldl (fun acc b => setBit acc (v.phys b / 2) true) 0

/-- Scale bytes of A row m, block q, and of column n of brick b, block q (R166). -/
def Course.scaleA (c : Course) (m q : Nat) : Nat :=
  if fmtMx c.fmtA then
    let i := m * c.klass.blocks + q
    rowByte ((c.scales.getD (c.rB + i / 512) ⟨[], false⟩).bytes) (i % 512)
  else 0x7F
def Course.scaleB (c : Course) (b q n : Nat) : Nat :=
  if fmtMx c.fmtB then rowByte ((c.scales.getD (b * c.klass.blocks + q) ⟨[], false⟩).bytes) n else 0x7F
def Course.scaleMark (c : Course) (b j m : Nat) : Bool :=
  let ka := c.klass.blocks
  let used := cdiv (min c.klass.kc (c.k - j * c.klass.kc)) 32
  (fmtMx c.fmtB && (List.range used).any (fun q => (c.scales.getD (b * ka + q) ⟨[], false⟩).mark)) ||
  (fmtMx c.fmtA && (c.scales.getD (c.rB + m * ka / 512) ⟨[], false⟩).mark)

/-- One WS feed: the chunk result of every valid column of brick `b` (R163). -/
def wsBrick (v : Env) (c : Course) (p j m b : Nat) : List (CVal × Bool) :=
  let kl := c.klass
  let ph := v.phys b
  let set := v.fu.liveOf ph
  let ks := min kl.kc (c.k - j * kl.kc)
  let rows := (List.range (cdiv ks kl.perCell)).map (fun r => v.fu.cell ph set r)
  let mark := c.feed.mark || c.scaleMark b j m || rows.any (fun r => r.mark)
  let wts := rows.map (fun r => r.weights)
  let as := (List.range ks).map (fun k => feedElem c.fmtA c.feed.bytes m k)
  (List.range (c.cols p b)).map (fun n =>
    (chunkSum kl.frac c.sat c.flush (as.mapIdx (fun k a =>
      brickProd c.fmtA c.fmtB c.flush a
        (cellElem c.fmtB (wts.getD (k / kl.perCell) []) (k % kl.perCell) n)
        (c.scaleA m (k / 32)) (c.scaleB b (k / 32) n))), mark))

/-- One WT step: the result of each valid reduction row of chunk `j` (R167). -/
def wtRows (v : Env) (c : Course) (p j : Nat) (rows : CRows) : List (CVal × Bool) :=
  let kl := c.klass
  let aMark := (List.range c.nb).any (fun b => decide (0 < c.cols p b) && (rows.getD b ⟨[], false⟩).mark)
  (List.range (min kl.kc (c.k - j * kl.kc))).map (fun k =>
    let cells := (List.range c.nb).map (fun b => v.fu.cell (v.phys b) (v.fu.liveOf (v.phys b)) k)
    let ps := (List.range c.nb).flatMap (fun b =>
      let w := (cells.getD b CellRow.zero).weights
      let a := (rows.getD b ⟨[], false⟩).bytes
      (List.range (c.cols p b)).map (fun n =>
        brickProd c.fmtA c.fmtB c.flush (colElem c.fmtA a n) (colElem c.fmtB w n) 0x7F 0x7F))
    (chunkSum kl.frac c.sat c.flush ps,
      aMark || (List.range c.nb).any (fun b => decide (0 < c.cols p b) && (cells.getD b CellRow.zero).mark)))

/-- One ES step of brick `b` (R169). -/
def esBrick (v : Env) (c : Course) (p b : Nat) (row : RowBuf) : List (CVal × Bool) :=
  let ph := v.phys b
  let cell := v.fu.cell ph (v.fu.liveOf ph) c.row
  let w := cell.weights
  (List.range (c.cols p b)).map (fun n =>
    (roundProd c.sat c.flush (brickProd c.fmtA c.fmtB c.flush (colElem c.fmtA row.bytes n) (colElem c.fmtB w n) 0x7F 0x7F),
      row.mark || cell.mark))

/-- Gathers one course write; `sums` are the bricks that formed its checked sums. DESIGN CHOICE: a poisoned chunk result, whose value is undefined, raises
neither OVERFLOW nor INVALID (R198, R218, log 104). -/
def COut.write (o : COut) (sums : BitVec 4) (lat ph e : Nat) (mode : WinMode) (lo : Nat) (sat flush : Bool) (vs : List (CVal × Bool)) : COut :=
  if vs = [] then o
  else
    let mark := vs.any (fun v => v.2)
    { o with
      effs := o.effs ++ [(lat, .win ph e mode lo (laneVals o.free vs) mark sums sat flush)]
      ovf := o.ovf || vs.any (fun v => v.1.ovf && !v.2)
      inv := o.inv || vs.any (fun v => v.1.inv && !v.2)
      free := if mark then o.free + 1 else o.free }

/-- Set of brick `ph` that a feed of this beat works on: exchanges already decided count as made (R155). -/
def Env.macSet (v : Env) (ph : Nat) : Nat :=
  let n := (v.x.flights.filter (fun g => match g.eff with | .swap ps _ _ => bitOf ps (ph / 2) | _ => false)).length
  (v.fu.liveOf ph + n) % 2

/-- The drain row of an OS operation read in relative beat `t`: tile index and cell row (R168). -/
def Course.drainAt (b : Build) (c : Course) (t : Nat) : Option (Nat × Nat) :=
  let off := b.latOf 9
  let lt := c.bf b
  if c.op ≠ 2 || c.emptyRed then none
  else if t + 1 < lt + off then none
  else
    let y := t + 1 - off
    let i := y / lt
    let r := y % lt
    if 1 ≤ i && decide (i ≤ c.passes * c.chunks) && decide (r < 128) then some (i - 1, r) else none

/-- Whether beat `t` is the last of a chunk, or of an OS tile, after which the sets exchange (R164, R168). -/
def Course.chunkEnds (b : Build) (c : Course) : Bool :=
  let per := if c.op = 0 then c.sBeats b + c.bf b else c.bf b
  !c.emptyRed && c.autoswap && c.op != 3 && decide (c.t % per + 1 = per) && decide (c.t / per < c.passes * c.chunks)

/-- What a course does in its beat `t`, from the rows it read (R161 to R173); a drain of the 16-bit class reads column n from physical column 2n
(log 95). DESIGN CHOICE: the rows of an OS drain are read from the set that is standby in their beat, also after an explicit SWAP of the pair during the
drain (R168, R171, log 101). -/
def Course.run (v : Env) (c : Course) (rows : CRows) (free : Nat) : COut :=
  let b := v.b
  let o : COut := ⟨[], false, false, free, c, false⟩
  let o1 : COut := match c.at b c.t with
    | .none => o
    | .scale _ =>
      let first := decide ((c.t % (c.sBeats b + c.bf b)) = 0)
      { o with c := { c with scales := (if first then [] else c.scales) ++ rows } }
    | .initial p j m =>
      let all := fun (lat e lanes : Nat) (q : Nat) (mode : WinMode) (lo : Nat) (o : COut) =>
        o.write 0 lat (v.phys q) e mode lo c.sat c.flush (List.replicate lanes (⟨0, false, false⟩, false))
      if c.init = 1 then o
      else match c.op with
        | 1 => all (c.lat b) (c.e0 + m + c.m * (j / (4 * c.nb))) (min c.klass.kc (c.k - j * c.klass.kc)) (j % c.nb) .replace
                (128 * ((j / c.nb) % 4)) o
        | 2 => if c.k ≤ j * 128 + m then o
                else (List.range c.nb).foldl (fun o q => all (b.latOf 12) (c.e0 + (p * c.chunks + j) * 128 + m) (c.cols p q) q
                  .replace 0 o) o
        | _ => (List.range c.nb).foldl (fun o q => all (c.lat b) (c.e0 + p * c.pstep + m) (c.cols p q) q
                (if c.init = 2 then .copyBias (c.bias + p) else .replace) 0 o) o
    | .feed p j m =>
      let g := feedGroup c.fmtA
      let c' := if (c.op = 0 || c.op = 2) && m % g = 0 then { c with feed := rows.getD 0 ⟨[], false⟩ } else c
      let o := { o with c := c' }
      match c.op with
      | 0 => (List.range c.nb).foldl (fun o q =>
          o.write (v.bricksOf [q]) (c.lat b) (v.phys q) (c.e0 + p * c.pstep + m) (c.mode (j == 0) p) 0 c.sat c.flush (wsBrick v c' p j m q)) o
      | 1 => o.write (v.bricksOf (List.range c.nb)) (c.lat b) (v.phys (j % c.nb)) (c.e0 + m + c.m * (j / (4 * c.nb))) (c.mode (p == 0) p)
          (128 * ((j / c.nb) % 4)) c.sat c.flush (wtRows v c' p j rows)
      | 2 =>
        let fbRows := if m % g = 0 then rows.drop 1 else rows
        let ks := min c.klass.kc (c.k - j * c.klass.kc)
        let bs := ((List.range c.nb).filter (fun q => decide (0 < c.cols p q))).map (fun q =>
          let r := fbRows.getD q ⟨[], false⟩
          (v.phys q, v.macSet (v.phys q), (List.range (c.cols p q)).map (fun n => colElem c.fmtB r.bytes n), r.mark))
        { o with effs := [(c.lat b, .mac c.fmtA c.fmtB (m == 0) c.sat c.flush
            ((List.range ks).map (fun k => feedElem c.fmtA c'.feed.bytes m k)) c'.feed.mark bs)] }
      | _ => (List.range c.nb).foldl (fun o q =>
          o.write (v.bricksOf [q]) (c.lat b) (v.phys q) (c.e0 + p * c.pstep + m) (c.mode true p) 0 c.sat c.flush
            (esBrick v c' p q (rows.getD q ⟨[], false⟩))) o
  let o2 : COut := match c.drainAt b c.t with
    | none => o1
    | some (i, r) =>
      let p := i / c.chunks
      let j := i % c.chunks
      if c.k ≤ j * 128 + r then o1
      else (List.range c.nb).foldl (fun o q =>
        let ph := v.phys q
        let cell := v.fu.cell ph (1 - v.fu.liveOf ph) r
        let step := if c.klass = .b16 then 2 else 1
        o.write 0 (b.latOf 12) ph (c.e0 + i * 128 + r) (if c.init = 1 then .accum else .replace) 0 c.sat c.flush
          ((List.range (c.cols p q)).map (fun n => (⟨(cell.acc (n * step)).toNat, false, false⟩, cell.mark)))) o1
  if c.chunkEnds b then
    (if c.op = 2 then { o2 with effs := o2.effs ++ [(b.latOf 9, .swap (v.pairsOf c.nb) 0 true)] }
     else { o2 with effs := o2.effs ++ [(1, .swap (v.pairsOf c.nb) 0 true)], swap := true })
  else o2

end Sys2Proof.Machine
end

