-- ==== Sys2Proof/Machine/Flags.lean ====
section
/-! DEFINITION. Flag computations: the condition that CMP writes (R66), and the sticky flags of the windrow and the harrow (R218). -/

namespace Sys2Proof.Machine

/-- Condition D[2:0] of CMP (R66). -/
def cmpCond (c : Nat) (a b : W64) : Bool :=
  match c with
  | 0 => a == b
  | 1 => a != b
  | 2 => a.slt b
  | 3 => !(a.slt b)
  | 4 => a.ult b
  | 5 => !(a.ult b)
  | 6 => a &&& b != 0
  | _ => a &&& b == 0

/-- OVERFLOW and INVALID of WR_STICKY for domain `d` (R218). -/
def Furrow.wrFlags (x : Furrow) (d : Dom) (ovf inv : Bool) : Furrow :=
  let s1 := if ovf then setBit x.wrSticky (2 + d.val) true else x.wrSticky
  { x with wrSticky := if inv then setBit s1 (4 + d.val) true else s1 }

/-- The flags that a harrow operation raises, in HA_STICKY: bit 2i + d for flag i of domain `d` (R218). -/
def Furrow.haFlags (x : Furrow) (d : Dom) (fl : Raised) : Furrow :=
  { x with haSticky := (List.range 5).foldl (fun m i => if bitOf fl i then setBit m (2 * i + d.val) true else m) x.haSticky }

end Sys2Proof.Machine
end

