-- ==== Sys2Proof/Machine/Operands.lean ====
section
/-! DEFINITION. Slots of the long word: operand formats and their encoding checks (R56 to R63, R98, R405 step 2), scalar operands, and
lanes in rows (R206). -/

namespace Sys2Proof.Machine

/-- A present slot: its number, operation code and operand bits [39:0] (R56). -/
structure SlotOp where
  slot : Nat
  code : Nat
  op : Nat
  deriving DecidableEq, Repr

/-- A long word: control field and present slots in ascending order (R57, R58). -/
structure Word where
  ctrl : Nat
  slots : List SlotOp
  size : Nat
  deriving DecidableEq, Repr

def Word.endBit (w : Word) : Bool := decide (w.ctrl / 32768 % 2 = 1)
def Word.extra (w : Word) : Nat := w.ctrl % 256

/-- Number of set bits of a presence mask. -/
def popcount (n : Nat) (fuel : Nat) : Nat := match fuel with | 0 => 0 | k + 1 => n % 2 + popcount (n / 2) k

/-- Bytes of the word stored at `a` (R57). -/
def storedSize (st : Tab Byte) (a : Nat) : Nat := 4 + 6 * popcount (ofLe (tgets 0 st a 2)) 16

/-- The slots whose bits are set in the presence mask, read in ascending order from `a`. -/
def readSlots (st : Tab Byte) (mask i n a : Nat) : List SlotOp :=
  match n with
  | 0 => []
  | k + 1 =>
    if mask / 2 ^ i % 2 = 1 then
      let w := ofLe (tgets 0 st a 6)
      ⟨i, w / 2 ^ 40, w % 2 ^ 40⟩ :: readSlots st mask (i + 1) k (a + 6)
    else readSlots st mask (i + 1) k a

/-- The long word at program store byte address `a` (R57). -/
def readWord (st : Tab Byte) (a : Nat) : Word :=
  ⟨ofLe (tgets 0 st (a + 2) 2), readSlots st (ofLe (tgets 0 st a 2)) 0 16 (a + 4), storedSize st a⟩

/-- Fields of the formats of R61. -/
def opD (op : Nat) : Nat := nfld op 35 5
def opA (op : Nat) : Nat := nfld op 30 5
def opI (op : Nat) : Bool := decide (nfld op 29 1 = 1)
def opImm (op : Nat) : Nat := nfld op 0 29
def opB (op : Nat) : Nat := nfld op 25 5
def opC (op : Nat) : Nat := nfld op 20 5
def opSB (op : Nat) : Bool := decide (nfld op 19 1 = 1)
def opSI (op : Nat) : Nat := nfld op 14 5
def opMod (op : Nat) : Nat := nfld op 8 6

/-- Reason 2 when any of the given fields is nonzero. -/
def zeros (xs : List Nat) : Option Nat := if xs.any (fun x => x != 0) then some 2 else none

/-- Tag codes: undefined 5 to 7, write modes on a read, read modes on a write (R62, R98 reason 2, R108). -/
def tagFault (write : Bool) (t : Nat) : Option Nat :=
  if 4 < t then some 2 else if write then (if t = 1 || t = 2 then some 2 else none) else (if 2 < t then some 2 else none)

def firstSome (a b : Option Nat) : Option Nat := match a with | some x => some x | none => b

/-- Scalar slots (R66): reserved bits and fixed fields. Which bits of a field that an operation uses in part are reserved is the model's choice
(R61, log 32). -/
def encSca (slot code op : Nat) : Option Nat :=
  let regForm := if opI op then none else zeros [nfld op 0 24]
  match code with
  | 0x1B => if !opI op || opA op ≠ 0 then some 2 else none
  | 0x1C => if !opI op then some 2 else none
  | 0x1E => zeros [nfld op 33 2, nfld op 0 30]
  | 0x1F => if !opI op then some 2 else zeros [opA op, nfld op 8 21]
  | 0x20 => zeros [nfld op 34 1, nfld op 0 30]
  | 0x21 => if slot ≠ 1 then some 1 else firstSome (zeros [nfld op 30 5, nfld op 0 23]) (tagFault false (nfld op 23 3))
  | 0x22 => if slot ≠ 1 then some 1 else firstSome (zeros [nfld op 30 5, nfld op 0 23]) (tagFault true (nfld op 23 3))
  | c => if 0x10 ≤ c ∧ c ≤ 0x1D then regForm else some 1

/-- Harrow slots (R71, R209, R211 to R217): reserved fields. -/
def encHrw (slot code op : Nat) : Option Nat :=
  let low := nfld op 0 8
  let m := opMod op
  let bOp := if opSB op then opB op else opSI op
  let noB := [opB op, opC op, nfld op 19 1, opSI op]
  if 0x50 ≤ code ∧ code ≤ 0x55 then zeros ([low, bOp] ++ (if code ≤ 0x52 then [] else [opC op]))
  else if code = 0x56 || code = 0x57 then zeros [low, bOp, opC op, nfld m 3 1, nfld m 0 2]
  else if code = 0x58 then zeros [low, bOp, opC op]
  else if code = 0x59 then zeros [low, bOp, nfld m 0 4]
  else if code = 0x5A || code = 0x5B then zeros ([low, nfld m 0 4] ++ noB)
  else if code = 0x5C then zeros [low, opB op, opC op, (if opSB op then opA op else opSI op), m]
  else if code = 0x5D || code = 0x5E then zeros [low, bOp, opC op, nfld m 0 4]
  else if 0x60 ≤ code ∧ code ≤ 0x67 then zeros [low, bOp, opC op, nfld m 0 4]
  else if code = 0x68 || code = 0x69 then zeros [low, bOp, opC op, nfld m 1 3]
  else if code = 0x70 then zeros [low, opB op, nfld op 20 3, nfld op 19 1, opSI op]
  else if code = 0x71 then zeros [low, nfld op 20 3, nfld op 19 1, nfld m 0 2]
  else if code = 0x72 then zeros [low, nfld op 25 4, nfld op 20 3, nfld op 19 1, opSI op]
  else if code = 0x73 then
    zeros [low, nfld op 20 3, nfld op 19 1, opSI op, nfld m 0 2, (if fmtMx (nfld m 2 4) then 0 else opB op)]
  else if 0x78 ≤ code ∧ code ≤ 0x7D then (if slot ≠ 8 then some 1 else zeros ([low, nfld m 0 2] ++ noB))
  else if code = 0x7E || code = 0x7F then
    (if slot ≠ 8 then some 1 else zeros ([low, nfld m 4 2, nfld m 0 2, (if code = 0x7F then nfld m 3 1 else 0)] ++ noB))
  else some 1

/-- The encoding check of one present slot (R405 step 2): reason 1, 2 or 3, or none. Field B of a MISS is accepted whatever the unit's OPERANDS (R61,
R98, log 70). -/
def encFault (o : SlotOp) : Option Nat :=
  let op := o.op
  if o.slot = 15 then some 3
  else if o.code = 0 then zeros [op]
  else match o.slot with
  | 0 =>
    match o.code with
    | 1 => if nfld op 36 1 = 1 then zeros [nfld op 8 12] else none
    | 2 => zeros [nfld op 0 32]
    | 3 => zeros [nfld op 0 29]
    | 4 => zeros [op]
    | 5 => zeros [op]
    | _ => some 1
  | 1 => encSca 1 o.code op
  | 2 => encSca 2 o.code op
  | 3 =>
    match o.code with
    | 0x30 => zeros [nfld op 32 4, nfld op 25 6]
    | 0x31 => zeros [nfld op 32 4]
    | 0x32 => zeros [nfld op 0 31, if nfld op 31 1 = 1 then 0 else nfld op 32 4]
    | 0x33 => zeros [nfld op 32 4, nfld op 8 24]
    | 0x34 => zeros [nfld op 0 31]
    | 0x35 => zeros [nfld op 0 32]
    | _ => some 1
  | 4 =>
    match o.code with
    | 0x3C => zeros [nfld op 0 38]
    | c => if 0x38 ≤ c ∧ c ≤ 0x3B then zeros [nfld op 0 24] else some 1
  | 5 => if o.code = 0x40 then zeros [nfld op 0 25] else some 1
  | 6 =>
    let ar := if nfld op 28 1 = 1 then nfld op 29 4 else 0
    match o.code with
    | 0x48 => zeros [nfld op 35 5, ar, nfld op 0 7]
    | 0x49 => zeros [ar, nfld op 10 8, nfld op 0 7]
    | 0x4A => zeros [ar, nfld op 10 8, nfld op 0 7]
    | _ => some 1
  | 7 => encHrw 7 o.code op
  | 8 => encHrw 8 o.code op
  | 9 =>
    match o.code with
    | 0x90 => firstSome (zeros [nfld op 0 24]) (tagFault false (nfld op 28 3))
    | 0x91 => firstSome (zeros [nfld op 0 24]) (tagFault true (nfld op 28 3))
    | _ => some 1
  | 10 => if 0xA0 ≤ o.code ∧ o.code ≤ 0xA2 then zeros [nfld op 0 37] else some 1
  | 11 =>
    match o.code with
    | 0xA8 => zeros [nfld op 0 28]
    | 0xA9 => zeros [nfld op 0 37]
    | 0xAA => zeros [nfld op 0 37]
    | _ => some 1
  | 12 =>
    if 0xB0 ≤ o.code ∧ o.code ≤ 0xB3 then
      zeros [nfld op 16 6, if nfld op 27 1 = 1 then nfld op 0 16 else nfld op 22 5]
    else some 1
  | 13 => if o.code = 0xC0 then none else some 1
  | 14 => if o.code = 0xC0 then none else some 1
  | _ => some 1

/-- First failing slot of step 2. -/
def encFaults (os : List SlotOp) : Option (SlotOp × Nat) :=
  match os with
  | [] => none
  | o :: r => match encFault o with | some n => some (o, n) | none => encFaults r

/-- Operand B of format S: the register, or IMM sign-extended (R61). -/
def scaB (x : Domain) (op : Nat) : W64 :=
  if opI op then BitVec.ofInt 64 (sint 29 (opImm op)) else x.sreg (nfld op 24 5)

/-- Lanes of a row access (R63, R206): first lane and count, or none when PART is out of range. At H = 128, where R63 gives WIDTH 1 no PART, PART 0
moves the 128 lanes, as R206 has it of a narrower half (log 70). -/
def rowLanes (h width part : Nat) : Option (Nat × Nat) :=
  match width with
  | 0 => if part < max 1 (h / 128) then some (128 * part, min 128 h) else none
  | 1 => if part < max 1 (h / 256) then some (256 * part, min 256 h) else none
  | 2 => if part = 0 then some (0, min 512 h) else none
  | _ => if part < 2 then some (0, min 512 h) else none

/-- Lane values loaded from a row (R206). -/
def lanesOfRow (row : List Byte) (width part n : Nat) : List W32 :=
  (List.range n).map (fun i =>
    match width with
    | 0 => w32 (ofLe ((row.drop (4 * i)).take 4))
    | 1 => w32 (ofLe ((row.drop (2 * i)).take 2))
    | 2 => w32 (rowByte row i)
    | _ => w32 (nfld (rowByte row (256 * part + i / 2)) (4 * (i % 2)) 4))

/-- Pairs of 4-bit elements as bytes, the even element in the low nibble (R158). -/
def nibbles (vs : List W32) : List Byte :=
  match vs with
  | a :: b :: r => byteOf (a.toNat % 16 + 16 * (b.toNat % 16)) :: nibbles r
  | [a] => [byteOf (a.toNat % 16)]
  | [] => []

/-- Row bytes that lanes form, and their offset in the row (R63, R206). -/
def rowOfLanes (vs : List W32) (width part : Nat) : Nat × List Byte :=
  match width with
  | 0 => (0, vs.flatMap (fun v => toLe 4 v.toNat))
  | 1 => (0, vs.flatMap (fun v => toLe 2 v.toNat))
  | 2 => (0, vs.flatMap (fun v => toLe 1 v.toNat))
  | _ => (256 * part, nibbles vs)

/-- Segments that lanes lo to lo + n − 1 touch (R205). -/
def segsOf (lo n : Nat) : BitVec 8 :=
  (List.range 8).foldl (fun acc s => if 64 * s < lo + n ∧ lo < 64 * s + 64 then setBit acc s true else acc) 0

def VReg.lane (r : VReg) (i : Nat) : W32 := tget 0 r.lanes i
def VReg.vals (r : VReg) (lo n : Nat) : List W32 := tgets 0 r.lanes lo n

end Sys2Proof.Machine
end

