-- ==== Sys2Proof/Machine/Harrow.lean ====
section
/-! DEFINITION. Element functions of the harrow: arithmetic, comparison, integer, conversion, stochastic rounding (R194 to R216). -/

namespace Sys2Proof.Machine

/-- FMA, FMS, FNMA, FADD, FSUB, FMUL (op 0 to 5) on codes of the format (R210). -/
def fpArith (p : Fp) (op : Nat) (r : Rnd) (sat flush : Bool) (a b c : Nat) : Val :=
  let x := p.decodeF flush a
  let y := p.decodeF flush b
  let z := p.decodeF flush c
  let rdn := decide (r = .rdn)
  let used := if op ≤ 2 then [x, y, z] else [x, y]
  let codes := if op ≤ 2 then [a, b, c] else [a, b]
  let res := match op with
    | 0 => addNum rdn (mulNum x y) z
    | 1 => addNum rdn (mulNum x y) z.negate
    | 2 => addNum rdn (mulNum x y).negate z
    | 3 => addNum rdn x y
    | 4 => addNum rdn x y.negate
    | _ => mulNum x y
  let v := p.write r sat flush res
  ⟨v.bits, v.fl ||| invalidOf res used ||| flushedOf p flush codes⟩

/-- Code of a zero of the sign where FLUSH takes the code as zero, otherwise the code. -/
def Fp.flushCode (p : Fp) (flush : Bool) (a : Nat) : Nat :=
  if flush && p.subnormal a then a / 2 ^ (p.ew + p.fw) % 2 * 2 ^ (p.ew + p.fw) else a

/-- FMIN or FMAX (R211): a NaN in either gives the canonical NaN, −0.0 is less than +0.0. -/
def fpMinMax (p : Fp) (isMax flush : Bool) (a b : Nat) : Val :=
  let x := p.decodeF flush a
  let y := p.decodeF flush b
  let fl := flushedOf p flush [a, b]
  if x.isNan || y.isNan then ⟨p.nan, fl⟩
  else
    let less := numLt x y || (x.isZero && y.isZero && x.isNeg && !y.isNeg)
    let pickA := if isMax then !less else less
    ⟨if pickA then p.flushCode flush a else p.flushCode flush b, fl⟩

/-- FCMP (R211): all ones when COND holds. -/
def fpCompare (p : Fp) (cond : Nat) (flush : Bool) (a b : Nat) : Val :=
  let x := p.decodeF flush a
  let y := p.decodeF flush b
  let unord := x.isNan || y.isNan
  let lt := numLt x y
  let gt := numLt y x
  let eq := !unord && !lt && !gt
  let holds := match cond with
    | 0 => eq | 1 => !eq | 2 => !unord && lt | 3 => !unord && (lt || eq) | 4 => !unord && gt
    | 5 => !unord && (gt || eq) | 6 => unord | _ => !unord
  ⟨if holds then 2 ^ p.width - 1 else 0, flushedOf p flush [a, b]⟩

/-- Integer operations on elements of `w` bits (R212), op 0 to 9 for IADD to IMAX. -/
def intOp (op w : Nat) (uns : Bool) (a b : Nat) : Nat :=
  let n := 2 ^ w
  let sh := b % w
  let lt := if uns then decide (a < b) else decide (sint w a < sint w b)
  match op with
  | 0 => (a + b) % n
  | 1 => (a + n - b) % n
  | 2 => a &&& b
  | 3 => a ||| b
  | 4 => a ^^^ b
  | 5 => a * 2 ^ sh % n
  | 6 => a / 2 ^ sh
  | 7 => (sint w a / ((2 ^ sh : Nat) : Int) % (n : Int)).toNat
  | 8 => if lt then a else b
  | _ => if lt then b else a

/-- The 16-bit draw of R194. -/
def srDraw (seed : W64) (stream : Nat) (index : Nat) : Nat :=
  let x0 := seed ^^^ (w64 (at' (stream % 65536) 48) ||| w64 (index % 2 ^ 48))
  let x1 := x0 * 0x8C4F2D61B39AE5F7#64
  let x2 := x1 ^^^ (x1 >>> 29)
  let x3 := x2 * 0xE1D37A590C6B48A3#64
  let x4 := x3 ^^^ (x3 >>> 32)
  fld x4 48 16

/-- Rounds m × 2^e to an integer and clamps it to lo..hi; the result and whether it was clamped (R192). -/
def toIntClamp (r : Rnd) (neg : Bool) (m : Nat) (e : Int) (lo hi : Int) : Int × Bool :=
  let mag : Int := ((roundAt r neg m e 0).1 : Nat)
  let x := if neg then -mag else mag
  if x < lo then (lo, true) else if hi < x then (hi, true) else (x, false)

/-- Conversion of an exact finite or special value to element format `c` (R191, R192). `mx` for CVTMX, whose NaN is element 0. -/
def convElem (c : Nat) (r : Rnd) (sat flush mx : Bool) (x : Num) : Val :=
  match fmtFp c with
  | some p =>
    match x with
    | .nan => ⟨if mx then 0 else p.nan, 0⟩
    | .inf neg =>
      if mx then ⟨p.signBit neg + p.maxCode, fClamped⟩
      else if p.sp = .e4m3 then (if sat then ⟨p.signBit neg + p.maxCode, fClamped⟩ else ⟨p.nan, fInvalid⟩)
      else ⟨p.signBit neg + p.infCode, 0⟩
    | .fin neg m e =>
      let kq := p.round r neg m e
      match p.encode kq.1 kq.2 with
      | none =>
        if mx then ⟨p.signBit neg + p.maxCode, fOverflow ||| fClamped⟩
        else if p.sp = .e4m3 then
          (if sat then ⟨p.signBit neg + p.maxCode, fOverflow ||| fClamped⟩ else ⟨p.nan, fOverflow ||| fInvalid⟩)
        else if heldAtMax r neg sat then ⟨p.signBit neg + p.maxCode, fOverflow ||| fClamped⟩
        else ⟨p.signBit neg + p.infCode, fOverflow⟩
      | some code =>
        if flush && decide (code ≠ 0) && decide (code < 2 ^ p.fw) then ⟨p.signBit neg, fFlushed⟩
        else ⟨p.signBit neg + code, 0⟩
  | none =>
    let w := fmtWidth c
    let hi : Int := ((2 ^ (w - 1) : Nat) : Int) - 1
    let lo : Int := -((2 ^ (w - 1) : Nat) : Int)
    let sh : Int := if c = 4 then 6 else 0
    match x with
    | .nan => ⟨0, 0⟩
    | .inf neg => ⟨((if neg then lo else hi) % ((2 ^ w : Nat) : Int)).toNat, fClamped⟩
    | .fin neg m e =>
      let y := toIntClamp r neg m (e + sh) lo hi
      ⟨(y.1 % ((2 ^ w : Nat) : Int)).toNat, if y.2 then fClamped else 0⟩

/-- CVT and CVTSR of one FP32 code (R191, R192, R195). DESIGN CHOICE: FLUSH takes a subnormal FP32 input as zero for an integer target too (R192,
log 100). -/
def cvtElem (c : Nat) (r : Rnd) (sat flush : Bool) (a : Nat) : Val :=
  let v := convElem c r sat flush false (fp32.decodeF flush a)
  ⟨v.bits, v.fl ||| flushedOf fp32 flush [a]⟩

/-- Exponent et of R214. -/
def mxEt (c : Nat) : Int := match c with | 2 => 8 | 3 => 15 | 6 => 4 | 7 => 2 | 8 => 2 | _ => 0

/-- floor(log2) of the largest finite magnitude of a block after FLUSH, none when it is zero. DESIGN CHOICE: none too for a
block of infinities and no finite element, whose scale is then 0x7F (R214, log 102). -/
def blockLog2 (flush : Bool) (xs : List Nat) : Option Int :=
  xs.foldl (fun acc a =>
    match fp32.decodeF flush a with
    | .fin _ m e => if m = 0 then acc else
        (match acc with | none => some (numLog2 m e) | some k => some (max k (numLog2 m e)))
    | _ => acc) none

/-- The E8M0 scale of a block (R214). -/
def mxScale (c : Nat) (flush : Bool) (xs : List Nat) : Nat :=
  if xs.any (fun a => (fp32.decode a).isNan) then 0xFF
  else match blockLog2 flush xs with
    | none => 0x7F
    | some k => (max 0 (min 254 (k - mxEt c + 127))).toNat

/-- CVTMX of one element under its block's scale (R191, R192, R214). -/
def cvtmxElem (c : Nat) (r : Rnd) (sat flush : Bool) (scale a : Nat) : Val :=
  if scale = 0xFF then ⟨0, 0⟩
  else
    let v := convElem c r sat flush true ((fp32.decodeF flush a).scale (127 - (scale : Int)))
    ⟨v.bits, v.fl ||| flushedOf fp32 flush [a]⟩

/-- CVTIN of one element (R193); `scale` is 0x7F for a format without scales. -/
def cvtinElem (c : Nat) (sat flush : Bool) (scale raw : Nat) : Val :=
  if scale = 0xFF then ⟨fp32.nan, 0⟩
  else
    let x := (elemNum c flush (nfld raw 0 (fmtWidth c))).scale ((scale : Int) - 127)
    let v := fp32.write .rne sat flush x
    let cl : Raised := if v.fl &&& fOverflow ≠ 0 ∧ sat then fClamped else 0
    ⟨v.bits, v.fl ||| cl ||| (if flush && elemSubnormal c (nfld raw 0 (fmtWidth c)) then fFlushed else 0)⟩

/-- FP32 addition of the windrow, the OS cells and RSUM: RNE with SAT, FLUSH and the canonical NaN (R186). -/
def add32 (sat flush : Bool) (a b : Nat) : Val := fpArith fp32 3 .rne sat flush a b 0

end Sys2Proof.Machine
end

