-- ==== Sys2Proof/Machine/Transcend.lean ====
section
/-! DEFINITION. The transcendentals of R216, rounded once from a fixed-point value of 320 fraction bits with a sticky bit. -/

namespace Sys2Proof.Machine

/-- Fraction bits of the working precision (log 13). -/
def tbits : Nat := 320
def tone : Nat := 2 ^ tbits

/-- Terms r^i / i! of the exponential series, summed from term `i` on. -/
def expSeries (fuel i term r acc : Nat) : Nat :=
  match fuel with
  | 0 => acc
  | n + 1 =>
    let t := term * r / tone / i
    expSeries n (i + 1) t r (acc + t)

/-- e^r for 0 ≤ r < 1, as a multiple of 2^−320. -/
def expFix (r : Nat) : Nat := expSeries 90 1 tone r tone

/-- Terms z^(2i+1) / (2i+1) of the inverse hyperbolic tangent. -/
def atanhSeries (fuel i pow z2 acc : Nat) : Nat :=
  match fuel with
  | 0 => acc
  | n + 1 => atanhSeries n (i + 2) (pow * z2 / tone) z2 (acc + pow / i)

/-- ln((1 + z) / (1 − z)) for 0 ≤ z ≤ 1/3. -/
def lnFix (z : Nat) : Nat := 2 * atanhSeries 110 1 z (z * z / tone) 0

/-- ln 2. -/
def ln2Fix : Nat := lnFix (tone / 3)

/-- floor(|x| × 2^320) of m × 2^e. -/
def fixOf (m : Nat) (e : Int) : Nat :=
  if 0 ≤ e + tbits then m * 2 ^ (e + tbits).toNat else m / 2 ^ (-(e + tbits)).toNat

/-- An inexact value y × 2^e: the sticky bit keeps it off every representable number and every tie. -/
def stickyNum (neg : Bool) (y : Nat) (e : Int) : Num := .fin neg (2 * y + 1) (e - 1)

/-- e^(x) for a fixed-point x ≥ 0, as (y, k) with value y × 2^(k − 320) and 1 ≤ y × 2^−320 < 2. -/
def expParts (x : Nat) : Nat × Nat := (expFix (x % ln2Fix), x / ln2Fix)

/-- floor of a square root, bit by bit from bit `i`. -/
def isqrt (i n r : Nat) : Nat :=
  match i with
  | 0 => r
  | j + 1 => if (r + 2 ^ j) * (r + 2 ^ j) ≤ n then isqrt j n (r + 2 ^ j) else isqrt j n r

def exp2Num (neg : Bool) (m : Nat) (e : Int) : Num :=
  if m = 0 then .fin false 1 0
  else if 9 ≤ numLog2 m e then (if neg then .fin false 1 (-1000) else .fin false 1 1000)
  else
    let x := fixOf m e
    let n : Int := if neg then -(((x + tone - 1) / tone : Nat) : Int) else ((x / tone : Nat) : Int)
    let f := if neg then (tone - x % tone) % tone else x % tone
    if f = 0 then .fin false 1 n else stickyNum false (expFix (f * ln2Fix / tone)) (n - tbits)

def log2Num (m : Nat) (e : Int) : Num :=
  let l := Nat.log2 m
  let k : Int := (l : Int) + e
  if m = 2 ^ l then numOfInt k 0
  else
    let z := (m - 2 ^ l) * tone / (m + 2 ^ l)
    let t : Int := k * (tone : Int) + ((lnFix z * tone / ln2Fix : Nat) : Int)
    stickyNum (decide (t < 0)) t.natAbs (-(tbits : Int))

def rcpNum (neg : Bool) (m : Nat) (e : Int) : Num :=
  let k := Nat.log2 m + 300
  let q := 2 ^ k / m
  .fin neg (2 * q + (if 2 ^ k % m = 0 then 0 else 1)) (-(k : Int) - 1 - e)

def rsqrtNum (m : Nat) (e : Int) : Num :=
  let m' := if e % 2 = 0 then m else 2 * m
  let e' := if e % 2 = 0 then e else e - 1
  let k := Nat.log2 m' + 200
  let q := isqrt (k + 1) (2 ^ (2 * k) / m') 0
  .fin false (2 * q + (if q * q * m' = 2 ^ (2 * k) then 0 else 1)) (-(k : Int) - 1 - e' / 2)

def tanhNum (neg : Bool) (m : Nat) (e : Int) : Num :=
  if m = 0 then .fin neg 0 0
  else if 6 ≤ numLog2 m e then .fin neg (2 ^ 400 - 1) (-400)
  else
    let p := expParts (2 * fixOf m e)
    let y := p.1 * 2 ^ p.2
    stickyNum neg ((y - tone) * tone / (y + tone)) (-(tbits : Int))

def sigmNum (neg : Bool) (m : Nat) (e : Int) : Num :=
  if m = 0 then .fin false 1 (-1)
  else if 8 ≤ numLog2 m e then (if neg then .fin false 1 (-1000) else .fin false (2 ^ 400 - 1) (-400))
  else
    let p := expParts (fixOf m e)
    let y := p.1 * 2 ^ p.2
    let num := if neg then tone else y
    stickyNum false (num * 2 ^ (tbits + 400) / (y + tone)) (-((tbits + 400 : Nat) : Int))

/-- EXP2, LOG2, RSQRT, RCP, TANH, SIGM (op 0 to 5) on a decoded input, with the special inputs of R216's table. -/
def transNum (op : Nat) (x : Num) : Num :=
  match op, x with
  | _, .nan => .nan
  | 0, .inf n => if n then .fin false 0 0 else .inf false
  | 1, .inf n => if n then .nan else .inf false
  | 2, .inf n => if n then .nan else .fin false 0 0
  | 3, .inf n => .fin n 0 0
  | 4, .inf n => .fin n 1 0
  | _, .inf n => if n then .fin false 0 0 else .fin false 1 0
  | 0, .fin n m e => exp2Num n m e
  | 1, .fin n m e => if m = 0 then .inf true else if n then .nan else log2Num m e
  | 2, .fin n m e => if m = 0 then .inf n else if n then .nan else rsqrtNum m e
  | 3, .fin n m e => if m = 0 then .inf n else rcpNum n m e
  | 4, .fin n m e => tanhNum n m e
  | _, .fin n m e => sigmNum n m e

/-- A transcendental of one code of the format: rounded once to nearest even (R216, R218). -/
def transElem (p : Fp) (op : Nat) (sat flush : Bool) (a : Nat) : Val :=
  let x := p.decodeF flush a
  let y := transNum op x
  let v := p.write .rne sat flush y
  ⟨v.bits, v.fl ||| invalidOf y [x] ||| flushedOf p flush [a]⟩

end Sys2Proof.Machine
end

