-- ==== Sys2Proof/Machine/Slots.lean ====
section
/-! DEFINITION. The issue checks and the meaning of each slot operation, from the registers as they stand at the beginning of the beat
(R65 to R76, R201, R206 to R217, R405 step 3). -/

namespace Sys2Proof.Machine

/-- Why a slot stops its beat: a sequencer fault (R98), a half-range violation (R47: resource kind, index), an absent format (R25), or
an operand out of the Tilvonko 2 view (R31: BASE). -/
inductive SFault where
  | seq (reason : Nat)
  | half (kind index : Nat)
  | fmt (code : Nat)
  | tv2 (base : Nat)
  deriving DecidableEq, Repr

/-- What a port-W access does with its row. -/
inductive Use where
  | ldn (i : Nat)
  | vld (i width part : Nat)
  | sld (brick row : Nat)
  | stream (i : Nat)
  | store (off : Nat) (bytes : List Byte) (mark : Bool)
  deriving DecidableEq, Repr

/-- A port-W access (R103): slot, precedence of R104, byte address as formed, width, tag mode. -/
structure Acc where
  slot : Nat
  code : Nat
  prio : Nat
  addr : Int
  wide : Bool
  tag : Nat
  use : Use
  deriving DecidableEq, Repr

def Acc.write (a : Acc) : Bool := match a.use with | .store _ _ _ => true | _ => false

/-- What a slot does when its beat retires. -/
inductive Act where
  | eff (lat : Nat) (e : Effect)
  /-- A harrow result with the flags that it raises. -/
  | hrw (lat : Nat) (e : Effect) (fl : Raised)
  | acc (a : Acc)
  | tile (c : Course)
  /-- Physical pairs, and the PAIRS operand. -/
  | swapOp (pairs named : BitVec 2)
  | put (k : Nat) (bytes : List Byte) (mark : Bool)
  | dgo (k : Nat) (out : Bool)
  | dtile (k : Nat)
  | dstop (k : Nat)
  | dtend (k : Nat)
  | sig (f c op v : Nat)
  | wait (c v : Nat)
  | miss (u dst : Nat) (vals : List W32) (marks : BitVec 8) (next : Nat)
  | seqOp (code op : Nat)
  deriving DecidableEq, Repr

abbrev SRes := Except SFault (List Act)

/-- Scalar ALU result (R66), op code 0x10 to 0x1A and 0x1C. -/
def scaAlu (code : Nat) (a b : W64) : W64 :=
  match code with
  | 0x10 => a + b
  | 0x11 => a - b
  | 0x12 => a * b
  | 0x13 => a &&& b
  | 0x14 => a ||| b
  | 0x15 => a ^^^ b
  | 0x16 => a <<< fld b 0 6
  | 0x17 => a >>> fld b 0 6
  | 0x18 => a.sshiftRight (fld b 0 6)
  | 0x19 => if a.slt b then a else b
  | _ => if a.slt b then b else a

/-- Iterations of counter `l` that remain, zero when its loop is not open (R66 RDL). -/
def Domain.loopLeft (x : Domain) (l : Nat) : Nat :=
  match x.loops.find? (fun p => p.ctr == l) with | some p => p.left | none => 0

/-- Address named by an address register, resolved when in buffer form (R30 to R32). -/
def Env.resolve (v : Env) (ar : Nat) : Except SFault Nat :=
  let r := v.x.areg ar
  let base := fld r 0 25
  if bitOf r 31 then
    if v.b.tvk2 && decide (base / 2 ^ 21 < 8) && decide (base % 2 ^ 21 < 393216) && !(v.fu.split && v.d.val = 1)
    then .ok (base / 2 ^ 21 * 393216 + base % 2 ^ 21) else .error (.tv2 base)
  else .ok base

/-- Narrow accesses of SCA0 (R66). -/
def scaMem (v : Env) (write : Bool) (code op : Nat) : SRes :=
  match v.resolve (nfld op 26 4) with
  | .error e => .error e
  | .ok a =>
    let use := if write then Use.store 0 (toLe 8 (v.x.sreg (opD op)).toNat) false else Use.ldn (opD op)
    .ok [.acc ⟨1, code, 4, a, false, nfld op 23 3, use⟩]

/-- SCA operations (R66). -/
def scaActs (v : Env) (code op : Nat) : SRes :=
  let lat := v.b.latOf 19
  let a := v.x.sreg (opA op)
  let b := scaB v.x op
  let wr := fun w : W64 => (.ok [.eff lat (.sreg (opD op) w)] : SRes)
  match code with
  | 0x1B => wr b
  | 0x1C => wr ((a <<< 29) ||| w64 (opImm op))
  | 0x1D => .ok [.eff lat (.flag (opD op / 8) (cmpCond (opD op % 8) a b))]
  | 0x1E => wr (w64 (v.x.loopLeft (opA op % 8)))
  | 0x1F => wr (v.x.ly (opImm op % 256))
  | 0x20 => wr (v.x.areg (opA op % 16))
  | 0x21 => scaMem v false code op
  | 0x22 => scaMem v true code op
  | _ => wr (scaAlu code a b)

/-- An address register with new BASE and TV2, STRIDE kept. -/
def aregBase (r : W64) (base tv2 : Nat) : W64 := w64 (at' (fld r 32 32) 32 + at' (tv2 % 2) 31 + base % 2 ^ 25)
def aregStep (r : W64) (n : Nat) : W64 :=
  aregBase r ((((fld r 0 25 : Nat) : Int) + n * sint 32 (fld r 32 32)) % (2 ^ 25 : Int)).toNat (fld r 31 1)

/-- AGU operations (R67). -/
def aguActs (v : Env) (code op : Nat) : SRes :=
  let lat := v.b.latOf 20
  let p := nfld op 36 4
  let q := nfld op 32 4
  let rp := v.x.areg p
  let wr := fun (i : Nat) (w : W64) => Act.eff lat (.areg i w)
  match code with
  | 0x30 => .ok [wr p (aregBase rp (nfld op 0 25) (nfld op 31 1))]
  | 0x31 => .ok [wr p (w64 (at' (nfld op 0 32) 32 + fld rp 0 32))]
  | 0x32 =>
    if nfld op 31 1 = 0 then .ok [wr p (aregStep rp 1)]
    else if p = q then .ok [wr p (aregStep rp 2)]
    else .ok [wr p (aregStep rp 1), wr q (aregStep (v.x.areg q) 1)]
  | 0x33 =>
    let l := v.x.ly (nfld op 0 8)
    .ok [wr p (w64 (at' (fld l 31 33) 31 + fld l 0 25))]
  | 0x34 => .ok [wr p (aregBase rp (fld rp 0 25 + fld (v.x.sreg (nfld op 31 5)) 0 25) (fld rp 31 1))]
  | _ => .ok [wr p (v.x.areg q)]

/-- Whether the course is busy at the beginning of the beat (R171). -/
def Domain.busy (x : Domain) : Bool := x.course.isSome

/-- Domain pairs in which a SWAP or SLD of this domain may act: half-range first, then active bricks (R47, R175). -/
def otherHalf (v : Env) (brick : Nat) : Bool := v.fu.split && decide (brick / 2 ≠ v.d.val)

/-- BRK operations (R68, R154, R160). A buffer-form operand is resolved only where the operation reads its stream: an operation that reads
none accesses nothing (R170, log 66). Where both formats are absent, 0x0305 names FMT_A (log 68). DESIGN CHOICE: where FA and FB are both out of the
Tilvonko 2 view, there is one record 0x0203, with FA's BASE (R31, log 104). -/
def brkActs (v : Env) (rid addr code op : Nat) : SRes :=
  if code = 0x3C then
    let pairs := nfld op 38 2
    let bad := (List.range 2).any (fun p => pairs / 2 ^ p % 2 = 1 && !v.fu.split && decide (v.act ≤ 2 * p))
    let other := (List.range 2).find? (fun p => pairs / 2 ^ p % 2 = 1 && v.fu.split && p != v.d.val)
    if bad then .error (.seq 10)
    else match other with
      | some p => .error (.half 4 p)
      | none =>
        let phys := (List.range 2).foldl (fun acc p => if pairs / 2 ^ p % 2 = 1 then
          setBit acc (if v.fu.split then p else v.phys (2 * p) / 2) true else acc) (0 : BitVec 2)
        .ok (if pairs = 0 then [] else [.swapOp phys (BitVec.ofNat 2 pairs)])
  else
    let ly := nfld op 32 8
    let fa := nfld op 28 4
    let fb := nfld op 24 4
    let kind := code - 0x38
    let c := tileCourse v kind ly fa fb rid addr
    if v.x.busy then .error (.seq 8)
    else match tileFault v kind ly fb c with
      | some r => .error (.seq r)
      | none =>
        if !fmtPresent v.b.formats c.fmtA then .error (.fmt c.fmtA)
        else if !fmtPresent v.b.formats c.fmtB then .error (.fmt c.fmtB)
        else
          let cost := c.beatCost v.b
          let needA := !c.emptyRed && !c.emptyOut
          let needB := needA && (kind = 2 || c.mx)
          match (if needA then v.resolve fa else .ok c.faBase), (if needB then v.resolve fb else .ok c.fbBase) with
          | .error e, _ => .error e
          | _, .error e => .error e
          | .ok a, .ok b => .ok [.tile { c with cost := cost, faBase := a, fbBase := b }]

/-- SLD (R69). With MASK 0 it reads no row, and its operand is not resolved (log 66). -/
def stbActs (v : Env) (code op : Nat) : SRes :=
  let mask := nfld op 36 4
  let bricks := (List.range 4).filter (fun b => mask / 2 ^ b % 2 = 1)
  let log := fun b => if v.fu.split then b - 2 * v.d.val else b
  let inactive := bricks.any (fun b => !otherHalf v b && decide (v.act ≤ log b))
  if inactive then .error (.seq 10)
  else match bricks.find? (otherHalf v) with
  | some b => .error (.half 4 (b / 2))
  | none =>
    if bricks = [] then .ok []
    else match v.resolve (nfld op 32 4) with
    | .error e => .error e
    | .ok a => .ok (bricks.map (fun b =>
        .acc ⟨5, code, 2, ((a + log b * 0x80000 : Nat) : Int), true, 0, .sld (v.phys (log b)) (nfld op 25 7)⟩))

/-- WIN operations (R70, R201). -/
def winActs (v : Env) (code op : Nat) : SRes :=
  let noa := decide (nfld op 28 1 = 1)
  let brick := nfld op 33 2
  let h := v.h
  let entry := nfld op 18 10
  let e := if noa then entry else (fld (v.x.areg (nfld op 29 4)) 0 25 + entry) % v.b.depth
  let part := nfld op 7 3
  let count := nfld op 7 11
  if (noa && decide (v.b.depth ≤ entry)) || (!v.fu.split && decide (v.act ≤ brick)) ||
     (if code = 0x48 then decide (v.b.depth < count) else decide (512 / h - 1 < part)) then .error (.seq 10)
  else if v.fu.split && decide (2 ≤ brick) then .error (.half 4 (1 - v.d.val))
  else
    let ph := v.phys brick
    match code with
    | 0x48 => .ok (if count = 0 then [] else [.eff (v.b.latOf 12) (.winClear ph e count)])
    | 0x49 =>
      let w := v.fu.went ph e
      let segs := segsOf 0 h
      .ok [.eff (v.b.latOf 13) (.vreg (opD op) 0 (tgets 0 w.lanes (h * part) h) segs (if w.mark then segs else 0))]
    | _ =>
      let r := v.x.vreg (opD op)
      .ok [.eff (v.b.latOf 12) (.win ph e .replace (h * part) (r.vals 0 h) (r.marks &&& segsOf 0 h != 0) 0 false false)]

/-- Elements of a lane by TYPE: one FP32 or two BF16 (R209). -/
def laneOp (ty : Nat) (g32 g16 : Nat → Nat → Nat → Val) (a b c : W32) : W32 × Raised :=
  if ty = 0 then
    let v := g32 a.toNat b.toNat c.toNat
    (w32 v.bits, v.fl)
  else
    let lo := g16 (fld a 0 16) (fld b 0 16) (fld c 0 16)
    let hi := g16 (fld a 16 16) (fld b 16 16) (fld c 16 16)
    (w32 (lo.bits + 65536 * hi.bits), lo.fl ||| hi.fl)

/-- Elements of `w` bits of a lane. -/
def laneElems (w : Nat) (g : Nat → Nat → Nat) (a b : W32) : W32 :=
  w32 ((List.range (32 / w)).foldl (fun acc i => acc + at' (g (fld a (w * i) w) (fld b (w * i) w) % 2 ^ w) (w * i)) 0)

/-- Bytes, 16-bit halves or words of a register, as a list of elements. -/
def elemsOf (w : Nat) (vs : List W32) : List Nat := vs.flatMap (fun v => (List.range (32 / w)).map (fun i => fld v (w * i) w))

/-- Elements of `w` bits gathered back into lanes. -/
def lanesOf (w : Nat) (es : List Nat) (h : Nat) : List W32 :=
  (List.range h).map (fun l =>
    w32 ((List.range (32 / w)).foldl (fun acc i => acc + at' (es.getD (l * (32 / w) + i) 0) (w * i)) 0))

/-- The reduction tree of R217 on 64 elements. -/
def treeReduce (fuel : Nat) (g : Nat → Nat → Val) (xs : List Nat) (fl : Raised) : Nat × Raised :=
  match fuel with
  | 0 => (xs.headD 0, fl)
  | n + 1 =>
    let vs := (List.range (xs.length / 2)).map (fun i => g (xs.getD (2 * i) 0) (xs.getD (2 * i + 1) 0))
    treeReduce n g (vs.map Val.bits) (vs.foldl (fun a v => a ||| v.fl) fl)

/-- Shape of a harrow operation: lane-wise, or one that mixes segments (R207). -/
def mixesSegs (code md : Nat) (op : Nat) : Bool :=
  code == 0x5E || (code == 0x5D && md / 16 != 2) || code == 0x7E || code == 0x7F ||
  (code == 0x73 && fmtMx (nfld md 2 4)) || (code == 0x72 && nfld op 29 1 == 1)

/-- Value, flags and operands read of a harrow operation on H lanes (R210 to R217). DESIGN CHOICE: SEL tests the bits of an element of C, so that −0.0
selects a (R211, log 100). -/
def hrwLanes (h code op md : Nat) (a b c : List W32) (stream seed : W64) : List W32 × Raised :=
  let ty := nfld md 4 2
  let sat := decide (nfld md 3 1 = 1)
  let fl2 := decide (nfld md 2 1 = 1)
  let rm := Rnd.ofRM (md % 4)
  let each := fun (g : W32 → W32 → W32 → W32 × Raised) =>
    let rs := (List.range h).map (fun i => g (a.getD i 0) (b.getD i 0) (c.getD i 0))
    (rs.map Prod.fst, rs.foldl (fun f r => f ||| r.2) 0)
  let fmt := nfld md 2 4
  let csat := decide (nfld op 24 1 = 1)
  let cfl := decide (nfld op 23 1 = 1)
  if code ≤ 0x55 then
    each (laneOp ty (fpArith fp32 (code - 0x50) rm sat fl2) (fpArith bf16 (code - 0x50) rm sat fl2))
  else if code = 0x56 || code = 0x57 then
    each (laneOp ty (fun x y _ => fpMinMax fp32 (code = 0x57) fl2 x y) (fun x y _ => fpMinMax bf16 (code = 0x57) fl2 x y))
  else if code = 0x58 then
    each (laneOp ty (fun x y _ => fpCompare fp32 (md % 8) sat x y) (fun x y _ => fpCompare bf16 (md % 8) sat x y))
  else if code = 0x59 then
    each (laneOp ty (fun x y z => ⟨if z ≠ 0 then x else y, 0⟩) (fun x y z => ⟨if z ≠ 0 then x else y, 0⟩))
  else if code = 0x5A then each (laneOp ty (fun x _ _ => ⟨x % 2 ^ 31, 0⟩) (fun x _ _ => ⟨x % 2 ^ 15, 0⟩))
  else if code = 0x5B then each (laneOp ty (fun x _ _ => ⟨x ^^^ 2 ^ 31, 0⟩) (fun x _ _ => ⟨x ^^^ 2 ^ 15, 0⟩))
  else if code = 0x5C then each (fun x y _ => (if opSB op then y else x, 0))
  else if code = 0x5D then
    if ty = 2 then
      let es := elemsOf 8 a
      let js := elemsOf 8 b
      (lanesOf 8 ((List.range (4 * h)).map (fun i => es.getD (i / 256 * 256 + js.getD i 0) 0)) h, 0)
    else
      let w := if ty = 0 then 32 else 16
      let es := elemsOf w a
      (lanesOf w ((elemsOf w b).map (fun j => es.getD (j % 2048) 0)) h, 0)
  else if code = 0x5E then
    let w := if ty = 0 then 32 else if ty = 1 then 16 else 8
    let es := elemsOf w a
    let r := fld (b.getD 0 0) 0 11
    (lanesOf w ((List.range es.length).map (fun i => es.getD ((i + r) % es.length) 0)) h, 0)
  else if code ≤ 0x69 then
    let w := if ty = 0 then 32 else if ty = 1 then 16 else 8
    each (fun x y _ => (laneElems w (intOp (code - 0x60) w (md % 2 = 1)) x y, 0))
  else if code = 0x70 then each (fun x _ _ => let v := cvtElem fmt rm csat cfl x.toNat; (w32 v.bits, v.fl))
  else if code = 0x71 then
    let rs := (List.range h).map (fun i =>
      cvtElem fmt (.sr (srDraw seed (fld stream 48 16) (fld stream 0 48 + i))) csat cfl (a.getD i 0).toNat)
    (rs.map (fun v => w32 v.bits), rs.foldl (fun f v => f ||| v.fl) 0)
  else if code = 0x72 then
    let scales := (List.range (h / 32)).map (fun i => mxScale fmt cfl (((a.drop (32 * i)).take 32).map BitVec.toNat))
    if nfld op 29 1 = 1 then
      ((List.range h).map (fun i => w32 (scales.getD i 0)),
        (if scales.any (fun s => s == 0xFF) then fScaleNan else 0) ||| flushedOf fp32 cfl (a.map BitVec.toNat))
    else
      let rs := (List.range h).map (fun i => cvtmxElem fmt rm csat cfl (scales.getD (i / 32) 0) (a.getD i 0).toNat)
      (rs.map (fun v => w32 v.bits), rs.foldl (fun f v => f ||| v.fl) 0)
  else if code = 0x73 then
    let rs := (List.range h).map (fun i =>
      cvtinElem fmt csat cfl (if fmtMx fmt then fld (b.getD (i / 32) 0) 0 8 else 0x7F) (a.getD i 0).toNat)
    (rs.map (fun v => w32 v.bits), rs.foldl (fun f v => f ||| v.fl) 0)
  else if code ≤ 0x7D then
    each (laneOp ty (fun x _ _ => transElem fp32 (code - 0x78) sat fl2 x) (fun x _ _ => transElem bf16 (code - 0x78) sat fl2 x))
  else
    let g := if code = 0x7E then add32 sat fl2 else fpMinMax fp32 true fl2
    let rs := (List.range (h / 64)).map (fun s => treeReduce 6 g (((a.drop (64 * s)).take 64).map BitVec.toNat) 0)
    ((List.range h).map (fun i => w32 ((rs.getD i (0, 0)).1)), rs.foldl (fun f r => f ||| r.2) 0)

/-- Latency byte of a harrow operation (R71). -/
def hrwLat (b : Build) (code : Nat) : Nat :=
  b.latOf (if code ≤ 0x55 then 14 else if code ≤ 0x69 then 15 else if code ≤ 0x73 then 16 else if code ≤ 0x7D then 18 else 17)

/-- MOD values that R209 and R213 leave undefined (R208). -/
def hrwModBad (code md : Nat) : Bool :=
  let ty := nfld md 4 2
  let fmt := nfld md 2 4
  if 0x5C = code then false
  else if 0x5D ≤ code ∧ code ≤ 0x69 then decide (ty = 3)
  else if code = 0x70 || code = 0x71 then !(fmt == 0 || fmt == 1 || fmt == 5 || fmt == 9 || fmt == 10 || fmt == 11)
  else if code = 0x72 then !fmtMx fmt
  else if code = 0x73 then decide (11 < fmt)
  else if code = 0x7E || code = 0x7F then false
  else decide (1 < ty)

/-- Lanes of a result, a lane of a poisoned segment holding a free value: its value is undefined (R198). -/
def poisonLanes (n : Nat) (marks : BitVec 8) (vs : List W32) : List W32 :=
  if marks = 0 then vs else vs.mapIdx (fun i w => if bitOf marks (i / 64) then Config.freeWord (1024 * n + i) else w)

/-- HRW operations (R208); a result lane in a poisoned segment is a free value. -/
def hrwActs (v : Env) (slot code op : Nat) : SRes :=
  let md := opMod op
  let fmt := nfld md 2 4
  if hrwModBad code md then .error (.seq 10)
  else if 0x70 ≤ code ∧ code ≤ 0x73 && !fmtPresent v.b.formats fmt then .error (.fmt fmt)
  else
    let h := v.h
    let ra := v.x.vreg (opA op)
    let rb := v.x.vreg (opB op)
    let rc := v.x.vreg (opC op)
    let bScalar := opSB op && decide (code < 0x70)
    let b := if bScalar then List.replicate h (w32 (fld (v.x.sreg (opSI op)) 0 32)) else rb.vals 0 h
    let usesA := !(code == 0x5C && opSB op)
    let usesB := !bScalar && (code ≤ 0x59 || code == 0x5D || code == 0x5E || (0x60 ≤ code && code ≤ 0x69) ||
      (code == 0x73 && fmtMx fmt))
    let usesC := decide (code ≤ 0x52) || code == 0x59
    let res := hrwLanes h code op md (ra.vals 0 h) b (rc.vals 0 h) (v.x.sreg (opB op)) (v.x.sreg (opSI op))
    let segs := segsOf 0 h
    let m := ((if usesA then ra.marks else 0) ||| (if usesB then rb.marks else 0) ||| (if usesC then rc.marks else 0)) &&& segs
    let marks := if mixesSegs code md op then (if m != 0 then segs else 0) else m
    .ok [.hrw (hrwLat v.b code) (.vreg (opD op) 0 (poisonLanes (v.free + slot) marks res.1) segs marks) res.2]

/-- HLD operations (R72, R206). -/
def hldActs (v : Env) (code op : Nat) : SRes :=
  let width := nfld op 26 2
  let part := nfld op 24 2
  match rowLanes v.h width part with
  | none => .error (.seq 10)
  | some (lo, n) =>
    match v.resolve (nfld op 31 4) with
    | .error e => .error e
    | .ok a =>
      let r := v.x.vreg (opD op)
      let rb := rowOfLanes (r.vals lo n) width part
      let use := if code = 0x90 then Use.vld (opD op) width part
        else Use.store rb.1 rb.2 (r.marks &&& segsOf lo n != 0)
      .ok [.acc ⟨9, code, 3, a, true, nfld op 28 3, use⟩]

/-- Half-range of a drill (R46, R47). -/
def drillOther (v : Env) (k : Nat) : Bool := v.fu.split && decide (k / 4 ≠ v.d.val)

/-- DRI operations; a drill armed OUT is reason 10 (R73, R134). -/
def driActs (v : Env) (code op : Nat) : SRes :=
  let k := nfld op 37 3
  let dr := v.fu.drill (drillOf k)
  if dr.st != .idle && dr.out then .error (.seq 10)
  else if drillOther v k then .error (.half 1 k)
  else .ok [match code with | 0xA0 => .dgo k false | 0xA1 => .dtile k | _ => .dstop k]

/-- DRO operations; a drill armed IN is reason 10 (R73, R134, R138). DESIGN CHOICE: the bytes of a DPUT row that the lanes moved do not reach are zero
(log 98). -/
def droActs (v : Env) (code op : Nat) : SRes :=
  let k := nfld op 37 3
  let dr := v.fu.drill (drillOf k)
  let width := nfld op 30 2
  let part := nfld op 28 2
  if dr.st != .idle && !dr.out then .error (.seq 10)
  else if code = 0xA8 then
    match rowLanes v.h width part with
    | none => .error (.seq 10)
    | some (lo, n) =>
      if drillOther v k then .error (.half 1 k)
      else
        let r := v.x.vreg (nfld op 32 5)
        let rb := rowOfLanes (r.vals lo n) width part
        let bytes := List.replicate rb.1 0 ++ rb.2
        .ok [.put k (bytes ++ List.replicate (512 - bytes.length) 0) (r.marks &&& segsOf lo n != 0)]
  else if drillOther v k then .error (.half 1 k)
  else .ok [if code = 0xA9 then .dtend k else .dgo k true]

/-- SIG operations (R74, R283, R284). -/
def sigActs (v : Env) (code op : Nat) : SRes :=
  let fn := nfld op 36 4
  let ctr := nfld op 28 8
  let val := if nfld op 27 1 = 1 then fld (v.x.sreg (nfld op 22 5)) 0 16 else nfld op 0 16
  if code = 0xB3 then (if fn ≠ 0 then .error (.seq 10) else .ok [.wait ctr val])
  else if v.b.furrows ≤ fn || !bitOf v.mine fn then .error (.seq 10)
  else .ok [.sig fn ctr (match code with | 0xB0 => 1 | 0xB1 => 2 | _ => 0) val]

/-- MISS (R75, R76, R225 to R231): the unit sees its operands and their marks of the half or furrow, zero in the lanes and segments beyond. -/
def morActs (v : Env) (slot op : Nat) (first : Bool) : SRes :=
  let u := nfld op 38 2
  let reg := (v.b.mortars.toList.getD u 0)
  let ii := fld reg 0 8
  let soon := match vat none v.x.lastMiss u with | some t => decide ((v.x.beats - t).toNat < ii) | none => false
  if v.b.mortar ≤ u || soon || !first then .error (.seq 9)
  else if v.fu.split && decide (u / 2 ≠ v.d.val) then .error (.half 3 u)
  else
    let h := v.h
    let two := decide (fld reg 16 2 = 2)
    let ra := v.x.vreg (nfld op 33 5)
    let rb := v.x.vreg (nfld op 28 5)
    let pad := fun (l : List W32) => l ++ List.replicate (v.b.lanes - l.length) 0
    let id := BitVec.ofNat 32 (fld reg 32 32)
    let ctrl := BitVec.ofNat 23 (nfld op 0 23)
    let a := pad (ra.vals 0 h)
    let b := if two then pad (rb.vals 0 h) else List.replicate v.b.lanes 0
    let segs := segsOf 0 h
    let pa := ra.marks &&& segs
    let pb := if two then rb.marks &&& segs else 0
    let state := vat 0 v.fu.mortarState u
    let res := Config.mortarResult id ctrl a b v.fu.split state
    let pres := Config.mortarMarks id ctrl a b (pa, pb) v.fu.split state
    let marks := if (pa ||| pb) != 0 then segs else pres &&& segs
    .ok [.miss u (nfld op 23 5) (poisonLanes (v.free + slot) marks ((List.range h).map (fun i => res.getD i 0))) marks
      (Config.mortarNext id ctrl a b (pa, pb) v.fu.split state)]

/-- Acts of one slot, or the fault that stops the beat. SEQ operations are checked by the sequencer. -/
def slotActs (v : Env) (rid addr : Nat) (mor0 : Option Nat) (o : SlotOp) : SRes :=
  if o.code = 0 then .ok []
  else match o.slot with
  | 0 => .ok [.seqOp o.code o.op]
  | 1 => scaActs v o.code o.op
  | 2 => scaActs v o.code o.op
  | 3 => aguActs v o.code o.op
  | 4 => brkActs v rid addr o.code o.op
  | 5 => stbActs v o.code o.op
  | 6 => winActs v o.code o.op
  | 7 => hrwActs v 7 o.code o.op
  | 8 => hrwActs v 8 o.code o.op
  | 9 => hldActs v o.code o.op
  | 10 => driActs v o.code o.op
  | 11 => droActs v o.code o.op
  | 12 => sigActs v o.code o.op
  | _ => morActs v o.slot o.op (decide (mor0 ≠ some (nfld o.op 38 2)))

end Sys2Proof.Machine
end

