-- ==== Sys2Proof/Machine/PortW.lean ====
section
/-! DEFINITION. Port W: address faults (R102), clashes (R104), ring order and occupancy (R114), tag checks (R109), causes (R40). -/

namespace Sys2Proof.Machine

def Ring.size (r : Ring) : Nat := fld r.defn 32 16
def Ring.base (r : Ring) : Nat := fld r.defn 0 16
def Ring.isOut (r : Ring) : Bool := bitOf r.defn 62

/-- The ring that holds a row, as its number (R112). -/
def Furrow.ringOf (x : Furrow) (row : Nat) : Option Nat :=
  (List.range 16).find? (fun k =>
    let r := vat Ring.none x.rings k
    decide (r.base ≤ row) && decide (row < r.base + r.size))

/-- Whether a row lies in a group that is fallow or waking (R119, R120). -/
def Furrow.asleep (x : Furrow) (row : Nat) : Bool := bitOf (x.fallow ||| x.waking) (row / 4096)
def Furrow.isFull (x : Furrow) (row : Nat) : Bool := tget false x.full row
def Furrow.isPoison (x : Furrow) (row : Nat) : Bool := tget false x.poison row
def Furrow.rowBytes (x : Furrow) (row : Nat) : List Byte := tgets 0 x.data (row * 512) 512

/-- PENDING: a port-W write to the row is in flight in some domain (R107). -/
def Furrow.isPending (x : Furrow) (row : Nat) : Bool :=
  x.doms.toList.any (fun d => d.flights.any (fun g => match g.eff with | .row a _ _ _ => a / 512 == row | _ => false))

/-- A port-W fault: sticky bit base in SP_STICKY, or a half-range violation, with the event's code and P1, P2. -/
structure PFault where
  half : Bool
  bit : Nat
  code : Nat
  p1 : Nat
  p2 : Nat
  deriving DecidableEq, Repr

/-- R47 for the bank that an access names, R102 for its address: the first of RANGE, ALIGN and FALLOW that holds (log 94). DESIGN CHOICE: a stream
address below zero is out of RANGE (R162, log 98). -/
def accFault (v : Env) (a : Acc) : Option PFault :=
  let sl := at' a.slot 24
  let low := (a.addr % (2 ^ 25 : Int)).toNat
  let mk := fun (bit reason : Nat) => some (⟨false, bit, 0x0203, sl, at' reason 28 + low⟩ : PFault)
  if a.addr < 0 || (v.b.bytes : Int) ≤ a.addr then mk 4 1
  else
    let n := a.addr.toNat
    if v.fu.split && decide ((n / 0x80000) / v.b.scratchMib ≠ v.d.val) then
      some ⟨true, 12, 0x0104, sl + n / 0x80000, v.d.val⟩
    else if n % (if a.wide then 512 else 8) ≠ 0 then mk 6 2
    else if v.fu.asleep (n / 512) then mk 8 3
    else none

/-- Accesses in the order of R104, each with the earlier access that takes its bank, if any. -/
def clashes (as : List Acc) : List (Acc × Option Acc) :=
  as.map (fun a => (a, as.find? (fun b =>
    decide (b.addr / 0x80000 = a.addr / 0x80000) && (decide (b.prio < a.prio)))))

/-- How a served access stands: it proceeds, freezes on a cause, or is out of ring order. -/
inductive Check where
  | ok
  | causes (cs : BitVec 8)
  | ring (k : Nat)
  deriving DecidableEq, Repr

/-- Whether the row is in the destination of a drill in relay mode (R40 cause 4, R147). -/
def Furrow.inRelay (x : Furrow) (row : Nat) : Bool :=
  x.drills.toList.any (fun k => k.st != .idle && decide (2 ≤ k.mode.toNat) &&
    decide (k.relayBase.toNat ≤ row) && decide (row < k.relayBase.toNat + k.relayRows.toNat))
/-- Whether the row is in an open mesh window (R40 cause 5). -/
def Furrow.inWindow (x : Furrow) (row : Nat) : Bool :=
  x.windows.toList.any (fun w => w.isOpen && decide (w.base.toNat ≤ row * 512) && decide (row * 512 < w.base.toNat + w.length.toNat))

/-- The check of a served port-W access (R109, R114): the causes that hold it back, of a row both in a relay destination and in an open window both 4
and 5 (R40), or a ring's order. -/
def accCheck (v : Env) (a : Acc) : Check :=
  let row := a.addr.toNat / 512
  match v.fu.ringOf row with
  | some k =>
    let r := vat Ring.none v.fu.rings k
    if !a.write && a.tag = 0 then .ok
    else if !a.write then
      (if r.isOut || row ≠ r.base + r.head then .ring k else if r.count = 0 then .causes 0x02 else .ok)
    else if !r.isOut || a.tag ≠ 3 || row ≠ r.base + r.tail then .ring k
    else if r.count = r.size then .causes 0x04 else .ok
  | none =>
    let full := v.fu.isFull row
    let fails := if a.write then a.tag == 3 && full else (a.tag == 1 || a.tag == 2) && !full
    let late := setBit (setBit 0 4 (v.fu.inRelay row)) 5 (v.fu.inWindow row)
    if fails then .causes (if late = 0 then 0x01 else late) else .ok

/-- Row read by a served access, at the beginning of the beat. -/
def Env.readRow (v : Env) (a : Acc) : RowBuf :=
  let row := a.addr.toNat / 512
  ⟨v.fu.rowBytes row, v.fu.isPoison row⟩

/-- The tag and ring changes of a served access at the end of its issue beat (R109, R114). -/
def Furrow.accTags (x : Furrow) (a : Acc) : Furrow :=
  let row := a.addr.toNat / 512
  let x1 := if !a.write && a.tag = 2 then { x with full := tset false x.full row false } else x
  match x.ringOf row with
  | none => x1
  | some k =>
    let r := vat Ring.none x.rings k
    if !a.write && a.tag = 2 then
      { x1 with rings := vput x1.rings k { r with head := (r.head + 1) % r.size, count := r.count - 1 } }
    else if a.write && a.tag = 3 then
      { x1 with rings := vput x1.rings k { r with tail := (r.tail + 1) % r.size, count := r.count + 1 } }
    else x1

/-- A write to bytes of one row, with the TAG and POISON that it leaves (R108, R111); in a group that has gone to sleep since the write was
checked it leaves nothing (R119). -/
def Furrow.writeRow (x : Furrow) (addr : Nat) (bytes : List Byte) (tag : Nat) (mark : Bool) : Furrow :=
  let row := addr / 512
  if x.asleep row then x
  else { x with
    data := tputs 0 x.data addr bytes
    full := if tag = 3 || tag = 4 then tset false x.full row true else x.full
    poison := if mark then tset false x.poison row true
      else if bytes.length = 512 then tset false x.poison row false else x.poison }

end Sys2Proof.Machine
end

