-- ==== Sys2Proof/Machine/Commit.lean ====
section
/-! DEFINITION. Commits at the end of a beat (R33 to R35): collisions, scratchpad rows, windrow entries (R202, R203), cells, counters. -/

namespace Sys2Proof.Machine

/-- Destination kind and index of an effect, for R35 and the audit (R53). A flag has no kind: two CMPs that commit to one flag in one beat
are no collision, and the higher slot's result stands (log 68). DESIGN CHOICE: the index of a windrow entry is 1,024 times its physical brick plus the
entry, in 0x0101 to 0x0103 too (R51, log 104). -/
def Effect.dest (e : Effect) : Option (Nat × Nat) :=
  match e with
  | .sreg i _ => some (0, i)
  | .areg i _ => some (1, i)
  | .vreg i _ _ _ _ => some (2, i)
  | .win b e' _ _ _ _ _ _ _ => some (3, winKey b e')
  | .row a _ _ _ => some (4, a / 512)
  | _ => none

/-- Whether an effect writes the destination; WCLR writes its whole range (R201). -/
def Effect.hits (e : Effect) (depth : Nat) (dst : Nat × Nat) : Bool :=
  match e with
  | .winClear b e' n => dst.1 == 3 && dst.2 / 1024 == b && decide ((dst.2 % 1024 + depth - e') % depth < n)
  | _ => e.dest == some dst

/-- The destination that the audit names for an effect: for WCLR, the first entry of its range (log 68). -/
def Effect.named (e : Effect) : Option (Nat × Nat) :=
  match e with
  | .winClear b e' _ => some (3, winKey b e')
  | _ => e.dest

/-- Whether two effects write one destination. -/
def Effect.meets (a b : Effect) (depth : Nat) : Bool :=
  match a, b with
  | .winClear p e n, .winClear q e' n' => p == q && (decide ((e' + depth - e) % depth < n) || decide ((e + depth - e') % depth < n'))
  | .winClear _ _ _, _ => (match b.dest with | some dst => a.hits depth dst | none => false)
  | _, _ => (match a.dest with | some dst => b.hits depth dst | none => false)

/-- Order of commits within one beat: ascending slot, then issue beat (R35; log 14 for two of one slot). -/
def commitBefore (a b : Flight) : Bool :=
  decide (a.slot < b.slot) || (a.slot == b.slot && (a.issue == b.issue ||
    (if Config.sameSlotLater then decide (a.issue < b.issue) else decide (b.issue < a.issue))))

def insertFlight (g : Flight) (gs : List Flight) : List Flight :=
  match gs with
  | [] => [g]
  | h :: r => if commitBefore g h then g :: h :: r else h :: insertFlight g r

def sortFlights (gs : List Flight) : List Flight := gs.foldr insertFlight []

/-- Cell set exchange of the pairs (R154). -/
def Furrow.swapPairs (x : Furrow) (ps : BitVec 2) : Furrow := { x with liveSet := x.liveSet ^^^ ps }

/-- A counter changed by op 0 set, 1 add, 2 subtract (R283). -/
def counterOp (op v : Nat) (c : W16) : W16 :=
  match op with
  | 0 => BitVec.ofNat 16 v
  | 1 => c + BitVec.ofNat 16 v
  | _ => c - BitVec.ofNat 16 v
def Furrow.changeCounter (x : Furrow) (c op v : Nat) : Furrow :=
  { x with counters := tset 0 x.counters c (counterOp op v (tget 0 x.counters c)) }

/-- One addition of R186 to a sum so far; the flags of both count. -/
def CVal.plus (c : CVal) (sat flush : Bool) (v : W32) : CVal :=
  let r := CVal.of (add32 sat flush (w32 c.bits).toNat v.toNat)
  ⟨r.bits, c.ovf || r.ovf, c.inv || r.inv⟩

/-- Additions one after another. -/
def CVal.sum (c : CVal) (as : List LaneAdd) : CVal := as.foldl (fun c a => c.plus a.sat a.flush a.val) c

/-- Where a lane's log stands in `Domain.lateAdds`. -/
def winLaneKey (b e lane : Nat) : Nat := 512 * winKey b e + lane

/-- The additions of a log that were issued after beat `issue`. -/
def LaneLog.after (log : LaneLog) (issue : Nat) : List LaneAdd := log.adds.filter (fun a => decide (issue < a.issue))

/-- The value `v` added, by an operation issued in beat `issue`, to a lane that reads `old`: where additions issued later have committed to the
lane already, they are made again after it, so that the additions stand in issue order (R186, log 73). -/
def addInOrder (log : LaneLog) (old : W32) (issue : Nat) (sat flush : Bool) (v : W32) : CVal :=
  let later := log.after issue
  let before := if later = [] then old
    else w32 (CVal.sum ⟨log.base.toNat, false, false⟩ (log.adds.filter (fun a => decide (a.issue < issue)))).bits
  CVal.sum ((⟨before.toNat, false, false⟩ : CVal).plus sat flush v) later

/-- The lane that a write which does not add to its entry leaves: its value, with the bias entry as it stood at the beginning of the beat in which it
commits (R186, R202). -/
def winStart (x0 : Furrow) (b : Nat) (mode : WinMode) (sat flush : Bool) (lane : Nat) (v : W32) : CVal :=
  match mode with
  | .bias e' => CVal.of (add32 sat flush (tget 0 (x0.went b e').lanes lane).toNat v.toNat)
  | .copyBias e' => ⟨(tget 0 (x0.went b e').lanes lane).toNat, false, false⟩
  | _ => ⟨v.toNat, false, false⟩

/-- The log that a write of slot `slot`, issued in beat `issue`, finds of a lane: only course writes stand in R186's order. -/
def Furrow.laneLog (x : Furrow) (d : Dom) (slot b e lane : Nat) : LaneLog :=
  if slot = 4 then tget LaneLog.none (x.dom d).lateAdds (winLaneKey b e lane) else LaneLog.none

/-- A lane of a windrow write of domain `d`, issued in beat `issue` from slot `slot`, on the lane of `x`: the entry as R202 gives it, with what an
earlier issued course write has left in the same beat (R186, log 73). Additions issued later that have committed already stand after it. -/
def winLane (x x0 : Furrow) (d : Dom) (slot issue b e : Nat) (mode : WinMode) (sat flush : Bool) (lane : Nat) (v : W32) : CVal :=
  let log := x.laneLog d slot b e lane
  match mode with
  | .accum => addInOrder log (tget 0 (x.went b e).lanes lane) issue sat flush v
  | _ => CVal.sum (winStart x0 b mode sat flush lane v) (log.after issue)

/-- A windrow write (R202, R203), with `x0` the furrow at the beginning of the beat; the mark of the written value is returned. A poisoned
addend is a free value of its lane, and the sum and its flags are computed from it; marks change no lane (R198, R203). -/
def Furrow.commitWin (x x0 : Furrow) (d : Dom) (slot issue b e : Nat) (mode : WinMode) (lo : Nat) (vals : List W32) (mark sat flush : Bool) :
    Furrow × Bool :=
  let biasMark := match mode with
    | .bias e' => (x0.went b e').mark
    | .copyBias e' => (x0.went b e').mark
    | _ => false
  let m := mark || biasMark
  let old := x.went b e
  let rs : List CVal := vals.mapIdx (fun i v => winLane x x0 d slot issue b e mode sat flush (lo + i) v)
  let whole := vals.length = 512 && (match mode with | .replace => true | .copyBias _ => true | _ => false)
  let entry : WEntry := ⟨tputs 0 old.lanes lo (rs.map (fun r => w32 r.bits)), if whole then m else old.mark || m⟩
  let x1 := { x with windrow := tset WEntry.zero x.windrow (winKey b e) entry }
  let poisoned := entry.mark && m
  let x2 := if poisoned then { x1 with wrSticky := setBit x1.wrSticky d.val true } else x1
  (x2.wrFlags d (rs.any (fun r => r.ovf)) (rs.any (fun r => r.inv)), poisoned)

/-- WCLR (R201). -/
def clearEntries (depth b e n : Nat) (t : Tab WEntry) : Tab WEntry :=
  match n with
  | 0 => t
  | k + 1 => clearEntries depth b ((e + 1) % depth) k (tset WEntry.zero t (winKey b (e % depth)) WEntry.zero)

/-- One accumulator row of an OS step (R168, R187): columns `bs` against the row's element `a`. -/
def macRow (fmtA fmtB : Nat) (first sat flush : Bool) (step a : Nat) (bs : List Nat) (mark : Bool) (free : Nat) (r : CellRow) :
    CellRow × Bool × Bool :=
  let rs := bs.mapIdx (fun n b =>
    let p := brickProd fmtA fmtB flush a b 0x7F 0x7F
    if first then roundProd sat flush p else fuseProd sat flush (r.acc (n * step)).toNat p)
  let accs := rs.mapIdx (fun n v => (n * step, some (if mark || (!first && r.mark) then Config.freeWord (1024 * free + n) else w32 v.bits)))
  (⟨r.wt, tputAll none r.accs accs, if first then mark else r.mark || mark⟩,
    rs.any (fun v => v.ovf), rs.any (fun v => v.inv))

/-- An OS step on one brick: every valid cell row; the sum of a column of the 16-bit class stands in physical column 2n (R153, log 95). DESIGN CHOICE:
cells outside the logical output, rows from K and columns from N on, keep what they held (R168, log 105). -/
def macBrick (fmtA fmtB : Nat) (first sat flush : Bool) (aMark : Bool) (free : Nat) (brick set : Nat) (bs : List Nat) (bMark : Bool)
    (as : List Nat) (k : Nat) (x : Furrow) (d : Dom) : Furrow :=
  match as with
  | [] => x
  | a :: r =>
    let step := if fmtWidth fmtB = 16 then 2 else 1
    let o := macRow fmtA fmtB first sat flush step a bs (aMark || bMark) (free + 128 * brick + k) (x.cell brick set k)
    let x1 := { x with cells := tset CellRow.zero x.cells (cellKey brick set k) o.1 }
    macBrick fmtA fmtB first sat flush aMark free brick set bs bMark r (k + 1) (x1.wrFlags d o.2.1 o.2.2) d

/-- Writes lanes and segment marks of a vector register (R206, R207). -/
def VReg.put (r : VReg) (lo : Nat) (vals : List W32) (segs marks : BitVec 8) : VReg :=
  ⟨tputs 0 r.lanes lo vals, (r.marks &&& ~~~segs) ||| (marks &&& segs)⟩

/-! ### Additions in issue order (R186) -/

/-- Whether a flight is a course write to entry `e` of brick `b`. -/
def Flight.writes (g : Flight) (b e : Nat) : Bool :=
  g.slot == 4 && (match g.eff with | .win b' e' _ _ _ _ _ _ _ => b' == b && e' == e | _ => false)

/-- Whether a course write to entry `e` of brick `b` that was issued before beat `issue` is in flight (R186). -/
def addsEarlier (flights : List Flight) (b e issue : Nat) : Bool :=
  flights.any (fun g => g.writes b e && decide (g.issue < issue))

/-- An addition in issue order among others. -/
def insertAdd (a : LaneAdd) (as : List LaneAdd) : List LaneAdd :=
  as.filter (fun c => decide (c.issue < a.issue)) ++ a :: as.filter (fun c => !decide (c.issue < a.issue))

/-- What the commit of a course write leaves of a lane's log. An addition before which another course write is still to be put (`earlier`) joins it,
with the lane before it; a write that does not add keeps of the log the additions that stand after it (R186). -/
def lateLane (x x0 : Furrow) (earlier : Bool) (issue b e : Nat) (mode : WinMode) (sat flush : Bool) (lane : Nat) (v : W32) (log : LaneLog) : LaneLog :=
  match mode with
  | .accum =>
    if log.adds = [] then (if earlier then ⟨tget 0 (x.went b e).lanes lane, [⟨issue, sat, flush, v⟩]⟩ else log)
    else { log with adds := insertAdd ⟨issue, sat, flush, v⟩ log.adds }
  | _ => if log.after issue = [] then LaneLog.none else ⟨w32 (winStart x0 b mode sat flush lane v).bits, log.after issue⟩

/-- The logs of domain `d` after a windrow write commits to `x`: a course write goes into those of its lanes, WWR ends them. -/
def Furrow.lateWin (x x0 : Furrow) (d : Dom) (slot issue b e : Nat) (mode : WinMode) (lo : Nat) (vals : List W32) (sat flush : Bool) : Tab LaneLog :=
  let t := (x.dom d).lateAdds
  let earlier := addsEarlier (x.dom d).flights b e issue
  if slot ≠ 4 then tclear t (winLaneKey b e lo) (winLaneKey b e (lo + vals.length))
  else if t = [] ∧ !earlier then t
  else (vals.zipIdx lo).foldl (fun t (p : W32 × Nat) =>
    tset LaneLog.none t (winLaneKey b e p.2) (lateLane x x0 earlier issue b e mode sat flush p.2 p.1 (tget LaneLog.none t (winLaneKey b e p.2)))) t

/-- Applies one effect, issued in beat `issue` from slot `slot`, to the furrow; `x0` is the furrow at the beginning of the beat. Returns the poisoned windrow entry,
if any. -/
def Furrow.applyEff (x x0 : Furrow) (depth : Nat) (d : Dom) (free slot issue : Nat) (e : Effect) : Furrow × Option (Nat × Nat) :=
  let y := x.dom d
  match e with
  | .sreg i v => (x.setDom d { y with sregs := vput y.sregs i v }, none)
  | .areg i v => (x.setDom d { y with aregs := vput y.aregs i v }, none)
  | .flag i v => (x.setDom d { y with flags := setBit y.flags i v }, none)
  | .vreg i lo vals segs marks => (x.setDom d { y with vregs := vput y.vregs i ((y.vreg i).put lo vals segs marks) }, none)
  | .win b e' mode lo vals mark _ sat flush =>
    let o := x.commitWin x0 d slot issue b e' mode lo vals mark sat flush
    (o.1.setDom d { y with lateAdds := x.lateWin x0 d slot issue b e' mode lo vals sat flush }, if o.2 then some (b, e') else none)
  | .winClear b e' n =>
    (({ x with windrow := clearEntries depth b e' n x.windrow }).setDom d
      { y with lateAdds := y.lateAdds.filter (fun p => !e.hits depth (3, p.1 / 512)) }, none)
  | .row a bytes tag mark => (x.writeRow a bytes tag mark, none)
  | .standby b row bytes mark =>
    ({ x with cells := tset CellRow.zero x.cells (cellKey b (1 - x.liveOf b) row) ⟨bytes, [], mark⟩ }, none)
  | .swap ps _ _ => (x.swapPairs ps, none)
  | .mac fa fb first sat flush as aMark bs =>
    (bs.foldl (fun z q => macBrick fa fb first sat flush aMark free q.1 q.2.1 q.2.2.1 q.2.2.2 as 0 z d) x, none)
  | .counter c op v => (x.changeCounter c op v, none)

/-- Position of an effect among the commits of one beat: products before exchanges, exchanges before standby loads (R69, R155). -/
def Effect.phase (e : Effect) : Nat := match e with | .mac .. => 0 | .swap .. => 1 | .standby .. => 3 | _ => 2

/-- Records an audit event once for each word and slot after a START, up to 64 combinations (R52). -/
def State.auditEvent (s : State) (f : Fur) (d : Dom) (bit code rid addr slot kind index p2 : Nat) : State :=
  let y := s.dom f d
  if y.combos.contains (addr, slot) || decide (64 ≤ y.combos.length) then
    s.setDom f d { y with auditSup := satInc y.auditSup }
  else
    ((s.setDom f d { y with combos := (addr, slot) :: y.combos, auditRec := satInc y.auditRec }).modFur f
      (fun x => { x with sticky := setBit x.sticky (bit + d.val) true })).offer code (srcDom f d) (posWord rid addr)
      (at' slot 24 + at' kind 16 + index) p2

/-- Event 0x0102 of an overtaken write, in the beat in which it commits or R35 discards it (R51: the event names that write, log 68). -/
def State.overtakenEvent (s : State) (f : Fur) (d : Dom) (g : Flight) : State :=
  if g.overtaken = 0 then s
  else match g.eff.named with
    | some (k, i) => s.auditEvent f d 18 0x0102 g.rid g.addr g.slot k i g.overtaken
    | none => s

/-- Commits the operations of `gs` in order, with the event of an overtaken write (R51); the first poisoned windrow write since START is event 0x0310
(R218), whose P1 names the physical brick (DESIGN CHOICE, log 68). -/
def State.commitList (s : State) (x0 : Furrow) (f : Fur) (d : Dom) (gs : List Flight) : State :=
  match gs with
  | [] => s
  | g :: r =>
    let o := (s.fur f).applyEff x0 s.build.depth d s.free g.slot g.issue g.eff
    let s1 := { s.setFur f o.1 with free := match g.eff with | .mac .. => s.free + 512 | _ => s.free }
    let s2 := match o.2 with
      | some (b, e) =>
        if (s1.dom f d).winFirst then s1
        else (s1.modDom f d (fun y => { y with winFirst := true })).offer 0x0310 (srcDom f d) (posWord g.rid g.addr)
          (at' b 24 + e) d.val
      | none => s1
    (s2.overtakenEvent f d g).commitList x0 f d r

/-- Event 0x0103 and WCOLLIDE for each discarded result (R35); P0 names the word of the kept result (log 68). -/
def State.collide (s : State) (f : Fur) (d : Dom) (ps : List (Flight × Flight)) : State :=
  match ps with
  | [] => s
  | (kept, lost) :: r =>
    let dst := lost.eff.dest.getD (0, 0)
    let s1 := s.modFur f (fun x => { x with sticky := setBit x.sticky (10 + d.val) true })
    (s1.offer 0x0103 (srcDom f d) (posWord kept.rid kept.addr) (at' kept.slot 24 + at' lost.slot 16 + dst.2) dst.1).collide f d r

/-- A course result with a checked sum of a brick whose residue check fails: poisoned, its value a free one (R174). -/
def spoil (n : Nat) (mask : BitVec 4) (g : Flight) : Flight :=
  match g.eff with
  | .win b e mode lo vals _ sums sat flush =>
    if sums &&& mask != 0 then
      { g with eff := .win b e mode lo (vals.mapIdx (fun i _ => Config.freeWord (1024 * n + i))) true sums sat flush }
    else g
  | .mac fa fb first sat flush as aMark bs =>
    { g with eff := .mac fa fb first sat flush as aMark (bs.map (fun q => (q.1, q.2.1, q.2.2.1, q.2.2.2 || bitOf mask q.1))) }
  | _ => g

def spoiled (b : Nat) (g : Flight) : Bool :=
  match g.eff with
  | .win _ _ _ _ _ _ sums _ _ => bitOf sums b
  | .mac _ _ _ _ _ _ _ bs => bs.any (fun q => q.1 == b)
  | _ => false

/-- Event 0x0302, with the word that issued the tile operation and the physical brick (log 68); the second mismatch within 1 ms disables the pair
(R174). DESIGN CHOICE: one that comes exactly 1 ms after the first is no longer within it (log 101). -/
def State.mismatchBrick (s : State) (f : Fur) (d : Dom) (g : Flight) (b : Nat) : State :=
  let s1 := s.offer 0x0302 (srcDom f d) (posWord g.rid g.addr) b (g.code - 0x38)
  let last := vat none (s.fur f).mismatch b
  let s2 := s1.modFur f (fun x => { x with mismatch := vput x.mismatch b (some s.time) })
  match last with
  | some t => if s.since t < 1000000 then s2.disablePair f b 1 else s2
  | none => s2

def State.mismatches (s : State) (f : Fur) (d : Dom) (mask : BitVec 4) (gs : List Flight) : State :=
  (List.range 4).foldl (fun s b =>
    if bitOf mask b then (match gs.find? (spoiled b) with | some g => s.mismatchBrick f d g b | none => s) else s) s

/-- Two exchanges of one pair at the end of one beat make one; the explicit one is absorbed (R154). DESIGN CHOICE: the automatic
exchange of an OS tile counts in the beat in which its cells exchange, s + byte 9 - 1 (R168), so an explicit SWAP is absorbed where it exchanges in that
beat (log 101). -/
def mergeSwaps (gs : List Flight) : List Flight × List Flight :=
  let autos := gs.foldl (fun acc g => match g.eff with | .swap p _ true => acc ||| p | _ => acc) (0 : BitVec 2)
  (gs.map (fun g => match g.eff with
      | .swap p n false => { g with eff := .swap (p &&& ~~~autos) n false }
      | _ => g),
    gs.filter (fun g => match g.eff with | .swap p _ false => p &&& autos != 0 | _ => false))

/-- Whether a row lies in the banks of domain `d` (R46). -/
def inHalf (split : Bool) (mib : Nat) (d : Dom) (row : Nat) : Bool := !split || row / 1024 / mib == d.val

/-- The rows that port W has written on this tick of domain `d` (R110). -/
def wRowsOf (d : Dom) (gs : List Flight) : List WRow :=
  gs.filterMap (fun g => match g.eff with | .row a bytes _ mark => some ⟨d, a, bytes.length, mark⟩ | _ => none)

/-- A further tick of domain `d` begins: what port S commits from now on is of a later one (R110, log 22). -/
def State.dropW (s : State) (f : Fur) (d : Dom) : State :=
  s.modFur f (fun x => { x with wRows := x.wRows.filter (fun w => w.dom != d) })

/-- Whether the later issued of two course writes adds to what the other leaves: both stand, in issue order (R186, log 73). -/
def joins (g h : Flight) : Bool :=
  let adds := fun (g : Flight) => match g.eff with | .win _ _ .accum _ _ _ _ _ _ => true | _ => false
  g.slot == 4 && h.slot == 4 && ((decide (g.issue < h.issue) && adds h) || (decide (h.issue < g.issue) && adds g))

/-- The operation that discards the result of `g` among those that commit in its beat (R35); course writes count as slot 4 (R171, R202), and an
addition of the course to another of its writes is no such pair (R186). -/
def lostTo (depth : Nat) (g : Flight) (later : List Flight) : Option Flight :=
  match g.eff.dest with
  | some dst => (later.filter (fun (h : Flight) => h.eff.hits depth dst && !joins g h)).getLast?
  | none => none

/-- Course writes in issue order, before and among the other commits of a beat (R186). -/
def insertIssue (g : Flight) (gs : List Flight) : List Flight :=
  match gs with
  | [] => [g]
  | h :: r => if g.slot = 4 ∧ h.slot = 4 ∧ h.issue < g.issue then h :: insertIssue g r else g :: h :: r
def inIssueOrder (gs : List Flight) : List Flight := gs.foldr insertIssue []

/-- A log stands while a course write to its entry that was issued before an addition of it is in flight. -/
def lateLogs (flights : List Flight) (t : Tab LaneLog) : Tab LaneLog :=
  t.filter (fun p => p.2.adds.any (fun a => addsEarlier flights (p.1 / 512 / 1024) (p.1 / 512 % 1024) a.issue))

/-- Every operation whose beat has come commits at the end of this beat (R33 to R35). -/
def State.commitDue (s : State) (f : Fur) (d : Dom) (mask : BitVec 4) : State :=
  let y := s.dom f d
  let depth := s.build.depth
  let due := sortFlights (y.flights.filter (fun g => decide (g.due ≤ y.beat)))
  let rest := y.flights.filter (fun g => !decide (g.due ≤ y.beat))
  let pairs := due.mapIdx (fun i g => (g, lostTo depth g (due.drop (i + 1))))
  let kept := (pairs.filter (fun p => p.2.isNone)).map (fun p => p.1)
  let lost := pairs.filterMap (fun p => p.2.map (fun k => (k, p.1)))
  let sw := mergeSwaps kept
  let ordered := (List.range 4).flatMap (fun ph => inIssueOrder (sw.1.filter (fun g => g.eff.phase == ph)))
  let s0 := { s.modDom f d (fun y => { y with flights := rest }) with free := s.free + due.length }
  let spoiledOnes := ordered.mapIdx (fun i g => spoil (s.free + i) mask g)
  let s1 := (s0.commitList (s.fur f) f d spoiledOnes).modDom f d (fun y => { y with
    lateAdds := lateLogs rest y.lateAdds })
  let s2 := (lost.foldl (fun s p => s.overtakenEvent f d p.2) s1).collide f d lost
  let s3 := sw.2.foldl (fun s g => match g.eff with
    | .swap _ n _ => s.offer 0x0303 (srcDom f d) (posWord g.rid g.addr) n.toNat d.val
    | _ => s) s2
  ((s3.dropW f d).modFur f (fun x => { x with wRows := x.wRows ++ wRowsOf d kept })).mismatches f d mask ordered

end Sys2Proof.Machine
end

