-- ==== Sys2Proof/Machine/Sequencer.lean ====
section
/-! DEFINITION. Control flow of the sequencer: loops, calls, returns and ends (R77 to R84). -/

namespace Sys2Proof.Machine

def Routine.valid (r : Routine) : Bool := bitOf r.ctrl 63
def Routine.placement (r : Routine) : Nat := fld r.ctrl 46 2
def Routine.bricks (r : Routine) : Nat := 2 * fld r.ctrl 44 2
def Routine.reach (r : Routine) : BitVec 8 := BitVec.ofNat 8 (fld r.ctrl 36 8)
def Routine.length (r : Routine) : Nat := fld r.ctrl 18 18
def Routine.addr (r : Routine) : Nat := fld r.ctrl 0 18
def Furrow.routine (x : Furrow) (i : Nat) : Routine := tget Routine.zero x.routines i

/-- Address after `n` words from `a`, or none when a word ends beyond `limit`. -/
def skipWords (st : Tab Byte) (limit n a : Nat) : Option Nat :=
  match n with
  | 0 => if a ≤ limit then some a else none
  | k + 1 => if limit < a then none else skipWords st limit k (a + storedSize st a)

/-- Placement a domain runs (R49). -/
def placementOf (split : Bool) (d : Dom) : Nat := if split then d.val + 1 else 0

/-- Store segments that a routine's code touches. -/
def segsTouched (addr len : Nat) : BitVec 8 :=
  (List.range 8).foldl (fun acc k => if 0 < len ∧ addr < 32768 * (k + 1) ∧ 32768 * k < addr + len then setBit acc k true else acc) 0

/-- Bricks of the furrow that FT_BRICKS.ACTIVE shows (R23, R175). -/
def Env.shown (v : Env) : Nat :=
  let built := v.b.bricksOf v.f.val
  2 * b2n (bitOf v.fu.inService 0 && decide (2 ≤ built)) + 2 * b2n (bitOf v.fu.inService 1 && decide (4 ≤ built))

/-- Whether a call target is refused (R81), against the REACH held since START (R91). -/
def callRefused (v : Env) (target : Nat) : Bool :=
  let r := v.fu.routine target
  !r.valid || r.placement != placementOf v.fu.split v.d || decide (v.shown < r.bricks) ||
    (segsTouched r.addr r.length &&& ~~~v.x.held != 0)

/-- Count of a LOOP word: COUNT, or live LY[LYN] bits [31:0] (R65). -/
def loopCount (x : Domain) (op : Nat) : Nat :=
  if nfld op 36 1 = 1 then fld (x.ly (nfld op 0 8)) 0 32 else nfld op 0 20

/-- End of the innermost enclosing body of the current routine, or the routine's own end. -/
def bodyLimit (v : Env) : Nat :=
  match v.x.loops with
  | l :: _ => if l.depth = v.x.stack.length then l.stop else v.x.stop
  | [] => v.x.stop

/-- Reasons 4, 5 and 6 of a SEQ operation in the last beat of its word (R78, R81, R405). `next` is the address after the word. -/
def seqFault (v : Env) (endBit : Bool) (next code op : Nat) : Option Nat :=
  match code with
  | 1 =>
    if v.x.loops.any (fun l => l.ctr == nfld op 37 3) || endBit then some 4
    else if (skipWords v.fu.pstore (bodyLimit v) (nfld op 20 16) next).isNone then some 4 else none
  | 2 => if 8 ≤ v.x.stack.length then some 5 else if callRefused v (nfld op 32 8) then some 6 else none
  | 3 =>
    if bitOf v.x.flags (nfld op 30 2) == decide (nfld op 29 1 = 1) then
      (if 8 ≤ v.x.stack.length then some 5 else if callRefused v (nfld op 32 8) then some 6 else none)
    else none
  | _ => none

/-- Loops that end at `next` advance, the innermost first; the address to attempt next and the loops left open (R77, R78). -/
def advLoops (depth next : Nat) (ls : List Loop) : Nat × List Loop :=
  match ls with
  | [] => (next, [])
  | l :: r =>
    if l.depth = depth ∧ l.stop = next then
      (if 1 < l.left then (l.start, { l with left := l.left - 1 } :: r) else advLoops depth next r)
    else (next, l :: r)

/-- The routine ends: DRAINING, loops abandoned, the course cut (R82, R171). -/
def Domain.finishRoutine (x : Domain) : Domain :=
  { x with st := .draining, loops := [], stack := [], idle := 0, endAfter := false, done := 0, causes := 0, frozenSince := none }

/-- END or RET takes effect: the routine ends at depth 0, else returns with two beats of no issue (R80, R82). -/
def Domain.takeEnd (x : Domain) : Domain :=
  match x.stack with
  | [] => x.finishRoutine
  | fr :: r =>
    { x with
      stack := r, rid := fr.rid, pos := fr.ret, stop := fr.stop, bricks := fr.bricks, idle := 2, endAfter := fr.endPending, done := 0
      loops := x.loops.filter (fun l => decide (l.depth < x.stack.length)) }

/-- A call that is made (R80, R82, R86): the table entry `t` of the target is read here, and `ret` is the word after the caller's call
word. -/
def Domain.makeCall (x : Domain) (target : Nat) (t : Routine) (ret : Nat) (endBit : Bool) (loops : List Loop) : Domain :=
  { x with
    stack := ⟨x.rid, ret, x.stop, x.bricks, endBit⟩ :: x.stack, rid := target, pos := t.addr, stop := t.addr + t.length
    bricks := t.bricks, idle := 2, done := 0, loops := loops }

/-- Control flow at the end of a retired beat that issued a word: `next` is the address after the word (R59, R77 to R82). -/
def Domain.afterWord (x : Domain) (fu : Furrow) (w : Word) (next : Nat) (seq : Option (Nat × Nat)) : Domain :=
  if x.done < w.extra then { x with done := x.done + 1 }
  else
    let adv := advLoops x.stack.length next x.loops
    let y := { x with done := 0, pos := adv.1, loops := adv.2 }
    let plain := if w.endBit then y.takeEnd else y
    match seq with
    | none => plain
    | some (1, op) =>
      let body := nfld op 20 16
      let count := loopCount x op
      let stop := (skipWords fu.pstore (2 ^ 18) body next).getD next
      if count = 0 || body = 0 then
        let a := advLoops x.stack.length stop x.loops
        { x with done := 0, pos := a.1, loops := a.2, idle := 2 }
      else
        { x with done := 0, pos := next, loops := ⟨nfld op 37 3, x.stack.length, next, stop, count⟩ :: x.loops }
    | some (2, op) => y.makeCall (nfld op 32 8) (fu.routine (nfld op 32 8)) adv.1 w.endBit adv.2
    | some (3, op) =>
      if bitOf x.flags (nfld op 30 2) == decide (nfld op 29 1 = 1) then
        y.makeCall (nfld op 32 8) (fu.routine (nfld op 32 8)) adv.1 w.endBit adv.2
      else { y with idle := 2, endAfter := w.endBit }
    | some (4, _) => y.takeEnd
    | some (5, _) => y.finishRoutine
    | some _ => plain

/-- Control flow at the end of a retired beat in which no slot issued (R80, R82). -/
def Domain.afterIdle (x : Domain) : Domain :=
  if x.idle ≤ 1 then
    (if x.endAfter then { x with idle := 0, endAfter := false }.takeEnd else { x with idle := 0 })
  else { x with idle := x.idle - 1 }

end Sys2Proof.Machine
end

