-- ==== Sys2Proof/Machine/Abandon.lean ====
section
/-! DEFINITION. Abandoned work (R330): stopping drills (R133, R135), thawing a domain (R54), freeing scoreboard entries (R118), and the
register clearing that SPLIT, an L2, an L3 and a reassignment share (R48, R256, R327). -/

namespace Sys2Proof.Machine

/-! ### Region scoreboard (R116 to R118) -/

def State.leaveBoardOpt (s : State) (f : Fur) (r : Option CmdRef) : State :=
  match r with
  | some c => s.modFur f (fun x => x.leaveBoard c)
  | none => s

/-! ### Drills -/

/-- The drill in IDLE: list, bases, put queue, landed rows and latched DGO dropped; counters and the last fault kept (R133, R135, R138). -/
def Drill.toIdle (x : Drill) : Drill :=
  { Drill.atReset with
    rows := x.rows, poisoned := x.poisoned, waits := x.waits, faultDesc := x.faultDesc, faultStatus := x.faultStatus,
    faultReason := x.faultReason }

/-- Segment references that the drill's blocks hold (R132, R266). -/
def Drill.segs (x : Drill) : List Nat := x.blocks.filterMap Block.seg

/-- Drops the port-S transfers of one agent. -/
def Furrow.dropXfers (x : Furrow) (a : Agent) : Furrow := { x with xfers := x.xfers.filter (fun t => t.agent != a) }

/-- Drops the transfers of drill `k`: its own, and of a drill in relay mode the one by which the relay input writes its row. -/
def Furrow.dropDrill (x : Furrow) (k : DrillNo) : Furrow :=
  let y := x.dropXfers (.drill k)
  if (x.drill k).isRecv then y.dropXfers .relay else y

/-- Takes a drill to IDLE: rows not yet landed are discarded, block references end, a waiting DISARM_DRILL completes, and the command that
armed the list completes with `status` and the rows given (R133, R135). -/
def State.idleDrill (s : State) (f : Fur) (k : DrillNo) (status r0 r1 : Nat) : State :=
  let x := s.drill f k
  let s1 := (s.unrefSegs x.segs).modFur f (fun z => (z.dropDrill k).setDrill k x.toIdle)
  x.disarm.foldl (fun s r => s.finish r stOk 0 0) (s1.finishOpt x.cmd status r0 r1)

/-- The drill in PARKED: list, bases and descriptor store kept (R133, R137, R148). -/
def Drill.toParked (x : Drill) : Drill :=
  { x with
    st := .parked, latched := none, fetched := [], next := 0, tile := 0, midTile := false, credit := 0,
    tilePut := none, ended := [], blocks := [], landing := [], cmd := none, listRows := 0, listPois := 0, lastSeen := false }

/-- The list has ended or stopped: PARKED or IDLE, and the command completes with the rows moved and poisoned (R133, R136). -/
def State.endList (s : State) (f : Fur) (k : DrillNo) : State :=
  let x := s.drill f k
  let st := if x.listPois = 0 then stOk else stPoisoned
  if x.persist && x.disarm.isEmpty then (s.setDrill f k x.toParked).finishOpt x.cmd st x.listRows x.listPois
  else s.idleDrill f k st x.listRows x.listPois

/-- The list starts: RUNNING; a list with COUNT zero ends at once (R134, R136). -/
def State.startList (s : State) (f : Fur) (k : DrillNo) : State :=
  let s1 := s.modDrill f k (fun x => { x with st := .running, latched := none })
  if (s.drill f k).count = 0 then s1.endList f k else s1

/-- A drill stopped by a thaw of its domain or by an L2: requests already granted complete, and the list ends with BUSY and the rows moved
before the stop (R327, R330, log 77). -/
def State.stopDrill (s : State) (f : Fur) (k : DrillNo) : State :=
  let s1 := s.flushDrill f k
  let x := s1.drill f k
  s1.idleDrill f k stBusy x.listRows x.listPois

/-- Drills of a freeze domain: all eight, or the half's four (R46, R125). -/
def domDrills (split : Bool) (d : Dom) : List DrillNo :=
  if split then (if d = 0 then [0, 1, 2, 3] else [4, 5, 6, 7]) else [0, 1, 2, 3, 4, 5, 6, 7]

def State.stopDrills (s : State) (f : Fur) (ks : List DrillNo) : State := ks.foldl (fun s k => s.stopDrill f k) s

/-- A drill disarmed by SPLIT, the join or a reassignment: a list that never started completes with BUSY and zero rows (R48, R256). DESIGN CHOICE: the
latched DGO of an IDLE drill is dropped too (R135, log 102). -/
def State.disarmDrills (s : State) (f : Fur) : State :=
  (domDrills false 0).foldl (fun s k => s.idleDrill f k stBusy 0 0) s

/-! ### Freeze domains -/

/-- The work of a domain ends: routine, operations in flight, course and holds (R54, R330). -/
def Domain.abandon (x : Domain) : Domain :=
  { x with
    flights := [], lateAdds := [], course := none, loops := [], stack := [], idle := 0, endAfter := false, done := 0, held := 0, cmd := none,
    causes := 0, frozenSince := none, startLeft := 0, pairLost := false }

/-- MO_ABANDON to every unit of domain `d` (R233). -/
def Furrow.abandonMortars (x : Furrow) (b : Build) (d : Dom) : Furrow :=
  { x with mortarState := x.mortarState.mapIdx (fun u n =>
      if u < b.mortar ∧ (if x.split then u / 2 = d.val else d.val = 0)
      then Config.mortarAbandon (w32 (fld (b.mortars.toList.getD u 0) 32 32)) n else n) }

/-- The START or CALL of a domain completes with BUSY, its entries are freed, and the domain's work is abandoned (R330). -/
def State.abandonDom (s : State) (f : Fur) (d : Dom) : State :=
  let y := s.dom f d
  (((s.leaveBoardOpt f y.cmd).modDom f d Domain.abandon).modFur f (fun x => x.abandonMortars s.build d)).finishOpt y.cmd stBusy 0 0

/-- The registers of a domain at zero: scalar, address and vector registers, flags, loops, both layer banks (R48, R256, R327). -/
def Domain.clearRegs (x : Domain) : Domain :=
  { x with
    sregs := Vector.replicate 32 0, aregs := Vector.replicate 16 0, flags := 0, vregs := Vector.replicate 32 VReg.zero,
    live := [], next := [], loops := [], lastMiss := Vector.replicate 4 none }

def Domain.setSt (x : Domain) (st : DomState) : Domain := { x with st := st }

/-- Windrow entries of physical bricks [lo, hi) at zero, marks clear. -/
def Furrow.clearWindrow (x : Furrow) (lo hi : Nat) : Furrow := { x with windrow := tclear x.windrow (winKey lo 0) (winKey hi 0) }

/-- Cell sets of physical bricks [lo, hi) at zero. -/
def Furrow.clearCells (x : Furrow) (lo hi : Nat) : Furrow := { x with cells := tclear x.cells (cellKey lo 0 0) (cellKey hi 0 0) }

/-- Rings [lo, hi) undefined; their rows keep TAG and POISON (R122). -/
def Furrow.clearRings (x : Furrow) (lo hi : Nat) : Furrow :=
  { x with rings := x.rings.mapIdx (fun i r => if lo ≤ i ∧ i < hi then Ring.none else r) }

/-- MO_RST of units [lo, hi): the unit's state at reset; an issue interval starts anew (R229, R234). -/
def Furrow.resetMortars (x : Furrow) (lo hi : Nat) : Furrow :=
  { x with mortarState := x.mortarState.mapIdx (fun i v => if lo ≤ i ∧ i < hi then 0 else v) }

/-- What SPLIT, the join and a reassignment clear (R48), with the pairs lost since the furrow was split (R50). -/
def Furrow.clearForMode (x : Furrow) : Furrow :=
  let y := { x with doms := x.doms.map Domain.clearRegs, halfLost := 0 }
  (((y.clearWindrow 0 4).clearRings 0 16).resetMortars 0 4)

/-! ### FU_THAW (R54) -/

/-- L1 bits of a domain in FU_STICKY: FORMAT, MORTAR, OPCODE, HALFRANGE. -/
def l1Clear (sticky : BitVec 20) (d : Dom) : Bool :=
  !(bitOf sticky (4 + d.val) || bitOf sticky (6 + d.val) || bitOf sticky (8 + d.val) || bitOf sticky (12 + d.val))

def stCode (x : DomState) : Nat :=
  match x with
  | .reset => 0 | .offline => 1 | .idle => 2 | .starting => 3 | .running => 4 | .draining => 5 | .faulted => 6 | .unused => 7

/-- A thaw of one domain, or event 0x0111. -/
def State.thawDom (s : State) (f : Fur) (d : Dom) : State :=
  let x := s.fur f
  let y := x.dom d
  if y.st = .faulted ∧ l1Clear x.sticky d then
    let s1 := (s.abandonDom f d).stopDrills f (domDrills x.split d)
    (s1.modDom f d (fun z => z.setSt .idle)).masterThawed (masterDom f d)
  else
    s.offer 0x0111 (srcDom f d) d.val (stCode y.st) x.sticky.toNat

end Sys2Proof.Machine
end

