-- ==== Sys2Proof/Machine/Packet.lean ====
section
/-! DEFINITION. Command packets (R239 to R241): fields, reserved bits, and the checks of steps 2 and 3 of R243. -/

namespace Sys2Proof.Machine

/-- Word `i` of a packet as a number. -/
def wordAt (ws : List W64) (i : Nat) : Nat := (ws.getD i 0).toNat

/-- The word with `len` ones from bit `lo`. -/
def ones (lo len : Nat) : Nat := (2 ^ len - 1) * 2 ^ lo

def mFur : Nat := ones 0 4
def mHandle : Nat := ones 0 31
def mOff : Nat := ones 0 44
def mAll : Nat := ones 0 64

/-- Opcodes of R241. -/
def opDefined (op : Nat) : Bool :=
  [0x0000, 0x0001, 0x0002, 0x0100, 0x0101, 0x0102, 0x0103, 0x0104, 0x0105, 0x0200, 0x0201, 0x0202, 0x0203, 0x0204, 0x0205, 0x0206,
   0x0300, 0x0301, 0x0302, 0x0400, 0x0401, 0x0402, 0x0403].contains op

/-- LENGTH that R241 requires. -/
def opLength (op len : Nat) : Bool :=
  if op = 0x0101 then len == 1 || len == 2
  else if op = 0x0202 || op = 0x0203 || op = 0x0204 then len == 2 else len == 1

def mBase (i : Nat) : Nat := if 6 ≤ i ∧ i ≤ 13 then (if i % 2 = 0 then mHandle else mOff) else 0

/-- Bits of packet word `i` that the command names; every other bit is reserved (R11, R240, R241). -/
def nameBits (b : Build) (op : Nat) (w : Nat → Nat) (i : Nat) : Nat :=
  match op with
  | 0x0100 => (match i with | 1 => mFur | 2 => mHandle | 3 => mOff | _ => 0)
  | 0x0101 =>
    let count := nfld (w 2) 8 9
    (match i with
    | 1 => ones 0 5
    | 2 => ones 0 17 + ones 24 1
    | _ => if nfld (w 2) 24 1 = 1 then (if i = 3 then mHandle else if i = 4 then mOff else 0)
           else if i < 3 + count then mAll else 0)
  | 0x0102 => (match i with | 1 => ones 0 5 | 2 => ones 0 8 | _ => 0)
  | 0x0103 => (match i with | 1 => ones 0 5 | 2 => ones 0 8 | _ => 0)
  | 0x0104 => (match i with | 1 => mFur | 2 => 1 | _ => 0)
  | 0x0105 => (match i with | 1 => mFur | 2 => ones 0 (b.scratchMib / 2) | _ => 0)
  | 0x0200 =>
    let sk := nfld (w 1) 8 1
    let dk := nfld (w 1) 9 1
    (match i with
    | 1 => ones 8 2 + (if sk = 1 then ones 0 4 else 0) + (if dk = 1 then ones 4 4 + ones 12 3 else 0)
    | 2 => if sk = 1 then 0 else mHandle
    | 3 => if sk = 1 then ones 0 25 else mOff
    | 4 => if dk = 1 then 0 else mHandle
    | 5 => if dk = 1 then ones 0 25 else mOff
    | 6 => ones 0 48
    | _ => 0)
  | 0x0201 => (match i with | 2 => mHandle | 3 => mOff | 4 => ones 0 48 | 5 => mAll | _ => 0)
  | 0x0202 =>
    let mode := nfld (w 1) 13 2
    (match i with
    | 1 => mFur + ones 8 3 + ones 12 9 + ones 32 16
    | 2 => if nfld (w 1) 20 1 = 1 then 0 else mHandle
    | 3 => if nfld (w 1) 20 1 = 1 then ones 0 25 else mOff
    | 4 => if 2 ≤ mode then ones 0 16 + ones 32 16 else 0
    | _ => if nfld (w 1) 15 1 = 1 then mBase i else 0)
  | 0x0203 => (match i with | 1 => mFur + ones 8 3 | _ => mBase i)
  | 0x0204 =>
    let n := nfld (w 2) 32 7
    (match i with
    | 1 => mFur
    | 2 => ones 0 25 + ones 32 7 + ones 40 3
    | 3 => 0
    | _ => if 8 * (i - 4) + 8 ≤ n then mAll else if n ≤ 8 * (i - 4) then 0 else ones 0 (8 * (n - 8 * (i - 4))))
  | 0x0205 => (match i with | 1 => mFur | 2 => ones 0 25 + ones 32 10 | 3 => mHandle | 4 => mOff | _ => 0)
  | 0x0206 => (match i with | 1 => mFur + ones 8 3 | _ => 0)
  | 0x0300 => (match i with | 2 => mHandle | 3 => mOff | 4 => mAll | _ => 0)
  | 0x0301 => (match i with | 2 => mHandle | 3 => mOff | 4 => mAll | 5 => ones 0 32 | _ => 0)
  | 0x0302 => (match i with | 1 => mFur | 2 => ones 0 10 + ones 16 16 | _ => 0)
  | 0x0400 => (match i with
    | 1 => mFur + ones 16 4 | 2 => ones 0 25 | 3 => ones 0 26 | 4 => mAll | 5 => ones 0 32 | _ => 0)
  | 0x0401 => (match i with | 1 => mFur + ones 16 4 | _ => 0)
  | 0x0402 => (match i with
    | 1 => ones 0 22 | 2 => mHandle | 3 => mOff | 4 => ones 0 4 + ones 16 4 | 5 => ones 0 26 | 6 => ones 0 48 | _ => 0)
  | 0x0403 => (match i with
    | 1 => ones 0 22
    | 2 => 1
    | 3 => if nfld (w 2) 0 1 = 1 then ones 0 4 + ones 8 10 + ones 32 16 else mHandle
    | 4 => if nfld (w 2) 0 1 = 1 then 0 else mOff
    | 5 => if nfld (w 2) 0 1 = 1 then 0 else mAll
    | _ => 0)
  | _ => 0

/-- Whether every reserved bit of the packet is zero. -/
def reservedZero (b : Build) (op len : Nat) (w : Nat → Nat) : Bool :=
  nfld (w 0) 18 6 == 0 &&
  (List.range (8 * len - 1)).all (fun j => w (j + 1) &&& nameBits b op w (j + 1) == w (j + 1))

/-- Furrow fields of a command: those that R243 step 4 judges. -/
def fursNamed (op : Nat) (w : Nat → Nat) : List Nat :=
  match op with
  | 0x0200 => (if nfld (w 1) 8 1 = 1 then [nfld (w 1) 0 4] else []) ++ (if nfld (w 1) 9 1 = 1 then [nfld (w 1) 4 4] else [])
  | _ =>
    if (0x0100 ≤ op ∧ op ≤ 0x0105) || (0x0202 ≤ op ∧ op ≤ 0x0206) || op = 0x0302 || op = 0x0400 || op = 0x0401
    then [nfld (w 1) 0 4] else []

/-- Whether a scratchpad run of `n` bytes at `a` crosses a row boundary (R245). -/
def crossesRow (a n : Nat) : Bool := n != 0 && decide (a / 512 ≠ (a + n - 1) / 512)

/-- Whether two byte runs share a byte. -/
def overlaps (a n b m : Nat) : Bool := decide (a < b + m) && decide (b < a + n)

/-- Ranges and alignments that need no state beyond the build (R243 step 3). -/
def fieldsOk (b : Build) (op : Nat) (w : Nat → Nat) : Bool :=
  (fursNamed op w).all (fun f => decide (f < b.furrows)) &&
  (match op with
  | 0x0100 => w 3 % 8 == 0
  | 0x0101 =>
    let count := nfld (w 2) 8 9
    let len := nfld (w 0) 24 8
    decide (nfld (w 2) 0 8 + count ≤ 256) &&
      (if nfld (w 2) 24 1 = 1 then w 4 % 8 == 0 else decide (count ≤ (if len = 1 then 5 else 13)))
  | 0x0200 =>
    let sk := nfld (w 1) 8 1
    let dk := nfld (w 1) 9 1
    let tag := nfld (w 1) 12 3
    (dk == 0 || tag == 0 || tag == 4) &&
      !(sk == 1 && dk == 1 && nfld (w 1) 0 4 == nfld (w 1) 4 4 && overlaps (w 3) (w 6) (w 5) (w 6))
  | 0x0201 => w 3 % 8 == 0 && w 4 % 8 == 0
  | 0x0202 =>
    let out := nfld (w 1) 12 1
    let mode := nfld (w 1) 13 2
    let depth := nfld (w 1) 16 4
    let f := nfld (w 1) 0 4
    !(mode != 0 && out == 1) && decide (depth ≤ 8) && !(depth != 0 && out == 1) && w 3 % 32 == 0 &&
      !(nfld (w 1) 15 1 == 1 && decide (64 < nfld (w 1) 32 16)) &&
      !((mode == 1 || mode == 3) && f + 1 == b.furrows) && !(decide (2 ≤ mode) && f == 0)
  | 0x0204 =>
    let n := nfld (w 2) 32 7
    let tag := nfld (w 2) 40 3
    decide (n ≤ 96) && (tag == 0 || tag == 4) && !crossesRow (nfld (w 2) 0 25) n
  | 0x0205 =>
    let n := nfld (w 2) 32 10
    decide (n ≤ 512) && !crossesRow (nfld (w 2) 0 25) n
  | 0x0300 => w 3 % 8 == 0
  | 0x0301 => w 3 % 8 == 0
  | 0x0302 => nfld (w 2) 8 2 != 3
  | 0x0400 => w 2 % 512 == 0 && w 3 % 512 == 0
  | 0x0402 => w 5 % 512 == 0 && w 6 % 512 == 0
  | 0x0403 => if nfld (w 2) 0 1 = 1 then nfld (w 3) 16 2 != 3 else w 4 % 8 == 0
  | _ => true)

/-- A use of a handle: handle, offset, length, and permission 0 O_R, 1 O_W, 2 O_F or X_F (R264, R265). -/
structure HUse where
  handle : Nat
  off : Nat
  len : Nat
  perm : Nat
  deriving DecidableEq, Repr

/-- The handles that step 5 of R243 checks. -/
def handleUses (op : Nat) (w : Nat → Nat) : List HUse :=
  match op with
  | 0x0100 => [⟨w 2, w 3, 8, 0⟩]
  | 0x0101 => if nfld (w 2) 24 1 = 1 then [⟨w 3, w 4, 8 * nfld (w 2) 8 9, 0⟩] else []
  | 0x0200 => (if nfld (w 1) 8 1 = 1 then [] else [⟨w 2, w 3, w 6, 0⟩]) ++ (if nfld (w 1) 9 1 = 1 then [] else [⟨w 4, w 5, w 6, 1⟩])
  | 0x0201 => [⟨w 2, w 3, w 4, 1⟩]
  | 0x0202 => if nfld (w 1) 20 1 = 1 then [] else [⟨w 2, w 3, 32 * nfld (w 1) 32 16, 0⟩]
  | 0x0205 => [⟨w 3, w 4, nfld (w 2) 32 10, 1⟩]
  | 0x0300 => [⟨w 2, w 3, 8, 2⟩]
  | 0x0301 => [⟨w 2, w 3, 8, 2⟩]
  | 0x0402 => [⟨w 2, w 3, w 6, 0⟩]
  | _ => []

/-- Scratchpad runs that step 6 of R243 checks: furrow, address, length, and whether the run must lie in one half. -/
def scratchUses (op : Nat) (w : Nat → Nat) : List (Nat × Nat × Nat) :=
  match op with
  | 0x0200 =>
    (if nfld (w 1) 8 1 = 1 then [(nfld (w 1) 0 4, w 3, w 6)] else []) ++
    (if nfld (w 1) 9 1 = 1 then [(nfld (w 1) 4 4, w 5, w 6)] else [])
  | 0x0202 =>
    (if nfld (w 1) 20 1 = 1 then [(nfld (w 1) 0 4, w 3, 32 * nfld (w 1) 32 16)] else []) ++
    (if 2 ≤ nfld (w 1) 13 2 then [(nfld (w 1) 0 4, 512 * nfld (w 4) 0 16, 512 * nfld (w 4) 32 16)] else [])
  | 0x0204 => [(nfld (w 1) 0 4, nfld (w 2) 0 25, nfld (w 2) 32 7)]
  | 0x0205 => [(nfld (w 1) 0 4, nfld (w 2) 0 25, nfld (w 2) 32 10)]
  | 0x0400 => [(nfld (w 1) 0 4, w 2, w 3)]
  | _ => []

end Sys2Proof.Machine
end

