-- ==== Sys2Proof/Machine/Accept.lean ====
section
/-! DEFINITION. The dispatcher: which queue's head is accepted (R242, R246), the checks of R243, and freezing a queue or context (R250,
R322). -/

namespace Sys2Proof.Machine

/-! ### Freezing -/

def srcQueue (q : QSlot) : W16 := srcOf 4 q.val
def Queue.ctxSlot (x : Queue) : Nat := fld x.cfg 40 6
def Queue.prio (x : Queue) : Nat := fld x.cfg 32 3
def State.ctx (s : State) (c : Nat) : Ctx := vat ⟨0, false, []⟩ s.ctxs c
def State.setCtx (s : State) (c : Nat) (x : Ctx) : State := { s with ctxs := vput s.ctxs c x }
def Ctx.id (x : Ctx) : Nat := fld x.cfg 0 12
def Ctx.valid (x : Ctx) : Bool := bitOf x.cfg 63
/-- Queue slots bound to context slot `c`. -/
def State.boundQueues (s : State) (c : Nat) : List Queue := s.queues.toList.filter (fun x => x.st != .free && x.ctxSlot == c)

/-- A freeze of a queue counts against its context: three queues frozen, or 16 freezes within 10 ms (R322). -/
def State.widenFreeze (s : State) (c : Nat) : State :=
  let x := s.ctx c
  let times := (x.freezes.filter (fun t => decide (s.since t ≤ 10000000))) ++ [s.time]
  let s1 := s.setCtx c { x with freezes := times }
  let cause := if 3 ≤ ((s.boundQueues c).filter (fun y => y.st == .frozen)).length then 1 else if 16 ≤ times.length then 2 else 0
  if cause = 0 || x.frozen || 48 ≤ c then s1
  else (s1.setCtx c { x with freezes := times, frozen := true }).faultRecord 0x0510 (srcOf 5 c) c x.id cause (levByte 1 false false)

/-- A queue becomes FROZEN: QS_FAULT, fault 0x0504, and its context (R243, R250, R322). -/
def State.freezeQueue (s : State) (q : QSlot) (seq : W32) (status opcode : Nat) : State :=
  let s1 := (s.endWaits q).modQueue q (fun x => { x with st := .frozen, fault := w64 (at' seq.toNat 32 + at' status 16 + opcode) })
  (s1.faultRecord 0x0504 (srcQueue q) q.val seq.toNat (at' status 16 + opcode) (levByte 1 false false)).widenFreeze (s.queue q).ctxSlot

/-! ### Acceptance conditions -/

/-- A command that has finished its work has no room for its record in the completion ring (R248), also one whose record has lost its room by a
write of QS_CQ_HEAD (log 43). -/
def Queue.cqFull (x : Queue) : Bool :=
  x.ready.any (fun k => k.time.isNone) || decide (x.room < (x.ready.filter (fun k => k.time.isSome)).length)

def Packet.op (p : Packet) : Nat := nfld (wordAt p.words 0) 0 16
def Packet.len (p : Packet) : Nat := nfld (wordAt p.words 0) 24 8
def Packet.sequence (p : Packet) : Nat := nfld (wordAt p.words 0) 32 32
def Packet.order (p : Packet) : Bool := decide (nfld (wordAt p.words 0) 17 1 = 1)
def Packet.quiet (p : Packet) : Bool := decide (nfld (wordAt p.words 0) 16 1 = 1)
def Packet.w (p : Packet) (i : Nat) : Nat := wordAt p.words i

/-- Whether the queue takes commands: ACTIVE, context not frozen, no record without room, dispatcher running (R248, R250, R254, R328). -/
def State.queueOpen (s : State) (x : Queue) : Bool :=
  x.st == .active && !x.cqFull && !(s.ctx x.ctxSlot).frozen && s.release == 3 && !s.stopped

/-- The order conditions of R242 on the head packet. -/
def Queue.orderOk (x : Queue) (p : Packet) : Bool :=
  x.cmds.all (fun c => c.done || (c.opcode != 0x0001 && c.opcode != 0x0301)) && (!p.order || x.cmds.all (fun c => c.done))

/-- WINDOW_OPEN: the range overlaps another open window of the furrow (R310). -/
def Furrow.windowOverlap (x : Furrow) (j base len : Nat) : Bool :=
  (List.range 16).any (fun i =>
    i != j && (vat Window.closed x.windows i).isOpen && len != 0 && (vat Window.closed x.windows i).length != 0 &&
    overlaps base len (vat Window.closed x.windows i).base.toNat (vat Window.closed x.windows i).length.toNat)

/-- The checks of a remote destination that R318 makes at step 3. -/
def State.remoteOk (s : State) (dest : Nat) : Bool :=
  let r := tget 0 s.ms.routes dest
  s.ms.valid && (dest == s.ms.id.toNat || (decide (dest ≤ 0x0FFF) && (bitOf r 4 || bitOf r 12)))

/-- Steps 1 to 3 of R243: a status, and whether it freezes the queue. -/
def State.check123 (s : State) (p : Packet) : Option (Nat × Bool) :=
  if p.sequence ≠ p.seq.toNat || !(p.len == 1 || p.len == 2) then some (stBadParam, true)
  else if !opDefined p.op then some (stBadOpcode, true)
  else if !opLength p.op p.len || !reservedZero s.build p.op p.len p.w || !fieldsOk s.build p.op p.w ||
    (p.op == 0x0400 && (s.fur (furOf (nfld (p.w 1) 0 4))).windowOverlap (nfld (p.w 1) 16 4) (p.w 2) (p.w 3)) ||
    ((p.op == 0x0402 || p.op == 0x0403) && !s.remoteOk (nfld (p.w 1) 0 16)) then some (stBadParam, false)
  else none

/-- Whether a waiting LOAD_PROGRAM or a claim of the reeve holds back a START or CALL whose REACH is `reach` (R91, R343). -/
def Furrow.heldBack (x : Furrow) (reach : BitVec 8) : Bool :=
  x.claim != .none || x.modeChange.isSome || x.loads.any (fun l => l.1 &&& reach != 0)

/-- The conditions of R48 for a change of split mode. -/
def Furrow.modeReady (x : Furrow) : Bool :=
  x.doms.toList.all (fun d => d.st == .idle || d.st == .unused) &&
  x.drills.toList.all (fun k => k.st != .running && k.st != .stopping && k.st != .frozen) && x.board.isEmpty

/-! ### Commands that read memory as they are accepted -/

def Packet.fur (p : Packet) : Fur := furOf (nfld (p.w 1) 0 4)
def Packet.dom (p : Packet) : Dom := domOf (nfld (p.w 1) 4 1)
def Cmd.w (c : Cmd) (i : Nat) : Nat := wordAt c.words i
def Cmd.fur (c : Cmd) : Fur := furOf (nfld (c.w 1) 0 4)
def Cmd.dom (c : Cmd) : Dom := domOf (nfld (c.w 1) 4 1)

/-- Length of the image whose header word is `h` (R88, R89). -/
def imageSize (h : Nat) : Nat := 8 + 32 * nfld h 0 16 + 32768 * popcount (nfld h 16 8) 8

/-- Whether command `c` is a CONFIGURE of domain `d` of furrow `f` that has not been applied. -/
def isConfig (f : Fur) (d : Dom) (c : Cmd) : Bool := c.opcode == 0x0101 && c.stage == 2 && !c.done && c.fur == f && c.dom == d

/-- Whether a CONFIGURE waits for values from a stack that gives no slots (R349). -/
def State.configHeld (s : State) (c : Cmd) : Bool :=
  nfld (c.w 2) 24 1 == 1 && s.stackHeld (s.locOf (c.w 3) (c.w 4)) (8 * nfld (c.w 2) 8 9)

/-- Whether the domain of a START or CALL takes it now: a FAULTED or UNUSED one answers at once, unless the furrow is claimed (R91, R244, R343). -/
def Furrow.takesStart (x : Furrow) (d : Dom) (reach : BitVec 8) : Bool :=
  let st := (x.dom d).st
  ((st == .faulted || st == .unused) && x.claim == .none) || (st == .idle && !x.heldBack reach)

/-- A command's own condition (R244). -/
def State.ownReady (s : State) (x : Queue) (p : Packet) : Bool :=
  let fu := s.fur (furOf (nfld (p.w 1) 0 4))
  let allDone := x.cmds.all (fun c => c.done)
  match p.op with
  | 0x0001 => allDone
  | 0x0300 => allDone
  | 0x0102 => fu.takesStart (domOf (nfld (p.w 1) 4 1)) (fu.routine (nfld (p.w 2) 0 8)).reach
  | 0x0103 => fu.takesStart (domOf (nfld (p.w 1) 4 1)) (fu.routine (nfld (p.w 2) 0 8)).reach
  | 0x0104 => fu.claim == .none && (fu.doms.toList.any (fun d => d.st == .faulted) || (fu.modeReady && fu.modeChange.isNone))
  | 0x0203 =>
    let k := fu.drill (drillOf (nfld (p.w 1) 8 3))
    !(k.persist && (k.st == .running || k.st == .stopping))
  | 0x0301 => s.watches.toList.any (fun k => k.st == 0)
  | 0x0402 => decide (s.remotes.length < 16)
  | _ => true

/-- Steps 1 to 3 on the head packet `p` of a queue: a head that they have judged is not judged again (R242, R243, log 96). -/
def State.headCheck (s : State) (x : Queue) (p : Packet) : Option (Nat × Bool) := x.headJudged.getD (s.check123 p)

/-- Whether the head of a queue is acceptable (R242). -/
def State.acceptable (s : State) (x : Queue) : Bool :=
  match x.fetched with
  | [] => false
  | p :: _ => s.queueOpen x && x.orderOk p && ((s.headCheck x p).isSome || s.ownReady x p)

/-- The verdict of steps 1 to 3 on the head of a queue, where its ordering has let them be made, whether or not the queue takes commands now: of a
remote command, whose step 3 reads the mesh (R242, R318). -/
def State.verdict (s : State) (x : Queue) : Option (Option (Nat × Bool)) :=
  match x.fetched with
  | p :: _ => if (p.op = 0x0402 ∨ p.op = 0x0403) ∧ x.orderOk p then some (s.headCheck x p) else x.headJudged
  | [] => x.headJudged

/-- What step 3 reads of the mesh is about to change: the heads that it has judged keep their verdict (R242, log 96). -/
def State.judgeHeads (s : State) : State := { s with queues := s.queues.map (fun x => { x with headJudged := s.verdict x }) }

/-- The queue whose head the dispatcher accepts on its next cycle (R246): highest priority, or the lowest once the guard count has reached
15, round-robin in slot order within the priority. -/
def State.dispatchPick (s : State) : Option QSlot :=
  let cand := (List.range 64).filter (fun q => s.acceptable (s.queue (slotOf q)))
  let prios := cand.map (fun q => (s.queue (slotOf q)).prio)
  match prios with
  | [] => none
  | p :: r =>
    let lo := r.foldl min p
    let hi := r.foldl max p
    let want := if 15 ≤ s.dispG then lo else hi
    let pos := vat 0 s.dispRR want
    ((List.range 64).map (fun i => (pos + i) % 64)).find? (fun q => cand.contains q && (s.queue (slotOf q)).prio == want)
      |>.map slotOf

/-- Positions and guard count after queue `q` was accepted (R142, R246). -/
def State.countAccept (s : State) (q : QSlot) : State :=
  let cand := (List.range 64).filter (fun i => s.acceptable (s.queue (slotOf i)))
  let pr := (s.queue q).prio
  let lowest := cand.all (fun i => decide (pr ≤ (s.queue (slotOf i)).prio))
  { s with dispRR := vput s.dispRR pr ((q.val + 1) % 64), dispG := if lowest then 0 else s.dispG + 1, accepted := s.accepted + 1 }

/-! ### Steps 4 to 7 -/

/-- Step 4: the first furrow that the queue's context does not own. -/
def State.notOwned (s : State) (x : Queue) (p : Packet) : Bool :=
  (fursNamed p.op p.w).any (fun f => let fu := s.fur (furOf f); !(fu.owned && fu.owner.toNat == x.ctxSlot))

/-- Step 5: the first handle that fails, with its status. -/
def State.badHandle (s : State) (id : Nat) (us : List HUse) : Option (Nat × Nat) :=
  match us with
  | [] => none
  | u :: r => match s.segCheck id u.handle u.off u.len u.perm with
    | some st => some (u.handle, st)
    | none => s.badHandle id r

/-- Fallow groups that a run of `n` bytes at `a` touches. -/
def groupsOf (a n : Nat) : BitVec 16 :=
  if n = 0 then 0
  else (List.range 16).foldl (fun m g => if a < 2 ^ 21 * (g + 1) ∧ 2 ^ 21 * g < a + n then setBit m g true else m) 0

/-- Step 6: a scratchpad run beyond the built scratchpad, the half, or awake groups. -/
def State.badRange (s : State) (p : Packet) : Bool :=
  (scratchUses p.op p.w).any (fun u =>
    let fu := s.fur (furOf u.1)
    let half := s.build.scratchMib * 2 ^ 19
    let oneHalf := decide (u.2.1 / half = (u.2.1 + u.2.2 - 1) / half)
    decide (s.build.bytes < u.2.1 + u.2.2) || (groupsOf u.2.1 u.2.2 &&& (fu.fallow ||| fu.waking)) != 0 ||
      (fu.split && u.2.2 != 0 && (
        (p.op == 0x0400 && !oneHalf) ||
        (p.op == 0x0202 && !(oneHalf && u.2.1 / half == nfld (p.w 1) 10 1)))))

/-- Step 7 that every command naming a DOMAIN shares: DOMAIN 1 of an unsplit furrow, and a FAULTED domain. -/
def State.domainState (s : State) (p : Packet) : Option Nat :=
  let fu := s.fur (furOf (nfld (p.w 1) 0 4))
  if p.op = 0x0101 || p.op = 0x0102 || p.op = 0x0103 then
    let d := domOf (nfld (p.w 1) 4 1)
    if !fu.split && d.val = 1 then some stBadParam
    else if (fu.dom d).st = .faulted then some stBusy else none
  else if p.op = 0x0104 && fu.doms.toList.any (fun d => d.st == .faulted) then some stBusy
  else none

/-- The head packet leaves the queue's fetched list and becomes an accepted command with `segs` referenced (R242, R243, R266). -/
def State.letIn (s : State) (q : QSlot) (p : Packet) (segs : List Nat) : State :=
  let c : Cmd :=
    { seq := p.seq, opcode := BitVec.ofNat 16 p.op, units := p.units, words := p.words, quiet := p.quiet, segs := segs,
      order := s.accepted + 1, stage := 0, done := false, r0 := 0, r1 := 0, buf := [], bufMark := false, since := s.erasures }
  let s1 := (s.countAccept q).modQueue q (fun x => { x with fetched := x.fetched.drop 1, headJudged := none, cmds := x.cmds ++ [c] })
  segs.foldl State.refSeg s1

/-- An acceptance that fails a check: the record, and the freeze where the step says so (R243). `segs` are the segments that it has come to
reference, where it has passed step 5 (R266). -/
def State.failHead (s : State) (q : QSlot) (p : Packet) (segs : List Nat) (status : Nat) (freezes : Bool) : State :=
  let s1 := (s.letIn q p segs).finish ⟨q.val, p.seq⟩ status 0 0
  if freezes then s1.freezeQueue q (w32 p.sequence) status p.op else s1

/-- Steps 1 to 6 and the shared part of 7 of R243 for the head packet of queue `q`, which the dispatcher has picked; `body` is what the
command does once it has passed them. A head of another opcode, or one that fails step 1 or 2, is `body`'s only where its opcode is `op`. -/
def State.accept (s : State) (q : QSlot) (op : Nat) (body : State → Packet → CmdRef → State) : State :=
  let x := s.queue q
  match x.fetched with
  | [] => s
  | p :: _ =>
    if s.dispatchPick ≠ some q then s
    else match s.headCheck x p with
    | some (st, fr) =>
      let s1 := if p.sequence ≠ p.seq.toNat then s.offer 0x0501 (srcQueue q) q.val p.seq.toNat p.sequence else s
      if p.op = op || fr then s1.failHead q p [] st fr else s
    | none =>
      if p.op ≠ op then s
      else
        let id := (s.ctx x.ctxSlot).id
        let segs := (handleUses op p.w).map (fun u => hIndex u.handle)
        if s.notOwned x p then s.failHead q p [] stPermission true
        else match s.badHandle id (handleUses op p.w) with
        | some (h, st) =>
          (s.faultRecord 0x0601 (srcQueue q) h st q.val (levByte 1 false false)).failHead q p [] st true
        | none =>
          if s.badRange p then s.failHead q p segs stBounds true
          else match s.domainState p with
          | some st => s.failHead q p segs st false
          | none => body (s.letIn q p segs) p ⟨q.val, p.seq⟩

end Sys2Proof.Machine
end

