-- ==== Sys2Proof/Machine/Identity.lean ====
section
/-! DEFINITION. The FT_ registers: identity, geometry, options, latency sheet and build signature (R23 to R27). -/

namespace Sys2Proof.Machine

/-- Word FT_LATj of the latency sheet (R26). -/
def Build.latWord (b : Build) (j : Nat) : Nat := ofLe ((b.lat.toList.drop (8 * j)).take 8)

def Build.geometry (b : Build) : Nat :=
  at' b.mortar 48 + at' b.depth 32 + at' b.scratchMib 24 + at' b.lanes 12 + b.furrows

/-- Whether some furrow meets R16. -/
def Build.canSplit (b : Build) : Bool :=
  decide (8 ≤ b.scratchMib) && (List.range 16).any (fun f => b.bricksOf f == 4)

def Build.options (b : Build) : Nat := at' (b2n b.canSplit) 2 + at' (b2n b.tvk2) 1 + b2n b.audit

def Build.mortarReg (b : Build) (u : Nat) : Nat := if u < b.mortar then (b.mortars.toList.getD u 0).toNat else 0

/-- The words of R27, in order. -/
def Build.sigWords (b : Build) : List W64 :=
  ([b.latWord 0, b.latWord 1, b.latWord 2, b.latWord 3, b.geometry, b.formats.toNat, b.options / 2 * 2,
    b.mortarReg 0, b.mortarReg 1, b.mortarReg 2, b.mortarReg 3]).map w64

def sigStep (h w : W64) : W64 :=
  let x := (h ^^^ w) * 0x9E3B51C72F84D60B#64
  x ^^^ (x >>> 29)

/-- FT_SIGNATURE (R27). -/
def Build.signature (b : Build) : W64 :=
  let h := b.sigWords.foldl sigStep 0x5D1E7B30C4A90E62#64
  h ^^^ (h >>> 32)

def Build.ident (b : Build) : Nat := at' 3 40 + at' b.minor.toNat 32 + at' 0x7E03 16 + 0x0D5E

/-- The FT_ register at offset `off` of its block (R23). -/
def State.ftReg (s : State) (off : Nat) : Nat :=
  let b := s.build
  match off with
  | 0x00 => b.ident
  | 0x08 => b.signature.toNat
  | 0x10 => b.geometry
  | 0x18 => at' s.active.toNat 32 + b.built.toNat
  | 0x20 => b.formats.toNat
  | 0x28 => b.options
  | 0x30 => at' b.fmaxBuild.toNat 16 + at' 92 8 + 56
  | 0x38 => at' b.twoSites.toNat 48 + at' b.fullSites.toNat 8 + 16
  | 0x40 => at' 32768 48 + at' 16384 32 + at' 256 16 + at' 8 8 + 16
  | 0x48 => at' 256 32 + at' 16 24 + at' 16 16 + 256
  | 0x50 => b.mortarReg 0
  | 0x58 => b.mortarReg 1
  | 0x60 => b.mortarReg 2
  | 0x68 => b.mortarReg 3
  | 0x100 => b.latWord 0
  | 0x108 => b.latWord 1
  | 0x110 => b.latWord 2
  | 0x118 => b.latWord 3
  | _ => 0

end Sys2Proof.Machine
end

