-- ==== Sys2Proof/Machine/Program.lean ====
section
/-! DEFINITION. Load images (R88 to R90), footprints and rings at START (R87, R113), drill lists (R128, R129), and the scoreboard's
admission rule (R116, R117). -/

namespace Sys2Proof.Machine

/-! ### Load images -/

/-- Entry `i` of an image: its words. -/
def imageEntry (img : List Byte) (i j : Nat) : Nat := ofLe ((img.drop (8 + 32 * i + 8 * j)).take 8)

/-- Checks 3 to 5 of R89 on the entries of an image. -/
def entryReserved (img : List Byte) (i : Nat) : Bool :=
  let c := imageEntry img i 0
  let foot := imageEntry img i 2
  nfld c 56 7 == 0 && imageEntry img i 3 == 0 && (List.range 4).all (fun r => nfld foot (16 * r + 8) 6 == 0)
def entryRules (img : List Byte) (mask : BitVec 8) (n i : Nat) : Bool :=
  let c := imageEntry img i 0
  let foot := imageEntry img i 2
  let segs := segsTouched (nfld c 0 18) (nfld c 18 18)
  let bricks := nfld c 44 2
  (List.range n).all (fun j => j == i || nfld (imageEntry img j 0) 48 8 != nfld c 48 8) &&
  decide (nfld c 0 18 + nfld c 18 18 ≤ 0x40000) && (segs &&& ~~~mask == 0) && (segs &&& ~~~(BitVec.ofNat 8 (nfld c 36 8)) == 0) &&
  nfld c 0 1 == 0 && nfld c 46 2 != 3 && (bricks == 1 || bricks == 2) &&
  (List.range 4).all (fun r => nfld foot (16 * r + 15) 1 == 0 || decide (nfld foot (16 * r) 8 ≤ 254))

/-- Where the image of a LOAD_PROGRAM lies, for a command checked after `since` erasures. -/
def State.imageLoc (s : State) (h off since : Nat) : Loc := (s.locOf h off).checked since

/-- Whether the header of the image, or the rest that R89 would read, waits on a stack that gives no slots (R349). -/
def State.imageHeld (s : State) (h off since : Nat) : Bool :=
  let l := s.imageLoc h off since
  let hd := ofLe (s.memRead l 8).1
  s.stackHeld l 8 || (nfld hd 24 40 == 0 && decide (nfld hd 0 16 ≤ 256) && !s.beyondSeg h off (imageSize hd) && s.stackHeld l (imageSize hd))

/-- The checks of R89 on the image at `off` of handle `h`: a failing status, or the image. The second is step 4 of R264 alone. -/
def State.checkImage (s : State) (h off since : Nat) : Except Nat (List Byte) :=
  let hd := ofLe (s.memRead (s.imageLoc h off since) 8).1
  let n := nfld hd 0 16
  if nfld hd 24 40 ≠ 0 || 256 < n then .error stBadParam
  else if s.beyondSeg h off (imageSize hd) then .error stBounds
  else
    let img := (s.memRead (s.imageLoc h off since) (imageSize hd)).1
    if !(List.range n).all (entryReserved img) then .error stBadParam
    else if !(List.range n).all (fun i => imageEntry img i 1 == s.build.signature.toNat) then .error stSignature
    else if !(List.range n).all (entryRules img (BitVec.ofNat 8 (nfld hd 16 8)) n) then .error stBadParam
    else .ok img

def imageMask (img : List Byte) : BitVec 8 := BitVec.ofNat 8 (nfld (ofLe (img.take 8)) 16 8)
def imageCount (img : List Byte) : Nat := nfld (ofLe (img.take 8)) 0 16

/-- Store bytes of the target segments, in ascending order. -/
def loadSegs (st : Tab Byte) (mask : BitVec 8) (k n : Nat) (bs : List Byte) : Tab Byte :=
  match n with
  | 0 => st
  | m + 1 =>
    if bitOf mask k then loadSegs (tputs 0 st (32768 * k) (bs.take 32768)) mask (k + 1) m (bs.drop 32768)
    else loadSegs st mask (k + 1) m bs

/-- R90: the segments in full, then the entries, and VALID cleared in every other entry whose code touches a target segment. -/
def Furrow.loadImage (x : Furrow) (img : List Byte) : Furrow :=
  let mask := imageMask img
  let n := imageCount img
  let kept := tmap Routine.zero (fun r =>
    if segsTouched r.addr r.length &&& mask != 0 then { r with ctrl := setBit r.ctrl 63 false } else r) x.routines 0 256
  { x with
    pstore := loadSegs x.pstore mask 0 8 (img.drop (8 + 32 * n))
    routines := (List.range n).foldl (fun t i => tset Routine.zero t (nfld (imageEntry img i 0) 48 8)
      ⟨w64 (imageEntry img i 0), w64 (imageEntry img i 1), w64 (imageEntry img i 2)⟩) kept }

/-- Segments held by the domains of a furrow (R91); a FAULTED domain holds its segments until its thaw (log 71). -/
def Furrow.heldSegs (x : Furrow) : BitVec 8 := x.doms.toList.foldl (fun m d => m ||| d.held) 0

/-! ### Footprints and rings -/

/-- Regions of a footprint template, from a bank of layer registers (R87): base, length, write. -/
def footRegions (foot : W64) (bank : Tab W64) : List (Nat × Nat × Bool) :=
  (List.range 4).filterMap (fun r =>
    if bitOf foot (16 * r + 15) then
      let n := fld foot (16 * r) 8
      let len := fld (tget 0 bank (n + 1)) 0 26
      if len = 0 then none else some (fld (tget 0 bank n) 0 25, len, bitOf foot (16 * r + 14))
    else none)

/-- Rings that a domain owns: first and number (R112). -/
def ringsOwned (split : Bool) (d : Dom) : Nat × Nat := if split then (8 * d.val, 8) else if d = 0 then (0, 16) else (0, 0)

/-- Whether the region of a START is refused (R116). -/
def badRegion (b : Build) (x : Furrow) (d : Dom) (r : Nat × Nat × Bool) : Bool :=
  let half := b.scratchMib * 2 ^ 19
  decide (b.bytes < r.1 + r.2.1) || (groupsOf r.1 r.2.1 &&& (x.fallow ||| x.waking)) != 0 ||
    (x.split && !(r.1 / half == d.val && (r.1 + r.2.1 - 1) / half == d.val))

/-- A descriptor from its 32 bytes (R129). -/
def descOf (bs : List Byte) : Desc :=
  ⟨w64 (ofLe (bs.take 8)), w64 (ofLe ((bs.drop 8).take 8)), w64 (ofLe ((bs.drop 16).take 8)), w64 (ofLe ((bs.drop 24).take 8))⟩

/-- Key erasures before the check of an accepted command; all so far where it is gone (R271). -/
def State.cmdSince (s : State) (r : Option CmdRef) : Nat :=
  match r.bind s.cmd? with | some c => c.since | none => s.erasures

/-- Where descriptor `i` of a list in a segment lies, for the command that armed it. -/
def State.descLoc (s : State) (x : Drill) (i : Nat) : Loc :=
  (s.locOf x.listHandle.toNat (x.listOffset + 32 * i)).checked (s.cmdSince x.cmd)

/-- Descriptor `i` of a drill's list as the descriptor store holds it, or memory or the scratchpad where it has not been copied (R128). -/
def State.listDesc (s : State) (f : Fur) (x : Drill) (i : Nat) : Desc :=
  match (if x.persist then x.store[i]? else none) with
  | some d => d
  | none =>
    if x.listScratch then descOf (tgets 0 (s.fur f).data (x.listOffset + 32 * i) 32)
    else descOf (s.memRead (s.descLoc x i) 32).1

/-- Rings named by the descriptors of a list from `i` on, up to LAST. -/
def State.listRings (s : State) (f : Fur) (x : Drill) (n i : Nat) : List Nat :=
  match n with
  | 0 => []
  | k + 1 =>
    let d := s.listDesc f x i
    (if d.spkind = 1 then [d.ringNo] else []) ++ (if d.last then [] else s.listRings f x k (i + 1))

/-- Rings that some armed drill of the domain names (R113, R148). -/
def State.armedRings (s : State) (f : Fur) (d : Dom) : List Nat :=
  (domDrills (s.fur f).split d).flatMap (fun k =>
    let x := s.drill f k
    if x.st = .idle then [] else s.listRings f x x.count 0)

def ringDefBad (b : Build) (x : Furrow) (d : Dom) (bank : Tab W64) (k : Nat) : Bool :=
  let w := tget 0 bank (240 + k)
  let size := fld w 32 16
  let base := fld w 0 16
  let o := ringsOwned x.split d
  bitOf w 63 || fld w 48 14 != 0 || fld w 16 16 != 0 ||
    (size != 0 && (badRegion b x d (512 * base, 512 * size, true) ||
      (List.range o.2).any (fun j =>
        let w' := tget 0 bank (240 + (o.1 + j))
        o.1 + j != k && fld w' 32 16 != 0 && overlaps base size (fld w' 0 16) (fld w' 32 16))))

/-- R113 on the bank about to become live: a status when a changed definition is refused. -/
def State.ringCheck (s : State) (f : Fur) (d : Dom) (bank : Tab W64) : Option Nat :=
  let x := s.fur f
  let o := ringsOwned x.split d
  let changed := ((List.range o.2).map (fun j => o.1 + j)).filter (fun k => tget 0 bank (240 + k) != (vat Ring.none x.rings k).defn)
  if changed.any (ringDefBad s.build x d bank) then some stBadParam
  else if changed.any (fun k => (s.armedRings f d).contains k) then some stBusy
  else none

/-- The rings of a domain redefined at the bank swap: rows of a new ring empty and clear (R113). -/
def Furrow.swapRings (x : Furrow) (d : Dom) (bank : Tab W64) : Furrow :=
  let o := ringsOwned x.split d
  (List.range o.2).foldl (fun x j =>
    let k := o.1 + j
    let w := tget 0 bank (240 + k)
    if w = (vat Ring.none x.rings k).defn then x
    else
      let lo := fld w 0 16
      let hi := lo + fld w 32 16
      { x with rings := vput x.rings k ⟨w, 0, 0, 0⟩, full := tclear x.full lo hi, poison := tclear x.poison lo hi }) x

/-! ### Scoreboard admission (R117) -/

def regionsConflict (a b : Nat × Nat × Bool) : Bool := overlaps a.1 a.2.1 b.1 b.2.1 && (a.2.2 || b.2.2)
def heldConflict (e : Region) (r : Nat × Nat × Bool) : Bool := regionsConflict (e.base, e.len, e.w) r

/-- An entrant joins those that wait, which stand in the order in which the dispatcher accepted them (R117). -/
def Furrow.enqueue (x : Furrow) (e : Entrant) : Furrow :=
  { x with waiting := x.waiting.filter (fun w => decide (w.order ≤ e.order)) ++ e :: x.waiting.filter (fun w => decide (e.order < w.order)) }

/-- Whether an entrant may enter: no conflict with a held entry or an earlier waiting entrant, and room for its regions. -/
def Furrow.admits (x : Furrow) (e : Entrant) : Bool :=
  e.regions.all (fun r => x.board.all (fun h => !heldConflict h r)) &&
  decide (x.board.length + e.regions.length ≤ 16) &&
  x.waiting.all (fun w => decide (e.order ≤ w.order) || w.regions.all (fun a => e.regions.all (fun r => !regionsConflict a r)))

def Furrow.enter (x : Furrow) (e : Entrant) : Furrow :=
  { x with
    board := x.board ++ e.regions.map (fun r => ⟨r.1, r.2.1, r.2.2, e.kind, e.ref⟩)
    waiting := x.waiting.filter (fun w => w.ref != e.ref) }

end Sys2Proof.Machine
end

