-- ==== Sys2Proof/Machine/Beat.lean ====
section
/-! DEFINITION. The attempt of a beat: its checks in the order of R405, the freeze of R38, and retirement. -/

namespace Sys2Proof.Machine

/-- Furrows owned by the context that owns furrow `f` (R255, R284). -/
def State.mine (s : State) (f : Fur) : W16 :=
  let x := s.fur f
  if x.owned then
    (List.range 16).foldl (fun acc n =>
      let y := s.fur (furOf n)
      if y.owned && y.owner == x.owner then setBit acc n true else acc) 0
  else 0

def State.env (s : State) (f : Fur) (d : Dom) : Env :=
  ⟨s.build, f, d, s.fur f, s.dom f d, s.mine f, s.time, s.free⟩

/-- A fault of a slot, with the slot and code that P1 reports. -/
structure BFault where
  slot : Nat
  code : Nat
  f : SFault
  deriving DecidableEq, Repr

/-- Port-W reads of the course in this beat, as accesses of slot 4 (R104, R162). -/
def courseAccs (b : Build) (c : Option Course) : List Acc :=
  match c with
  | none => []
  | some c => (c.reads b).mapIdx (fun i r => ⟨4, 0x38 + c.op, if r.fb then 1 else 0, r.addr, true, r.tag, .stream i⟩)

/-- First half-range violation among accesses: the resource index (R47). -/
def accsHalf (v : Env) (as : List Acc) : Option Nat :=
  as.findSome? (fun a => match accFault v a with | some p => if p.half then some (nfld p.p1 0 8) else none | none => none)

/-- Half-range violations of the accesses of a slot's acts, those that a tile operation makes in its issue beat among them (R47, R405). -/
def actsHalf (v : Env) (as : List Act) : Option Nat :=
  match as with
  | [] => none
  | .acc a :: r => (match accsHalf v [a] with | some i => some i | none => actsHalf v r)
  | .tile c :: r =>
    (match (if c.cost = 0 then none else accsHalf v (courseAccs v.b (some c))) with | some i => some i | none => actsHalf v r)
  | _ :: r => actsHalf v r

/-- Step 3 of R405 over the slots in ascending order: all acts, or the first fault; of one tile operation an absent format comes before a stream
row in the other half (log 20). -/
def gather (v : Env) (rid addr : Nat) (lastBeat endBit : Bool) (next : Nat) (mor0 : Option Nat) (os : List SlotOp) (acc : List Act) :
    Except BFault (List Act) :=
  match os with
  | [] => .ok acc
  | o :: r =>
    match (if o.slot = 0 && lastBeat then seqFault v endBit next o.code o.op else none) with
    | some n => .error ⟨0, o.code, .seq n⟩
    | none =>
      match slotActs v rid addr mor0 o with
      | .error e => .error ⟨o.slot, o.code, e⟩
      | .ok as =>
        match actsHalf v as with
        | some b => .error ⟨o.slot, o.code, .half 0 b⟩
        | none => gather v rid addr lastBeat endBit next
            (if o.slot = 13 && o.code ≠ 0 then some (nfld o.op 38 2) else mor0) r (acc ++ as)

/-- All checks of R405 on a word: the acts of its slots, or the fault reported. -/
def wordActs (v : Env) (rid addr : Nat) (lastBeat : Bool) (next : Nat) (w : Word) : Except BFault (List Act) :=
  if nfld w.ctrl 8 7 ≠ 0 then .error ⟨16, 0, .seq 2⟩
  else match encFaults w.slots with
    | some (o, n) => .error ⟨o.slot, o.code, .seq n⟩
    | none => gather v rid addr lastBeat w.endBit next none w.slots []

/-- The sticky bit of FU_STICKY that a slot fault sets, and its fault record (R25, R31, R47, R98); P0 of 0x0305 is the position of the word,
as of every fault of a domain (log 68). -/
def State.slotFault (s : State) (f : Fur) (d : Dom) (rid addr : Nat) (e : BFault) : State :=
  let p0 := posWord rid addr
  let src := srcDom f d
  let fu := fun (bit : Nat) => s.modFur f (fun x => { x with sticky := setBit x.sticky (bit + d.val) true })
  match e.f with
  | .seq n => (fu 8).freezeDomain f d ⟨0x0105, src, p0, at' e.slot 24 + at' e.code 16, n⟩
  | .half k i => (fu 12).freezeDomain f d ⟨0x0104, src, p0, at' e.slot 24 + at' k 16 + i, d.val⟩
  | .fmt c => (fu 4).freezeDomain f d ⟨0x0305, src, p0, at' e.slot 24 + c, d.val⟩
  | .tv2 b =>
    (s.modFur f (fun x => { x with spSticky := setBit x.spSticky (10 + d.val) true })).freezeDomain f d
      ⟨0x0203, src, p0, at' e.slot 24, at' 4 28 + b % 2 ^ 25⟩

/-- Half-range, address and ring-order faults of the beat, in ascending CODE as their records are written (R334) and in the order of R104
for one CODE (R102, R114); a half-range violation is reported once, for the first access that makes it (R47). That of a course issued in an earlier beat falls here, after
step 3 (R405, log 20). -/
def portFaults (v : Env) (served : List Acc) : List PFault :=
  let ps := served.filterMap (fun a => match accFault v a with
    | some p => some p
    | none => match accCheck v a with
      | .ring k =>
        let r := vat Ring.none v.fu.rings k
        some ⟨false, 12, 0x0204, at' k 24 + r.head, at' a.tag 16 + a.addr.toNat / 512⟩
      | _ => none)
  (ps.filter (fun p => p.half)).take 1 ++ ps.filter (fun p => p.code == 0x0203) ++ ps.filter (fun p => p.code == 0x0204)

/-- Sets the bits and writes the records of port-W faults found on one tick: they count as one fault, at one level (R325). -/
def State.portFault (s : State) (f : Fur) (d : Dom) (p0 : Nat) (ps : List PFault) : State :=
  match ps with
  | [] => s
  | p :: r =>
    let set := fun (s : State) (p : PFault) => s.modFur f (fun x =>
      if p.half then { x with sticky := setBit x.sticky (12 + d.val) true }
      else { x with spSticky := setBit x.spSticky (p.bit + d.val) true })
    let lev := s.faultLevel (s.recDom f d)
    let s1 := (set s p).freezeDomain f d ⟨p.code, srcDom f d, p0, p.p1, p.p2⟩
    r.foldl (fun s p => (set s p).faultRecord p.code (srcDom f d) p0 p.p1 p.p2 lev) s1

/-- Causes present on this tick (R40). -/
def beatCauses (v : Env) (accs : List Acc) (acts : List Act) : BitVec 8 :=
  let c0 := accs.foldl (fun m a => match accCheck v a with | .causes c => m ||| c | _ => m) (0 : BitVec 8)
  let c1 := acts.foldl (fun m a => match a with
    | .put k _ _ => if 8 ≤ (v.fu.drill (drillOf k)).putq.length then setBit m 3 true else m
    | .wait c val => if reached (tget 0 v.fu.counters c) (BitVec.ofNat 16 val) then m else setBit m 6 true
    | _ => m) c0
  let c2 := if v.fu.gated then setBit c1 6 true else c1
  if v.x.hold then setBit c2 7 true else c2

def lowestBit (m : BitVec 8) : Nat := ((List.range 8).find? (fun i => bitOf m i)).getD 0

/-- A 48-bit counter one higher; FU_OVF and event 0x8E01 when it wraps (R41). -/
def State.bumpFrozen (s : State) (f : Fur) (d : Dom) (c : Nat) : State :=
  let y := s.dom f d
  let v := vat 0 y.frozen c
  let s1 := s.setDom f d { y with frozen := vput y.frozen c (v + 1) }
  if v + 1 = 0 then
    (s1.modFur f (fun x => { x with ovf := setBit x.ovf (8 * d.val + c) true })).offer 0x8E01 (srcDom f d) f.val d.val c
  else s1
def State.bumpKeeper (s : State) (f : Fur) (d : Dom) : State :=
  let y := s.dom f d
  let s1 := s.setDom f d { y with keeper := y.keeper + 1 }
  if y.keeper + 1 = 0 then
    (s1.modFur f (fun x => { x with ovf := setBit x.ovf (16 + d.val) true })).offer 0x8E01 (srcDom f d) f.val d.val 8
  else s1

/-- Probe group 0 of a freeze domain after its last tick, whose course counts as busy in the beat that ends it too (R165, R376). -/
def Domain.probeWord (y : Domain) : W32 :=
  w32 (at' (nfld y.tick.addr 1 17) 15 + at' (b2n y.tick.kept) 14 + at' (b2n y.tick.busy) 13 + at' (b2n y.tick.retired) 12
    + at' y.causes.toNat 4 + stCode y.st)

/-- A tick follows the domain's last: the word attempted at `addr`, whether its beat retired, MO_ADV, and whether the course is busy; the
signals of the last are kept. -/
def Domain.noted (y : Domain) (addr : Nat) (retired adv busy : Bool) : TickInfo :=
  ⟨addr, retired, false, adv, busy, (y.tick.no + 1) % 8, (y.probeWord :: y.tick.recent).take 7⟩

/-- The signals of a tick on which nothing retires and MO_ADV is low (R224). -/
def TickInfo.low (t : TickInfo) : TickInfo := { t with retired := false, adv := false }

/-- Notes the domain's tick: the word attempted, whether its beat retired, and MO_ADV (R224, R376). -/
def State.noteTick (s : State) (f : Fur) (d : Dom) (retired adv : Bool) : State :=
  (s.dropW f d).modDom f d (fun y => { y with tick := y.noted y.pos retired adv y.course.isSome })

/-- The keeper's part of a tick (R44): a brick operation restarts the window, otherwise a keeper operation runs as the phase lets it. -/
def State.keeperTick (s : State) (f : Fur) (d : Dom) (brickOp busy : Bool) : State :=
  let y := s.dom f d
  if brickOp then s.setDom f d { y with lastBrick := some s.time, keeperPhase := 8, keeperAcc := 0, tick := { y.tick with kept := false } }
  else
    let y1 := if busy then { y with lastBrick := some s.time, keeperPhase := 8 } else y
    let a := y1.keeperAcc + y1.keeperPhase
    if 8 ≤ a then (s.setDom f d { y1 with keeperAcc := a - 8, tick := { y1.tick with kept := true } }).bumpKeeper f d
    else s.setDom f d { y1 with keeperAcc := a, tick := { y1.tick with kept := false } }

/-- Beside a two-brick routine's feed on a four-brick course, the other bricks run a keeper operation (R175). -/
def State.keeperBeside (s : State) (f : Fur) (d : Dom) : State :=
  (s.modDom f d (fun y => { y with tick := { y.tick with kept := true } })).bumpKeeper f d

/-- A beat that a capture hold freezes is a beat held (R379, log 85). -/
def State.countHeld (s : State) (m : BitVec 8) : State :=
  if bitOf m 7 && s.gl.held then { s with gl := { s.gl with heldBeats := satInc s.gl.heldBeats } } else s

/-- A frozen beat: the tick is charged to the lowest cause present (R38, R40). While the beat clock is gated no keeper operation runs (R45,
R384, log 19). -/
def State.freezeBeat (s : State) (f : Fur) (d : Dom) (m : BitVec 8) : State :=
  let s1 := (s.noteTick f d false false).modDom f d (fun y => { y with
    ticks := y.ticks + 1, runFrozen := y.runFrozen + 1, causes := m
    frozenSince := match y.frozenSince with | some t => some t | none => some s.time })
  let s2 := s1.bumpFrozen f d (lowestBit m)
  (if (s.fur f).gated then s2 else s2.keeperTick f d false (s.dom f d).course.isSome).countHeld m

/-- Flights of a beat's acts; rows of port-W reads are in `rowOf`, a refused read giving a zero row (R33, R104). -/
def flightsOf (v : Env) (rid addr : Nat) (rowOf : Acc → RowBuf) (served : Acc → Bool) (o : SlotOp) (as : List Act) : List Flight :=
  let mk := fun (lat : Nat) (e : Effect) => (⟨v.x.beat + lat - 1, v.x.beat, o.slot, o.code, rid, addr, 0, v.b.audit && v.fu.auditEn, e⟩ : Flight)
  as.filterMap (fun a => match a with
    | .eff lat e => some (mk lat e)
    | .hrw lat e _ => some (mk lat e)
    | .swapOp ps n => some (mk (v.b.latOf 10) (.swap ps n false))
    | .miss u dst vals marks _ => some (mk (v.b.latOf (24 + u)) (.vreg dst 0 vals (segsOf 0 v.h) marks))
    | .sig t c op val => if t = v.f.val then some (mk 1 (.counter c op val)) else none
    | .acc c =>
      let row := rowOf c
      let n := c.addr.toNat
      match c.use with
      | .ldn i => some (mk (v.readLat n + v.b.latOf 3) (.sreg i (w64 (ofLe ((row.bytes.drop (n % 512)).take 8)))))
      | .vld i width part =>
        match rowLanes v.h width part with
        | none => none
        | some (lo, k) =>
          let segs := segsOf lo k
          some (mk (v.readLat n) (.vreg i lo (lanesOfRow row.bytes width part k) segs (if row.mark then segs else 0)))
      | .sld b r => some (mk (v.readLat n) (.standby b r row.bytes row.mark))
      | .store off bytes mark => if served c then some (mk (v.writeLat n) (.row (n + off) bytes c.tag mark)) else none
      | .stream _ => none
    | _ => none)

/-- Drill and mortar acts, which take effect at the end of the beat (R73, R134 to R139, R225). `lastPut` is the last row handed over in an
earlier beat (R285). DESIGN CHOICE: a DGO on a drill that holds a latched DGO takes its place, also one of the other direction (R134, log 98). -/
def State.lateAct (s : State) (f : Fur) (d : Dom) (lastPut : Option Nat) (rid addr : Nat) (a : Act) : State :=
  match a with
  | .put k bytes mark =>
    let y := s.dom f d
    let id := 2 * y.puts + d.val
    (s.setDom f d { y with puts := y.puts + 1, lastPut := some id }).modDrill f (drillOf k)
      (fun x => { x with putq := x.putq ++ [⟨id, bytes, mark⟩] })
  | .dgo k out =>
    let x := s.drill f (drillOf k)
    match x.st with
    | .armed => s.startList f (drillOf k)
    | .idle => s.setDrill f (drillOf k) { x with latched := some out }
    | .parked => s.setDrill f (drillOf k) { x with latched := some out }
    | .running => s.offer 0x0404 (srcDom f d) (posWord rid addr) k 2
    | .stopping => s.offer 0x0404 (srcDom f d) (posWord rid addr) k 3
    | .frozen => s.offer 0x0404 (srcDom f d) (posWord rid addr) k 5
  | .dtile k => s.modDrill f (drillOf k) (fun x => { x with credit := x.credit + 1 })
  | .dstop k => s.beginStop f (drillOf k)
  | .dtend k => s.endTile f (drillOf k)
  | .sig t c op v =>
    if t = f.val then s
    else (s.modFur (furOf t) (fun x => { x with changes := x.changes ++ [⟨2 * f.val + d.val, c, op, v, lastPut, none⟩] })).leaveChanges (furOf t)
  | .miss u _ _ _ next =>
    let y := s.dom f d
    (s.setDom f d { y with lastMiss := vput y.lastMiss u (some y.beats) }).modFur f (fun x => { x with
      mortarState := vput x.mortarState u next
      mortarIssues := vput x.mortarIssues u (vat 0 x.mortarIssues u + 1) })
  | _ => s

/-- Harrow flags of a beat: HA_STICKY, and the first flagged operation since START (R218, R219). -/
def State.harrowFlags (s : State) (f : Fur) (d : Dom) (rid addr slot code : Nat) (fl : Raised) : State :=
  if fl = 0 then s
  else
    let s1 := s.modFur f (fun x => x.haFlags d fl)
    if bitOf (s.dom f d).haFirst 63 then s1
    else (s1.modDom f d (fun y => { y with haFirst := w64 (at' 1 63 + at' (rid % 256) 48 + at' code 40 + at' slot 32
            + at' fl.toNat 24 + addr % 2 ^ 18) })).offer 0x0311 (srcDom f d) (posWord rid addr)
            (at' slot 24 + at' code 16 + fl.toNat) d.val

/-- Refused port-W accesses (R104). -/
def State.clashEvents (s : State) (f : Fur) (d : Dom) (p0 : Nat) (cs : List (Acc × Option Acc)) : State :=
  match cs with
  | [] => s
  | (_, none) :: r => s.clashEvents f d p0 r
  | (a, some b) :: r =>
    let s1 := s.modFur f (fun x => { x with spSticky := setBit x.spSticky d.val true, portClashes := satInc x.portClashes })
    (s1.offer 0x0201 (srcDom f d) p0 (at' b.slot 24 + at' a.slot 16 + (a.addr / 0x80000).toNat)
      (at' d.val 8 + b2n a.write)).clashEvents f d p0 r

/-- Narrow reads of poisoned rows (R111). -/
def State.narrowPoison (s : State) (f : Fur) (d : Dom) (p0 : Nat) (x0 : Furrow) (as : List Acc) : State :=
  as.foldl (fun s a =>
    if !a.wide && !a.write && x0.isPoison (a.addr.toNat / 512) then
      (s.modFur f (fun x => { x with spSticky := setBit x.spSticky (14 + d.val) true })).offer 0x0205 (srcDom f d) p0
        a.addr.toNat d.val
    else s) s

/-- Registers that a harrow operation reads (R207, R210 to R217). -/
def hrwReads (code op : Nat) : List (Nat × Nat) :=
  let noA := code == 0x5C && opSB op
  let noB := code == 0x5A || code == 0x5B || code == 0x5C || code == 0x70 || code == 0x72 || decide (0x78 ≤ code) ||
    (code == 0x73 && !fmtMx (nfld (opMod op) 2 4))
  (if noA then [] else [(2, opA op)]) ++
  (if opSB op then [(0, opSI op)] else if code = 0x71 then [(0, opB op), (0, opSI op)] else if noB then [] else [(2, opB op)]) ++
  (if code ≤ 0x52 || code = 0x59 then [(2, opC op)] else [])

/-- Registers read by a slot, as kind and index, for the audit (R51). -/
def auditReads (v : Env) (o : SlotOp) (as : List Act) : List (Nat × Nat) :=
  let op := o.op
  let mem := as.filterMap (fun a => match a with
    | .acc c => if c.write then none else some (4, c.addr.toNat / 512)
    | _ => none)
  let regs := match o.slot with
    | 1 => if o.code = 0x21 then [(1, nfld op 26 4)] else if o.code = 0x22 then [(1, nfld op 26 4), (0, opD op)]
           else if o.code = 0x1B || o.code = 0x1E || o.code = 0x1F then []
           else if o.code = 0x20 then [(1, opA op % 16)]
           else (0, opA op) :: (if opI op then [] else [(0, nfld op 24 5)])
    | 2 => if o.code = 0x1B || o.code = 0x1E || o.code = 0x1F then []
           else if o.code = 0x20 then [(1, opA op % 16)]
           else (0, opA op) :: (if opI op then [] else [(0, nfld op 24 5)])
    | 3 => if o.code = 0x30 || o.code = 0x31 then [(1, nfld op 36 4)]
           else if o.code = 0x33 then []
           else if o.code = 0x32 then (1, nfld op 36 4) :: (if nfld op 31 1 = 1 then [(1, nfld op 32 4)] else [])
           else if o.code = 0x34 then [(1, nfld op 36 4), (0, nfld op 31 5)] else [(1, nfld op 32 4)]
    | 4 => as.flatMap (fun a => match a with
        | .tile c => (1, nfld op 28 4) :: (if c.op = 2 || c.mx then [(1, nfld op 24 4)] else [])
        | _ => [])
    | 5 => if nfld op 36 4 = 0 then [] else [(1, nfld op 32 4)]
    | 6 =>
      let ar := if nfld op 28 1 = 1 then [] else [(1, nfld op 29 4)]
      let e := (if nfld op 28 1 = 1 then nfld op 18 10 else (fld (v.x.areg (nfld op 29 4)) 0 25 + nfld op 18 10) % v.b.depth)
      if o.code = 0x49 then (3, winKey (v.phys (nfld op 33 2)) e) :: ar
      else if o.code = 0x4A then (2, opD op) :: ar else ar
    | 9 => (1, nfld op 31 4) :: (if o.code = 0x91 then [(2, opD op)] else [])
    | 11 => if o.code = 0xA8 then [(2, nfld op 32 5)] else []
    | 12 => if nfld op 27 1 = 1 then [(0, nfld op 22 5)] else []
    | 13 => (2, nfld op 33 5) :: (if fld (v.b.mortars.toList.getD (nfld op 38 2) 0) 16 2 = 2 then [(2, nfld op 28 5)] else [])
    | 14 => (2, nfld op 33 5) :: (if fld (v.b.mortars.toList.getD (nfld op 38 2) 0) 16 2 = 2 then [(2, nfld op 28 5)] else [])
    | 7 => hrwReads o.code op
    | 8 => hrwReads o.code op
    | _ => []
  if o.code = 0 then [] else mem ++ regs

/-- Early reads of the beat (R51): a read before the stamped commit beat of a write that was issued before it. DESIGN CHOICE (log 101): a read that
is early against several stamped writes in flight gives one 0x0101, whose P2 counts to the write that was issued first of them. -/
def State.auditEarly (s : State) (f : Fur) (d : Dom) (v : Env) (rid addr slot : Nat) (rs : List (Nat × Nat)) : State :=
  rs.foldl (fun s r =>
    match v.x.flights.find? (fun g => g.eff.hits v.b.depth r && g.stamped && decide (g.issue < v.x.beat) && decide (v.x.beat < g.due)) with
    | some g => s.auditEvent f d 16 0x0101 rid addr slot r.1 r.2 (g.due - v.x.beat)
    | none => s) s

/-- Marks earlier-issued stamped writes that a new write to a destination of theirs overtakes (R51). -/
def markOvertaken (depth : Nat) (old new : List Flight) : List Flight :=
  old.map (fun g => match new.find? (fun h => g.stamped && g.eff.meets h.eff depth && decide (h.due < g.due)) with
    | some h => { g with overtaken := max g.overtaken (g.due - h.due) }
    | none => g)

/-- Slot acts of a word, each slot with its own list; used at retirement, when every check has passed. -/
def actsBySlot (v : Env) (rid addr : Nat) (mor0 : Option Nat) (os : List SlotOp) : List (SlotOp × List Act) :=
  os.map (fun o => (o, match slotActs v rid addr mor0 o with | .ok as => as | .error _ => []))

def accsOf (as : List Act) : List Acc := as.filterMap (fun a => match a with | .acc c => some c | _ => none)
def tileOf (as : List Act) : Option Course := as.findSome? (fun a => match a with | .tile c => some c | _ => none)

/-- The course of a beat: the running one, or the one that the beat issues unless it costs no beat (R170). -/
def liveCourse (x : Domain) (acts : List Act) : Option Course :=
  match x.course with
  | some c => some c
  | none => match tileOf acts with | some c => if c.cost = 0 then none else some c | none => none

/-- Whether a result of the acts is poisoned, so that free values stand in it (R198). -/
def poisonedActs (acts : List Act) : Bool :=
  acts.any (fun a => match a with
    | .hrw _ (.vreg _ _ _ _ m) _ => m != 0
    | .miss _ _ _ m _ => m != 0
    | _ => false)

/-- What a beat whose checks have all passed does (R38, R41). `word` is the word that issues, none in a beat with no issue.
Event 0x0304 names the word on which the routine ended (R171, log 68). A beat without a feed in a busy course carries keeper operations
(R171, log 19), and so do the bricks beside a two-brick routine's (R175). A domain that a pair loss has put in RESET in this beat goes nowhere
else, and one that ends its routine in the beat of its pair loss freezes at that beat's end (R50, R53). DESIGN CHOICE: harrow flags are raised in
the issue beat, those of slot 7 before those of slot 8 (R218, log 100); OVERFLOW and INVALID of a chunk's rounding in the beat of its feed, those of a windrow addition
at its commit (R218, log 104); a CONSUME read's change of TAG comes before the commits of its beat, so a write
that commits to the row with OVERWRITE or PRODUCE leaves TAG full (R109, log 98). -/
def State.retireActs (s : State) (f : Fur) (d : Dom) (w : Option Word) (acts : List Act) (next : Nat) (mask : BitVec 4) : State :=
  let v := s.env f d
  let x := v.x
  let rid := x.rid
  let addr := x.pos
  let p0 := posWord rid addr
  let auditOn := s.build.audit && v.fu.auditEn
  let course := liveCourse x acts
  let cs := clashes (courseAccs s.build course ++ accsOf acts)
  let served := (cs.filter (fun p => p.2.isNone)).map Prod.fst
  let free0 := if poisonedActs acts then s.free + 16 else s.free
  let isServed := fun a => served.contains a
  let rowOf := fun a => if isServed a then v.readRow a else (⟨[], false⟩ : RowBuf)
  let bySlot := match w with | some w => actsBySlot v rid addr none w.slots | none => []
  let newFl := bySlot.flatMap (fun p => flightsOf v rid addr rowOf isServed p.1 p.2)
  let out : Option COut := course.map (fun c => c.run v ((courseAccs s.build (some c)).map rowOf) free0)
  let courseFl := match out with
    | none => []
    | some o => o.effs.map (fun p => (⟨x.beat + p.1 - 1, x.beat, 4, 0x38 + o.c.op, o.c.rid, o.c.addr, 0, auditOn, p.2⟩ : Flight))
  let course' := match out with
    | none => none
    | some o => if o.c.t + 1 < o.c.cost then some { o.c with t := o.c.t + 1 } else none
  let fresh := newFl ++ courseFl
  let old := if auditOn then markOvertaken s.build.depth x.flights fresh else x.flights
  let s0 := { s with free := match out with | some o => o.free | none => free0 }
  let s1 := s0.setFur f (served.foldl Furrow.accTags (s0.fur f))
  let s2 := s1.modDom f d (fun y => { y with flights := old ++ fresh, course := course', causes := 0, frozenSince := none, longReported := false, lastPos := p0, tick := y.noted addr true true course.isSome })
  let s3 := match out with
    | some o => s2.modFur f (fun z => z.wrFlags d o.ovf o.inv)
    | none => s2
  let s4 := (s3.clashEvents f d p0 cs).narrowPoison f d p0 v.fu served
  let s5 := bySlot.foldl (fun s p => p.2.foldl (fun s a => match a with
    | .hrw _ _ fl => s.harrowFlags f d rid addr p.1.slot p.1.code fl
    | _ => s) s) s4
  let streams := (courseAccs s.build course).map (fun a => (4, a.addr.toNat / 512))
  let early := fun s => match course with
    | some c => s.auditEarly f d v c.rid c.addr 4 streams
    | none => s
  let s6 := if auditOn then bySlot.foldl (fun s p => s.auditEarly f d v rid addr p.1.slot (auditReads v p.1 p.2)) (early s5) else s5
  let s7 := acts.foldl (fun s a => s.lateAct f d x.lastPut rid addr a) s6
  let s8 := s7.commitDue f d mask
  let feeds := match course with | some c => c.feeds s.build | none => false
  let swapped := acts.any (fun a => match a with | .swapOp _ _ => true | _ => false)
  let brickOp := match course with | some _ => feeds | none => swapped
  let bricks := match course with | some c => c.nb | none => x.bricks
  let s8' := s8.keeperTick f d brickOp course.isSome
  let s9 := if brickOp && decide (bricks < v.act) then s8'.keeperBeside f d else s8'
  let seq := acts.findSome? (fun a => match a with | .seqOp c o => some (c, o) | _ => none)
  let s10 := s9.modDom f d (fun y =>
    let z := { y with ticks := y.ticks + 1, beats := y.beats + 1, runBeats := y.runBeats + 1, beat := y.beat + 1 }
    let flagsAtStart := { z with flags := x.flags }
    if y.st != .running then z
    else match w with
    | some w => { flagsAtStart.afterWord v.fu w next seq with flags := z.flags }
    | none => z.afterIdle)
  let y : Domain := s10.dom f d
  if y.st == .draining then
    let z := if y.pairLost then { y with st := .faulted, pairLost := false, course := none } else { y with course := none }
    match y.course with
    | some c => (s10.setDom f d z).offer 0x0304 (srcDom f d) p0 (c.cost - c.t) d.val
    | none => s10.setDom f d z
  else s10

/-- Retires a beat whose checks have all passed, its records in the gleaner's order (R38, R369). -/
def State.retireBeat (s : State) (f : Fur) (d : Dom) (w : Option Word) (acts : List Act) (next : Nat) (mask : BitVec 4) : State :=
  s.ordered (s.retireActs f d w acts next mask)

/-- The attempt of one beat of a RUNNING domain (R38, R405): `word` as fetched or supplied, `next` the address after it. -/
def State.attempt (s : State) (f : Fur) (d : Dom) (word : Option Word) (next : Nat) (mask : BitVec 4) : State :=
  let v := s.env f d
  let x := v.x
  let checked : Except BFault (List Act) := match word with
    | none => .ok []
    | some w => wordActs v x.rid x.pos (decide (w.extra ≤ x.done)) next w
  match checked with
  | .error e => (s.noteTick f d false false).slotFault f d x.rid x.pos e
  | .ok acts =>
    let cs := clashes (courseAccs s.build (liveCourse x acts) ++ accsOf acts)
    let served := (cs.filter (fun p => p.2.isNone)).map Prod.fst
    match portFaults v served with
    | p :: r => (s.noteTick f d false false).portFault f d (posWord x.rid x.pos) (p :: r)
    | [] =>
      let m := beatCauses v served acts
      if m ≠ 0 then s.freezeBeat f d m else s.retireBeat f d word acts next mask

/-- Whether the domain can attempt a beat: RUNNING, and no recovery has stopped the block. -/
def State.canAttempt (s : State) (f : Fur) (d : Dom) : Bool :=
  decide ((s.dom f d).st = .running) && !s.stopped && s.release == 3

/-- The domain freezes at its beat boundary after losing a pair (R175). -/
def State.pairFreeze (s : State) (f : Fur) (d : Dom) : State :=
  (s.noteTick f d false false).modDom f d (fun x => { x with st := .faulted, pairLost := false, causes := 0, frozenSince := none })

/-- A beat in which a word issues, unless the end of the routine has been reached without END (reason 7); the word `w` runs even where it
straddles that end (R405, log 93). -/
def State.issueAttempt (s : State) (f : Fur) (d : Dom) (w : Word) (next : Nat) (mask : BitVec 4) : State :=
  let x := s.dom f d
  if x.stop ≤ x.pos then (s.noteTick f d false false).slotFault f d x.rid x.pos ⟨16, 0, .seq 7⟩
  else s.attempt f d (some w) next mask

/-- The next beat of the schedule: a beat with no issue, or one that issues the stored word (R405); the residue check fails on the bricks of
`mask` (R174). -/
def State.fetchAttempt (s : State) (f : Fur) (d : Dom) (mask : BitVec 4) : State :=
  let x := s.dom f d
  if x.pairLost then s.pairFreeze f d
  else if 0 < x.idle then s.attempt f d none x.pos mask
  else
    let w := readWord (s.fur f).pstore x.pos
    s.issueAttempt f d w (x.pos + w.size) mask

/-- A beat whose long word holds one operation, supplied in place of a fetched word (log 15). -/
def State.opBeat (s : State) (f : Fur) (d : Dom) (o : SlotOp) : State :=
  let x := s.dom f d
  if s.canAttempt f d && !x.pairLost && x.idle == 0 && x.done == 0 then
    s.issueAttempt f d ⟨0, [o], 0⟩ x.pos 0
  else s

/-- A beat with a word that has no present slot, supplied in place of a fetched word, on which residue checks `mask` fail (log 15). -/
def State.emptyBeat (s : State) (f : Fur) (d : Dom) (ctrl : Nat) (mask : BitVec 4) : State :=
  let x := s.dom f d
  if s.canAttempt f d && !x.pairLost && x.idle == 0 && x.done == 0 then
    s.issueAttempt f d ⟨ctrl, [], 0⟩ x.pos mask
  else s

end Sys2Proof.Machine
end

