-- ==== Sys2Proof/Machine/Schedule.lean ====
section
/-! DEFINITION. Events of the schedule: beats, commits, the drain, mortar errors, keeper step-down, clock gating, thaws, and counter
changes from other furrows (R33 to R54, R77 to R97, R232, R285). -/

namespace Sys2Proof.Machine

/-! ### Beats -/

/-- BEAT_ATTEMPT (R38, R95): a beat of a RUNNING domain, or one of the fetch ticks of a START whose footprint has been entered; a
hold keeps a STARTING domain from RUNNING (R377), and MO_ADV is low on a fetch tick (R224). Of the results that commit in the beat, those of the bricks of `b.mismatch` fail their
residue check (R174). -/
def execBeatAttempt (f : Fur) (b : BeatAt) (s : State) : Res :=
  let d := b.dom
  let y := s.dom f d
  if s.canAttempt f d then .next (s.fetchAttempt f d b.mismatch)
  else if y.st == .starting && decide (0 < y.startLeft) && !(s.fur f).gated && !(y.hold && y.startLeft == 1) && !s.stopped then
    .next ((s.dropW f d).setDom f d { y with
      startLeft := y.startLeft - 1
      st := if y.startLeft = 1 then .running else .starting
      tick := y.tick.low })
  else .next s

/-- A tick of a drain that a hold stops: MO_ADV is low (R224, R377). Its keeper operations run in the reference cycle (log 19). -/
def State.heldTick (s : State) (f : Fur) (d : Dom) : State := (s.dropW f d).modDom f d (fun y => { y with tick := y.tick.low })

/-- One tick of the drain: the pipelines advance by one stage (R36). -/
def State.drainTick (s : State) (f : Fur) (d : Dom) (mask : BitVec 4) : State :=
  ((s.ordered ((s.noteTick f d false true).commitDue f d mask)).modDom f d (fun y => { y with beat := y.beat + 1 })).keeperTick f d false false

/-- OPERATION_COMMIT (R33, R36, R174): a tick of the drain, or a beat of a RUNNING domain with no operation; operations whose beat has
come commit at its end, and the residue check fails on the bricks of `mismatch`. A hold stops the drain (R377). -/
def execOperationCommit (f : Fur) (d : Dom) (mismatch : BitVec 4) (s : State) : Res :=
  if (s.dom f d).st = .draining then .next (if s.stopped then s else if (s.dom f d).hold then s.heldTick f d else s.drainTick f d mismatch)
  else .next (s.emptyBeat f d 0 mismatch)

/-- PAIR_LOSS_FREEZE (R175). -/
def execPairLossFreeze (f : Fur) (d : Dom) (s : State) : Res :=
  if s.canAttempt f d && (s.dom f d).pairLost then .next (s.pairFreeze f d) else .next s

/-- Whether the running course is at the end of a chunk (R164, R168). -/
def State.atChunkEnd (s : State) (f : Fur) (d : Dom) : Bool :=
  match (s.dom f d).course with | some c => c.chunkEnds s.build | none => false

/-- TILE_CHUNK_SWAP (R164): the beat that ends a chunk of a course with AUTOSWAP. -/
def execTileChunkSwap (f : Fur) (d : Dom) (s : State) : Res :=
  if s.atChunkEnd f d then .next (s.emptyBeat f d 0 0) else .next s

/-- Whether the running course reads a drain row in its next beat (R168). -/
def State.atDrainRead (s : State) (f : Fur) (d : Dom) : Bool :=
  match (s.dom f d).course with | some c => (c.drainAt s.build c.t).isSome | none => false

/-- OS_DRAIN_READ (R168): a beat in which an OS course reads a cell row. -/
def execOsDrainRead (f : Fur) (d : Dom) (s : State) : Res :=
  if s.atDrainRead f d then .next (s.emptyBeat f d 0 0) else .next s

/-- END (R82): a beat whose word has END set and no operation. -/
def execEndWord (f : Fur) (d : Dom) (s : State) : Res := .next (s.emptyBeat f d 0x8000 0)

/-- DRAIN_END (R36, R118): nothing is in flight; the domain enters IDLE, its entries are freed and its command completes. -/
def State.drainEnd (s : State) (f : Fur) (d : Dom) : State :=
  let y := s.dom f d
  let s1 := (s.leaveBoardOpt f y.cmd).setDom f d { y with st := .idle, held := 0, cmd := none }
  s1.finishOpt y.cmd stOk y.runBeats (min y.runFrozen (2 ^ 32 - 1))
def execDrainEnd (f : Fur) (d : Dom) (s : State) : Res :=
  let y := s.dom f d
  if y.st = .draining ∧ y.flights = [] ∧ !y.hold ∧ !s.stopped then .next (s.drainEnd f d) else .next s

/-! ### Faults and warnings of a domain -/

/-- MORTAR_ERROR (R232): MO_ERR high on the domain's last tick, on which MO_ADV was high. On a domain that another unit or the loss of a pair has
stopped on that tick, or is to stop at its end, it is the same fault, and only its record is added; beside a recovery of the block or of the whole
furrow that has stopped the domain on that tick it is a fault of another recovery domain (R325). DESIGN CHOICE: on a tick of the drain,
which retires no beat, P0 names the word of the beat that retired last (log 102). -/
def execMortarError (f : Fur) (u : Fin 4) (code : W16) (s : State) : Res :=
  let x := s.fur f
  let d : Dom := if x.split then domOf (u.val / 2) else 0
  let y := x.dom d
  let live := (y.st == .running || y.st == .draining) && !x.gated && !s.stopped
  let again := (y.st == .faulted || y.st == .reset) && (s.stoppedNow f d || s.stoppedBeside f d) && !s.dead
  if u.val < s.build.mortar ∧ y.tick.adv ∧ (live || again) then
    let i : FaultInfo := ⟨0x0901, srcOf 3 (4 * f.val + u.val), y.lastPos, at' u.val 30 + code.toNat, d.val⟩
    let s1 := s.modFur f (fun x => { x with
      sticky := setBit x.sticky (6 + d.val) true
      mortarCode := vput x.mortarCode u.val code
      mortarErrs := vput x.mortarErrs u.val (satInc (vat 0 x.mortarErrs u.val)) })
    if live && !s.pairStopped f d then .next (s1.freezeDomain f d i)
    else if s.stoppedBeside f d then .next (s1.faultBeside f d i)
    else .next ((if live then s1.modDom f d (fun y => { y with st := .faulted, pairLost := false, causes := 0, frozenSince := none }) else s1).faultRecord
      i.code i.source i.p0 i.p1 i.p2 (s.sameTickLevel f d))
  else .next s

/-- LONG_FREEZE (R42). -/
def execLongFreeze (f : Fur) (d : Dom) (s : State) : Res :=
  let x := s.fur f
  let y := x.dom d
  match y.frozenSince with
  | some t =>
    if y.st = .running ∧ !s.stopped ∧ !y.longReported ∧ x.stallLimit ≠ 0 ∧ x.stallLimit.toNat * 1000 < s.since t then
      .next (((s.modFur f (fun x => { x with sticky := setBit x.sticky (14 + d.val) true })).modDom f d
        (fun y => { y with longReported := true })).offer 0x0110 (srcDom f d) (posWord y.rid y.pos) y.causes.toNat x.stallLimit.toNat)
    else .next s
  | none => .next s

/-- A tick counter of a drill `n` higher; DL_OVF and event 0x8E01 when it wraps (R150, R151). -/
def State.bumpDrill (s : State) (f : Fur) (k : DrillNo) (c n : Nat) : State :=
  let x := s.drill f k
  let v := (vat 0 x.waits c).toNat + n
  let s1 := s.setDrill f k { x with waits := vput x.waits c (BitVec.ofNat 48 v) }
  if 2 ^ 48 ≤ v then
    (s1.modFur f (fun z => { z with dlOvf := setBit z.dlOvf (5 * k.val + c) true })).offer 0x8E01 (srcDrill f k) f.val
      (if (s.fur f).split then k.val / 4 else 0) (0x10 + 8 * k.val + c)
  else s1

/-! ### Keeper and clock -/

/-- KEEPER_STEP_DOWN (R44): after 4 µs, and every 125 ns from then, keeper issue falls by one eighth. -/
def execKeeperStepDown (f : Fur) (d : Dom) (s : State) : Res :=
  let y := s.dom f d
  match y.lastBrick with
  | some t =>
    if !s.stopped ∧ 0 < y.keeperPhase ∧ 4000 + 125 * (8 - y.keeperPhase) ≤ s.since t then
      .next (s.setDom f d { y with keeperPhase := y.keeperPhase - 1 })
    else .next s
  | none => .next s

/-- Causes of the beat that a RUNNING domain would attempt next, the gated clock apart; none when it would fault or end. -/
def State.pendingCauses (s : State) (f : Fur) (d : Dom) : BitVec 8 :=
  let x := s.fur f
  let y := x.dom d
  let v := { s.env f d with fu := { x with gated := false } }
  if y.pairLost || decide (0 < y.idle) || decide (y.stop ≤ y.pos) then 0
  else
    let w := readWord x.pstore y.pos
    match wordActs v y.rid y.pos (decide (w.extra ≤ y.done)) (y.pos + w.size) w with
    | .error _ => 0
    | .ok acts =>
      let cs := clashes (courseAccs s.build (liveCourse y acts) ++ accsOf acts)
      let served := (cs.filter (fun p => p.2.isNone)).map Prod.fst
      if portFaults v served ≠ [] then 0 else beatCauses v served acts

/-- Whether domain `d` lets the furrow gate: idle, or frozen on cause 6 alone (R45). -/
def State.quietDom (s : State) (f : Fur) (d : Dom) : Bool :=
  match (s.dom f d).st with
  | .idle => true
  | .unused => true
  | .running => (s.pendingCauses f d == 0x40)
  | _ => false

/-- Whether a port-S transfer of the furrow is in progress or waits: of the relay or a drill, or a row of a WRITE frame at its turn (R45,
R105, R312). Host commands hold the scoreboard. -/
def State.portSWaits (s : State) (f : Fur) : Bool :=
  let x := s.fur f
  !x.xfers.isEmpty || !x.relayIn.isEmpty ||
    s.ms.recv.any (fun (p : Nat × RecvLane) => match p.2.cur with
      | some fr => fld fr.h0 60 4 == 1 && fld fr.h2 0 4 == f.val
      | none => false)

/-- The gating condition of R45. -/
def State.mayGate (s : State) (f : Fur) : Bool :=
  let x := s.fur f
  s.quietDom f 0 && s.quietDom f 1 && x.drills.toList.all (fun k => k.st != .running && k.st != .stopping) && !s.portSWaits f
    && x.board.all (fun e => e.kind != 3)

/-- CLOCK_GATE (R45): the condition has held for 20 µs. -/
def execClockGate (f : Fur) (s : State) : Res :=
  let x := s.fur f
  match x.gateSince with
  | some t =>
    if !s.stopped ∧ !x.gated ∧ s.mayGate f ∧ 20000 ≤ s.since t then .next (s.setFur f { x with gated := true }) else .next s
  | none => .next s

/-- CLOCK_UNGATE (R45, R355): the condition has ended; the furrow resumes at FMIN. -/
def execClockUngate (f : Fur) (s : State) : Res :=
  let x := s.fur f
  if x.gated ∧ !s.mayGate f ∧ !s.stopped then
    .next (State.setFur { s with rv := { s.rv with woke := true } } f { x with gated := false, gateSince := none, current := 56 })
  else .next s

/-! ### FU_THAW and counter changes -/

/-- FU_THAW (R54): THAW0 and THAW1 of an FU_CTRL write. -/
def execFuThaw (f : Fur) (mask : BitVec 2) (s : State) : Res :=
  .next (s.oneCycle <| s.furrowWrite f 0 (fun s =>
    let s1 := if bitOf mask 0 then s.thawDom f 0 else s
    if bitOf mask 1 then s1.thawDom f 1 else s1))

/-- Splits the changes that take effect from those that wait: a change takes effect at least 2 ns after it left its furrow, and after every
earlier change of its domain to its counter (R285). -/
def State.splitChanges (s : State) (kept cs : List Change) : List Change × List Change :=
  match cs with
  | [] => ([], kept)
  | c :: r =>
    let ripe := (match c.left with | some t => decide (2 ≤ s.since t) | none => false) &&
      kept.all (fun e => e.src != c.src || e.ctr != c.ctr)
    if ripe then (let p := s.splitChanges kept r; (c :: p.1, p.2)) else s.splitChanges (kept ++ [c]) r

/-- SIGNAL_ARRIVE (R285, R286): the changes that left at least 2 ns before take effect at the end of a tick, in ascending furrow and domain.
Changes that other commands make are of other ticks (log 74). -/
def execSignalArrive (f : Fur) (s : State) : Res :=
  let s1 := s.leaveChanges f
  let p := s1.splitChanges [] (s1.fur f).changes
  let ordered := (List.range 32).flatMap (fun n => p.1.filter (fun c => c.src == n))
  .next (if s.stopped then s
    else s1.modFur f (fun x => ordered.foldl (fun x c => x.changeCounter c.ctr c.op c.v) { x with changes := p.2 }))

end Sys2Proof.Machine
end

