-- ==== Sys2Proof/Machine/Commands.lean ====
section
/-! DEFINITION. Queue commands without a memory engine: fetching, NOP to FALLOW, the scoreboard, the events that end them, and completion
records (R48, R85 to R97, R116 to R119, R239 to R253). -/

namespace Sys2Proof.Machine

/-! ### Fetching (R251 to R253) -/

def Queue.ringAddr (x : Queue) (n : Nat) : Nat :=
  fld x.ring 12 52 * 4096 + 64 * (n % 2 ^ fld x.cfg 0 5)

/-- The eight words of a 64-byte unit. -/
def unitWords (bs : List Byte) : List W64 := (List.range 8).map (fun i => w64 (ofLe ((bs.drop (8 * i)).take 8)))

/-- A packet's length in units as its header states it; one where it is neither 1 nor 2 (R243). -/
def headerUnits (ws : List W64) : Nat := if nfld (wordAt ws 0) 24 8 = 2 then 2 else 1

/-- One packet is fetched: QS_HEAD moves past its units and QS_SEQ by one. -/
def State.fetchPacket (s : State) (q : QSlot) : State :=
  let x := s.queue q
  let w0 := unitWords (s.hostRd (x.ringAddr x.head.toNat) 64)
  let n := headerUnits w0
  let ws := if n = 2 then w0 ++ unitWords (s.hostRd (x.ringAddr (x.head.toNat + 1)) 64) else w0
  if (x.tail - x.head).toNat < n then s
  else s.setQueue q { x with head := x.head + BitVec.ofNat 32 n, seq := x.seq + 1, fetched := x.fetched ++ [⟨ws, n, x.seq⟩] }

/-- Whether the queue engine fetches (R250, R251, R252). -/
def State.mayFetch (s : State) (x : Queue) : Bool :=
  x.st == .active && s.release == 3 && !s.stopped && decide (x.fetched.length + x.cmds.length < 256) && decide (x.head ≠ x.tail)

/-- COMMAND_FETCH (R251). -/
def execCommandFetch (q : QSlot) (s : State) : Res :=
  .next (if s.mayFetch (s.queue q) then s.fetchPacket q else s)

/-! ### NOP, BARRIER, TIMESTAMP (R244) -/

/-- NOP. -/
def execNop (q : QSlot) (s : State) : Res := .next (s.accept q 0x0000 (fun s _ r => s.finish r stOk 0 0))
/-- BARRIER: its own condition is that every earlier command of the queue has completed. -/
def execBarrier (q : QSlot) (s : State) : Res := .next (s.accept q 0x0001 (fun s _ r => s.finish r stOk 0 0))
/-- TIMESTAMP. -/
def execTimestamp (q : QSlot) (s : State) : Res := .next (s.accept q 0x0002 (fun s _ r => s.finish r stOk s.time.toNat 0))

/-! ### LOAD_PROGRAM (R88 to R91) -/

/-- The CONTEXT_ID that the commands of a queue carry. -/
def State.idOf (s : State) (q : Nat) : Nat := (s.ctx (s.queue (slotOf q)).ctxSlot).id

/-- A LOAD_PROGRAM is among those that wait, with the segments that it holds against a START: its target segments, or all of them while its image
has not been read. -/
def Furrow.joinLoads (x : Furrow) (mask : BitVec 8) (r : CmdRef) : Furrow :=
  { x with loads :=
      if x.loads.any (fun l => l.2 == r) then x.loads.map (fun l => if l.2 == r then (mask, r) else l) else x.loads ++ [(mask, r)] }

/-- A LOAD_PROGRAM waits no longer. -/
def Furrow.leaveLoads (x : Furrow) (r : CmdRef) : Furrow := { x with loads := x.loads.filter (fun l => l.2 != r) }

/-- The checks of R89 have been made; an image that passes waits in acceptance order, and an image of nothing completes at once (R90). -/
def State.imageChecked (s : State) (f : Fur) (r : CmdRef) (o : Except Nat (List Byte)) : State :=
  match o with
  | .error st => (s.modFur f (fun x => x.leaveLoads r)).finish r st 0 0
  | .ok img =>
    if imageCount img = 0 ∧ imageMask img = 0 then (s.modFur f (fun x => x.leaveLoads r)).finish r stOk 0 0
    else (s.modCmd r (fun c => { c with stage := 2, buf := img })).modFur f (fun x => x.joinLoads (imageMask img) r)

/-- LOAD_PROGRAM once accepted: its image is read and checked, or waits for the stack that holds it (R89, R349). DESIGN CHOICE: a LOAD_PROGRAM
whose image has not been read holds back every START and CALL of its furrow (R91, log 97). -/
def State.loadBody (s : State) (p : Packet) (r : CmdRef) : State :=
  if s.imageHeld (p.w 2) (p.w 3) s.erasures then
    (s.modCmd r (fun c => { c with stage := 1 })).modFur p.fur (fun x => x.joinLoads (BitVec.allOnes 8) r)
  else s.imageChecked p.fur r (s.checkImage (p.w 2) (p.w 3) s.erasures)

/-- LOAD_PROGRAM (R89). -/
def execLoadProgram (q : QSlot) (s : State) : Res := .next (s.accept q 0x0100 State.loadBody)

/-- The command of queue `q` named by `seq`, where it has opcode `op` and is still at work. -/
def State.atWork (s : State) (q : QSlot) (seq : W32) (op : Nat) : Option Cmd :=
  match s.cmd? ⟨q.val, seq⟩ with
  | some c => if c.opcode.toNat = op ∧ c.stage ≠ 3 then some c else none
  | none => none

/-- PROGRAM_STORE_LOAD (R90, R91): no domain of the furrow holds a target segment. An image that waited for its stack is read first (R349). -/
def execProgramStoreLoad (q : QSlot) (seq : W32) (s : State) : Res :=
  match s.atWork q seq 0x0100 with
  | none => .next s
  | some c =>
    let r : CmdRef := ⟨q.val, seq⟩
    let x := s.fur c.fur
    if s.stopped then .next s
    else if c.stage = 1 then
      .next (if s.imageHeld (c.w 2) (c.w 3) c.since then s
        else s.imageChecked c.fur r (s.checkImage (c.w 2) (c.w 3) c.since))
    else if x.loads.any (fun l => l.2 == r) && (imageMask c.buf &&& x.heldSegs) == 0 then
      .next ((s.setFur c.fur ((x.loadImage c.buf).leaveLoads r)).finish r stOk (imageCount c.buf) 0)
    else .next s

/-! ### CONFIGURE (R93, R94) -/

def insertRef (a : Nat × CmdRef) (l : List (Nat × CmdRef)) : List (Nat × CmdRef) :=
  match l with
  | [] => [a]
  | b :: r => if a.1 ≤ b.1 then a :: b :: r else b :: insertRef a r

/-- CONFIGUREs of a domain that wait, in acceptance order. -/
def State.configs (s : State) (f : Fur) (d : Dom) : List CmdRef :=
  let all := (List.range 64).flatMap (fun q =>
    ((s.queue (slotOf q)).cmds.filter (isConfig f d)).map (fun c => (c.order, (⟨q, c.seq⟩ : CmdRef))))
  (all.foldr insertRef []).map (fun p => p.2)

/-- Values that a CONFIGURE writes: inline, or from its segment. -/
def State.configValues (s : State) (c : Cmd) : List W64 :=
  let n := nfld (c.w 2) 8 9
  if nfld (c.w 2) 24 1 = 1 then
    let bs := (s.memRead ((s.locOf (c.w 3) (c.w 4)).checked c.since) (8 * n)).1
    (List.range n).map (fun i => w64 (ofLe ((bs.drop (8 * i)).take 8)))
  else (c.words.drop 3).take n

/-- One waiting CONFIGURE writes its run of the next bank and completes. -/
def State.applyConfig (s : State) (r : CmdRef) : State :=
  match s.cmd? r with
  | none => s
  | some c =>
    let vs := s.configValues c
    ((s.modDom c.fur c.dom (fun y => { y with next := tputs 0 y.next (nfld (c.w 2) 0 8) vs })).bumpFree).finish r stOk vs.length 0

/-- Whether an accepted START of the domain has not swapped its banks (R94). -/
def Domain.unswapped (y : Domain) : Bool := y.st == .starting && y.startLeft == 0 && !y.isCall

/-- CONFIGURE: with COUNT zero it completes at once, unless it has to wait for an earlier START or CONFIGURE of its domain (R94); else its values
wait for CONFIGURE_APPLY. -/
def State.configBody (s : State) (p : Packet) (r : CmdRef) : State :=
  if nfld (p.w 2) 8 9 = 0 ∧ (s.configs p.fur p.dom).isEmpty ∧ !(s.dom p.fur p.dom).unswapped then s.finish r stOk 0 0
  else s.modCmd r (fun c => { c with stage := 2 })
def execConfigure (q : QSlot) (s : State) : Res := .next (s.accept q 0x0101 State.configBody)

/-! ### START and the host CALL (R87, R94 to R97) -/

/-- Whether a START that has not swapped was accepted before command `c` (R94). -/
def State.afterStart (s : State) (c : Cmd) : Bool :=
  let y := s.dom c.fur c.dom
  y.unswapped && (match y.cmd.bind s.cmd? with | some k => decide (k.order < c.order) | none => true)

/-- The CONFIGUREs `rs` write their values, in order, up to the first whose values cannot be read yet (R349). -/
def State.applyReady (s : State) (rs : List CmdRef) : State :=
  match rs with
  | [] => s
  | r :: t =>
    match s.cmd? r with
    | some c => if s.configHeld c then s else (s.applyConfig r).applyReady t
    | none => s

/-- What an entered routine starts from: its table entry `e` read once (R86), counts, flags and audit combinations of the last one dropped
(R52, R218). DESIGN CHOICE: a host CALL, too, clears HA_Dd_FIRST and counts as the START after which R218's first flags are recorded (R219, log
102). -/
def Domain.begin (y : Domain) (rid : Nat) (e : Routine) (r : CmdRef) (isCall : Bool) : Domain :=
  { y with
    st := .starting, rid := rid, pos := e.addr, stop := e.addr + e.length, bricks := e.bricks, entered := rid, held := e.reach, cmd := some r, isCall := isCall, runBeats := 0, runFrozen := 0, combos := [],
    foot := e.foot, haFirst := 0, winFirst := false, startLeft := 0, loops := [], stack := [], idle := 0, endAfter := false, done := 0,
    longReported := false, pairLost := false }

/-- The bank from which a START or CALL forms its footprint (R87, R97). -/
def Domain.footBank (y : Domain) (isCall : Bool) : Tab W64 := if isCall then y.live else y.next

/-- The checks on a footprint as it is formed: its regions (R116), and of a START the rings about to change (R113). -/
def State.footRefused (s : State) (f : Fur) (d : Dom) (isCall : Bool) (foot : W64) : Option Nat :=
  let x := s.fur f
  let bank := (x.dom d).footBank isCall
  if (footRegions foot bank).any (badRegion s.build x d) then some stBadParam
  else if isCall then none else s.ringCheck f d bank

/-- The footprint of a STARTING domain waits for the scoreboard, in the order of its command (R117). -/
def State.joinFoot (s : State) (f : Fur) (d : Dom) (r : CmdRef) (order : Nat) : State :=
  (s.modCmd r (fun c => { c with stage := 1 })).modFur f (fun x =>
    let y := x.dom d
    x.enqueue ⟨order, 1 + d.val, r, footRegions y.foot (y.footBank y.isCall)⟩)

/-- The checks of R95 and R97 and the footprint, then STARTING; bricks are those that FT_BRICKS.ACTIVE shows (R24). A half whose pair was disabled while the furrow was split refuses until the join
(R50). CONFIGUREs accepted earlier are complete first (R94); a START or CALL that has
to wait for their values is STARTING with no footprint yet (R349, log 97). -/
def State.startBody (isCall : Bool) (s : State) (p : Packet) (r : CmdRef) : State :=
  let f := p.fur
  let d := p.dom
  let s0 := s.applyReady (s.configs f d)
  let x := s0.fur f
  let rid := nfld (p.w 2) 0 8
  let e := x.routine rid
  let s1 := s0.modDom f d (fun y => y.begin rid e r isCall)
  if !e.valid then s0.finish r stBadParam 0 0
  else if e.placement ≠ placementOf x.split d then s0.finish r stShape 0 0
  else if (s0.env f d).shown < e.bricks || (x.split && bitOf x.halfLost d.val) then s0.finish r stShape 0 0
  else if !(s0.configs f d).isEmpty then s1
  else match s0.footRefused f d isCall e.foot with
  | some st => s0.finish r st 0 0
  | none => s1.joinFoot f d r s0.accepted

/-- START (R95). -/
def execStart (q : QSlot) (s : State) : Res := .next (s.accept q 0x0102 (State.startBody false))
/-- The host CALL command (R97). -/
def execHostCall (q : QSlot) (s : State) : Res := .next (s.accept q 0x0103 (State.startBody true))

/-- The footprint has been entered: the banks swap and the fetch ticks follow; a routine of no words ends here (R95, R96, R113). -/
def State.startEntered (s : State) (f : Fur) (d : Dom) (r : CmdRef) : State :=
  let x := s.fur f
  let y := x.dom d
  let x1 := if y.isCall then x else (x.swapRings d y.next).setDom d { y with live := y.next }
  let y1 := x1.dom d
  if y1.stop ≤ y1.pos then
    (s.setFur f ((x1.setDom d { y1 with st := .idle, held := 0, cmd := none }).leaveBoard r)).finish r stOk 0 0
  else s.setFur f (x1.setDom d { y1 with startLeft := 3 })

/-- A START or CALL leaves STARTING without having begun. -/
def State.startRefused (s : State) (f : Fur) (d : Dom) (r : CmdRef) (status : Nat) : State :=
  (s.modFur f (fun x => (x.setDom d { x.dom d with st := .idle, held := 0, cmd := none }).leaveBoard r)).finish r status 0 0

/-- A START or CALL that waited for the values of earlier CONFIGUREs forms its footprint once they are written (R94, log 97). -/
def State.formFoot (s : State) (f : Fur) (d : Dom) : State :=
  let y := s.dom f d
  match y.cmd with
  | none => s
  | some r =>
    match s.cmd? r with
    | none => s
    | some k =>
      if y.st == .starting && y.startLeft == 0 && k.stage == 0 && ((s.configs f d).filterMap s.cmd?).all (fun c => decide (k.order < c.order)) then
        match s.footRefused f d y.isCall y.foot with
        | some st => s.startRefused f d r st
        | none => s.joinFoot f d r k.order
      else s

/-- CONFIGURE_APPLY (R94): the oldest waiting CONFIGURE of its domain, once no earlier START waits to swap and its values can be read (R349). -/
def execConfigureApply (q : QSlot) (seq : W32) (s : State) : Res :=
  match s.atWork q seq 0x0101 with
  | none => .next s
  | some c =>
    let r : CmdRef := ⟨q.val, seq⟩
    if (s.configs c.fur c.dom).head? = some r ∧ !s.afterStart c ∧ !s.configHeld c ∧ !s.stopped then
      .next ((s.applyConfig r).formFoot c.fur c.dom)
    else .next s

/-! ### SPLIT (R16, R48) -/

/-- R16 and R48: a furrow that is in the mode asked for answers OK, a join of one that cannot split and a split of one whose ACTIVE shows
fewer than four included (log 69). -/
def State.splitBody (s : State) (p : Packet) (r : CmdRef) : State :=
  let x := s.fur p.fur
  let want := decide (nfld (p.w 2) 0 1 = 1)
  if x.split = want then s.finish r stOk 0 0
  else if s.build.bricksOf p.fur.val ≠ 4 ∨ s.build.scratchMib < 8 then s.finish r stBadParam 0 0
  else if want && x.inService != 3 then s.finish r stShape 0 0
  else s.setFur p.fur { x with modeChange := some (want, r) }

/-- SPLIT (R48). -/
def execSplit (q : QSlot) (s : State) : Res := .next (s.accept q 0x0104 State.splitBody)

/-- The furrow in its new mode: what R48 clears is cleared, and domain 1 is IDLE or UNUSED. -/
def State.changeMode (s : State) (f : Fur) (want : Bool) : State :=
  (s.disarmDrills f).modFur f (fun x =>
    let y := { x.clearForMode with split := want, modeChange := none }
    y.setDom 1 { y.dom 1 with st := if want then .idle else .unused })

/-- SPLIT_CHANGE (R48). -/
def execSplitChange (f : Fur) (s : State) : Res :=
  match (s.fur f).modeChange with
  | none => .next s
  | some (want, r) =>
    if (s.fur f).modeReady && !s.stopped then .next (s.oneCycle ((s.changeMode f want).finish r stOk 0 0)) else .next s

/-! ### FALLOW (R119) -/

/-- Groups whose rows lie in a defined ring or an open mesh window. -/
def Furrow.usedGroups (x : Furrow) : BitVec 16 :=
  let a := x.rings.toList.foldl (fun m r => m ||| groupsOf (512 * r.base) (512 * r.size)) 0
  x.windows.toList.foldl (fun m w => if w.isOpen then m ||| groupsOf w.base.toNat w.length.toNat else m) a

/-- Groups that the held scoreboard entries intersect. -/
def Furrow.boardGroups (x : Furrow) : BitVec 16 := x.board.foldl (fun m e => m ||| groupsOf e.base e.len) 0

/-- The rows of the groups of `m` at zero, empty and clear, from group `g` on. -/
def Furrow.loseGroups (x : Furrow) (m : BitVec 16) : Furrow :=
  (List.range 16).foldl (fun x g =>
    if bitOf m g then
      { x with
        data := tclear x.data (2 ^ 21 * g) (2 ^ 21 * (g + 1))
        full := tclear x.full (4096 * g) (4096 * (g + 1))
        poison := tclear x.poison (4096 * g) (4096 * (g + 1)) }
    else x) x

/-- The new mask in force: slept groups lose their contents, woken groups are WAKING for 12 µs. DESIGN CHOICE: a WAKING group that is put to sleep
again ends its wake for the FALLOW that began it, which completes with OK once its other groups have woken (R119, log 78). -/
def State.applyFallow (s : State) (f : Fur) (mask : BitVec 16) (r : CmdRef) : State :=
  let x := s.fur f
  let sleep := mask &&& ~~~x.fallow
  let wake := x.fallow &&& ~~~mask
  let x1 := x.loseGroups sleep
  s.setFur f { x1 with
    fallow := mask
    waking := (x.waking &&& ~~~sleep) ||| wake
    wakeEnd := (List.range 16).foldl (fun t g => if bitOf wake g then tset 0 t g (s.time + 12000) else t) x.wakeEnd
    fallowWait := x.fallowWait.filter (fun p => p.2 != r)
    wakes := (x.wakes.map (fun p => (p.1 &&& ~~~sleep, p.2))) ++ [(wake, r)] }

/-- FALLOW commands all of whose wakes have ended complete. -/
def State.endWakes (s : State) (f : Fur) : State :=
  let x := s.fur f
  let over' := x.wakes.filter (fun p => p.1 == 0)
  over'.foldl (fun s p => s.finish p.2 stOk 0 0) (s.setFur f { x with wakes := x.wakes.filter (fun p => p.1 != 0) })

/-- FALLOW as it is accepted. DESIGN CHOICE: while an earlier FALLOW of the furrow waits, a later one waits behind it, though no scoreboard entry holds
its own groups (R119, log 78). -/
def State.fallowBody (s : State) (p : Packet) (r : CmdRef) : State :=
  let x := s.fur p.fur
  let mask : BitVec 16 := BitVec.ofNat 16 (p.w 2)
  let sleep := mask &&& ~~~x.fallow
  if mask = x.fallow then s.finish r stOk 0 0
  else if (sleep &&& x.usedGroups) != 0 then s.finish r stBusy 0 0
  else if x.fallowWait = [] ∧ (sleep &&& x.boardGroups) = 0 then (s.applyFallow p.fur mask r).endWakes p.fur
  else s.setFur p.fur { x with fallowWait := x.fallowWait ++ [(mask, r)] }

/-- FALLOW (R119). -/
def execFallow (q : QSlot) (s : State) : Res := .next (s.oneCycle (s.accept q 0x0105 State.fallowBody))

/-- FALLOW_SLEEP (R119): the oldest waiting mask, once no scoreboard entry intersects a group that it puts to sleep; BUSY where a ring has been
defined, or a window opened, in such a group meanwhile (R310, log 78). -/
def execFallowSleep (f : Fur) (s : State) : Res :=
  let x := s.fur f
  match x.fallowWait with
  | [] => .next s
  | (mask, r) :: _ =>
    if s.stopped then .next s
    else if (mask &&& ~~~x.fallow &&& x.usedGroups) != 0 then
      .next ((s.setFur f { x with fallowWait := x.fallowWait.filter (fun p => p.2 != r) }).finish r stBusy 0 0)
    else if (mask &&& ~~~x.fallow &&& x.boardGroups) = 0 then .next (s.oneCycle ((s.applyFallow f mask r).endWakes f))
    else .next s

/-- FALLOW_WAKE_END (R119): groups whose 12 µs have passed end WAKING, their rows zero, empty and clear. -/
def execFallowWakeEnd (f : Fur) (s : State) : Res :=
  let x := s.fur f
  let ended : BitVec 16 := (List.range 16).foldl (fun m g =>
    if bitOf x.waking g && reached s.time (tget 0 x.wakeEnd g) then setBit m g true else m) 0
  .next (if s.stopped then s else s.oneCycle <| (s.setFur f { x.loseGroups ended with
    waking := x.waking &&& ~~~ended
    wakeEnd := x.wakeEnd.filter (fun (p : Nat × W64) => !bitOf ended p.1)
    wakes := x.wakes.map (fun p => (p.1 &&& ~~~ended, p.2)) }).endWakes f)

/-! ### Completion records (R247, R248) -/

/-- The 32 bytes of the next record of queue slot `q`. DESIGN CHOICE: a RESULT1 of more than 32 bits, as the poisoned bytes of a long COPY or FILL
can give (R244), is written as its low 32 bits (log 102). -/
def recordBytes (x : Queue) (q : QSlot) (time : W64) (k : Rec) : List Byte :=
  let c := x.cqTail.toNat
  let phase := 1 - c / 2 ^ fld x.cfg 16 5 % 2
  toLe 4 k.seq.toNat ++ toLe 2 k.status ++ toLe 2 k.opcode.toNat ++ toLe 8 time.toNat ++ toLe 8 k.r0 ++ toLe 4 k.r1
    ++ toLe 2 (fld x.cfg 48 14) ++ toLe 2 (at' phase 15 + q.val)

def Queue.cqAddr (x : Queue) : Nat := fld x.cq 12 52 * 4096 + 32 * (x.cqTail.toNat % 2 ^ fld x.cfg 16 5)

/-- The oldest ready record is written, with the time `t` at which it became ready; its command has completed. -/
def State.writeRecord (s : State) (q : QSlot) (k : Rec) (t : W64) : State :=
  let x := s.queue q
  let s1 := s.hostWr x.cqAddr (recordBytes x q t k)
  let s2 := s1.modQueue q (fun x => { x with cqTail := x.cqTail + 1, ready := x.ready.drop 1 })
  (s2.completed ⟨q.val, k.key⟩).freeWatch ⟨q.val, k.key⟩

/-- COMPLETION_RECORD_WRITE (R247, R248): none while the ring is full, also where the host has written QS_CQ_HEAD back. -/
def execCompletionRecordWrite (q : QSlot) (s : State) : Res :=
  match (s.queue q).ready with
  | [] => .next s
  | k :: _ =>
    match k.time with
    | some t => if s.stopped || (s.queue q).room == 0 then .next s else .next (s.writeRecord q k t)
    | none => .next s

end Sys2Proof.Machine
end

