-- ==== Sys2Proof/Machine/Transfer.lean ====
section
/-! DEFINITION. Port S (R105 to R111, R115): the check of a transfer, its beginning, and its end. -/

namespace Sys2Proof.Machine

def bankOf (a : Nat) : Nat := a / 0x80000

/-- Whether the bank of `a` serves no port-S transfer: while the beat clock is gated (R45), and from the detection of an L2 to its
completion (R327 steps 2 and 6). -/
def State.bankHeld (s : State) (f : Fur) (a : Nat) : Bool :=
  (s.fur f).gated || s.dc.recovs.any (fun x => x.level == 2 && x.phase != 2 && x.scope != .block && x.fur == f.val &&
    (x.scope == .furrow || (scopeDoms x.scope).contains (domOf (bankOf a / s.build.scratchMib))))

/-- A window that is no longer open; its counters stay (R319). -/
def Window.shut (w : Window) : Window := { w with isOpen := false, closing := [] }

/-- Whether a bank serves a transfer now (R105). -/
def Furrow.bankBusy (x : Furrow) (a : Nat) : Bool := x.xfers.any (fun t => bankOf t.addr == bankOf a)

/-- Transfers in progress on ring `k`. -/
def Furrow.ringXfers (x : Furrow) (k : Nat) : Nat := (x.xfers.filter (fun t => t.ring == some k)).length

/-- Row that the next transfer of ring `k` names: TAIL for a write, HEAD for a read, past the transfers in progress (R115). -/
def Furrow.ringRow (x : Furrow) (k : Nat) (write : Bool) : Nat :=
  let r := vat Ring.none x.rings k
  r.base + (if r.size = 0 then 0 else ((if write then r.tail else r.head) + x.ringXfers k) % r.size)

/-- The check of R106: PENDING clear, and the tag condition of R108 or the ring condition of R115. -/
def Furrow.sCheck (x : Furrow) (row : Nat) (write : Bool) (tag : Nat) (ring : Option Nat) : Bool :=
  !x.isPending row &&
  (match ring with
  | some k =>
    let r := vat Ring.none x.rings k
    if write then !r.isOut && decide (r.count + x.ringXfers k < r.size)
    else r.isOut && decide (x.ringXfers k < r.count) && x.isFull row
  | none => if write then tag != 3 || !x.isFull row else tag == 0 || x.isFull row)

/-- A transfer as it begins: its agent waits no longer; of a read the half that the first tick moves is captured (R105, R106). A port-W write to its
row that has committed was issued before its check passed, so the two do not meet on one tick (R107, R110). -/
def Furrow.sBegin (x : Furrow) (t : Xfer) : Furrow :=
  { x with
    asks := x.asks.filter (fun a => a != t.agent)
    wRows := x.wRows.filter (fun w => w.addr / 512 != t.addr / 512)
    xfers := x.xfers ++ [if t.write then t
      else { t with bytes := tgets 0 x.data t.addr (min t.len 256), poison := x.isPoison (t.addr / 512) }] }

/-- The transfer of an agent that ends next: its oldest. -/
def Furrow.xferOf (x : Furrow) (a : Agent) : Option Xfer := x.xfers.find? (fun t => t.agent == a)

/-- The agent's oldest transfer leaves the port. -/
def Furrow.dropXfer (x : Furrow) (a : Agent) : Furrow := { x with xfers := eraseFirst (fun t => t.agent == a) x.xfers }

/-- Bytes of a read transfer at its end. -/
def Furrow.xferBytes (x : Furrow) (t : Xfer) : List Byte := t.bytes ++ tgets 0 x.data (t.addr + t.bytes.length) (t.len - t.bytes.length)
def Furrow.xferPoison (x : Furrow) (t : Xfer) : Bool := t.poison || (decide (t.bytes.length < t.len) && x.isPoison (t.addr / 512))

/-- Port-S agent kind and index of event 0x0202. DESIGN CHOICE: the index is 0 for the relay input, and the queue slot for a host command (R110,
log 104). -/
def agentKind (a : Agent) : Nat × Nat :=
  match a with
  | .relay => (0, 0)
  | .window j => (1, j.val)
  | .drill k => (2, k.val)
  | .host q _ => (3, q.val)

/-- The port-W write that committed to a row on this tick of its domain (R110). -/
def Furrow.wRow (x : Furrow) (row : Nat) : Option WRow := x.wRows.find? (fun w => w.addr / 512 == row)

/-- A port-S write to a row under the port-W write `w` of the same tick, which is applied second: its bytes stand, and its TAG and POISON results
are those it would have had after the port-S write (R110). -/
def Furrow.writeUnder (x : Furrow) (w : WRow) (addr : Nat) (bytes : List Byte) (tag : Nat) (mark : Bool) : Furrow :=
  let y := x.writeRow addr bytes tag mark
  { y with
    data := tputs 0 y.data w.addr (tgets 0 x.data w.addr w.len)
    poison := if w.mark || w.len == 512 then x.poison else y.poison }

/-- End of a write transfer: bytes, TAG and POISON together, and the ring's TAIL and COUNT (R106, R110, R111, R115). -/
def Furrow.sWrite (x : Furrow) (t : Xfer) : Furrow :=
  let row := t.addr / 512
  let tag := if t.ring.isSome then 3 else t.tag
  let y := (match x.wRow row with
    | some w => { x.writeUnder w t.addr t.bytes tag t.poison with wRows := eraseFirst (fun v => v.addr / 512 == row) x.wRows }
    | none => x.writeRow t.addr t.bytes tag t.poison).dropXfer t.agent
  match t.ring with
  | none => y
  | some n =>
    let r := vat Ring.none y.rings n
    { y with rings := vput y.rings n { r with tail := (if r.size = 0 then 0 else (r.tail + 1) % r.size), count := r.count + 1 } }

/-- SP_STICKY.SWCLASH, SP_CLASHES and event 0x0202 of a port-S write on the tick of a port-W write to its row (R110). -/
def State.swClash (s : State) (f : Fur) (t : Xfer) : State :=
  match (s.fur f).wRow (t.addr / 512) with
  | some w =>
    let k := agentKind t.agent
    (s.modFur f (fun x => { x with spSticky := setBit x.spSticky (2 + w.dom.val) true, swClashes := satInc x.swClashes })).offer 0x0202
      (srcDom f w.dom) (t.addr / 512) (at' k.1 12 + k.2) w.dom.val
  | none => s

/-- A write transfer ends. -/
def State.portWrite (s : State) (f : Fur) (t : Xfer) : State := (s.swClash f t).modFur f (fun x => x.sWrite t)

/-- End of a read transfer: TAG empty after CONSUME or a ring read, and the ring's HEAD and COUNT. -/
def Furrow.sRead (x : Furrow) (t : Xfer) : Furrow :=
  let row := t.addr / 512
  let y := x.dropXfer t.agent
  let z := if t.tag = 2 || t.ring.isSome then { y with full := tset false y.full row false } else y
  match t.ring with
  | none => z
  | some n =>
    let r := vat Ring.none z.rings n
    { z with rings := vput z.rings n { r with head := (if r.size = 0 then 0 else (r.head + 1) % r.size), count := r.count - 1 } }

end Sys2Proof.Machine
end

