-- ==== Sys2Proof/Machine/Copies.lean ====
section
/-! DEFINITION. The copy engines: COPY and FILL move by move (R140, R245), the region scoreboard (R116 to R118), and the acceptance of
SCRATCH_WRITE and SCRATCH_READ (R244). -/

namespace Sys2Proof.Machine

/-! ### Bytes with a poison mark each -/

/-- Bytes of a memory run, request by request of at most 4 KiB: a byte from an uncorrectable unit is poisoned, and every byte of a request
that fails in translation (R144, R245, R271). -/
def State.readMarked (s : State) (l : Loc) (ps : List Piece) : State × List (Byte × Bool) :=
  match ps with
  | [] => (s, [])
  | p :: r =>
    let n := p.hi - p.lo
    let q : Loc := { l with addr := p.lo }
    let o := s.memRead q n
    let marks := match o.2 with
      | .good => List.replicate n false
      | .uncorrectable => s.badMap q n
      | .translation => List.replicate n true
    let t := (match o.2 with | .good => s | _ => s.bumpFree).readMarked l r
    (t.1, o.1.zip marks ++ t.2)

/-- The reserved ECC pattern on the poisoned bytes of a run written to HBM. -/
def markBad (t : Tab Bool) (a : Nat) (ms : List Bool) : Tab Bool :=
  match ms with
  | [] => t
  | m :: r => markBad (if m then tset false t a true else t) (a + 1) r

/-- Bytes written to a segment; the count of poisoned bytes, all of them where the key has been erased (R145, R271). -/
def State.writeMarked (s : State) (l : Loc) (bs : List (Byte × Bool)) (seg : Nat) : State × Nat :=
  let o := s.memWrite l (bs.map Prod.fst) false seg
  let ms := bs.map Prod.snd
  if o.2 then (o.1, bs.length)
  else
    let n := (ms.filter id).length
    if l.host then (o.1, n) else ({ o.1 with hbmBad := markBad o.1.hbmBad l.addr ms }, n)

/-! ### The sides of a COPY or FILL -/

/-- Pieces that a run needs at the stack ports: none for host memory (R140). -/
def Loc.pieces (l : Loc) (n : Nat) : List Piece := if l.host then [] else piecesOf l.addr (l.addr + n) 0

/-- Runs of host or device addresses that the bytes are read or written by. -/
def Loc.runs (l : Loc) (n : Nat) : List Piece := piecesOf l.addr (l.addr + n) 0

/-- A side of a COPY or FILL: scratchpad furrow and address, a place in memory, or the pattern of a FILL. -/
inductive Side where
  | scratch (f : Fur) (a : Nat)
  | mem (l : Loc) (seg : Nat)
  | fill (v : Nat)
  deriving DecidableEq, Repr

def State.copySrc (s : State) (w : Nat → Nat) : Side :=
  if nfld (w 1) 8 1 = 1 then .scratch (furOf (nfld (w 1) 0 4)) (w 3) else .mem (s.locOf (w 2) (w 3)) (hIndex (w 2))
def State.copyDst (s : State) (w : Nat → Nat) : Side :=
  if nfld (w 1) 9 1 = 1 then .scratch (furOf (nfld (w 1) 4 4)) (w 5) else .mem (s.locOf (w 4) (w 5)) (hIndex (w 4))

def Side.checked (x : Side) (n : Nat) : Side := match x with | .mem l seg => .mem (l.checked n) seg | y => y

/-- Source, destination and length of an accepted COPY or FILL; nothing moves for any other command. -/
def State.copyWork (s : State) (c : Cmd) : Side × Side × Nat :=
  if c.opcode = 0x0200 then ((s.copySrc c.w).checked c.since, (s.copyDst c.w).checked c.since, c.w 6)
  else (.fill (c.w 5), .mem ((s.locOf (c.w 2) (c.w 3)).checked c.since) (hIndex (c.w 2)), if c.opcode = 0x0201 then c.w 4 else 0)

/-- Scoreboard regions of the sides of a command: furrow and region (R116). -/
def Side.region (x : Side) (n : Nat) (write : Bool) : List (Fur × Nat × Nat × Bool) :=
  match x with
  | .scratch f a => [(f, a, n, write)]
  | _ => []

/-- Whether a side needs neither a slot nor port S: host memory, or the pattern of a FILL. -/
def Side.isNow (x : Side) : Bool := match x with | .mem l _ => l.host | .fill _ => true | .scratch _ _ => false
def Side.isScratch (x : Side) : Bool := match x with | .scratch _ _ => true | _ => false

/-- Bytes from offset `k` to the end of its row or 4 KiB unit: what one transfer or slot moves (R105, R140). -/
def Side.unit (x : Side) (k : Nat) : Nat :=
  match x with
  | .scratch _ a => 512 - (a + k) % 512
  | .mem l _ => 4096 - (l.addr + k) % 4096
  | .fill _ => 4096

/-- Overlap of two segment sides, by address after translation (R245). -/
def sidesOverlap (a b : Side) (n : Nat) : Bool :=
  match a, b with
  | .mem l _, .mem m _ => l.host == m.host && overlaps l.addr n m.addr n
  | _, _ => false

/-- Bytes of a side in memory, or of the pattern. -/
def State.readSide (s : State) (x : Side) (off n : Nat) : State × List (Byte × Bool) :=
  match x with
  | .mem l _ => s.readMarked (l.at off) ((l.at off).runs n)
  | .fill v => (s, (List.range n).map (fun i => ((toLe 8 v).getD ((off + i) % 8) 0, false)))
  | .scratch _ _ => (s, [])

/-- Bytes written to a side in memory, with the count of poisoned ones. -/
def State.writeSide (s : State) (x : Side) (off : Nat) (bs : List (Byte × Bool)) : State × Nat :=
  match x with
  | .mem l seg => s.writeMarked (l.at off) bs seg
  | _ => (s, 0)

/-! ### Moves: the next unit read or written, in ascending address order (R245) -/

inductive Move where
  | read (off n : Nat)
  | write (off n : Nat)
  deriving DecidableEq, Repr

/-- The next move of a job that waits for a slot or for port S; none when all is written, or where neither side waits for anything. -/
def CopyJob.next (j : CopyJob) (src dst : Side) (n : Nat) : Option Move :=
  if n ≤ j.wr then none
  else if src.isNow then (if dst.isNow then none else some (.write j.wr (min (dst.unit j.wr) (n - j.wr))))
  else if dst.isNow then some (.read j.wr (min (src.unit j.wr) (n - j.wr)))
  else
    let k := min (dst.unit j.wr) (n - j.wr)
    let rd := j.wr + j.buf.length
    if k ≤ j.buf.length then some (.write j.wr k) else some (.read rd (min (src.unit rd) (n - rd)))

def State.modJob (s : State) (r : CmdRef) (g : CopyJob → CopyJob) : State := { s with copies := mapFirst (fun j => j.ref == r) g s.copies }

/-- Whether a command waits for some furrow's scoreboard. -/
def State.waitsBoard (s : State) (r : CmdRef) : Bool := s.furs.toList.any (fun x => x.waiting.any (fun e => e.ref == r))

/-- The command of a job at work, its sides, and its next move. -/
def State.jobMove (s : State) (j : CopyJob) : Option (Cmd × Side × Side × Move) :=
  match s.cmd? j.ref with
  | none => none
  | some c =>
    if c.stage = 2 then
      let o := s.copyWork c
      (j.next o.1 o.2.1 o.2.2).map (fun m => (c, o.1, o.2.1, m))
    else none

/-- The request of an encrypted destination that offset `off` lies in, as a run of device addresses cut at granules (R140). -/
def requestAt (l : Loc) (n off : Nat) : Nat × Nat :=
  let g := (l.addr + off) / 2 ^ 21 * 2 ^ 21
  (max l.addr g, min (l.addr + n) (g + 2 ^ 21))

/-- Whether a write at offset `off` belongs to a request with a partial 16-byte unit at either end (R270). -/
def needsExtra (dst : Side) (n off : Nat) : Bool :=
  match dst with
  | .mem l _ =>
    let q := requestAt l n off
    l.key.isSome && (q.1 % 16 != 0 || q.2 % 16 != 0)
  | _ => false

/-- The piece that a job has pending at the stack ports: before the first write of a request that writes part of an encrypted unit, the extra slot, on
the stack of that unit (R140, R262, R270). -/
def State.jobPiece (s : State) (j : CopyJob) : Option Piece :=
  match s.jobMove j with
  | some (c, src, dst, m) =>
    let n := (s.copyWork c).2.2
    (match m, src, dst with
    | .read off k, .mem l _, _ => some ⟨l.addr + off, l.addr + off + k, 0, false⟩
    | .write off k, _, .mem l _ =>
      if needsExtra dst n off && !j.extra then (let q := requestAt l n off; (extraPiece q.1 q.2 0).head?)
      else some ⟨l.addr + off, l.addr + off + k, 0, false⟩
    | _, _, _ => none)
  | none => none

/-- Jobs whose next request has come up make it, in the order of their engines (R141). -/
def State.noteRequests (s : State) : State :=
  (s.copies.take 8).foldl (fun s j =>
    if j.ask.isNone && (s.jobPiece j).isSome then
      { s.modJob j.ref (fun j => { j with ask := some s.requests }) with requests := s.requests + 1 }
    else s) s

/-- Bytes that a job has read: written at once to host memory, else held. -/
def State.copyGot (s : State) (r : CmdRef) (dst : Side) (off : Nat) (bs : List (Byte × Bool)) : State :=
  if dst.isNow then
    let o := s.writeSide dst off bs
    o.1.modJob r (fun j => { j with ask := none, wr := j.wr + bs.length, pois := j.pois + o.2 })
  else s.modJob r (fun j => { j with ask := none, buf := j.buf ++ bs })

/-- `k` bytes of a job are written, `pois` of them poisoned; the extra slot is of one request only. -/
def State.copyPut (s : State) (r : CmdRef) (dst : Side) (n k pois : Nat) : State :=
  s.modJob r (fun j =>
    let wr := j.wr + k
    let same := match dst with | .mem l _ => requestAt l n wr == requestAt l n j.wr | _ => false
    { j with ask := none, wr := wr, pois := j.pois + pois, buf := j.buf.drop k, extra := j.extra && same })

/-- Bytes that the next write of a job writes: those held, or of a source that needs neither slot nor port. -/
def State.copyBytes (s : State) (j : CopyJob) (src : Side) (off k : Nat) : State × List (Byte × Bool) :=
  if src.isNow then s.readSide src off k else (s, j.buf.take k)

/-- A slot granted to a job's pending piece moves it (R140, R245). -/
def State.grantCopy (s : State) (r : CmdRef) : State :=
  match s.copies.find? (fun j => j.ref == r) with
  | none => s
  | some j =>
    match s.jobMove j with
    | none => s
    | some (_, src, dst, .read off k) =>
      let o := s.readSide src off k
      (o.1.copyGot r dst off o.2).noteRequests
    | some (c, src, dst, .write off k) =>
      let n := (s.copyWork c).2.2
      if needsExtra dst n off && !j.extra then (s.modJob r (fun j => { j with ask := none, extra := true })).noteRequests
      else
        let o := s.copyBytes j src off k
        let t := o.1.writeSide dst off o.2
        (t.1.copyPut r dst n k t.2).noteRequests

/-! ### Acceptance and completion of COPY and FILL -/

/-- A command with scratchpad sides waits for its furrows' scoreboards. -/
def State.joinBoards (s : State) (r : CmdRef) (rs : List (Fur × Nat × Nat × Bool)) : State :=
  (List.range 16).foldl (fun s i =>
    let mine := (rs.filter (fun p => p.1.val == i)).map (fun p => p.2)
    if mine = [] then s
    else s.modFur (furOf i) (fun x => x.enqueue ⟨s.accepted, 3, r, mine⟩)) s

/-- A job joins the line for the eight copy engines. -/
def State.addJob (s : State) (r : CmdRef) : State :=
  { s with copies := s.copies ++ [⟨r, (s.queue (slotOf r.q)).prio, none, 0, 0, false, []⟩] }

def State.copyBody (s : State) (p : Packet) (r : CmdRef) : State :=
  let n := p.w 6
  let src := s.copySrc p.w
  let dst := s.copyDst p.w
  if n = 0 then s.finish r stOk 0 0
  else if sidesOverlap src dst n then s.finish r stBadParam 0 0
  else
    let regions := src.region n false ++ dst.region n true
    (((s.modCmd r (fun c => { c with stage := if regions = [] then 2 else 1 })).addJob r).joinBoards r regions).noteRequests

/-- COPY (R245). -/
def execCopy (q : QSlot) (s : State) : Res := .next (s.accept q 0x0200 State.copyBody)

def State.fillBody (s : State) (p : Packet) (r : CmdRef) : State :=
  if p.w 4 = 0 then s.finish r stOk 0 0 else ((s.modCmd r (fun c => { c with stage := 2 })).addJob r).noteRequests

/-- FILL (R244). -/
def execFill (q : QSlot) (s : State) : Res := .next (s.accept q 0x0201 State.fillBody)

/-- The engine is free again, and the command is no entrant that waits; the next command in line takes the engine. Scoreboard entries of the command
stay until it has completed (R116, R118). -/
def State.endJob (s : State) (r : CmdRef) : State :=
  ({ s with
    copies := s.copies.filter (fun j => j.ref != r)
    furs := s.furs.map (fun x => { x with waiting := x.waiting.filter (fun e => e.ref != r) }) } : State).noteRequests

/-- The last byte is written: the job ends, and its command completes with the bytes moved and the poisoned ones (R244, R245). -/
def State.copyEnds (s : State) (r : CmdRef) (n pois : Nat) : State :=
  (s.endJob r).finish r (if pois = 0 then stOk else stPoisoned) n pois

/-- COPY_DONE (R244): the last byte of a COPY or FILL is written and acknowledged. Where neither side waits for a slot or for port S, all of
its bytes move here (log 16). -/
def execCopyDone (q : QSlot) (seq : W32) (s : State) : Res :=
  let r : CmdRef := ⟨q.val, seq⟩
  match (s.copies.take 8).find? (fun j => j.ref == r), s.cmd? r with
  | some j, some c =>
    let o := s.copyWork c
    let n := o.2.2
    if s.stopped || c.stage != 2 || n == 0 then .next s
    else if o.1.isNow && o.2.1.isNow then
      (let a := s.readSide o.1 0 n
      let b := a.1.writeSide o.2.1 0 a.2
      .next (b.1.copyEnds r n b.2))
    else if n ≤ j.wr then .next (s.copyEnds r n j.pois)
    else .next s
  | _, _ => .next s

/-! ### The scoreboard (R116, R117) -/

/-- Whether command `r` holds one of the eight copy engines. -/
def State.hasEngine (s : State) (r : CmdRef) : Bool := (s.copies.take 8).any (fun j => j.ref == r)

/-- A SCRATCH_WRITE or SCRATCH_READ holds its engine until it enters the scoreboard; a COPY keeps it (R245). -/
def State.leaveEngine (s : State) (r : CmdRef) : State :=
  match s.cmd? r with
  | some c => if c.opcode = 0x0200 then s else { s with copies := s.copies.filter (fun j => j.ref != r) }
  | none => s

/-- Where a host command waits: the furrows and its regions in each. -/
def State.entrants (s : State) (r : CmdRef) : List (Fur × Entrant) :=
  (List.range 16).filterMap (fun i => ((s.fur (furOf i)).waiting.find? (fun e => e.ref == r)).map (fun e => (furOf i, e)))

/-- Whether a region of an entrant has gone to sleep. -/
def Furrow.gone (x : Furrow) (e : Entrant) : Bool := e.regions.any (fun r => (groupsOf r.1 r.2.1 &&& (x.fallow ||| x.waking)) != 0)

/-- A waiting host command: refused where a group of it has gone to sleep; it enters all of its regions, in both furrows of a COPY between
two, in one step (R117). -/
def State.tryHost (s : State) (r : CmdRef) : State :=
  let es := s.entrants r
  if es.any (fun p => (s.fur p.1).gone p.2) then (s.endJob r).finish r stBounds 0 0
  else if s.hasEngine r && es.all (fun p => (s.fur p.1).admits p.2) then
    (((es.foldl (fun s p => s.modFur p.1 (fun x => x.enter p.2)) s).modCmd r (fun c => { c with stage := 2 })).leaveEngine r).noteRequests
  else s

/-- One waiting entrant on the tick: refused where a group of it has gone to sleep, entered where it is admissible. DESIGN CHOICE: the rings that a
START changes are checked as its footprint is formed and not again here, though a group of one may have gone to sleep, or a drill been armed on
one, since (R113, log 98). -/
def State.tryEnter (s : State) (f : Fur) (e : Entrant) : State :=
  let x := s.fur f
  if e.kind = 3 then s.tryHost e.ref
  else
    let d := domOf (e.kind - 1)
    if x.gone e then s.startRefused f d e.ref stBadParam
    else if x.admits e then ((s.setFur f (x.enter e)).modCmd e.ref (fun c => { c with stage := 2 })).startEntered f d e.ref
    else s

/-- SCOREBOARD_ENTRY (R117): every admissible entrant of the furrow, in the order in which the dispatcher accepted them. -/
def execScoreboardEntry (f : Fur) (s : State) : Res :=
  if s.stopped then .next s else .next (s.oneCycle ((s.fur f).waiting.foldl (fun s e => s.tryEnter f e) s))

/-! ### SCRATCH_WRITE and SCRATCH_READ -/

/-- Payload bytes of a SCRATCH_WRITE: byte i at byte i of w4 onwards (R241). -/
def payloadBytes (ws : List W64) (n : Nat) : List Byte := ((ws.drop 4).flatMap (fun w => toLe 8 w.toNat)).take n

def State.scratchBody (write : Bool) (s : State) (p : Packet) (r : CmdRef) : State :=
  let n := nfld (p.w 2) 32 (if write then 7 else 10)
  if n = 0 then s.finish r stOk 0 0
  else
    let buf := if write then payloadBytes p.words n else []
    ((s.modCmd r (fun c => { c with stage := 1, buf := buf })).addJob r).joinBoards r [(p.fur, nfld (p.w 2) 0 25, n, write)]

/-- SCRATCH_WRITE (R245). -/
def execScratchWrite (q : QSlot) (s : State) : Res := .next (s.accept q 0x0204 (State.scratchBody true))
/-- SCRATCH_READ (R245). -/
def execScratchRead (q : QSlot) (s : State) : Res := .next (s.accept q 0x0205 (State.scratchBody false))

end Sys2Proof.Machine
end

