-- ==== Sys2Proof/Machine/Drills.lean ====
section
/-! DEFINITION. Drills: arming, lists and blocks, landing and writing rows, stopping, faults, and the relay (R125 to R150). -/

namespace Sys2Proof.Machine

/-- Freeze domain that a drill belongs to (R125). -/
def Furrow.drillDom (x : Furrow) (k : DrillNo) : Dom := if x.split then domOf (k.val / 4) else 0

/-- CONTEXT_ID of the context that owns a furrow, for the checks of R132. -/
def State.ownerId (s : State) (f : Fur) : Nat := (s.ctx (s.fur f).owner.toNat).id

/-! ### Arming (R126, R127, R148) -/

/-- The four bases of a packet (R241). -/
def packetBases (w : Nat → Nat) : Vector Base 4 :=
  Vector.ofFn (fun j => ⟨BitVec.ofNat 32 (w (6 + 2 * j.val)), BitVec.ofNat 44 (w (7 + 2 * j.val))⟩)

/-- Whether another drill of the furrow already has a relay role that `mode` asks for. -/
def Furrow.relayTaken (x : Furrow) (k : DrillNo) (mode : Nat) : Bool :=
  (List.range 8).any (fun i =>
    let z := x.drill (drillOf i)
    i != k.val && z.st != .idle &&
      ((decide (2 ≤ mode) && decide (2 ≤ z.mode.toNat)) || (mode % 2 == 1 && z.mode.toNat % 2 == 1)))

/-- Whether the furrow after `f` belongs to another context than `f` does; one that belongs to none does not. -/
def State.nextForeign (s : State) (f : Fur) : Bool :=
  let x := s.fur f
  let y := s.fur (furOf (f.val + 1))
  y.owned && !(x.owned && x.owner == y.owner)

/-- Step 7 of R243 for ARM_DRILL (R127). -/
def State.armRefused (s : State) (f : Fur) (k : DrillNo) (out : Bool) (mode : Nat) : Option Nat :=
  let x := s.drill f k
  if x.st ≠ .idle then some stBusy
  else if (s.fur f).relayTaken k mode then some stBusy
  else if x.latched = some (!out) then some stBadParam
  else if mode % 2 = 1 && s.nextForeign f then some stPermission
  else none

def Packet.drillNo (p : Packet) : DrillNo := drillOf (nfld (p.w 1) 8 3)

/-- The drill with its list set, ARMED; a latched DGO stays until the list starts (R134). -/
def Drill.armed (x : Drill) (w : Nat → Nat) (prio : Nat) (r : CmdRef) : Drill :=
  let scratch := decide (nfld (w 1) 20 1 = 1)
  let mode := nfld (w 1) 13 2
  let persist := decide (nfld (w 1) 15 1 = 1)
  { x with
    st := .armed
    out := decide (nfld (w 1) 12 1 = 1)
    mode := BitVec.ofNat 2 mode
    persist := persist
    depth := nfld (w 1) 16 4
    prio := prio
    listScratch := scratch
    listHandle := if scratch then 0 else BitVec.ofNat 32 (w 2)
    listOffset := w 3
    count := nfld (w 1) 32 16
    bases := if persist then packetBases w else Vector.replicate 4 ⟨0, 0⟩
    relayBase := if 2 ≤ mode then BitVec.ofNat 16 (nfld (w 4) 0 16) else 0
    relayRows := if 2 ≤ mode then BitVec.ofNat 16 (nfld (w 4) 32 16) else 0
    store := [], fetched := [], fetchIdx := 0, next := 0, tile := 0, midTile := false, tilePut := none, ended := []
    cmd := some r, listRows := 0, listPois := 0, lastSeen := false }

/-- The descriptor store of a persistent list in a segment, copied whole at the arm; where a stack of the list gives no slots it is copied
descriptor by descriptor (R349, log 97), and so is one in the scratchpad, over port S (R128). -/
def State.copyList (s : State) (f : Fur) (x : Drill) : Drill :=
  if x.persist && !x.listScratch && !s.stackHeld (s.descLoc x 0) (32 * x.count) then { x with store := (List.range x.count).map (s.listDesc f x), fetchIdx := x.count } else x

/-- The list of an ARMED drill starts where a DGO is latched (R134). -/
def State.startLatched (s : State) (f : Fur) (k : DrillNo) : State :=
  if (s.drill f k).latched.isSome then s.startList f k else s

def State.armBody (s : State) (p : Packet) (r : CmdRef) : State :=
  let f := p.fur
  let k := p.drillNo
  match s.armRefused f k (decide (nfld (p.w 1) 12 1 = 1)) (nfld (p.w 1) 13 2) with
  | some st => s.finish r st 0 0
  | none =>
    let x := (s.drill f k).armed p.w (s.queue (slotOf r.q)).prio r
    ((s.modCmd r (fun c => { c with stage := 2 })).setDrill f k (s.copyList f x)).bumpFree.startLatched f k

/-- ARM_DRILL (R127). -/
def execArmDrill (q : QSlot) (s : State) : Res := .next (s.accept q 0x0202 State.armBody)

/-- An accepted REARM_DRILL (R148). DESIGN CHOICE: the list's requests then carry the priority of the REARM_DRILL's queue, which arms it again (R141,
log 105). -/
def State.rearmBody (s : State) (p : Packet) (r : CmdRef) : State :=
  let x := s.drill p.fur p.drillNo
  if x.st = .parked then
    ((s.modCmd r (fun c => { c with stage := 2 })).setDrill p.fur p.drillNo { x with
      st := .armed
      bases := packetBases p.w
      prio := (s.queue (slotOf r.q)).prio
      cmd := some r }).startLatched p.fur p.drillNo
  else s.finish r stBadParam 0 0

/-- REARM_DRILL (R148). -/
def execRearmDrill (q : QSlot) (s : State) : Res := .next (s.accept q 0x0203 State.rearmBody)

def State.disarmBody (s : State) (p : Packet) (r : CmdRef) : State :=
  let f := p.fur
  let k := p.drillNo
  let x := s.drill f k
  match x.st with
  | .frozen => s.finish r stBusy 0 0
  | .idle => s.finish r stOk 0 0
  | .armed => (s.idleDrill f k stBusy 0 0).finish r stOk 0 0
  | .parked => (s.idleDrill f k stOk 0 0).finish r stOk 0 0
  | _ => ((s.modCmd r (fun c => { c with stage := 2 })).setDrill f k { x with disarm := x.disarm ++ [r] }).beginStop f k

/-- DISARM_DRILL (R135). -/
def execDisarmDrill (q : QSlot) (s : State) : Res := .next (s.oneCycle (s.accept q 0x0206 State.disarmBody))

/-! ### Faults of a drill (R149) -/

/-- Bit of DL_STICKY for a fault reason: BOUNDS, DESC or RELAY. -/
def reasonBit (k : DrillNo) (reason : Nat) : Nat :=
  if reason = 9 then 24 + k.val else if 8 ≤ reason then 8 + k.val else k.val

/-- Rows of a relay transfer that a freezing drill stops go back to the relay input's buffer. -/
def Furrow.returnRelay (x : Furrow) (k : DrillNo) : Furrow :=
  if (x.drill k).isRecv then
    { x with relayIn := (x.xfers.filter (fun t => t.agent == .relay)).map (fun t => ⟨t.bytes, t.poison⟩) ++ x.relayIn }
  else x

/-- The drill freezes: it moves nothing further, its fault registers and sticky bit are set and its arming command completes with the status
(R136, R149). -/
def State.freezeDrill (s : State) (f : Fur) (k : DrillNo) (idx status reason : Nat) : State :=
  let x := s.drill f k
  let s1 := s.modFur f (fun z => { ((z.returnRelay k).dropDrill k).setDrill k { x with
      st := .frozen, cmd := none, faultDesc := BitVec.ofNat 16 idx, faultStatus := BitVec.ofNat 16 status
      faultReason := BitVec.ofNat 4 reason } with dlSticky := setBit z.dlSticky (reasonBit k reason) true })
  s1.finishOpt x.cmd status x.listRows x.listPois

/-- Fault 0x0401 (R149). -/
def State.drillFault (s : State) (f : Fur) (k : DrillNo) (idx status reason : Nat) : State :=
  (s.freezeDrill f k idx status reason).raise 1 (s.recDom f ((s.fur f).drillDom k))
    ⟨0x0401, srcDrill f k, at' k.val 28 + idx, status, reason⟩ (masterDrill f k)

/-! ### Descriptors and blocks (R128 to R132) -/

/-- Whether the drill still has descriptors to fetch: of a list that is not persistent up to LAST, of a persistent one in the scratchpad all
(R128). -/
def Drill.fetches (x : Drill) : Bool :=
  decide (x.fetchIdx < x.count) &&
    (if x.persist then x.st == .armed || x.moving || x.st == .parked
    else (x.st == .armed || x.st == .running) && !x.lastSeen && !(match x.fetched.getLast? with | some d => d.last | none => false))

/-- A descriptor has been fetched. -/
def Drill.gotDesc (x : Drill) (d : Desc) : Drill :=
  { x with
    store := if x.persist then x.store ++ [d] else x.store
    fetched := if x.persist then x.fetched else x.fetched ++ [d]
    fetchIdx := x.fetchIdx + 1 }

/-- Reserved fields and R130. -/
def descBad (x : Drill) (d : Desc) : Bool :=
  let recv := x.isRecv
  fld d.w0 44 20 != 0 || fld d.w2 59 5 != 0 || fld d.w2 28 4 != 0 || fld d.w3 18 46 != 0 || fld d.w3 10 6 != 0 || bitOf d.w3 3 ||
  (if x.persist then !recv && d.handle / 4 != 0 else d.handle / 2 ^ 31 != 0) ||
  decide (512 < d.bytes) || d.spkind == 3 || decide (2 ≤ d.policy) || d.spread == 3 ||
  !(if x.out then decide (d.tag ≤ 2) else d.tag == 0 || d.tag == 3 || d.tag == 4) ||
  (d.spkind != 0 && (d.tag != 0 || d.spread != 0)) ||
  (d.spkind == 1 && d.sp / 16 != 0) || (d.spkind == 2 && (d.sp != 0 || !x.out)) ||
  (recv && (d.handle != 0 || d.offset != 0 || fld d.w1 32 32 != 0 || d.bytes != 0))

/-- Whether a block of a list moves nothing (R131); the rows of a RECV list carry their own byte counts. -/
def movesNothing (x : Drill) (d : Desc) : Bool := d.rows == 0 || (!x.isRecv && d.bytes == 0)

def Drill.inRange (x : Drill) (row : Nat) : Bool :=
  !x.isRecv || (decide (x.relayBase.toNat ≤ row) && decide (row < x.relayBase.toNat + x.relayRows.toNat))

/-- Reason for which scratchpad row `i` of a block is refused (R132). -/
def rowRefused (b : Build) (z : Furrow) (x : Drill) (k : DrillNo) (d : Desc) (i : Nat) : Option Nat :=
  let a := d.rowSp i
  if d.sp % 512 ≠ 0 || b.bytes < a + 512 then some 2
  else if z.split && a / (b.scratchMib * 2 ^ 19) != k.val / 4 then some 3
  else if z.asleep (a / 512) then some 4
  else if !x.inRange (a / 512) then some 5
  else none

/-- The scratchpad side of R132. -/
def spRefused (b : Build) (z : Furrow) (x : Drill) (k : DrillNo) (d : Desc) : Option Nat :=
  if d.spkind = 0 then (List.range d.rows).findSome? (rowRefused b z x k d)
  else if d.spkind = 1 then
    let r := vat Ring.none z.rings d.ringNo
    if r.size = 0 || (z.split && d.ringNo / 8 != k.val / 4) then some 6
    else if (groupsOf (512 * r.base) (512 * r.size) &&& (z.fallow ||| z.waking)) != 0 then some 4
    else if !(x.inRange r.base && x.inRange (r.base + r.size - 1)) then some 5
    else none
  else none

/-- Handle and segment offset that a descriptor addresses (R129, R148). -/
def Drill.target (x : Drill) (d : Desc) : Nat × Nat :=
  if x.persist then
    let b := vat ⟨0, 0⟩ x.bases (d.handle % 4)
    (b.handle.toNat, b.offset.toNat + d.offset)
  else (d.handle, d.offset)

/-- The memory side of R132: a status and reason. -/
def State.memRefused (s : State) (f : Fur) (x : Drill) (d : Desc) : Option (Nat × Nat) :=
  let t := x.target d
  let span : Int := (d.rows - 1 : Nat) * d.stride
  let lo : Int := (t.2 : Int) + min 0 span
  let hi : Int := (t.2 : Int) + max 0 span + d.bytes
  let st := if lo < 0 then (match s.segCheck (s.ownerId f) t.1 0 0 (b2n x.out) with | some st => some st | none => some stBounds)
    else s.segCheck (s.ownerId f) t.1 lo.toNat (hi - lo).toNat (b2n x.out)
  st.map (fun st => (st, if st = stBounds then 1 else if st = stStale then 10 else 11))

/-- The next descriptor that has been fetched. -/
def Drill.nextDesc (x : Drill) : Option Desc :=
  if x.count ≤ x.next then none else if x.persist then x.store[x.next]? else x.fetched.head?

/-- The list moves on past a descriptor; with its last block an ended tile is done (R139). -/
def Drill.advance (x : Drill) (d : Desc) : Drill :=
  { x with
    fetched := if x.persist then [] else x.fetched.drop 1
    next := x.next + 1
    tile := if d.tileEnd then x.tile + 1 else x.tile
    ended := if d.tileEnd then x.ended.filter (fun e => e.1 != x.tile) else x.ended
    midTile := !d.tileEnd
    lastSeen := d.last }

/-- A block as it begins (R132, R137, R140, R270). -/
def State.newBlock (s : State) (x : Drill) (d : Desc) : Block :=
  let t := x.target d
  let l := s.locOf t.1 t.2
  let b : Block :=
    { desc := d, idx := x.next, tile := x.tile, seg := if x.isRecv then none else some (hIndex t.1), host := l.host, enc := l.key,
      since := s.erasures, mem := if x.isRecv then 0 else l.addr, prio := if d.prioEn then min d.prio x.prio else x.prio, pieces := [],
      failed := [], landed := 0, begun := 0, moved := 0, poisoned := 0, outRows := [], putIds := [] }
  let cut := fun (lo hi i : Nat) => if x.out && l.key.isSome then encPieces lo hi i else piecesOf lo hi i
  if x.isRecv || l.host then b
  else if b.contig then { b with pieces := cut b.mem (b.mem + d.rows * d.bytes) 0 }
  else { b with pieces := (List.range d.rows).flatMap (fun i => cut (b.rowAddr i) (b.rowAddr i + d.bytes) i) }

/-- What an ended tile has still to write: none where DTEND has not ended the tile of the next descriptor, else the rows of the put queue that
it has received. -/
def Drill.endedRows (x : Drill) : Option Nat := (x.ended.find? (fun e => e.1 == x.tile)).map Prod.snd

/-- A block of an ended tile takes the rows that the tile has received, up to its own, and is cut to them (R139). -/
def Drill.takeEnded (y : Drill) (tile n : Nat) (b : Block) : Drill :=
  let m := min n b.rows
  { y with
    blocks := y.blocks ++ [(b.takePuts (y.putq.take m)).cut]
    putq := y.putq.drop m
    ended := y.ended.map (fun e => if e.1 = tile then (e.1, e.2 - m) else e) }

/-- A block of a running drill begins: checks, then its segment reference and requests. -/
def State.beginBlock (s : State) (f : Fur) (k : DrillNo) (d : Desc) : State :=
  let x := s.drill f k
  let y := x.advance d
  if (match x.endedRows with | some n => n == 0 || d.spkind != 2 | none => false) then s.setDrill f k y
  else if descBad x d then s.drillFault f k x.next stBadParam 8
  else if movesNothing x d then s.setDrill f k y
  else match (if x.isRecv then none else s.memRefused f x d) with
  | some (st, reason) =>
    (s.offer 0x0601 (srcDrill f k) (x.target d).1 (at' 1 16 + st) (at' f.val 8 + k.val)).drillFault f k x.next st reason
  | none =>
    match spRefused s.build (s.fur f) x k d with
    | some reason => s.drillFault f k x.next stBounds reason
    | none =>
      let b := s.newBlock x d
      let s1 := s.setDrill f k (match x.endedRows with
        | some n => y.takeEnded x.tile n b
        | none => { y with blocks := x.blocks ++ [b] })
      match b.seg with
      | some i => s1.refSeg i
      | none => s1

/-- Whether the credit of R137 lets the next block begin. -/
def Drill.hasCredit (x : Drill) : Bool := x.out || x.midTile || decide (x.tile < x.depth + x.credit)

/-- Whether another block may begin: fewer than four are outstanding, and the rows of an OUT or relay list are taken block by block (R137,
log 76). -/
def Drill.mayBegin (x : Drill) : Bool :=
  decide (x.outstanding < 4) && (!(x.out || x.isRecv) || x.blocks.all (fun b => decide (b.rows ≤ b.begun)))

/-- The descriptor of the block that a running drill may begin next, the credit of R137 apart. DESIGN CHOICE: while four blocks are outstanding there is
none, and WAIT_CREDIT does not count (R150, log 105). -/
def Drill.blockNext (x : Drill) : Option Desc := if x.st = .running ∧ !x.lastSeen ∧ x.mayBegin then x.nextDesc else none

/-- DRILL_BLOCK_BEGIN (R132, R137), on a beat clock that runs (R384); a tile without credit waits. -/
def execDrillBlockBegin (f : Fur) (k : DrillNo) (s : State) : Res :=
  let x := s.drill f k
  match x.blockNext with
  | none => .next s
  | some d => if x.hasCredit ∧ !(s.fur f).gated ∧ !s.stopped then .next (s.oneCycle (s.beginBlock f k d)) else .next s

/-! ### Landing (R137, R144) -/

/-- The next row that memory returns, in list order. -/
def Drill.nextLanding (x : Drill) : Option (Block × Nat) :=
  (x.blocks.find? (fun b => decide (b.landed < b.rows))).map (fun b => (b, b.landed))

/-- How a request fares: as already seen, as memory answers, or as the environment says with its first row (R144). -/
def State.requestFault (s : State) (b : Block) (i : Nat) (out : ReadOutcome) (r : Nat × Nat) : Option Bool :=
  match b.failed.find? (fun g => g.1 == r.1) with
  | some g => some g.2.2
  | none =>
    match (s.memRead (b.loc r.1) (r.2 - r.1)).2, (if b.firstOf i r then out else .good) with
    | .good, .good => none
    | .good, .uncorrectable => some false
    | .good, .translation => some true
    | .uncorrectable, _ => some false
    | .translation, _ => some true

/-- A request fails: DL_STICKY.POISON and event 0x0402. -/
def State.requestFails (s : State) (f : Fur) (k : DrillNo) (b : Block) (r : Nat × Nat) (byTranslation : Bool) : State :=
  let s1 := s.modFur f (fun z => { z with dlSticky := setBit z.dlSticky (16 + k.val) true })
  let s2 := s1.modDrill f k (fun x => { x with
    blocks := mapFirst (fun c => c.idx == b.idx) (fun c => { c with failed := c.failed ++ [(r.1, r.2, byTranslation)] }) x.blocks })
  s2.offer 0x0402 (srcDrill f k) (at' k.val 28 + b.idx) (b.rowsOf r) (if byTranslation then 2 else 1)

/-- Row `i` of a block returns from memory, good or poisoned. DESIGN CHOICE: a failing row is 512 free bytes, and a TEE drill hands all of them
to the relay, whatever its BYTES (R144, R146, log 101). -/
def State.landRow (s : State) (f : Fur) (k : DrillNo) (b : Block) (i : Nat) (out : ReadOutcome) : State :=
  let faults := (b.requests i).filterMap (fun r => (s.requestFault b i out r).map (fun t => (r, t)))
  let s1 := faults.foldl (fun s p => if b.failed.any (fun g => g.1 == p.1.1) then s else s.requestFails f k b p.1 p.2) s
  let bad := faults != []
  let bytes := if bad then s1.freeBytes 512 else (s1.memRead (b.loc (b.rowAddr i)) b.desc.bytes).1
  (s1.bumpFree).modDrill f k (fun x => { x with
    landing := x.landing ++ [⟨b.idx, i, bytes, bad, false, false⟩]
    blocks := mapFirst (fun c => c.idx == b.idx) (fun c => { c with landed := c.landed + 1 }) x.blocks })

/-- ROWS_LAND (R137, R144): the next row in list order, once every piece that carries its bytes has been granted. -/
def execRowsLand (f : Fur) (k : DrillNo) (out : ReadOutcome) (s : State) : Res :=
  let x := s.drill f k
  if x.moving && !x.out && !x.isRecv && !(s.fur f).gated && !s.stopped then
    match x.nextLanding with
    | some (b, i) => if b.rowWaits i then .next s else .next (s.landRow f k b i out)
    | none => .next s
  else .next s

/-! ### Port S of a drill (R125, R131) -/

/-- The row of a block on the scratchpad side, and its ring. -/
def Furrow.spRow (x : Furrow) (d : Desc) (i : Nat) (write : Bool) : Nat × Option Nat :=
  if d.spkind = 1 then (x.ringRow d.ringNo write, some d.ringNo) else (d.rowSp i / 512, none)

/-- The landed row that comes next on port S: the first neither written nor in transfer; a TEE row waits for the relay output to have
accepted every earlier row (R146). -/
def Furrow.nextWrite (x : Furrow) (k : DrillNo) : Option LandRow :=
  let z := x.drill k
  match z.landing.find? (fun r => !r.written && !x.xfers.any (fun t => t.agent == .drill k && !t.desc && t.idx == r.idx && t.row == r.row)) with
  | some r =>
    if z.mode = 1 && (z.landing.takeWhile (fun q => q != r)).any (fun q => !q.relayed) then none else some r
  | none => none

/-- The next descriptor of a list in the scratchpad, as a transfer of the drill with tag mode IGNORE (R128). -/
def Furrow.descNext (x : Furrow) (k : DrillNo) : Option Xfer :=
  let z := x.drill k
  if z.listScratch && z.fetches && !x.xfers.any (fun t => t.agent == .drill k && t.desc) then
    some ⟨.drill k, z.listOffset + 32 * z.fetchIdx, 32, false, 0, none, [], false, z.fetchIdx, 0, true⟩
  else none

/-- The next transfer of a drill, as far as its list goes: the next row to take from the scratchpad (R125, R131), the next landed row to
write, or else the next descriptor of a list in the scratchpad; a row of a put-queue block needs none. -/
def Furrow.drillNext (x : Furrow) (k : DrillNo) : Option Xfer :=
  let z := x.drill k
  let row : Option Xfer :=
    if !z.moving then none
    else if z.out then
      match z.blocks.find? (fun b => decide (b.begun < b.rows)) with
      | some b =>
        if b.isPut then none
        else
          let p := x.spRow b.desc b.begun false
          some ⟨.drill k, p.1 * 512, 512, false, b.desc.tag, p.2, [], false, b.idx, b.begun, false⟩
      | none => none
    else match x.nextWrite k with
    | some r =>
      match z.blocks.find? (fun b => b.idx == r.idx) with
      | some b =>
        let p := x.spRow b.desc r.row true
        some ⟨.drill k, p.1 * 512, r.bytes.length, true, if r.poison && b.desc.tag == 0 then 4 else b.desc.tag, p.2, r.bytes, r.poison,
          r.idx, r.row, false⟩
      | none => none
    | none => none
  match row with | some t => some t | none => x.descNext k

/-- A drill's transfer begins; of an OUT block one row more has begun. -/
def State.drillBegins (s : State) (f : Fur) (k : DrillNo) (t : Xfer) : State :=
  let s1 := s.setFur f ((s.fur f).sBegin t)
  if t.write || t.desc then s1
  else s1.modDrill f k (fun z => { z with blocks := mapFirst (fun c => c.idx == t.idx) (fun c => { c with begun := c.begun + 1 }) z.blocks })

/-- A row of the put queue goes to the open put-queue block whose turn it is (R138). -/
def State.takePut (s : State) (f : Fur) (k : DrillNo) : State :=
  let x := s.drill f k
  match x.blocks.find? (fun b => decide (b.begun < b.rows)), x.putq with
  | some b, r :: q =>
    if x.out && x.moving && b.isPut then
      s.setDrill f k { x with
        putq := q, tilePut := some b.tile
        blocks := mapFirst (fun c => c.idx == b.idx) (fun c => c.takePuts [r]) x.blocks }
    else s
  | _, _ => s

/-- A landed row has been written, or has been handed to the relay; with both done where both are due, it has moved. -/
def State.settleRow (s : State) (f : Fur) (k : DrillNo) (idx row : Nat) (g : LandRow → LandRow) : State :=
  let x := s.drill f k
  let hit := fun (r : LandRow) => r.idx == idx && r.row == row
  match x.landing.find? hit with
  | none => s
  | some r =>
    let r1 := g r
    if r1.written && (r1.relayed || x.mode.toNat % 2 == 0) then
      (s.setDrill f k { x with landing := eraseFirst hit x.landing }).rowMoved f k idx r1.poison
    else s.setDrill f k { x with landing := mapFirst hit (fun _ => r1) x.landing }

/-- A transfer of drill `k` into a group that has gone to sleep since its check: the drill faults (R120, R149); of a descriptor, as a list location
fault. -/
def State.asleepFault (s : State) (f : Fur) (k : DrillNo) (t : Xfer) : State := s.drillFault f k t.idx stBounds (if t.desc then 7 else 4)

/-- PORT_S_COMMIT of a drill: its oldest transfer ends, unless its group has gone to sleep while it was in progress (R149). -/
def State.drillCommit (s : State) (f : Fur) (k : DrillNo) : State :=
  let x := s.fur f
  match x.xferOf (.drill k) with
  | none => s
  | some t =>
    if x.asleep (t.addr / 512) then s.asleepFault f k t
    else if t.write then (s.portWrite f t).settleRow f k t.idx t.row (fun r => { r with written := true })
    else if t.desc then (s.setFur f (x.sRead t)).modDrill f k (fun z => z.gotDesc (descOf (x.xferBytes t)))
    else
      let bytes := x.xferBytes t
      let poison := x.xferPoison t
      (s.setFur f (x.sRead t)).modDrill f k (fun z => { z with
        blocks := mapFirst (fun c => c.idx == t.idx) (fun c => { c with outRows := c.outRows ++ [(t.row, bytes, poison)] }) z.blocks })

/-! ### Writes of an OUT drill (R136, R145) -/

/-- Rows of the oldest block that memory holds now, in order. -/
def State.ackRows (s : State) (f : Fur) (k : DrillNo) (fuel : Nat) : State :=
  match fuel with
  | 0 => s
  | n + 1 =>
    match (s.drill f k).blocks with
    | [] => s
    | b :: _ =>
      match b.outRows.find? (fun (q : Nat × List Byte × Bool) => q.1 == b.moved) with
      | none => s
      | some q => if b.rowWaits q.1 then s else (s.ackRow f k b q.1 q.2.1 q.2.2).ackRows f k n

/-- WRITE_ACKNOWLEDGE (R136, R137): memory has the rows of the oldest outstanding block that have been taken and granted. -/
def execWriteAcknowledge (f : Fur) (k : DrillNo) (s : State) : Res :=
  let x := s.drill f k
  if x.moving && x.out && !(s.fur f).gated && !s.stopped then
    .next ((List.range 16).foldl (fun s i => s.leaveChanges (furOf i))
      (s.ackRows f k (match x.blocks with | b :: _ => b.outRows.length | [] => 0)))
  else .next s

/-! ### End of a list (R133, R136) -/

def Drill.quiet (x : Drill) : Bool := x.blocks.isEmpty && x.landing.isEmpty

/-- DRILL_LIST_END (R131, R136), on a beat clock that runs (R384). -/
def execDrillListEnd (f : Fur) (k : DrillNo) (s : State) : Res :=
  let x := s.drill f k
  if x.st = .running ∧ (x.lastSeen ∨ x.count ≤ x.next) ∧ x.quiet ∧ !(s.fur f).gated ∧ !s.stopped then .next (s.oneCycle (s.endList f k)) else .next s

/-- DRILL_STOPPED (R133, R135), on a beat clock that runs (R384). -/
def execDrillStopped (f : Fur) (k : DrillNo) (s : State) : Res :=
  let x := s.drill f k
  if x.st = .stopping ∧ x.quiet ∧ !(s.fur f).gated ∧ !s.stopped then .next (s.oneCycle (s.endList f k)) else .next s

/-- One bit of DL_CTRL.THAW (R149): BOUNDS, DESC and RELAY of the drill must be clear. -/
def State.thawDrill (s : State) (f : Fur) (k : DrillNo) : State :=
  let st := (s.fur f).dlSticky
  if (s.drill f k).st = .frozen ∧ !(bitOf st k.val || bitOf st (8 + k.val) || bitOf st (24 + k.val)) then
    (s.idleDrill f k stOk 0 0).masterThawed (masterDrill f k)
  else s

/-- DRILL_THAW (R149). -/
def execDrillThaw (f : Fur) (mask : BitVec 8) (s : State) : Res :=
  .next (s.oneCycle <| s.furrowWrite f 0x30000 (fun s => (domDrills false 0).foldl (fun s k => if bitOf mask k.val then s.thawDrill f k else s) s))

/-! ### Relay (R146, R147) -/

/-- Whether port S has accepted every row before `r`: it is written, or in transfer (R146). -/
def Furrow.portTook (x : Furrow) (k : DrillNo) (r : LandRow) : Bool :=
  ((x.drill k).landing.takeWhile (fun q => q != r)).all (fun q =>
    q.written || x.xfers.any (fun t => t.agent == .drill k && !t.desc && t.idx == q.idx && t.row == q.row))

/-- The row that a drill in TEE or RECV_TEE mode has for the relay output: its first not yet handed over, once port S has accepted every earlier
one (R146). -/
def State.relayRow (s : State) (f : Fur) (k : DrillNo) : Option LandRow :=
  let x := s.drill f k
  match x.landing.find? (fun r => !r.relayed) with
  | some r => if x.moving && x.mode.toNat % 2 == 1 && (s.fur f).portTook k r && decide (f.val + 1 < s.build.furrows) then some r else none
  | none => none

/-- Whether the receiver's buffer, with the rows on the way to it, has no room (R146). -/
def State.relayFull (s : State) (f : Fur) : Bool := decide (16 ≤ (s.fur f).relayOut.length + (s.fur (furOf (f.val + 1))).relayIn.length)

/-- RELAY_SEND (R146): one row to the relay output; a full buffer at the receiver makes the drill wait. -/
def execRelaySend (f : Fur) (k : DrillNo) (s : State) : Res :=
  match s.relayRow f k with
  | none => .next s
  | some r =>
    let z := s.fur f
    if !s.relayFull f && !z.gated && !s.stopped then
      .next ((s.setFur f { z with relayOut := z.relayOut ++ [(⟨r.bytes, r.poison⟩, s.uptime)] }).settleRow f k r.idx r.row
        (fun r => { r with relayed := true }))
    else .next s

/-- Whether a row that furrow `g` sent at `t` has passed the relay hop: as many ticks of `g` as byte 22 of the latency sheet has, at its CURRENT
step of 12.5 MHz (R26, R146). -/
def State.hopPassed (s : State) (g : Fur) (t : W64) : Bool :=
  decide (80 * s.build.latOf 22 ≤ (s.fur g).current.toNat * s.powered t)

/-- RELAY_ARRIVE (R146): the oldest row on the link reaches the input buffer of furrow `f`, no earlier than the relay hop after it was sent. -/
def execRelayArrive (f : Fur) (s : State) : Res :=
  if f.val = 0 ∨ s.stopped then .next s
  else
    let g := furOf (f.val - 1)
    match (s.fur g).relayOut with
    | [] => .next s
    | r :: rest =>
      if s.hopPassed g r.2 then
        .next ((s.modFur g (fun x => { x with relayOut := rest })).modFur f (fun x => { x with relayIn := x.relayIn ++ [r.1] }))
      else .next s

/-- The RECV drill of a furrow, with its open block. -/
def Furrow.recvDrill (x : Furrow) : Option (DrillNo × Block) :=
  ((domDrills false 0).find? (fun k => (x.drill k).isRecv && (x.drill k).moving)).bind (fun k =>
    ((x.drill k).blocks.find? (fun b => decide (b.begun < b.rows))).map (fun b => (k, b)))

/-- The next transfer of the relay input: its oldest row, into the destination that the current block of the RECV drill names (R147); a
RECV_TEE drill waits for the relay output to have taken the row before (R146). DESIGN CHOICE: the relay input has one transfer in progress at a time
(log 105). -/
def Furrow.relayNext (x : Furrow) : Option Xfer :=
  match x.relayIn, x.recvDrill with
  | r :: _, some (k, b) =>
    let p := x.spRow b.desc b.begun true
    if (x.xferOf .relay).isSome || ((x.drill k).mode == 3 && (x.drill k).landing.any (fun q => !q.relayed)) then none
    else some ⟨.relay, p.1 * 512, r.bytes.length, true, b.desc.tag, p.2, r.bytes, r.poison, b.idx, b.begun, false⟩
  | _, _ => none

/-- The relay input's transfer begins: the row leaves the buffer. -/
def State.relayBegins (s : State) (f : Fur) (k : DrillNo) (t : Xfer) : State :=
  (s.modFur f (fun x => { x.sBegin t with relayIn := x.relayIn.drop 1 })).modDrill f k (fun z => { z with
    blocks := mapFirst (fun c => c.idx == t.idx) (fun c => { c with begun := c.begun + 1, landed := c.landed + 1 }) z.blocks })

/-- The relay input's transfer ends; a RECV_TEE drill hands the row on. In a group that has gone to sleep meanwhile it ends in a fault of the drill
(R149). -/
def State.relayCommit (s : State) (f : Fur) : State :=
  let x := s.fur f
  match x.xferOf .relay with
  | none => s
  | some t =>
    let s1 := s.portWrite f t
    match (domDrills false 0).find? (fun k => (x.drill k).isRecv && (x.drill k).blocks.any (fun b => b.idx == t.idx)) with
    | none => s1
    | some k =>
      if x.asleep (t.addr / 512) then s.asleepFault f k t
      else if (x.drill k).mode = 3 then
        s1.modDrill f k (fun z => { z with landing := z.landing ++ [⟨t.idx, t.row, t.bytes, t.poison, true, false⟩] })
      else s1.rowMoved f k t.idx t.poison

end Sys2Proof.Machine
end

