-- ==== Sys2Proof/Machine/Queues.lean ====
section
/-! DEFINITION. Queue slots, context slots and furrow ownership (R250 to R257). -/

namespace Sys2Proof.Machine

/-! ### Register offsets -/

def qsOff (q : QSlot) (r : Nat) : Nat := 0x10000 + 0x100 * q.val + r
def cxOff (c : CSlot) (r : Nat) : Nat := 0x18000 + 0x100 * c.val + r
def asOff (f : Fur) : Nat := 0x1C000 + 8 * f.val

def qCode (x : QState) : Nat := match x with | .free => 0 | .stopped => 1 | .active => 2 | .draining => 3 | .frozen => 4

/-- Event 0x0502 of a refused write. -/
def State.refuse (s : State) (source : W16) (off v st : Nat) : State := s.offer 0x0502 source (off % 2 ^ 24) v st

/-! ### QS_CTRL (R250) -/

/-- The checks of R251 on a tail. -/
def Queue.tailOk (x : Queue) (t : W32) : Bool :=
  decide ((t - x.retired).toNat ≤ 2 ^ fld x.cfg 0 5) && decide ((t - x.head).toNat < 2 ^ 31)

/-- The checks of ENABLE on the configuration. -/
def State.cfgOk (s : State) (x : Queue) : Bool :=
  (s.ctx x.ctxSlot).valid && decide (x.ctxSlot < 48) && decide (6 ≤ fld x.cfg 0 5) && decide (fld x.cfg 0 5 ≤ 20)
    && decide (4 ≤ fld x.cfg 16 5) && decide (fld x.cfg 16 5 ≤ 16)

def State.enableQueue (s : State) (q : QSlot) : State :=
  let x := s.queue q
  if x.st ≠ .free ∧ x.st ≠ .stopped then s.refuse (srcQueue q) (qsOff q 0x18) 1 (qCode x.st)
  else if !s.cfgOk x then s.refuse (srcQueue q) (qsOff q 0x18) 1 (qCode x.st)
  else if !x.tailOk x.tail then s.offer 0x0503 (srcQueue q) q.val x.tail.toNat x.retired.toNat
  else s.setQueue q { x with st := .active }

def State.disableQueue (s : State) (q : QSlot) : State :=
  let x := s.queue q
  if x.st = .active ∨ x.st = .frozen then (s.endWaits q).setQueue q { x with st := .draining }
  else s.refuse (srcQueue q) (qsOff q 0x18) 2 (qCode x.st)

def State.thawQueue (s : State) (q : QSlot) : State :=
  let x := s.queue q
  if x.st = .frozen then s.setQueue q { x with st := .active } else s.refuse (srcQueue q) (qsOff q 0x18) 4 (qCode x.st)

def State.unbindQueue (s : State) (q : QSlot) : State :=
  let x := s.queue q
  if x.st = .stopped then s.setQueue q { x with st := .free } else s.refuse (srcQueue q) (qsOff q 0x18) 8 (qCode x.st)

/-- QS_ENABLE (R250): QS_CTRL written with ENABLE. -/
def execQsEnable (q : QSlot) (s : State) : Res := .next (s.hostWrite (qsOff q 0x18) 8 (fun s => s.enableQueue q))
/-- QS_DISABLE (R250). -/
def execQsDisable (q : QSlot) (s : State) : Res := .next (s.hostWrite (qsOff q 0x18) 8 (fun s => s.disableQueue q))
/-- QS_THAW (R250). -/
def execQsThaw (q : QSlot) (s : State) : Res := .next (s.hostWrite (qsOff q 0x18) 8 (fun s => s.thawQueue q))
/-- QS_UNBIND (R250). -/
def execQsUnbind (q : QSlot) (s : State) : Res := .next (s.hostWrite (qsOff q 0x18) 8 (fun s => s.unbindQueue q))

/-- STOPPED: what is fetched and not accepted is discarded, and QS_HEAD and QS_SEQ go back (R250). -/
def Queue.stop (x : Queue) : Queue :=
  { x with st := .stopped, head := x.retired, seq := x.seq - BitVec.ofNat 32 x.fetched.length, fetched := [], headJudged := none }

/-- QUEUE_STOPPED (R250): the last accepted command of a DRAINING slot has completed. -/
def execQueueStopped (q : QSlot) (s : State) : Res :=
  let x := s.queue q
  if x.st = .draining ∧ x.cmds = [] ∧ !s.stopped then .next (s.setQueue q x.stop) else .next s

/-! ### Doorbells (R248, R251) -/

/-- A doorbell refused: event 0x0503, QS_FAULT, fault 0x0504, and FROZEN (R251). -/
def State.refuseTail (s : State) (q : QSlot) (t : W32) : State :=
  let x := s.queue q
  let s1 := s.offer 0x0503 (srcQueue q) q.val t.toNat x.retired.toNat
  if x.st = .frozen then
    (s1.modQueue q (fun x => { x with fault := w64 (at' x.seq.toNat 32 + at' stBadParam 16 + 0xFFFF) })).faultRecord 0x0504 (srcQueue q)
      q.val x.seq.toNat (at' stBadParam 16 + 0xFFFF) (levByte 1 false false)
  else s1.freezeQueue q x.seq stBadParam 0xFFFF

def State.writeTail (s : State) (q : QSlot) (t : W32) : State :=
  let x := s.queue q
  if x.st = .free ∨ x.st = .stopped ∨ x.tailOk t then s.setQueue q { x with tail := t } else s.refuseTail q t

/-- QS_TAIL_WRITE (R251). -/
def execQsTailWrite (q : QSlot) (v : W64) (s : State) : Res :=
  .next (s.hostWrite (qsOff q 0x28) 8 (fun s => s.writeTail q (v.setWidth 32)))

/-- A write of a register that takes effect in FREE and STOPPED only (R250). -/
def State.idleWrite (s : State) (q : QSlot) (r : Nat) (v : W64) (g : Queue → Queue) : State :=
  let x := s.queue q
  if x.st = .free ∨ x.st = .stopped then s.setQueue q (g x) else s.refuse (srcQueue q) (qsOff q r) v.toNat (qCode x.st)

def State.writeHead (s : State) (q : QSlot) (v : W64) : State :=
  s.idleWrite q 0x30 v (fun x => { x with head := v.setWidth 32, retired := v.setWidth 32 })

/-- QS_HEAD_WRITE (R250, R257). -/
def execQsHeadWrite (q : QSlot) (v : W64) (s : State) : Res := .next (s.hostWrite (qsOff q 0x30) 8 (fun s => s.writeHead q v))

/-- The host has read records: those that wait have room (R248). -/
def State.writeCqHead (s : State) (q : QSlot) (v : W64) : State := (s.modQueue q (fun x => { x with cqHead := v.setWidth 32 })).giveRoom q

/-- QS_CQ_HEAD_WRITE (R248). -/
def execQsCqHeadWrite (q : QSlot) (v : W64) (s : State) : Res := .next (s.hostWrite (qsOff q 0x50) 8 (fun s => s.writeCqHead q v))

/-! ### Context slots (R254, R322) -/

/-- Bits of CX_CFG that are not reserved. -/
def cxMask : W64 := 0xC0BF000000000FFF#64

def State.ownsFurrow (s : State) (c : Nat) : Bool := s.furs.toList.any (fun x => x.owned && x.owner.toNat == c)

/-- Whether a VALID slot other than `c` has CONTEXT_ID `id`. -/
def State.idTaken (s : State) (c id : Nat) : Bool :=
  (List.range 48).any (fun i => i != c && (s.ctx i).valid && (s.ctx i).id == id)

/-- A write of CX_CFG (R254); while debug is enabled, one that sets PROTECTED is refused (R361). -/
def State.writeCtx (s : State) (c : CSlot) (v : W64) : State :=
  let x := s.ctx c.val
  let new := v &&& cxMask
  if s.debugOn && bitOf new 62 then s.offer 0x0B04 (srcOf 10 0) 2 c.val 0
  else if !(s.boundQueues c.val).isEmpty || s.ownsFurrow c.val || (bitOf new 63 && s.idTaken c.val (fld new 0 12)) then
    s.refuse (srcOf 5 c.val) (cxOff c 0) v.toNat 0
  else s.setCtx c.val { x with cfg := new }

/-- CX_CFG_WRITE (R254). -/
def execCxCfgWrite (c : CSlot) (v : W64) (s : State) : Res := .next (s.hostWrite (cxOff c 0) 8 (fun s => s.writeCtx c v))

def State.thawCtx (s : State) (c : CSlot) : State := s.setCtx c.val { s.ctx c.val with frozen := false }

/-- CX_THAW (R254, R322). -/
def execCxThaw (c : CSlot) (s : State) : Res := .next (s.hostWrite (cxOff c 0x10) 8 (fun s => s.thawCtx c))

/-! ### Furrow ownership (R255, R256) -/

/-- A write of CX_ASSIGNn (R255); while debug is enabled, one that names a protected context is refused (R361). -/
def State.writeAssign (s : State) (f : Fur) (v : W64) : State :=
  let x := s.fur f
  let rel := bitOf v 6
  let t : BitVec 6 := BitVec.ofNat 6 v.toNat
  if s.build.furrows ≤ f.val || (!rel && !((s.ctx t.toNat).valid && decide (t.toNat < 48))) then
    s.refuse srcBlock (asOff f) v.toNat (b2n x.pendingAssign)
  else if s.debugOn && !rel && bitOf (s.ctx t.toNat).cfg 62 then s.offer 0x0B04 (srcOf 10 0) 3 t.toNat 0
  else s.setFur f { x with
    release := rel, target := t
    pendingAssign := x.assignZeroing || (if rel then x.owned else !(x.owned && x.owner == t)) }

/-- CX_ASSIGN_WRITE (R255). -/
def execCxAssignWrite (f : Fur) (v : W64) (s : State) : Res := .next (s.hostWrite (asOff f) 8 (fun s => s.writeAssign f v))

/-- Whether command `c` of the old owner names furrow `f`, is incomplete, and is not the command of an ARMED drill. -/
def State.holdsFurrow (s : State) (f : Fur) (c : Cmd) : Bool :=
  !c.done && (fursNamed c.opcode.toNat c.w).contains f.val &&
    !((c.opcode == 0x0202 || c.opcode == 0x0203) && (s.drill f (drillOf (nfld (c.w 1) 8 3))).st == .armed && c.stage != 3)

/-- The conditions of R255. -/
def State.mayReassign (s : State) (f : Fur) : Bool :=
  let x := s.fur f
  x.modeReady && !(x.owned && s.queues.toList.any (fun q => q.ctxSlot == x.owner.toNat && q.cmds.any (s.holdsFurrow f)))

/-- A sending drill whose receiver has gone (R147, R149): its furrow is the one before `f`. -/
def State.relayLost (s : State) (f : Fur) (n : Nat) : State :=
  if f.val = 0 then s
  else
    let g := furOf (f.val - 1)
    (domDrills false 0).foldl (fun s k =>
      let x := s.drill g k
      if x.mode.toNat % 2 = 1 ∧ x.st ≠ .idle ∧ x.st ≠ .frozen then
        (s.freezeDrill g k x.next stPermission 9).raise 1 (s.recDom g ((s.fur g).drillDom k))
          ⟨0x0405, srcDrill g k, at' k.val 28, f.val, n⟩ (masterDrill g k)
      else s) s

/-- Rows buffered at the relay input of `f` or on their way to it are discarded; their number with the state. -/
def State.dropRelay (s : State) (f : Fur) : State × Nat :=
  let g := furOf (f.val - 1)
  let out := if f.val = 0 then 0 else (s.fur g).relayOut.length
  let n := (s.fur f).relayIn.length + out
  let s1 := if f.val = 0 then s else s.modFur g (fun x => { x with relayOut := [] })
  (s1.modFur f (fun x => ({ x with relayIn := [] }).dropXfers .relay), n)

/-- The furrow as R256 leaves it: joined, zeroed, its windows closed. -/
def Furrow.leaveContext (x : Furrow) : Furrow :=
  let y := { x.clearForMode with
    split := false, data := [], full := [], poison := [], routines := [], pstore := [], counters := [], changes := [], xfers := [], asks := [], wRows := []
    windows := x.windows.map Window.shut }
  y.setDom 1 { y.dom 1 with st := .unused }

/-- A furrow leaves its context, for another or for none: it is cleared, and its sender has lost the relay (R147, R256, log 42). -/
def State.leaveContext (s : State) (f : Fur) : State :=
  let o := (s.disarmDrills f).dropRelay f
  (o.1.relayLost f o.2).modFur f Furrow.leaveContext

/-- An owned furrow leaves its context: it is cleared, and ZEROING reads 1 until the change is complete. Meanwhile no context owns it (R256,
log 17). -/
def State.beginLeave (s : State) (f : Fur) : State :=
  (s.oneCycle (s.leaveContext f)).modFur f (fun x => { x with owned := false, zeroing := true, assignZeroing := true, zeroAt := s.time })

/-- A request that names a context slot with PROTECTED set while debug is enabled (R361). -/
def State.assignBarred (s : State) (f : Fur) : Bool :=
  let x := s.fur f
  s.debugOn && x.pendingAssign && !x.release && bitOf (s.ctx x.target.toNat).cfg 62

/-- A request that has become barred is refused when it would be granted: event 0x0B04 (log 17). -/
def State.dropBarred (s : State) (f : Fur) : State :=
  if s.assignBarred f then
    (s.modFur f (fun x => { x with pendingAssign := false })).offer 0x0B04 (srcOf 10 0) 3 (s.fur f).target.toNat 0
  else s

/-- The change is complete: the new owner, if one is requested, and event 0x8505 with the nanoseconds from the effective tick to the end of
zeroing (R256), 0 where nothing was to be zeroed. -/
def State.reassign (s : State) (f : Fur) : State :=
  let x := s.fur f
  let old := if x.assignZeroing then x.owner.toNat else 0x3F
  let none := x.release || !x.pendingAssign
  let s1 := s.modFur f (fun y => { y with
    owned := !none, owner := if none then 0 else x.target, pendingAssign := false, zeroing := false, assignZeroing := false })
  s1.offer 0x8505 srcBlock f.val (at' old 8 + (if none then 0x3F else x.target.toNat)) (if x.assignZeroing then s.since x.zeroAt else 0)

/-- A furrow that no context owns is handed on, one whose zeroing is over included: what its relay input holds or is being sent is discarded, and the
sender frozen (R147, log 42). -/
def State.handOver (s : State) (f : Fur) : State :=
  let o := s.dropRelay f
  s.oneCycle ((o.1.relayLost f o.2).reassign f)

/-- FURROW_OWNERSHIP_CHANGE (R255, R256): the change takes effect, or its zeroing is over and the furrow is handed on. -/
def execFurrowOwnershipChange (f : Fur) (s : State) : Res :=
  let s1 := s.dropBarred f
  let x := s1.fur f
  if s.stopped then .next s
  else if x.assignZeroing then .next (s.oneCycle (s1.handOver f))
  else if x.pendingAssign && s1.mayReassign f then .next (if x.owned then s1.beginLeave f else s1.handOver f)
  else .next s1

end Sys2Proof.Machine
end

