-- ==== Sys2Proof/Machine/Mailbox.lean ====
section
/-! DEFINITION. The reeve's mailbox: packets, records, GO, ACK, and the taking of a packet (R249, R337 to R339). -/

namespace Sys2Proof.Machine

def rvOff (r : Nat) : Nat := 0x2000 + r
def srcReeve : W16 := srcOf 10 0
def mbxCode (x : Mbx) : Nat := match x with | .idle => 0 | .busy => 1 | .done => 2

/-- Event 0x0511 of a refused mailbox write. -/
def State.mbxRefuse (s : State) (off : Nat) : State := s.offer 0x0511 srcReeve (off % 2 ^ 13) (mbxCode s.rv.mbx) 0

def State.writeRvCmd (s : State) (j : Nat) (v : W64) : State :=
  if s.rv.mbx = .idle then { s with rv := { s.rv with cmd := vput s.rv.cmd j v } } else s.mbxRefuse (rvOff (0x100 + 8 * j))

def State.go (s : State) : State :=
  if s.rv.mbx = .idle then { s with rv := { s.rv with mbx := .busy, taken := false } } else s.mbxRefuse (rvOff 8)

def State.ack (s : State) : State :=
  if s.rv.mbx = .done then { s with rv := { s.rv with mbx := .idle } } else s.mbxRefuse (rvOff 8)

/-- GO (R337): RV_DOORBELL written with GO. -/
def execGoMailbox (s : State) : Res := .next (s.hostWrite (rvOff 8) 8 State.go)
/-- ACK (R337): RV_DOORBELL written with ACK. -/
def execAckMailbox (s : State) : Res := .next (s.hostWrite (rvOff 8) 8 State.ack)

/-- Word `i` of the packet in the mailbox. -/
def Reeve.w (x : Reeve) (i : Nat) : Nat := (vat 0 x.cmd i).toNat
def Reeve.op (x : Reeve) : Nat := nfld (x.w 0) 0 16
def Reeve.seqOf (x : Reeve) : Nat := nfld (x.w 0) 32 32

/-- The reeve runs: booted, and the block neither in reset nor at L4. -/
def State.reeveRuns (s : State) : Bool := s.rv.booted && s.release == 3 && !s.dead

/-- The command completes in the mailbox (R337, R338): the record of R247 with QUEUE_ID 0 and FLAGS 0x803F. -/
def State.mbxDone (s : State) (status r0 r1 : Nat) : State :=
  let bs := toLe 4 s.rv.seqOf ++ toLe 2 status ++ toLe 2 s.rv.op ++ toLe 8 s.time.toNat ++ toLe 8 r0 ++ toLe 4 r1 ++ toLe 2 0
    ++ toLe 2 0x803F
  { s with rv := { s.rv with
      mbx := .done, taken := false, res := Vector.ofFn (fun j => w64 (ofLe ((bs.drop (8 * j.val)).take 8))) } }

/-- Whether a taken packet with opcode `op` waits for the reeve. -/
def State.mbxHas (s : State) (op : Nat) : Bool := s.rv.mbx == .busy && s.rv.taken && s.rv.op == op && s.reeveRuns

def mgmtDefined (op : Nat) : Bool :=
  [0x0F00, 0x0F10, 0x0F11, 0x0F30, 0x0F31, 0x0F38, 0x0F39, 0x0F40, 0x0F41].contains op

/-- Bits of word `i` that a management command names (R339). -/
def mgmtBits (op i : Nat) : Nat :=
  match op, i with
  | 0x0F10, 1 => ones 0 4 + ones 8 8
  | 0x0F11, 1 => ones 0 16
  | 0x0F30, 1 => ones 0 6
  | 0x0F31, 1 => ones 0 6
  | 0x0F30, j => if 2 ≤ j ∧ j ≤ 11 then mAll else 0
  | 0x0F38, 2 => mHandle
  | 0x0F38, 3 => mOff
  | 0x0F40, 1 => mAll
  | 0x0F41, 1 => mAll
  | 0x0F40, 2 => ones 0 24
  | 0x0F41, 2 => ones 0 24
  | 0x0F41, 3 => mAll
  | _, _ => 0

/-- Steps 1 to 3 of R243 on the mailbox packet (R338). -/
def Reeve.check (x : Reeve) : Option Nat :=
  let len := nfld (x.w 0) 24 8
  if x.seqOf ≠ x.seq.toNat || !(len == 1 || len == 2) then some stBadParam
  else if !mgmtDefined x.op then some stBadOpcode
  else if len ≠ (if x.op = 0x0F30 then 2 else 1) || nfld (x.w 0) 18 6 != 0 ||
    !((List.range (8 * len - 1)).all (fun j => x.w (j + 1) &&& mgmtBits x.op (j + 1) == x.w (j + 1))) ||
    (x.op == 0x0F38 && x.w 3 % 8 != 0) then some stBadParam
  else none

/-- RV_NONCE is replaced (R360). -/
def State.newNonce (s : State) : State := { s with rv := { s.rv with nonces := s.rv.nonces + 1 } }

/-- The packet is taken: RV_STATUS.SEQ advances, and a packet that fails its checks completes (R338); a DEBUG_ENABLE that does replaces RV_NONCE
too (R360). -/
def State.takePacket (s : State) : State :=
  let c := s.rv.check
  let s1 := { s with rv := { s.rv with taken := true, seq := s.rv.seq + 1 } }
  match c with
  | some st => (if s.rv.op = 0x0F38 then s1.newNonce else s1).mbxDone st 0 0
  | none => s1

/-- MAILBOX_TAKE (R337, R338). -/
def execMailboxTake (s : State) : Res :=
  if s.rv.mbx = .busy ∧ !s.rv.taken ∧ s.reeveRuns then .next s.takePacket else .next s

/-- RV_NOP (R339). -/
def execRvNop (s : State) : Res := if s.mbxHas 0x0F00 then .next (s.mbxDone stOk 0 0) else .next s

end Sys2Proof.Machine
end

