-- ==== Sys2Proof/Machine/Debug.lean ====
section
/-! DEFINITION. Key slots and debug: KEY_LOAD, KEY_ERASE, DEBUG_ENABLE with its evictions, and the end of debug (R358 to R361, R379). -/

namespace Sys2Proof.Machine

/-! ### Key slots (R358, R359) -/

/-- A key put into a slot; slots in rising order. -/
def putKey (k : Nat) (bs : List Byte) (l : List (Nat × List Byte)) : List (Nat × List Byte) :=
  match l with
  | [] => [(k, bs)]
  | p :: r => if k < p.1 then (k, bs) :: p :: r else if k = p.1 then (k, bs) :: r else p :: putKey k bs r

def State.eraseKey (s : State) (k : Nat) : State := s.eraseKeys (fun n _ => n == k)
def State.keyLoaded (s : State) (k : Nat) : Bool := s.keys.any (fun (p : Nat × List Byte) => p.1 == k)

def Ctx.isProtected (x : Ctx) : Bool := x.valid && bitOf x.cfg 62

/-- Whether a context slot with CONTEXT_ID `id` has PROTECTED set. -/
def State.idProtected (s : State) (id : Nat) : Bool := s.ctxs.toList.any (fun c => c.isProtected && c.id == id)

/-- The 80 bytes of a wrapped key in the mailbox packet. -/
def Reeve.wrapped (x : Reeve) : List Byte := (List.range 10).flatMap (fun i => toLe 8 (x.w (i + 2)))

def State.loadKey (s : State) : State :=
  let k := nfld (s.rv.w 1) 0 6
  let bad := (s.offer 0x0B01 srcReeve k 0 0).mbxDone stPermission 0 0
  if 47 < k then s.mbxDone stBadParam 0 0
  else if s.keyLoaded k then s.mbxDone stBusy 0 0
  else match Config.kwUnwrap s.rv.wrapped with
  | none => bad
  | some bs =>
    let id := ofLe (bs.take 8)
    if 4096 ≤ id then bad
    else if s.debugOn && s.idProtected id then (s.offer 0x0B04 srcReeve 1 k 0).mbxDone stPermission 0 0
    else ({ s with keys := putKey k bs s.keys } : State).mbxDone stOk k 0

/-- KEY_LOAD (R358). -/
def execKeyLoad (s : State) : Res := if s.mbxHas 0x0F30 then .next s.loadKey else .next s

/-- KEY_ERASE (R359); a SLOT above 47 is out of range. -/
def execKeyErase (s : State) : Res :=
  if s.mbxHas 0x0F31 then
    let k := nfld (s.rv.w 1) 0 6
    .next (if 47 < k then s.mbxDone stBadParam 0 0 else (s.eraseKey k).mbxDone stOk k 0)
  else .next s

/-! ### The end of debug (R361, R379) -/

/-- A capture hold ends: event 0x8B07 with the beats held (R379, log 85). -/
def State.releaseHold (s : State) (cause : Nat) : State :=
  if !s.gl.held then s
  else
    let s1 : State := { s with
      gl := { s.gl with held := false }
      furs := s.furs.map (fun x => { x with doms := x.doms.map (fun d => { d with hold := false }) }) }
    s1.offer 0x8B07 srcBlock cause s.gl.heldBeats.toNat 0

/-- Debug ends: the hold, the probe port and the debug window return to rest, event 0x0B05; an eviction in progress completes with BUSY
(R360). -/
def State.endDebug (s : State) (reason : Nat) : State :=
  if !s.debugOn && s.rv.evicting.isNone then s
  else
    let s1 := s.releaseHold 2
    let s2 : State := { s1 with
      debugOn := false, debugScope := 0, gl := { s1.gl with probeCtrl := setBit s1.gl.probeCtrl 0 false }
      rv := { s1.rv with evicting := none, debugEnd := 0 } }
    let s3 := s2.offer 0x0B05 srcReeve reason 0 0
    if s.rv.evicting.isSome then s3.mbxDone stBusy 0 0 else s3

/-- The end of debug at an L3: a DEBUG_ENABLE whose token has not been read yet, its stack giving no slots (R349), completes with BUSY too, and the
nonce is replaced as after any other (R360, log 54). -/
def State.endDebugL3 (s : State) : State :=
  let t := s.endDebug 3
  if s.rv.mbx == .busy && s.rv.taken && s.rv.op == 0x0F38 && s.rv.evicting.isNone then
    (if s.debugOn then t else t.offer 0x0B05 srcReeve 3 0 0).newNonce.mbxDone stBusy 0 0
  else t

/-- DEBUG_DISABLE (R361). -/
def execDebugDisable (s : State) : Res := if s.mbxHas 0x0F39 then .next ((s.endDebug 1).mbxDone stOk 0 0) else .next s

/-- DEBUG_EXPIRY (R361). -/
def execDebugExpiry (s : State) : Res :=
  if s.debugOn && reached s.time s.rv.debugEnd && !s.dead then .next (s.endDebug 2) else .next s

/-! ### DEBUG_ENABLE (R360) -/

/-- The first failing check of a token: reason of event 0x0B02. -/
def State.tokenFault (s : State) (h off : Nat) : Option Nat :=
  let o := s.memRead (s.locOf h off) 128
  let bs := o.1
  let scope := ofLe ((bs.drop 16).take 4)
  let dur := ofLe ((bs.drop 20).take 4)
  if (s.segCheck (s.seg (hIndex h)).owner.toNat h off 128 0).isSome || o.2 != .good then some 5
  else if !Config.tokenVerifies bs then some 1
  else if ofLe (bs.take 8) ≠ Config.serial.toNat then some 2
  else if ofLe ((bs.drop 8).take 8) ≠ (Config.nonce s.rv.nonces).toNat then some 3
  else if 8 ≤ scope || dur == 0 || decide (86400 < dur) || ofLe ((bs.drop 24).take 8) != 0 then some 4
  else none

/-- Whether furrow `f` belongs to a context slot with PROTECTED set. -/
def State.ownedProtected (s : State) (f : Fur) : Bool := (s.fur f).owned && (s.ctx (s.fur f).owner.toNat).isProtected

/-- Whether an L2 of the furrow, or of a half of it, is in progress. -/
def State.inL2 (s : State) (f : Fur) : Bool :=
  s.dc.recovs.any (fun x => x.level == 2 && x.phase != 2 && x.scope != .block && x.fur == f.val)

/-- A recovery requested by DC_CTRL or DEBUG_ENABLE (R321): it escalates where a window of its domain is open (R325). -/
def State.request (s : State) (level : Nat) (r : RecDomain) (i : FaultInfo) (byDebug : Bool) : State :=
  match s.openRec r with
  | some o =>
    let lv := max level o.level + 1
    if lv = 2 then s.startL2 r i true true byDebug
    else if lv = 3 then (s.dropRec r).startL3 i true false true
    else s.startL4 i true true
  | none => if level = 2 then s.startL2 r i false true byDebug else s.startL3 i false false true

/-- Whether a furrow that a protected context owned is still being zeroed (R256). -/
def State.leavingProtected (s : State) (f : Fur) : Bool := (s.fur f).assignZeroing && (s.ctx (s.fur f).owner.toNat).isProtected

/-- Step 3 for one furrow: its release begins at once, or it is reset at L2 while fewer than two run. -/
def State.evictStep (s : State) (f : Fur) : State :=
  if !s.ownedProtected f || s.inL2 f || s.stopped then s
  else if s.mayReassign f then s.beginLeave f
  else if s.l2Running < 2 && (s.openRec (.furrow f)).isNone then s.request 2 (.furrow f) ⟨0x0512, srcReeve, 2, at' f.val 8, 2⟩ true
  else s

def allFurs : List Fur := (List.range 16).map furOf

/-- Steps 3 and 4: once no protected context owns a furrow, debug is enabled and the command completes. -/
def State.debugStep (s : State) : State :=
  match s.rv.evicting with
  | none => s
  | some (scope, dur, n) =>
    let s1 := allFurs.foldl State.evictStep s
    if allFurs.any (fun f => s1.ownedProtected f || s1.leavingProtected f) || s1.stopped then s1
    else
      let s2 : State := { s1 with
        debugOn := true, debugScope := scope
        rv := { s1.rv with evicting := none, debugEnd := s1.time + BitVec.ofNat 64 (dur.toNat * 1000000000) } }
      (s2.offer 0x0B03 srcReeve scope.toNat dur.toNat n).mbxDone stOk n 0

/-- Step 2 for one queue slot: bound to a protected context, it becomes FROZEN, which counts against the context (R322). -/
def State.freezeProtected (s : State) (q : QSlot) : State :=
  let x := s.queue q
  if x.st != .free && x.st != .frozen && (s.ctx x.ctxSlot).isProtected then
    ((s.endWaits q).modQueue q (fun x => { x with st := .frozen })).widenFreeze x.ctxSlot
  else s

/-- Steps 1 and 2: keys of protected contexts are erased and their queues freeze. -/
def State.debugBegin (s : State) (bs : List Byte) : State :=
  let n := (s.ctxs.toList.filter Ctx.isProtected).length
  let s1 := (List.range 64).foldl (fun t q => t.freezeProtected (slotOf q)) (s.eraseKeys (fun _ bs => s.idProtected (ofLe (bs.take 8))))
  ({ s1 with rv := { s1.rv with
      evicting := some (BitVec.ofNat 4 (ofLe ((bs.drop 16).take 4)), BitVec.ofNat 32 (ofLe ((bs.drop 20).take 4)), n) } } : State).debugStep

/-- The token is read and checked, once its stack gives slots (R349). -/
def State.enableDebug (s : State) : State :=
  let h := s.rv.w 2
  let off := s.rv.w 3
  match s.tokenFault h off with
  | some reason => (s.newNonce.offer 0x0B02 srcReeve reason 0 0).mbxDone stPermission 0 0
  | none => s.newNonce.debugBegin (s.memRead (s.locOf h off) 128).1

/-- Whether the token lies in a stack that gives no slots now (R349). -/
def State.tokenHeld (s : State) : Bool :=
  let h := s.rv.w 2
  let off := s.rv.w 3
  (s.segCheck (s.seg (hIndex h)).owner.toNat h off 128 0).isNone && s.stackHeld (s.locOf h off) 128

/-- DEBUG_ENABLE (R360): the token is checked, or an eviction in progress goes on. -/
def execDebugEnable (s : State) : Res :=
  if s.mbxHas 0x0F38 then .next (s.oneCycle (if s.rv.evicting.isSome then s.debugStep else if s.tokenHeld then s else s.enableDebug)) else .next s

end Sys2Proof.Machine
end

