-- ==== Sys2Proof/Machine/Fences.lean ====
section
/-! DEFINITION. Fences, the fence watch and SIGNAL_SET (R274 to R281, R286, R287). -/

namespace Sys2Proof.Machine

/-- What a memory answers to a read, given the environment's word for an error that the memory itself does not show. -/
def State.readAnswer (s : State) (l : Loc) (n : Nat) (out : ReadOutcome) : List Byte × ReadOutcome :=
  let o := s.memRead l n
  match o.2 with
  | .good => (o.1, out)
  | bad => (o.1, bad)

/-- Reason field of event 0x0703. -/
def failReason (out : ReadOutcome) : Nat := match out with | .good => 0 | .uncorrectable => 1 | .translation => 2

/-- The indivisible operation of R276 on the fence at `off` of handle `h`, for a user whose check passed after `since` key erasures: the status
and results with it. `from'` is P2's source field of event 0x0701. -/
def State.fenceOp (s : State) (h off since v : Nat) (source : W16) (from' : Nat) (out : ReadOutcome) : State × (Nat × Nat × Nat) :=
  let l := (s.locOf h off).checked since
  let o := s.readAnswer l 8 out
  match o.2 with
  | .good =>
    let cur := ofLe o.1
    if reached (w64 v) (w64 cur) then ((s.memWrite l (toLe 8 v) false (hIndex h)).1, (stOk, v, 0))
    else (s.offer 0x0701 source h v (from' + cur % 2 ^ 24), (stOk, cur, 0))
  | bad =>
    (((s.offer 0x0703 source h off (1 + 16 * failReason bad)).memWrite l (toLe 8 v) false (hIndex h)).1, (stPoisoned, v, 8))

/-! ### FENCE_SIGNAL -/

/-- A command's request for the slots of its pieces, at the priority of its queue (R141); none is needed in host memory (R140). -/
def State.askPieces (s : State) (r : CmdRef) (ps : List Piece) : State :=
  if ps = [] then s
  else { s with fences := s.fences ++ [⟨r, (s.queue (slotOf r.q)).prio, s.requests, ps⟩], requests := s.requests + 1 }

/-- An accepted FENCE_SIGNAL: a fence in HBM waits for two slots of its stack port, at the queue's priority (R277). -/
def State.signalBody (s : State) (p : Packet) (r : CmdRef) : State :=
  let l := s.locOf (p.w 2) (p.w 3)
  (s.modCmd r (fun c => { c with stage := 2 })).askPieces r (if l.host then [] else List.replicate 2 ⟨l.addr, l.addr + 8, 0, false⟩)

/-- FENCE_SIGNAL (R278): accepted once every earlier command of its queue has completed; FENCE_OPERATION follows. -/
def execFenceSignal (q : QSlot) (s : State) : Res := .next (s.accept q 0x0300 State.signalBody)

/-- FENCE_OPERATION (R276, R277): the memory performs the operation of an accepted FENCE_SIGNAL, once its slots have been granted. -/
def execFenceOperation (q : QSlot) (seq : W32) (out : ReadOutcome) (s : State) : Res :=
  match s.atWork q seq 0x0300 with
  | none => .next s
  | some c =>
    let r : CmdRef := ⟨q.val, seq⟩
    if s.stopped || s.fences.any (fun j => j.ref == r) then .next s
    else if (s.locOf (c.w 2) (c.w 3)).host && !s.build.atomicOp then .next (s.finish r stBadParam 0 0)
    else
      let o := s.fenceOp (c.w 2) (c.w 3) c.since (c.w 4) (srcQueue q) (at' q.val 24) out
      .next (o.1.finish r o.2.1 o.2.2.1 o.2.2.2)

/-! ### FENCE_WAIT (R279 to R281) -/

def State.watch (s : State) (k : Fin 256) : Watch := s.watches[k]
def State.setWatch (s : State) (k : Fin 256) (x : Watch) : State := { s with watches := s.watches.set k x }

/-- The wait ends: DONE until its record is written, or would have been where QUIET suppresses it (R280). -/
def State.endWatch (s : State) (k : Fin 256) (timedOut : Bool) : State :=
  let x := s.watch k
  let s1 := s.setWatch k { x with st := 2, timedOut := timedOut }
  let s2 := if timedOut then s1.offer 0x0702 (srcQueue (slotOf x.ref.q)) k.val x.ref.q x.last.toNat else s1
  s2.finish x.ref (if timedOut then stTimeout else stOk) x.last.toNat 0

/-- Where the fence of a watch slot lies. -/
def State.watchLoc (s : State) (x : Watch) : Loc := (s.locOf x.handle.toNat x.offset.toNat).checked x.since

/-- One read of a watch slot; `final` at the deadline. While the fence's stack gives no slots the read waits (R349). -/
def State.watchRead (s : State) (k : Fin 256) (out : ReadOutcome) (final : Bool) : State :=
  let x := s.watch k
  let o := s.readAnswer (s.watchLoc x) 8 out
  if s.stackHeld (s.watchLoc x) 8 then s
  else match o.2 with
  | .good =>
    let v := w64 (ofLe o.1)
    let s1 := s.setWatch k { x with last := v, reads := satInc x.reads }
    if reached v x.target then s1.endWatch k false
    else if final || x.ending then s1.endWatch k true else s1
  | bad =>
    let s1 := s.setWatch k { x with reads := satInc x.reads, failed := satInc x.failed }
    let s2 := if x.failed = 0 then s1.offer 0x0703 (srcQueue (slotOf x.ref.q)) x.handle.toNat x.offset.toNat (16 * failReason bad) else s1
    if final || x.ending then s2.endWatch k true else s2

/-- The lowest-numbered FREE slot. -/
def State.freeSlot (s : State) : Option (Fin 256) :=
  ((List.range 256).map (Fin.ofNat 256)).find? (fun k => (s.watch k).st == 0)

/-- A FENCE_WAIT takes the lowest-numbered FREE watch slot, which reads the fence at once, with `out` for an error that the memory itself does not
show (R279, R281). -/
def State.waitRead (s : State) (out : ReadOutcome) (p : Packet) (r : CmdRef) : State :=
  match s.freeSlot with
  | none => s
  | some k =>
    let t := p.w 5
    let x : Watch :=
      { st := 1, ref := r, timedOut := false, handle := BitVec.ofNat 32 (p.w 2), offset := BitVec.ofNat 44 (p.w 3), target := w64 (p.w 4),
        last := 0, deadline := if t = 0 then 0 else s.time + BitVec.ofNat 64 (1000 * t), reads := 0, failed := 0, order := s.accepted, ending := false, since := s.erasures }
    ((s.modCmd r (fun c => { c with stage := 2 })).setWatch k x).watchRead k out false

/-- How memory answers a read of which no command says it: whether it fails is a free value, and it fails as a read of its kind can (R144, R281,
log 103). -/
def State.freeOutcome (s : State) (l : Loc) : ReadOutcome :=
  if Config.readFails s.free then (if l.host then .translation else .uncorrectable) else .good

/-- An accepted FENCE_WAIT (R279). -/
def State.waitBody (s : State) (p : Packet) (r : CmdRef) : State := (s.waitRead (s.freeOutcome (s.locOf (p.w 2) (p.w 3))) p r).bumpFree

/-- FENCE_WAIT (R279). -/
def execFenceWait (q : QSlot) (s : State) : Res := .next (s.accept q 0x0301 State.waitBody)

/-- FENCE_WATCH_READ (R279, R280). -/
def execFenceWatchRead (k : Fin 256) (out : ReadOutcome) (s : State) : Res :=
  if (s.watch k).st = 1 ∧ !s.stopped then .next (s.watchRead k out false) else .next s

/-- FENCE_WAIT_DEADLINE (R279): the read at the deadline. -/
def execFenceWaitDeadline (k : Fin 256) (out : ReadOutcome) (s : State) : Res :=
  let x := s.watch k
  if x.st = 1 ∧ x.deadline ≠ 0 ∧ reached s.time x.deadline ∧ !s.stopped then .next (s.watchRead k out true) else .next s

/-! ### SIGNAL_SET (R287) -/

def State.signalSetBody (s : State) (p : Packet) (r : CmdRef) : State :=
  let c := nfld (p.w 2) 0 8
  let s1 := s.modFur p.fur (fun x => x.changeCounter c (nfld (p.w 2) 8 2) (nfld (p.w 2) 16 16))
  s1.finish r stOk (tget 0 (s1.fur p.fur).counters c).toNat 0

/-- SIGNAL_SET (R287). -/
def execSignalSet (q : QSlot) (s : State) : Res := .next (s.accept q 0x0302 State.signalSetBody)

end Sys2Proof.Machine
end

