-- ==== Sys2Proof/Machine/Mesh.lean ====
section
/-! DEFINITION. The mesh below its lanes: frame fields (R294, R295), ports and links (R296 to R299), the MS_ registers (R319), and the
thaws and lane resets of MS_CTRL (R308, R317). -/

namespace Sys2Proof

open Sys2Proof.Machine

/-! ### Frames -/

def Frame.type (x : Frame) : Nat := fld x.h0 60 4
def Frame.version (x : Frame) : Nat := fld x.h0 56 4
def Frame.hops (x : Frame) : Nat := fld x.h0 48 8
def Frame.src (x : Frame) : Nat := fld x.h0 32 16
def Frame.dest (x : Frame) : Nat := fld x.h0 16 16
def Frame.len (x : Frame) : Nat := fld x.h0 0 16
def Frame.poison (x : Frame) : Nat := fld x.h1 56 8
def Frame.lane (x : Frame) : Nat := fld x.h1 50 6
def Frame.syn (x : Frame) : Bool := bitOf x.h1 49
def Frame.lseq (x : Frame) : W16 := BitVec.ofNat 16 (fld x.h1 32 16)
def Frame.linkSeq (x : Frame) : W16 := BitVec.ofNat 16 (fld x.h1 0 16)
def Frame.bytes (x : Frame) : Nat := 32 + x.payload.length

def fWrite : Nat := 1
def fFsig : Nat := 2
def fCsig : Nat := 3
def fAck : Nat := 4
def fNak : Nat := 5
def fLink : Nat := 8
def fHello : Nat := 9
def fMgmt : Nat := 10

def Frame.isData (x : Frame) : Bool := x.type == fWrite || x.type == fFsig || x.type == fCsig
def Frame.isLane (x : Frame) : Bool := x.isData || x.type == fAck || x.type == fNak
def Frame.isSeq (x : Frame) : Bool := x.isLane || x.type == fMgmt

/-- Words h0 and h1 from their fields. -/
def mkH0 (type hops src dest len : Nat) : W64 := w64 (at' type 60 + at' 1 56 + at' hops 48 + at' src 32 + at' dest 16 + len)
def mkH1 (poison lane syn retx lseq linkSeq : Nat) : W64 :=
  w64 (at' poison 56 + at' lane 50 + at' syn 49 + at' retx 48 + at' lseq 32 + linkSeq)

def Frame.withLinkSeq (x : Frame) (n : W16) : Frame := { x with h1 := w64 (x.h1.toNat / 2 ^ 16 * 2 ^ 16 + n.toNat) }
def Frame.withHops (x : Frame) (n : Nat) : Frame :=
  { x with h0 := w64 (x.h0.toNat / 2 ^ 56 * 2 ^ 56 + at' (n % 256) 48 + x.h0.toNat % 2 ^ 48) }

/-- Bits of h1, h2 and h3 that a type names (R294, R295). -/
def frameBits (type : Nat) : Nat × Nat × Nat :=
  match type with
  | 1 => (ones 0 16 + ones 32 32, ones 0 34, 0)
  | 2 => (ones 0 16 + ones 32 24, 0, 0)
  | 3 => (ones 0 16 + ones 32 24, ones 0 4 + ones 8 10 + ones 32 16, 0)
  | 4 => (ones 0 16 + ones 32 16 + ones 50 6, 0, ones 0 16)
  | 5 => (ones 0 16 + ones 32 16 + ones 50 6, 0, ones 0 24)
  | 8 => (0, 0, ones 0 33)
  | 9 => (0, ones 0 4, 0)
  | 10 => (ones 0 16, mAll, ones 0 24 + ones 32 1 + ones 36 4 + ones 48 16)
  | _ => (0, 0, 0)

/-- LEN and payload of a type. -/
def Frame.lenOk (x : Frame) : Bool :=
  x.payload.length == x.len &&
  (match x.type with
  | 1 => x.len % 512 == 0 && decide (512 ≤ x.len) && decide (x.len ≤ 4096)
  | 2 => x.len == 24 && (x.payload.drop 4).take 4 == [0, 0, 0, 0]
  | 9 => x.len == 16
  | 10 => x.len == 8
  | _ => x.len == 0)

/-- Whether the header breaks no rule of R294 and R295. -/
def Frame.headerOk (x : Frame) : Bool :=
  let m := frameBits x.type
  x.version == 1 && (x.isSeq || x.type == fLink || x.type == fHello) && x.lenOk &&
    x.h1.toNat &&& m.1 == x.h1.toNat && x.h2.toNat &&& m.2.1 == x.h2.toNat && x.h3.toNat &&& m.2.2 == x.h3.toNat &&
    ((x.type != fLink && x.type != fHello) || (x.src == 0 && x.dest == 0 && x.hops == 0)) &&
    (x.type != fCsig || fld x.h2 16 2 != 3) && (x.type != fNak || (fld x.h3 16 8 != 0 && decide (fld x.h3 16 8 ≤ 3)))

/-! ### The frame on the wire (R293) -/

/-- One byte into the 32-bit FCS of 802.3, low bit first (log 81). -/
def crcByte (c : W32) (b : Byte) : W32 :=
  (List.range 8).foldl (fun c _ => if bitOf c 0 then (c >>> 1) ^^^ 0xEDB88320#32 else c >>> 1) (c ^^^ b.setWidth 32)

/-- The FCS of 802.3 over a run of bytes. -/
def fcs (bs : List Byte) : W32 := ~~~(bs.foldl crcByte 0xFFFFFFFF#32)

/-- Header, payload, and the zeros of a frame shorter than 64 bytes with its FCS. -/
def Frame.body (x : Frame) : List Byte :=
  let bs := [x.h0, x.h1, x.h2, x.h3].flatMap (fun h => toLe 8 h.toNat) ++ x.payload
  bs ++ List.replicate (60 - bs.length) 0

/-- A frame as a port puts it on the wire: preamble, start-of-frame delimiter, body and FCS (R293, log 81). -/
def Frame.onWire (x : Frame) : List Byte := List.replicate 7 0x55 ++ [0xD5] ++ x.body ++ toLe 4 (fcs x.body).toNat

end Sys2Proof

namespace Sys2Proof.Machine

/-! ### The parts of the mesh -/

def State.port (s : State) (p : PortNo) : Port := s.ms.ports[p]
def State.setPort (s : State) (p : PortNo) (x : Port) : State := { s with ms := { s.ms with ports := s.ms.ports.set p x } }
def State.setMs (s : State) (m : Mesh) : State := { s with ms := m }
def portOf (n : Nat) : PortNo := Fin.ofNat 16 n

/-- The mesh works from the release of the resets until an L4 (R329, R393). -/
def State.meshRuns (s : State) : Bool := s.release == 3 && !s.dead

def laneKey (id lane : Nat) : Nat := 64 * id + lane
def Mesh.sendLane (m : Mesh) (k : Nat) : SendLane := tget SendLane.clear m.send k
def Mesh.setSend (m : Mesh) (k : Nat) (x : SendLane) : Mesh := { m with send := tset SendLane.clear m.send k x }
def Mesh.recvLane (m : Mesh) (k : Nat) : RecvLane := tget RecvLane.clear m.recv k
def Mesh.setRecv (m : Mesh) (k : Nat) (x : RecvLane) : Mesh := { m with recv := tset RecvLane.clear m.recv k x }

/-- MS_ID bits [17:0]. -/
def Mesh.idWord (m : Mesh) : Nat := at' (b2n m.lock) 17 + at' (b2n m.valid) 16 + m.id.toNat

/-- A frame is dropped: MS_DROPS, MS_STICKY.DROPPED, event 0x0805 (R304). `p` is 16 for a frame of the device itself. -/
def State.dropFrame (s : State) (p reason : Nat) (x : Frame) : State :=
  (s.setMs { s.ms with drops := s.ms.drops + 1, sticky := setBit s.ms.sticky 4 true }).offer 0x0805
    (if p < 16 then srcOf 6 p else srcBlock) p reason (at' x.src 16 + x.dest)

/-- Frames of the ingress buffer of port `p`: those that arrived on it and have not left the device or been processed (R297). -/
def State.occupancy (s : State) (p : PortNo) : Nat :=
  (s.port p).ingress.length + (s.ms.transit.filter (fun t => t.port == p.val)).length
    + (s.ms.arrivals.filter (fun (a : Frame × Nat) => a.2 == p.val)).length

/-! ### Port states (R298) -/

def portCode (x : PortState) : Nat := match x with | .disabled => 0 | .training => 1 | .hello => 2 | .up => 3 | .down => 4

/-- A change of state, event 0x0801. -/
def State.portTo (s : State) (p : PortNo) (st : PortState) (cause : Nat) : State :=
  let x := s.port p
  (s.setPort p { x with st := st, since := s.time }).offer 0x0801 (srcOf 6 p.val) p.val (at' (portCode x.st) 4 + portCode st) cause

/-- The replay buffer, the ingress buffer and the credits are discarded (R298). -/
def State.dropBuffers (s : State) (p : PortNo) : State :=
  let x := s.port p
  let s1 := s.setPort p { x with
    replay := [], resend := 0, asked := false, askDue := false, ingress := [], ctl := [], credits := 0
    lastHello := none, lastLink := none }
  s1.setMs { s1.ms with
    transit := s1.ms.transit.filter (fun t => t.port != p.val)
    arrivals := s1.ms.arrivals.filter (fun (a : Frame × Nat) => a.2 != p.val) }

/-- A port begins training: both LINKSEQ counts start anew (log 23). -/
def State.startTraining (s : State) (p : PortNo) (cause : Nat) : State :=
  let s1 := s.portTo p .training cause
  s1.setPort p { s1.port p with txSeq := 0, rxSeq := 0 }

/-- MS_Pp_CTRL written. -/
def State.portEnable (s : State) (p : PortNo) (en : Bool) : State :=
  let x := s.port p
  let s1 := s.setPort p { x with en := en }
  if en then (if x.st = .disabled then s1.startTraining p 0 else s1)
  else if x.st = .disabled then s1
  else
    let s2 := (s1.dropBuffers p).portTo p .disabled 0
    s2.setPort p { s2.port p with nbrSeen := false }

def msOff (r : Nat) : Nat := 0x40000 + r

/-- MESH_PORT_ENABLE (R298). -/
def execMeshPortEnable (p : PortNo) (en : Bool) (s : State) : Res :=
  .next (s.hostWrite (msOff (0x110 + 0x40 * p.val)) 8 (fun s => s.portEnable p en))

/-- PCS_LOCK (R298): TRAINING ends. -/
def execPcsLock (p : PortNo) (s : State) : Res :=
  if s.meshRuns && (s.port p).st == .training then .next (s.portTo p .hello 1) else .next s

def downCode (c : DownCause) : Nat := match c with | .pcsLock => 1 | .replayLimit => 2 | .linkSilence => 3

/-- Whether a cause of DOWN holds; how long the PCS has not been locked is outside the block. -/
def State.downHolds (s : State) (p : PortNo) (c : DownCause) : Bool :=
  let x := s.port p
  match c with
  | .pcsLock => true
  | .replayLimit => x.replay.any (fun r => decide (16 ≤ r.times))
  | .linkSilence => x.replay != [] && (match x.lastLink with | some t => decide (100000 ≤ s.since t) | none => false)

def State.portDown (s : State) (p : PortNo) (c : DownCause) : State :=
  let s1 := (s.dropBuffers p).portTo p .down (downCode c)
  s1.setMs { s1.ms with sticky := setBit s1.ms.sticky 0 true }

/-- LINK_DOWN (R298). -/
def execLinkDown (p : PortNo) (cause : DownCause) (s : State) : Res :=
  if s.meshRuns && (s.port p).st == .up && s.downHolds p cause then .next (s.portDown p cause) else .next s

/-- PORT_RETRAIN (R298); the cause of its event is not stated: a free value (log 2). -/
def execPortRetrain (p : PortNo) (s : State) : Res :=
  let x := s.port p
  if s.meshRuns && x.st == .down && decide (1000000 ≤ s.since x.since) then
    .next (s.startTraining p (Config.freeWord s.free).toNat).bumpFree
  else .next s

/-! ### Sending on a port (R296, R297, R299) -/

/-- A frame without LINKSEQ is put on the wire. -/
def State.sendPlain (s : State) (p : PortNo) (x : Frame) : State :=
  let y := s.port p
  s.setPort p { y with wire := some x, tx := y.tx + BitVec.ofNat 64 x.bytes }

/-- A Seq frame is numbered, kept for replay, and put on the wire. -/
def State.sendSeq (s : State) (p : PortNo) (x : Frame) : State :=
  let y := s.port p
  let z := x.withLinkSeq y.txSeq
  s.setPort p { y with
    wire := some z, tx := y.tx + BitVec.ofNat 64 z.bytes, txSeq := y.txSeq + 1, credits := y.credits - 1
    replay := y.replay ++ [⟨z, 0⟩], lastLink := if y.replay = [] then some s.time else y.lastLink }

/-- A LINK frame of the port (R295, R296). -/
def State.linkFor (s : State) (p : PortNo) (replay : Bool) : Frame :=
  ⟨mkH0 fLink 0 0 0 0, 0, 0, w64 (at' (b2n replay) 32 + at' (32 - s.occupancy p) 16 + (s.port p).rxSeq.toNat), []⟩

def State.helloFor (s : State) (p : PortNo) : Frame :=
  ⟨mkH0 fHello 0 0 0 16, 0, w64 p.val, 0, toLe 8 Config.serial.toNat ++ toLe 8 s.ms.idWord⟩

/-- HELLO_SEND (R298): every 10 µs in HELLO. -/
def execHelloSend (p : PortNo) (s : State) : Res :=
  let x := s.port p
  let due := match x.lastHello with | none => true | some t => decide (10000 ≤ s.since t)
  if s.meshRuns && x.st == .hello && due then
    .next ((s.setPort p { x with lastHello := some s.time }).sendPlain p (s.helloFor p))
  else .next s

/-- LINK_SEND (R296): a LINK frame with REPLAY 0. -/
def execLinkSend (p : PortNo) (s : State) : Res :=
  if s.meshRuns && (s.port p).st == .up then .next (s.sendPlain p (s.linkFor p false)) else .next s

/-! ### Receiving on a port (R296, R297, R304) -/

/-- A Seq frame that is discarded: after the first, one REPLAY is due until the expected frame arrives. -/
def Port.discard (x : Port) : Port := if x.asked then x else { x with asked := true, askDue := true }

def State.receiveUp (s : State) (p : PortNo) (good : Bool) (fr : Frame) : State :=
  let x := s.port p
  if fr.type = fLink ∨ fr.type = fHello then
    if !good then s
    else if !fr.headerOk then s.dropFrame p.val 4 fr
    else s.setPort p { x with ctl := x.ctl ++ [fr], rx := x.rx + BitVec.ofNat 64 fr.bytes }
  else if !good then s.setPort p x.discard
  else if !fr.isSeq then s.dropFrame p.val 4 fr
  else if fr.linkSeq ≠ x.rxSeq ∨ 32 ≤ s.occupancy p then s.setPort p x.discard
  else
    let s1 := s.setPort p { x with
      rxSeq := x.rxSeq + 1, asked := false, askDue := false, rx := x.rx + BitVec.ofNat 64 fr.bytes
      ingress := if fr.headerOk then x.ingress ++ [fr] else x.ingress }
    if fr.headerOk then s1 else s1.dropFrame p.val 4 fr

/-- MESH_FRAME_RECEIVE (R296): in UP every frame type, in HELLO a good HELLO alone (R298), which is dropped where its header breaks R294. -/
def execMeshFrameReceive (p : PortNo) (good : Bool) (fr : Frame) (s : State) : Res :=
  let x := s.port p
  if !s.meshRuns then .next s
  else if x.st = .up then .next (s.receiveUp p good fr)
  else if x.st = .hello && good && fr.type == fHello then
    if !fr.headerOk then .next (s.dropFrame p.val 4 fr)
    else .next (s.setPort p { x with ctl := x.ctl ++ [fr], rx := x.rx + BitVec.ofNat 64 fr.bytes })
  else .next s

/-- A LINK frame (R296): its ACKSEQ, REPLAY and CREDITS. -/
def Port.link (x : Port) (fr : Frame) (now : W64) : Port :=
  let ackSeq : W16 := BitVec.ofNat 16 (fld fr.h3 0 16)
  let kept := x.replay.dropWhile (fun r => !reached r.frame.linkSeq ackSeq)
  let credits := min 32 (fld fr.h3 16 16)
  if bitOf fr.h3 32 then { x with resend := kept.length, credits := credits, lastLink := some now }
  else
    let resend := min x.resend kept.length
    { x with replay := kept, resend := resend, credits := credits - (kept.length - resend), lastLink := some now }

/-- LINK_FRAME (R296): the oldest LINK frame received. -/
def execLinkFrame (p : PortNo) (s : State) : Res :=
  let x := s.port p
  match x.ctl.find? (fun fr => fr.type == fLink) with
  | none => .next s
  | some fr =>
    if s.meshRuns then .next (s.setPort p { (x.link fr s.time) with ctl := eraseFirst (fun g => g == fr) x.ctl }) else .next s

/-- A HELLO (R299): the neighbour is stored; the first takes the port UP; another serial is event 0x0806. -/
def State.hello (s : State) (p : PortNo) (fr : Frame) : State :=
  let x := s.port p
  let serial := w64 (ofLe (fr.payload.take 8))
  let idw := ofLe ((fr.payload.drop 8).take 8)
  let changed := x.st == .up && x.nbrSerial != serial
  let s1 := s.setPort p { x with
    nbrSerial := serial, nbrId := BitVec.ofNat 16 idw, nbrValid := idw / 2 ^ 16 % 2 == 1, nbrSeen := true
    nbrPort := BitVec.ofNat 4 (fld fr.h2 0 4) }
  let s2 := if x.st = .hello then s1.portTo p .up 4 else s1
  if changed then
    (s2.setMs { s2.ms with sticky := setBit s2.ms.sticky 1 true }).offer 0x0806 (srcOf 6 p.val) p.val x.nbrSerial.toNat serial.toNat
  else s2

/-- HELLO_FRAME (R299): the oldest HELLO received. -/
def execHelloFrame (p : PortNo) (s : State) : Res :=
  let x := s.port p
  match x.ctl.find? (fun fr => fr.type == fHello) with
  | none => .next s
  | some fr =>
    if s.meshRuns then .next ((s.setPort p { x with ctl := eraseFirst (fun g => g == fr) x.ctl }).hello p fr) else .next s

/-! ### MS_CTRL (R308, R309, R317) -/

def State.thawPair (s : State) (id lane : Nat) : State :=
  let k := laneKey id lane
  if (s.ms.recvLane k).frozen then s.setMs (s.ms.setRecv k RecvLane.clear) else s

/-- The source's freeze and every frozen pair of it end. -/
def State.thawSource (s : State) (id : Nat) : State :=
  s.setMs { s.ms with
    frozenSrcs := tset false s.ms.frozenSrcs id false
    recv := s.ms.recv.filter (fun (p : Nat × RecvLane) => !(p.1 / 64 == id && p.2.frozen)) }

def State.resetSenderLane (s : State) (id lane : Nat) : State :=
  let k := laneKey id lane
  if (s.ms.sendLane k).failed.isSome then s.setMs (s.ms.setSend k SendLane.clear) else s

def State.resetSenderLanes (s : State) (id : Nat) : State :=
  s.setMs { s.ms with send := s.ms.send.filter (fun (p : Nat × SendLane) => !(p.1 / 64 == id && p.2.failed.isSome)) }

/-- THAW_PAIR (R317): MS_CTRL action 1. -/
def execThawPair (id : W16) (lane : BitVec 6) (s : State) : Res :=
  .next (s.hostWrite (msOff 0x20) 8 (fun s => s.thawPair id.toNat lane.toNat))
/-- THAW_SOURCE (R317): MS_CTRL action 2. -/
def execThawSource (id : W16) (s : State) : Res := .next (s.hostWrite (msOff 0x20) 8 (fun s => s.thawSource id.toNat))
/-- RESET_SENDER_LANE (R308): MS_CTRL action 3. -/
def execResetSenderLane (id : W16) (lane : BitVec 6) (s : State) : Res :=
  .next (s.hostWrite (msOff 0x20) 8 (fun s => s.resetSenderLane id.toNat lane.toNat))
/-- RESET_SENDER_LANES (R308): MS_CTRL action 4. -/
def execResetSenderLanes (id : W16) (s : State) : Res :=
  .next (s.hostWrite (msOff 0x20) 8 (fun s => s.resetSenderLanes id.toNat))

def State.msCtrl (s : State) (v : W64) : State :=
  let id := fld v 0 16
  let lane := fld v 16 6
  match fld v 60 4 with
  | 1 => s.thawPair id lane
  | 2 => s.thawSource id
  | 3 => s.resetSenderLane id lane
  | 4 => s.resetSenderLanes id
  | _ => s

/-! ### MS_ registers (R319) -/

/-- MS_ID written; `remote` by a MESH_DR_WRITE, which may not clear LOCK (R302). -/
def Mesh.writeId (m : Mesh) (v : W64) (remote : Bool) : Mesh :=
  if fld v 12 4 ≠ 0 then m
  else { m with id := BitVec.ofNat 16 v.toNat, valid := bitOf v 16, lock := bitOf v 17 || (remote && m.lock) }

/-- A write of the MS_ register at window offset `off`. What a write of MS_ID or MS_RT changes is not asked again of a command that has passed
step 3 of R243 (log 96). -/
def State.msWrite (s : State) (off : Nat) (v : W64) (remote : Bool) : State :=
  let m := s.ms
  let r := off - 0x40000
  if r = 0 then s.judgeHeads.setMs (m.writeId v remote)
  else if r = 0x10 then
    s.setMs { m with hops := byteOf (fld v 32 8), retries := BitVec.ofNat 4 (fld v 24 4), rto := BitVec.ofNat 16 (fld v 0 16) }
  else if r = 0x18 then s.setMs { m with sticky := m.sticky &&& ~~~(BitVec.ofNat 5 v.toNat) }
  else if r = 0x20 then s.msCtrl v
  else if 0x100 ≤ r ∧ r < 0x500 ∧ r % 0x40 = 0x10 then s.portEnable (portOf ((r - 0x100) / 0x40)) (bitOf v 0)
  else if 0x8000 ≤ r ∧ r < 0x10000 ∧ r % 8 = 0 then
    s.judgeHeads.setMs { m with routes := tset 0 m.routes ((r - 0x8000) / 8) (v &&& 0x1F1F#64) }
  else s

def State.portStatus (s : State) (p : PortNo) : Nat :=
  let x := s.port p
  at' x.nbrId.toNat 32 + at' x.credits 24 + at' (b2n x.nbrValid) 17 + at' (b2n x.nbrSeen) 16 + at' x.nbrPort.toNat 12 + portCode x.st

def State.portReg (s : State) (p : PortNo) (r : Nat) : Nat :=
  let x := s.port p
  match r with
  | 0x00 => s.portStatus p
  | 0x08 => x.nbrSerial.toNat
  | 0x10 => b2n x.en
  | 0x18 => x.tx.toNat
  | 0x20 => x.rx.toNat
  | 0x28 => x.replays.toNat
  | _ => 0

def Window.reg (w : Window) (r : Nat) : Nat :=
  match r with
  | 0x00 => at' (b2n w.isOpen) 63 + at' w.length.toNat 26 + w.base.toNat
  | 0x08 => at' w.srcMask.toNat 16 + w.srcId.toNat
  | 0x10 => w.lanes.toNat
  | 0x18 => w.bytes.toNat
  | 0x20 => w.wait.toNat
  | _ => 0

/-- A read of the MS_ register at window offset `off`. -/
def State.msRead (s : State) (off : Nat) : Nat :=
  let m := s.ms
  let r := off - 0x40000
  if r % 8 ≠ 0 then 0
  else if r = 0 then m.idWord
  else if r = 8 then Config.serial.toNat
  else if r = 0x10 then at' m.hops.toNat 32 + at' m.retries.toNat 24 + m.rto.toNat
  else if r = 0x18 then m.sticky.toNat
  else if r = 0x28 then m.drops.toNat
  else if 0x100 ≤ r ∧ r < 0x500 then s.portReg (portOf ((r - 0x100) / 0x40)) (r % 0x40)
  else if 0x1000 ≤ r ∧ r < 0x5000 then
    let w := (r - 0x1000) / 0x40
    (vat Window.closed (s.fur (furOf (w / 16))).windows (w % 16)).reg (r % 0x40)
  else if 0x8000 ≤ r ∧ r < 0x10000 then (tget 0 m.routes ((r - 0x8000) / 8)).toNat
  else 0

/-! ### Directed routes (R301, R302) -/

def mgmtPort (h2 : W64) (k : Nat) : Nat := fld h2 (4 * k) 4
/-- PATH with entry `k` replaced. -/
def withPathPort (h2 : W64) (k p : Nat) : W64 := w64 (h2.toNat - at' (mgmtPort h2 k) (4 * k) + at' (p % 16) (4 * k))

/-- A MGMT frame with its 8 bytes of value; the STATUS of a request names the command, 0x0F40 or 0x0F41 (log 24). -/
def mgmtFrame (h2 : W64) (off resp hop status : Nat) (payload : List Byte) : Frame :=
  ⟨mkH0 fMgmt 0 0 0 payload.length, 0, h2, w64 (at' status 48 + at' hop 36 + at' resp 32 + off), payload⟩

/-- A MGMT frame waits to be sent on a port. -/
def State.queueMgmt (s : State) (p : PortNo) (fr : Frame) : State :=
  let x := s.port p
  s.setPort p { x with mgmtOut := x.mgmtOut ++ [fr] }

def drOffsetOk (off : Nat) : Bool := decide (0x40000 ≤ off) && decide (off ≤ 0xFFFFF)

/-- MESH_DR_READ or MESH_DR_WRITE begins: refused, done at the device itself, or sent out of its first port. -/
def State.drBegin (s : State) (write : Bool) : State :=
  let h2 := w64 (s.rv.w 1)
  let off := s.rv.w 2
  let v := w64 (s.rv.w 3)
  if !drOffsetOk off then s.mbxDone stBadParam 0 0
  else if fld h2 60 4 = 0 then
    (if write then (s.msWrite off v true).mbxDone stOk 0 0 else s.mbxDone stOk (s.msRead off) 0)
  else
    let p := portOf (mgmtPort h2 0)
    if (s.port p).st ≠ .up then s.mbxDone stTimeout 0 0
    else
      let s1 := s.queueMgmt p (mgmtFrame h2 off 0 1 (if write then 0x0F41 else 0x0F40) (toLe 8 (if write then v.toNat else 0)))
      s1.setMs { s1.ms with mgmt := some (if write then 0x0F41 else 0x0F40, s.time) }

/-- MESH_DR_READ (R301). -/
def execMeshDrRead (s : State) : Res :=
  if s.mbxHas 0x0F40 && s.ms.mgmt.isNone then .next (s.drBegin false) else .next s
/-- MESH_DR_WRITE (R301). -/
def execMeshDrWrite (s : State) : Res :=
  if s.mbxHas 0x0F41 && s.ms.mgmt.isNone then .next (s.drBegin true) else .next s

/-- MGMT_TIMEOUT (R301). -/
def execMgmtTimeout (s : State) : Res :=
  match s.ms.mgmt with
  | some (_, t) =>
    if s.meshRuns && decide (1000000 ≤ s.since t) then .next ((s.setMs { s.ms with mgmt := none }).mbxDone stTimeout 0 0) else .next s
  | none => .next s

/-- The answer reaches its sender. -/
def State.drAnswer (s : State) (fr : Frame) : State :=
  match s.ms.mgmt with
  | none => s
  | some (op, _) =>
    let st := fld fr.h3 48 16
    (s.setMs { s.ms with mgmt := none }).mbxDone st (if st = stOk ∧ op = 0x0F40 then ofLe fr.payload else 0) 0

/-- A request at its last hop: the register is read or written, and the answer with it (R301, R302). -/
def State.drServe (s : State) (p : PortNo) (fr : Frame) : State × Nat × Nat :=
  let off := fld fr.h3 0 24
  if !drOffsetOk off then (s, stBadParam, 0)
  else if fld fr.h3 48 16 ≠ 0x0F41 then (s, stOk, s.msRead off)
  else if s.ms.lock then (s.offer 0x0807 srcReeve off p.val 0, stPermission, 0)
  else (s.msWrite off (w64 (ofLe fr.payload)) true, stOk, 0)

/-- A MGMT frame is forwarded one hop or served, or returns one hop (R301). -/
def State.mgmtStep (s : State) (p : PortNo) (fr : Frame) : State :=
  let hop := fld fr.h3 36 4
  let off := fld fr.h3 0 24
  let count := fld fr.h2 60 4
  if bitOf fr.h3 32 then
    if hop = 0 then s.drAnswer fr
    else s.queueMgmt (portOf (mgmtPort fr.h2 (hop - 1))) (mgmtFrame fr.h2 off 1 (hop - 1) (fld fr.h3 48 16) fr.payload)
  else if hop = 0 ∨ count < hop then s
  else
    let h2 := withPathPort fr.h2 (hop - 1) p.val
    if hop = count then
      let o := s.drServe p fr
      o.1.queueMgmt p (mgmtFrame h2 off 1 (hop - 1) o.2.1 (toLe 8 o.2.2))
    else
      let q := portOf (mgmtPort fr.h2 hop)
      if (s.port q).st = .up then s.queueMgmt q (mgmtFrame h2 off 0 (hop + 1) (fld fr.h3 48 16) fr.payload)
      else s.queueMgmt p (mgmtFrame h2 off 1 (hop - 1) stTimeout (toLe 8 0))

/-- MGMT_FRAME (R301): the oldest MGMT frame that port `p` has received; the reeve serves it. -/
def execMgmtFrame (p : PortNo) (s : State) : Res :=
  let x := s.port p
  match x.ingress.find? (fun fr => fr.type == fMgmt) with
  | none => .next s
  | some fr =>
    if s.reeveRuns then .next ((s.setPort p { x with ingress := eraseFirst (fun g => g == fr) x.ingress }).mgmtStep p fr)
    else .next s

end Sys2Proof.Machine
end

