-- ==== Sys2Proof/Machine/Lanes.lean ====
section
/-! DEFINITION. The mesh's routing and transport: forwarding (R303, R304), lanes at the receiver (R307, R309, R311 to R317) and at the
sender (R306, R308), and the mesh commands (R310, R313, R314, R318). -/

namespace Sys2Proof

open Sys2Proof.Machine

/-- Pair of source and lane; for an answer, of destination and lane. -/
def Frame.key (x : Frame) : Nat := laneKey x.src x.lane

/-- The frame as its lane sends it: SYN, RETX and LSEQ. -/
def Frame.withLane (x : Frame) (syn retx : Bool) (lseq : W16) : Frame :=
  { x with h1 := mkH1 x.poison x.lane (b2n syn) (b2n retx) lseq.toNat 0 }

end Sys2Proof

namespace Sys2Proof.Machine

/-! ### Routes (R303) -/

/-- The way of a Lane frame: a port, 16 for the loopback, or none. -/
def State.routeOf (s : State) (dest : Nat) : Option Nat :=
  let r := tget 0 s.ms.routes dest
  let up := fun (p : Nat) => (s.port (portOf p)).st == .up
  if dest = s.ms.id.toNat then some 16
  else if 4096 ≤ dest then none
  else if bitOf r 4 && up (fld r 0 4) then some (fld r 0 4)
  else if bitOf r 12 && up (fld r 8 4) then some (fld r 8 4)
  else none

/-! ### The sender's frames (R306, R308, R309) -/

/-- The position of the first frame of a list that waits to be sent. -/
def dueAt (l : List LaneFrame) (i : Nat) : Option (Nat × LaneFrame) :=
  match l with
  | [] => none
  | f :: r => if f.due then some (i, f) else dueAt r (i + 1)

/-- A resend that is due, with SYN on the oldest frame of a lane that is not SYNCED. -/
def SendLane.resend (x : SendLane) (now : W64) : Option (Frame × SendLane) :=
  (dueAt x.unacked 0).map (fun p =>
    let fr := p.2.frame.withLane (!x.synced && p.1 == 0) true p.2.frame.lseq
    (fr, { x with unacked := lset x.unacked p.1 { p.2 with due := false, sentAt := now, frame := fr }, noPort := none }))

/-- The next frame of the lane's oldest command, numbered. -/
def SendLane.fresh (x : SendLane) (now : W64) : Option (Frame × SendLane) :=
  match x.jobs with
  | [] => none
  | j :: js =>
    match j.ready with
    | [] => none
    | (fr, n) :: rest =>
      let last := rest.isEmpty && j.whole
      let out := fr.withLane (!x.synced && x.unacked.isEmpty) false x.next
      some (out, { x with
        next := x.next + 1
        noPort := none
        unacked := x.unacked ++ [⟨out, j.ref, n, last, false, 0, now, none⟩]
        jobs := if last then js else { j with ready := rest } :: js })

/-- What a lane sends next, and the lane after it: a resend, else a new frame while fewer than 64 are unacknowledged. -/
def SendLane.send (x : SendLane) (now : W64) : Option (Frame × SendLane) :=
  if x.failed.isSome then none
  else match x.resend now with
  | some r => some r
  | none => if x.unacked.length < 64 then x.fresh now else none

/-- The next frame of the device itself for way `q`, answers before data, round-robin over the lanes from `pos`; the mesh and the position
after it. An L3 stops the lanes, and not the answers (R328). -/
def State.ownFrame (s : State) (q pos : Nat) : Option (Frame × Mesh × Nat) :=
  let m := s.ms
  if !m.valid then none
  else match m.answers.find? (fun (a : Frame × Option W64) => s.routeOf a.1.dest == some q) with
  | some a => some (a.1.withHops m.hops.toNat, { m with answers := eraseFirst (fun b => b == a) m.answers }, pos)
  | none =>
    if s.stopped then none
    else
      let keys := m.send.map (fun (p : Nat × SendLane) => p.1)
      let order := keys.filter (fun k => decide (pos ≤ k)) ++ keys.filter (fun k => decide (k < pos))
      match order.find? (fun k => ((m.sendLane k).send s.time).isSome && s.routeOf (k / 64) == some q) with
      | none => none
      | some k => ((m.sendLane k).send s.time).map (fun p => (p.1.withHops m.hops.toNat, m.setSend k p.2, k + 1))

/-! ### PORT_TRANSMIT (R297) -/

/-- A replayed frame: the next of those asked for, unchanged. -/
def State.sendReplay (s : State) (p : PortNo) : State :=
  let x := s.port p
  let i := x.replay.length - x.resend
  match x.replay[i]? with
  | none => s
  | some r => s.setPort p { x with
      wire := some r.frame, tx := x.tx + BitVec.ofNat 64 r.frame.bytes, resend := x.resend - 1, credits := x.credits - 1
      replays := x.replays + 1, replay := lset x.replay i { r with times := r.times + 1 } }

/-- The oldest transit frame whose way is `q`; none is forwarded while MS_ID.VALID is 0 (R300). -/
def State.transitFor (s : State) (q : Nat) : Option Transit :=
  if s.ms.valid then s.ms.transit.find? (fun t => s.routeOf t.frame.dest == some q) else none

def State.transmit (s : State) (p : PortNo) : State :=
  let x := s.port p
  if x.askDue then (s.setPort p { x with askDue := false }).sendPlain p (s.linkFor p true)
  else if x.credits = 0 then s
  else if x.resend ≠ 0 then s.sendReplay p
  else if 128 ≤ x.replay.length then s
  else match x.mgmtOut with
  | fr :: rest => (s.setPort p { x with mgmtOut := rest }).sendSeq p fr
  | [] =>
    match s.transitFor p.val with
    | some t => (s.setMs { s.ms with transit := eraseFirst (fun u => u == t) s.ms.transit }).sendSeq p t.frame
    | none =>
      match s.ownFrame p.val x.rr with
      | some o => ((s.setMs o.2.1).setPort p { x with rr := o.2.2 }).sendSeq p o.1
      | none => s

/-- PORT_TRANSMIT (R297). -/
def execPortTransmit (p : PortNo) (s : State) : Res :=
  if s.meshRuns && (s.port p).st == .up then .next (s.transmit p) else .next s

/-! ### FRAME_FORWARD and FRAME_DROP (R303, R304) -/

/-- A Lane frame leaves the ingress buffer of port `p`: dropped, delivered to the device's own transport, or in transit. -/
def State.forward (s : State) (p : PortNo) (fr : Frame) : State :=
  let m := s.ms
  if !m.valid then s.dropFrame p.val 6 fr
  else if fr.dest = m.id.toNat then s.setMs { m with arrivals := m.arrivals ++ [(fr, p.val)] }
  else if fr.hops = 0 then s.dropFrame p.val 1 fr
  else s.setMs { m with transit := m.transit ++ [⟨fr.withHops (fr.hops - 1), p.val, none, none⟩] }

/-- FRAME_FORWARD (R303): the oldest Lane frame of a port, or, for 16, the next that the loopback delivers: a transit frame whose DEST_ID has
become the device's own, else the next frame that the device sends to itself. -/
def execFrameForward (src : Fin 17) (s : State) : Res :=
  if !s.meshRuns then .next s
  else if src.val = 16 then
    match s.transitFor 16, s.ownFrame 16 s.ms.rr with
    | some t, _ => .next (s.setMs { s.ms with
        transit := eraseFirst (fun u => u == t) s.ms.transit, arrivals := s.ms.arrivals ++ [(t.frame, t.port)] })
    | none, some o => .next (s.setMs { o.2.1 with rr := o.2.2, arrivals := o.2.1.arrivals ++ [(o.1, 16)] })
    | none, none => .next s
  else
    let p := portOf src.val
    let x := s.port p
    match x.ingress.find? Frame.isLane with
    | none => .next s
    | some fr => .next ((s.setPort p { x with ingress := eraseFirst (fun g => g == fr) x.ingress }).forward p fr)

/-- Since when a wait has gone on, that began at `t` if it was on before. -/
def State.waitFrom (s : State) (t : Option W64) (waits : Bool) : Option W64 := if waits then some (t.getD s.time) else none

/-- Whether the port of a frame for `dest` holds no credit. -/
def State.noCredit (s : State) (dest : Nat) : Bool :=
  match s.routeOf dest with | some q => decide (q < 16) && (s.port (portOf q)).credits == 0 | none => false

/-- The waiting frames note since when they have had no usable port, or no credit: at every reference cycle (R303, R304, log 82). -/
def State.noteWaits (s : State) : State :=
  let m := s.ms
  let no := fun (dest : Nat) => (s.routeOf dest).isNone
  let m1 : Mesh := { m with
    transit := m.transit.map (fun t => { t with
      noPort := s.waitFrom t.noPort (no t.frame.dest), noCredit := s.waitFrom t.noCredit (s.noCredit t.frame.dest) })
    answers := m.answers.map (fun (a : Frame × Option W64) => (a.1, s.waitFrom a.2 (no a.1.dest))) }
  s.setMs (m.send.foldl (fun m (p : Nat × SendLane) =>
    m.setSend p.1 { p.2 with noPort := s.waitFrom p.2.noPort ((p.2.send s.time).isSome && no (p.1 / 64)) }) m1)

/-- Whether a wait has lasted 1 ms. -/
def State.msPassed (s : State) (t : Option W64) : Bool := match t with | some t => decide (1000000 ≤ s.since t) | none => false

/-- Why a frame in transit is dropped now: MS_ID.VALID is 0 (R300, log 82), no usable port for 1 ms, or no credit on its port for 1 ms. -/
def State.dropReason (s : State) (t : Transit) : Option Nat :=
  if !s.ms.valid then some 6
  else match s.routeOf t.frame.dest with
  | none => if s.msPassed t.noPort then some 2 else none
  | some _ => if s.noCredit t.frame.dest && s.msPassed t.noCredit then some 3 else none

/-- A waiting frame of the device itself that has had no usable port for 1 ms, and the mesh without it: an answer is gone, a lane's frame
counts as sent (R308). -/
def State.ownDrop (s : State) : Option (Frame × Mesh) :=
  let m := s.ms
  let old := fun (t : Option W64) (dest : Nat) => (s.routeOf dest).isNone && s.msPassed t
  match m.answers.find? (fun (a : Frame × Option W64) => old a.2 a.1.dest) with
  | some a => some (a.1, { m with answers := eraseFirst (fun b => b == a) m.answers })
  | none =>
    match m.send.find? (fun (p : Nat × SendLane) => (p.2.send s.time).isSome && old p.2.noPort (p.1 / 64)) with
    | none => none
    | some p => (p.2.send s.time).map (fun o => (o.1, m.setSend p.1 o.2))

/-- FRAME_DROP (R304): a frame that arrived on port `src`, or for 16 one of the device's own. -/
def execFrameDrop (src : Fin 17) (s : State) : Res :=
  if !s.meshRuns then .next s
  else if src.val = 16 then
    match s.ownDrop with
    | some o => .next ((s.setMs o.2).dropFrame 16 2 o.1)
    | none => .next s
  else
    match s.ms.transit.find? (fun t => t.port == src.val && (s.dropReason t).isSome) with
    | none => .next s
    | some t => .next ((s.setMs { s.ms with transit := eraseFirst (fun u => u == t) s.ms.transit }).dropFrame src.val
        ((s.dropReason t).getD 2) t.frame)

/-! ### Answers -/

/-- An ACK or NAK to the sender of a lane (R295). -/
def State.answer (s : State) (type src lane lseq control : Nat) : State :=
  s.setMs { s.ms with answers := s.ms.answers ++
    [(⟨mkH0 type 0 s.ms.id.toNat src 0, mkH1 0 lane 0 0 lseq 0, 0, w64 control, []⟩, none)] }

def State.nak (s : State) (fr : Frame) (reason status : Nat) : State :=
  s.answer fNak fr.src fr.lane fr.lseq.toNat (at' reason 16 + status)

/-- A NAK whose STATUS the spec does not give: a free value (log 2). -/
def State.nakFree (s : State) (fr : Frame) (reason : Nat) : State :=
  (s.nak fr reason ((Config.freeWord s.free).toNat % 2 ^ 16)).bumpFree

/-! ### Refusing a frame (R317) -/

def frameFur (fr : Frame) : Nat := if fr.type = fFsig then 0 else fld fr.h2 0 4
def frameWin (fr : Frame) : Nat := if fr.type = fWrite then fld fr.h2 4 4 else 0
def frameOff (fr : Frame) : Nat := if fr.type = fWrite then fld fr.h2 8 26 else 0

/-- Frozen pairs of a source. -/
def Mesh.frozenPairs (m : Mesh) (src : Nat) : Nat :=
  (m.recv.filter (fun (p : Nat × RecvLane) => p.1 / 64 == src && p.2.frozen)).length

/-- Whether a port-S agent is a mesh window. -/
def agentIsWindow (a : Agent) : Bool := match a with | .window _ => true | _ => false

/-- The row of a frame at its turn that port S has in transfer is given up. -/
def State.dropRow (s : State) (c : Frame) : State :=
  s.modFur (furOf (frameFur c)) (fun z => { z with xfers := z.xfers.filter (fun t => !(agentIsWindow t.agent && t.idx == c.key)) })

/-- Every frame that a lane has, at its turn or held, is refused with PERMISSION; rows of it already written stay (log 51). -/
def State.dropLane (s : State) (k : Nat) : State :=
  let x := s.ms.recvLane k
  let s1 := x.cur.toList.foldl State.dropRow s
  (x.cur.toList ++ x.held).foldl (fun s g => s.nak g 1 stPermission)
    (s1.setMs (s1.ms.setRecv k { x with cur := none, rows := 0, held := [], slots := none }))

/-- With 16 pairs of the source frozen, the source freezes, event 0x0804, and every frame of its that waits is refused with every later one. -/
def State.widenSource (s : State) (fr : Frame) : State :=
  let n := s.ms.frozenPairs fr.src
  if 16 ≤ n ∧ tget false s.ms.frozenSrcs fr.src = false then
    let s1 := (s.setMs { s.ms with frozenSrcs := tset false s.ms.frozenSrcs fr.src true }).faultRecord 0x0804 (srcOf 7 fr.lane) fr.src n 0
      (levByte 1 false false)
    (s1.ms.recv.filter (fun p => p.1 / 64 == fr.src)).foldl (fun s p => s.dropLane p.1) s1
  else s

/-- A frame that fails its checks: NAK of REASON 1, the pair frozen, event 0x0802; the frames that it held are refused with it. -/
def State.refuseFrame (s : State) (fr : Frame) (status : Nat) : State :=
  let x := s.ms.recvLane fr.key
  let s1 := (s.nak fr 1 status).setMs { (s.nak fr 1 status).ms with sticky := setBit s.ms.sticky 3 true }
  let s2 := s1.setMs (s1.ms.setRecv fr.key { x with frozen := true, cur := none, rows := 0, held := [], slots := none })
  let s3 := s2.faultRecord 0x0802 (srcOf 7 fr.lane) (at' fr.src 16 + at' (frameFur fr) 12 + at' (frameWin fr) 8 + fr.lane)
    (at' status 16 + fr.type) (frameOff fr) (levByte 1 false false)
  x.held.foldl (fun s g => s.nak g 1 stPermission) (s3.widenSource fr)

/-! ### A frame's turn (R307, R311) -/

def Window.admits (w : Window) (fr : Frame) : Bool :=
  w.isOpen && (BitVec.ofNat 16 fr.src ^^^ w.srcId) &&& w.srcMask == 0 && bitOf w.lanes fr.lane

def State.window (s : State) (f : Fur) (j : Nat) : Window := vat Window.closed (s.fur f).windows j
def State.setWindow (s : State) (f : Fur) (j : Nat) (w : Window) : State :=
  s.modFur f (fun x => { x with windows := vput x.windows j w })

/-- The checks of R311. -/
def State.writeCheck (s : State) (fr : Frame) : Option Nat :=
  let f := frameFur fr
  let w := s.window (furOf f) (frameWin fr)
  if s.build.furrows ≤ f || !(s.fur (furOf f)).owned || !w.admits fr then some stPermission
  else if frameOff fr % 512 ≠ 0 ∨ w.length.toNat < frameOff fr + fr.len then some stBounds
  else none

/-- A data frame comes to its turn: a WRITE is checked before any byte moves. -/
def State.takeTurn (s : State) (fr : Frame) : State :=
  let x := s.ms.recvLane fr.key
  match (if fr.type = fWrite then s.writeCheck fr else none) with
  | some st => s.refuseFrame fr st
  | none => s.setMs (s.ms.setRecv fr.key { x with cur := some fr, rows := 0, slots := none })

/-- The frame at its turn commits: EXPECT advances, an ACK follows, and a held frame may come to its turn (R307). -/
def State.commitFrame (s : State) (fr : Frame) (status : Nat) : State :=
  let x := s.ms.recvLane fr.key
  let n := x.expect + 1
  let nxt := x.held.find? (fun g => g.lseq == n)
  let s1 := s.setMs (s.ms.setRecv fr.key { x with
    expect := n, cur := none, rows := 0, slots := none, held := x.held.filter (fun g => g.lseq != n) })
  let s2 := s1.answer fAck fr.src fr.lane fr.lseq.toNat status
  match nxt with
  | some g => s2.takeTurn g
  | none => s2

/-! ### LANE_FRAME_DELIVER (R307, R309) -/

def Mesh.heldCount (m : Mesh) : Nat := m.recv.foldl (fun n (p : Nat × RecvLane) => n + p.2.held.length) 0

/-- A SYN frame: EXPECT and VALID; held frames are discarded, event 0x8801, and with another frame at its turn the row of it that port S is
writing. A copy of the frame that is at its turn leaves it there. -/
def State.adoptSyn (s : State) (fr : Frame) : State :=
  let x := s.ms.recvLane fr.key
  let same := match x.cur with | some c => c.lseq == fr.lseq | none => false
  let s1 := match x.cur with
    | some c => if same then s else s.dropRow c
    | none => s
  (s1.setMs (s.ms.setRecv fr.key { x with
    expect := fr.lseq, valid := true, held := [], cur := if same then x.cur else none, rows := if same then x.rows else 0
    slots := if same then x.slots else none })).offer
      0x8801 (srcOf 7 fr.lane) (at' fr.src 16 + fr.lane) fr.lseq.toNat 0

/-- The table of R307. The STATUS of the ACK of a duplicate is that of a frame long committed, OK or OK_POISONED: a free value. -/
def State.receiveData (s : State) (fr : Frame) (p : Nat) : State :=
  let x := s.ms.recvLane fr.key
  let ahead := (fr.lseq - x.expect).toNat
  if !x.valid then s.nakFree fr 3
  else if ahead = 0 then (if x.cur.isSome then s else s.takeTurn fr)
  else if ahead < 64 then
    (if x.held.any (fun g => g.lseq == fr.lseq) then s
    else if 64 ≤ s.ms.heldCount then s.nakFree fr 2
    else s.setMs (s.ms.setRecv fr.key { x with held := x.held ++ [fr] }))
  else if reached x.expect fr.lseq then
    (s.answer fAck fr.src fr.lane (x.expect - 1).toNat ((Config.freeWord s.free).toNat % 2)).bumpFree
  else s.dropFrame p 5 fr

def State.deliver (s : State) (fr : Frame) (p : Nat) : State :=
  if !s.ms.valid then s.dropFrame p 6 fr
  else if s.stopped then s.nakFree fr 2
  else if tget false s.ms.frozenSrcs fr.src || (s.ms.recvLane fr.key).frozen then s.nak fr 1 stPermission
  else if fr.syn then (s.adoptSyn fr).receiveData fr p
  else s.receiveData fr p

/-- LANE_FRAME_DELIVER (R307): the oldest data frame that has reached the transport. -/
def execLaneFrameDeliver (s : State) : Res :=
  match s.ms.arrivals.find? (fun (a : Frame × Nat) => a.1.isData) with
  | none => .next s
  | some a =>
    if s.meshRuns then
      .next ((s.setMs { s.ms with arrivals := eraseFirst (fun b => b == a) s.ms.arrivals }).deliver a.1 a.2)
    else .next s

/-! ### Effects at the receiver (R312, R315, R316) -/

/-- Scratchpad row of payload row `i` of a WRITE frame. -/
def Window.rowOf (w : Window) (fr : Frame) (i : Nat) : Nat := (w.base.toNat + frameOff fr + 512 * i) / 512

/-- The transfer of payload row `i`. -/
def rowXfer (fr : Frame) (j row i : Nat) : Xfer :=
  ⟨.window (Fin.ofNat 16 j), row * 512, 512, true, 3, none, (fr.payload.drop (512 * i)).take 512, bitOf (w64 fr.poison) i, fr.key, i, false⟩

/-- A row of a WRITE has been written: MS_Ww_BYTES and the frame's progress. -/
def State.rowDone (s : State) (f : Fur) (j : Nat) (key : Nat) : State :=
  let w := s.window f j
  let x := s.ms.recvLane key
  (s.setWindow f j { w with bytes := w.bytes + 512 }).setMs (s.ms.setRecv key { x with rows := x.rows + 1 })

/-- MS_Ww_WAIT `n` ticks higher (R312). -/
def State.countWait (s : State) (f : Fur) (j n : Nat) : State :=
  let w := s.window f j
  s.setWindow f j { w with wait := w.wait + BitVec.ofNat 64 n }

/-- The frame at its turn on a lane, of a type. -/
def State.curOf (s : State) (src : W16) (lane : BitVec 6) (type : Nat) : Option Frame :=
  match (s.ms.recvLane (laneKey src.toNat lane.toNat)).cur with
  | some fr => if fr.type = type && s.meshRuns && !s.stopped then some fr else none
  | none => none

def fsigHandle (fr : Frame) : Nat := ofLe (fr.payload.take 4)
def fsigOff (fr : Frame) : Nat := ofLe ((fr.payload.drop 8).take 8)
def fsigValue (fr : Frame) : Nat := ofLe ((fr.payload.drop 16).take 8)

/-- The operation of R276 that an FSIG asks for. -/
def State.fsigOp (s : State) (fr : Frame) (out : ReadOutcome) : State × (Nat × Nat × Nat) :=
  s.fenceOp (fsigHandle fr) (fsigOff fr) s.erasures (fsigValue fr) (srcOf 7 fr.lane) (at' 1 30 + at' fr.lane 24) out

/-- An FSIG of an HBM fence asks for its two slots, as a request of the mesh's engine (R277, log 92). -/
def State.askSlots (s : State) (fr : Frame) : State :=
  let a := (s.locOf (fsigHandle fr) (fsigOff fr)).addr
  let x := s.ms.recvLane fr.key
  let ps : List Piece := [⟨a, a + 8, 0, false⟩, ⟨a, a + 8, 0, false⟩]
  { s with ms := s.ms.setRecv fr.key { x with slots := some (s.requests, ps) }, requests := s.requests + 1 }

/-- An FSIG at its turn: a handle with its reserved bit set is refused with BAD_PARAM (R261, log 99); the check of R264 with X_F, then the signal of
R276; of an HBM fence once both its slots have been granted (R277). -/
def State.applyFsig (s : State) (fr : Frame) (out : ReadOutcome) : State :=
  let h := fsigHandle fr
  let off := fsigOff fr
  let host := (s.locOf h off).host
  if bitOf (w32 h) 31 then s.refuseFrame fr stBadParam
  else match s.segCheck 0 h off 8 3 with
  | some st => (s.offer 0x0601 (srcOf 7 fr.lane) h (at' 2 16 + st) 0).refuseFrame fr st
  | none =>
    if host && !s.build.atomicOp then s.refuseFrame fr stBadParam
    else
      let o := s.fsigOp fr out
      let done := o.1.commitFrame fr o.2.1
      match (s.ms.recvLane fr.key).slots with
      | none => if host then done else s.askSlots fr
      | some (_, ps) => if host || ps.isEmpty then done else s

/-- FSIG_FRAME (R277, R315). -/
def execFsigFrame (src : W16) (lane : BitVec 6) (out : ReadOutcome) (s : State) : Res :=
  match s.curOf src lane fFsig with
  | some fr => .next (s.applyFsig fr out)
  | none => .next s

/-- A CSIG at its turn: some open window of the furrow admits its source and lane. -/
def State.applyCsig (s : State) (fr : Frame) : State :=
  let f := frameFur fr
  let x := s.fur (furOf f)
  if s.build.furrows ≤ f || !x.windows.toList.any (fun w => w.admits fr) then s.refuseFrame fr stPermission
  else (s.setFur (furOf f) (x.changeCounter (fld fr.h2 8 8) (fld fr.h2 16 2) (fld fr.h2 32 16))).commitFrame fr stOk

/-- CSIG_FRAME (R316). -/
def execCsigFrame (src : W16) (lane : BitVec 6) (s : State) : Res :=
  match s.curOf src lane fCsig with
  | some fr => .next (s.applyCsig fr)
  | none => .next s

/-! ### Answers at the sender (R307, R308, R309) -/

/-- Bytes that a command has had acknowledged. -/
def State.ackedBytes (s : State) (r : CmdRef) : Nat := match s.cmd? r with | some c => c.r0 | none => 0

/-- A command of a lane completes with a status; a remote-copy engine that it holds is free (R308, R318). -/
def State.endRemote (s : State) (r : CmdRef) (status : Nat) : State :=
  let s1 : State := { s with remotes := s.remotes.filter (fun j => j.ref != r) }
  s1.finish r status (s.ackedBytes r) 0

/-- One frame is acknowledged; the last of its command completes it, OK_POISONED where a row was or where the ACK says so. -/
def State.ackOne (s : State) (f : LaneFrame) (poisoned : Bool) : State :=
  let s1 := s.modCmd f.ref (fun c => { c with r0 := c.r0 + f.bytes, bufMark := c.bufMark || poisoned })
  if !f.last then s1
  else s1.endRemote f.ref (match s1.cmd? f.ref with | some c => if c.bufMark then stPoisoned else stOk | none => stOk)

def State.ackLane (s : State) (fr : Frame) : State :=
  let k := fr.key
  let x := s.ms.sendLane k
  let done := x.unacked.takeWhile (fun f => reached fr.lseq f.frame.lseq)
  if done = [] then s
  else
    let s1 := s.setMs (s.ms.setSend k { x with unacked := x.unacked.drop done.length, synced := true, moved := s.time })
    done.foldl (fun s f => s.ackOne f (f.frame.lseq == fr.lseq && fld fr.h3 0 16 == stPoisoned)) s1

/-- Takes the oldest arrival of a type. -/
def State.takeArrival (s : State) (type : Nat) : Option (Frame × State) :=
  (s.ms.arrivals.find? (fun (a : Frame × Nat) => a.1.type == type)).map (fun a =>
    (a.1, s.setMs { s.ms with arrivals := eraseFirst (fun b => b == a) s.ms.arrivals }))

/-- Whether the device refuses every Lane frame of a source: an ACK or NAK of it has no effect, and no answer (R317, log 80). -/
def State.srcFrozen (s : State) (fr : Frame) : Bool := tget false s.ms.frozenSrcs fr.src

/-- ACK_FRAME (R307). -/
def execAckFrame (s : State) : Res :=
  if !s.meshRuns then .next s
  else match s.takeArrival fAck with
  | some p => .next (if s.srcFrozen p.1 then p.2 else p.2.ackLane p.1)
  | none => .next s

/-- A sender lane becomes FAILED: its commands complete, MS_STICKY.LANEFAIL, event 0x0803 (R308). `ends` gives each command its status. -/
def State.failLane (s : State) (k status : Nat) (ends : List (CmdRef × Nat)) : State :=
  let x := s.ms.sendLane k
  let m := s.ms.setSend k { x with failed := some status, jobs := [], unacked := [] }
  let s1 := (s.setMs { m with sticky := setBit m.sticky 2 true }).faultRecord 0x0803 (srcOf 7 (k % 64))
    (at' (k / 64) 16 + k % 64) status x.unacked.length (levByte 1 false false)
  ends.foldl (fun s e => s.endRemote e.1 e.2) s1

/-- Commands of a lane refused at the frame numbered `n`: those with a frame up to it and those not begun end with the status, those with
later frames alone end with PERMISSION. -/
def SendLane.refused (x : SendLane) (n : W16) (status : Nat) : List (CmdRef × Nat) :=
  let upTo := x.unacked.filter (fun f => reached n f.frame.lseq)
  let later := x.unacked.filter (fun f => !reached n f.frame.lseq)
  upTo.map (fun f => (f.ref, status)) ++ later.map (fun f => (f.ref, stPermission)) ++ x.jobs.map (fun j => (j.ref, status))

def State.nakLane (s : State) (fr : Frame) : State :=
  let k := fr.key
  let x := s.ms.sendLane k
  let hit := fun (f : LaneFrame) => f.frame.lseq == fr.lseq
  if !x.unacked.any hit then s
  else match fld fr.h3 16 8 with
  | 1 => s.failLane k (fld fr.h3 0 16) (x.refused fr.lseq (fld fr.h3 0 16))
  | 2 => s.setMs (s.ms.setSend k { x with
      moved := s.time, unacked := mapFirst hit (fun f => { f with busyAt := some s.time }) x.unacked })
  | _ => s.setMs (s.ms.setSend k { x with
      moved := s.time, synced := false
      unacked := x.unacked.map (fun f => { f with due := true, sentAt := s.time, busyAt := none }) })

/-- NAK_FRAME (R308, R309). -/
def execNakFrame (s : State) : Res :=
  if !s.meshRuns then .next s
  else match s.takeArrival fNak with
  | some p => .next (if s.srcFrozen p.1 then p.2 else p.2.nakLane p.1)
  | none => .next s

/-- A frame whose 2 µs after a NAK of REASON 2 have passed. -/
def State.busyOver (s : State) (f : LaneFrame) : Bool :=
  match f.busyAt with | some t => decide (2000 ≤ s.since t) | none => false

/-- NAK_BUSY_RESEND (R308). -/
def execNakBusyResend (dest : W16) (lane : BitVec 6) (s : State) : Res :=
  let k := laneKey dest.toNat lane.toNat
  let x := s.ms.sendLane k
  if x.unacked.any s.busyOver && s.meshRuns then
    .next (s.setMs (s.ms.setSend k { x with
      unacked := mapFirst s.busyOver (fun f => { f with due := true, sentAt := s.time, busyAt := none }) x.unacked }))
  else .next s

/-- The oldest frame of a lane that has not moved for RTO_US: sent again, or, after its last retry, the lane fails (R308). -/
def State.retransmit (s : State) (k : Nat) (x : SendLane) (f : LaneFrame) : State :=
  if f.retries < s.ms.retries.toNat then
    s.setMs (s.ms.setSend k { x with
      unacked := lset x.unacked 0 { f with due := true, sentAt := s.time, retries := f.retries + 1 } })
  else s.failLane k stTimeout (x.unacked.map (fun g => (g.ref, stTimeout)) ++ x.jobs.map (fun j => (j.ref, stTimeout)))

/-- LANE_RETRANSMIT (R308). -/
def execLaneRetransmit (dest : W16) (lane : BitVec 6) (s : State) : Res :=
  let k := laneKey dest.toNat lane.toNat
  let x := s.ms.sendLane k
  let rto := 1000 * s.ms.rto.toNat
  match x.unacked with
  | [] => .next s
  | f :: _ =>
    if s.meshRuns && !f.due && f.busyAt.isNone && decide (rto ≤ s.since f.sentAt) && decide (rto ≤ s.since x.moved) then
      .next (s.retransmit k x f)
    else .next s

/-! ### Windows (R310, R313) -/

def State.windowOpenBody (s : State) (p : Packet) (r : CmdRef) : State :=
  let j := nfld (p.w 1) 16 4
  let w := s.window p.fur j
  if w.isOpen then s.finish r stBusy 0 0
  else (s.setWindow p.fur j { w with
    isOpen := true, base := BitVec.ofNat 25 (p.w 2), length := BitVec.ofNat 26 (p.w 3), lanes := w64 (p.w 4)
    srcId := BitVec.ofNat 16 (p.w 5), srcMask := BitVec.ofNat 16 (nfld (p.w 5) 16 16) }).finish r stOk 0 0

/-- WINDOW_OPEN (R310). -/
def execWindowOpen (q : QSlot) (s : State) : Res := .next (s.accept q 0x0400 State.windowOpenBody)

/-- Whether a WRITE frame is being committed into window `j` of furrow `f`. -/
def State.windowBusy (s : State) (f : Fur) (j : Nat) : Bool :=
  s.ms.recv.any (fun (p : Nat × RecvLane) => match p.2.cur with
    | some fr => fr.type == fWrite && frameFur fr == f.val && frameWin fr == j
    | none => false)

/-- The window is closed, and the WINDOW_CLOSEs that wait for it complete. -/
def State.closeWindow (s : State) (f : Fur) (j : Nat) : State :=
  let w := s.window f j
  w.closing.foldl (fun s r => s.finish r stOk 0 0) (s.setWindow f j w.shut)

def State.windowCloseBody (s : State) (p : Packet) (r : CmdRef) : State :=
  let j := nfld (p.w 1) 16 4
  let w := s.window p.fur j
  if !w.isOpen then s.finish r stOk 0 0
  else
    let s1 := s.setWindow p.fur j { w with closing := w.closing ++ [r] }
    if s1.windowBusy p.fur j then s1 else s1.closeWindow p.fur j

/-- WINDOW_CLOSE (R313). -/
def execWindowClose (q : QSlot) (s : State) : Res := .next (s.accept q 0x0401 State.windowCloseBody)

/-- WINDOW_CLOSED (R313): no frame is being committed into a window that is to close. -/
def execWindowClosed (f : Fur) (j : Fin 16) (s : State) : Res :=
  if (s.window f j.val).closing ≠ [] ∧ !s.windowBusy f j.val ∧ !s.stopped then .next (s.closeWindow f j.val) else .next s

/-! ### REMOTE_COPY and REMOTE_SIGNAL (R314 to R318) -/

def remoteKey (w : Nat → Nat) : Nat := laneKey (nfld (w 1) 0 16) (nfld (w 1) 16 6)

/-- Status of a command for a lane that is FAILED (R308). -/
def State.laneFailed (s : State) (w : Nat → Nat) : Option Nat := (s.ms.sendLane (remoteKey w)).failed

def State.addLaneJob (s : State) (k : Nat) (j : LaneJob) : State :=
  let x := s.ms.sendLane k
  s.setMs (s.ms.setSend k { x with jobs := x.jobs ++ [j] })

/-- Payload rows of a frame that hold a poisoned byte. -/
def poisonBits (bs : List (Byte × Bool)) : Nat :=
  ((List.range 8).map (fun i => at' (b2n (((bs.drop (512 * i)).take 512).any Prod.snd)) i)).sum

/-- WRITE frame `k` of a REMOTE_COPY, not yet numbered (R314). -/
def copyFrame (id : Nat) (w : Nat → Nat) (k : Nat) (bs : List (Byte × Bool)) : Frame :=
  ⟨mkH0 fWrite 0 id (nfld (w 1) 0 16) bs.length, mkH1 (poisonBits bs) (nfld (w 1) 16 6) 0 0 0 0,
    w64 (at' ((nfld (w 5) 0 26 + 4096 * k) % 2 ^ 26) 8 + at' (nfld (w 4) 16 4) 4 + nfld (w 4) 0 4), 0, bs.map Prod.fst⟩

/-- One more frame of a REMOTE_COPY, once no piece of its bytes waits for a slot; after the last, the engine is free. -/
def State.formFrame (s : State) (r : CmdRef) (c : Cmd) : Option State :=
  let n := c.w 6
  let k := c.r1
  let len := min 4096 (n - 4096 * k)
  let l := ((s.locOf (c.w 2) (c.w 3)).checked c.since).at (4096 * k)
  match s.remotes.find? (fun j => j.ref == r) with
  | none => none
  | some j =>
    if !l.host && j.pieces.any (fun p => decide (p.lo < l.addr + len) && decide (l.addr < p.hi)) then none
    else
      let o := s.readMarked l (l.runs len)
      let fr := copyFrame s.ms.id.toNat c.w k o.2
      let whole := decide (n ≤ 4096 * (k + 1))
      let key := remoteKey c.w
      let x := o.1.ms.sendLane key
      let jobs := mapFirst (fun (g : LaneJob) => g.ref == r)
        (fun g => { g with ready := g.ready ++ [(fr, len)], whole := whole }) x.jobs
      let s1 := o.1.setMs (o.1.ms.setSend key { x with jobs := jobs })
      let s2 := s1.modCmd r (fun c => { c with r1 := k + 1, bufMark := c.bufMark || o.2.any Prod.snd })
      some (if whole then { s2 with remotes := s2.remotes.filter (fun g => g.ref != r) } else s2)

/-- Frames of a REMOTE_COPY that can be formed now. -/
def State.formFrames (s : State) (r : CmdRef) (fuel : Nat) : State :=
  match fuel with
  | 0 => s
  | n + 1 =>
    match s.cmd? r with
    | none => s
    | some c => match s.formFrame r c with
      | some t => t.formFrames r n
      | none => s

def State.remoteCopyBody (s : State) (p : Packet) (r : CmdRef) : State :=
  let n := p.w 6
  if n = 0 then s.finish r stOk 0 0
  else match s.laneFailed p.w with
  | some st => s.finish r st 0 0
  | none =>
    let l := s.locOf (p.w 2) (p.w 3)
    let s1 := (s.modCmd r (fun c => { c with stage := 2 })).addLaneJob (remoteKey p.w) ⟨r, s.accepted, [], false⟩
    let s2 : State := { s1 with remotes := s1.remotes ++ [⟨r, (s.queue (slotOf r.q)).prio, s.requests, l.pieces n⟩], requests := s.requests + 1 }
    s2.formFrames r (n / 4096 + 1)

/-- REMOTE_COPY (R314, R318). -/
def execRemoteCopy (q : QSlot) (s : State) : Res := .next (s.accept q 0x0402 State.remoteCopyBody)

/-- The frame of a REMOTE_SIGNAL, not yet numbered: an FSIG or a CSIG. -/
def State.signalFrame (s : State) (w : Nat → Nat) : Frame :=
  let dest := nfld (w 1) 0 16
  let h1 := mkH1 0 (nfld (w 1) 16 6) 0 0 0 0
  if nfld (w 2) 0 1 = 1 then ⟨mkH0 fCsig 0 s.ms.id.toNat dest 0, h1, w64 (w 3), 0, []⟩
  else ⟨mkH0 fFsig 0 s.ms.id.toNat dest 24, h1, 0, 0, toLe 4 (w 3) ++ toLe 4 0 ++ toLe 8 (w 4) ++ toLe 8 (w 5)⟩

def State.remoteSignalBody (s : State) (p : Packet) (r : CmdRef) : State :=
  match s.laneFailed p.w with
  | some st => s.finish r st 0 0
  | none =>
    (s.modCmd r (fun c => { c with stage := 2 })).addLaneJob (remoteKey p.w) ⟨r, s.accepted, [(s.signalFrame p.w, 0)], true⟩

/-- REMOTE_SIGNAL (R315, R316, R318). -/
def execRemoteSignal (q : QSlot) (s : State) : Res := .next (s.accept q 0x0403 State.remoteSignalBody)

end Sys2Proof.Machine
end

