-- ==== Sys2Proof/Machine/PortS.lean ====
section
/-! DEFINITION. Port S by agent (R105 to R111, R128, R147), and the stack ports' slots (R140 to R142). -/

namespace Sys2Proof.Machine

/-! ### The next transfer of each agent -/

/-- The next rows of the WRITE frames at their turn in window `j`, one for each lane, as transfers (R312). -/
def State.windowRows (s : State) (f : Fur) (j : Nat) : List Xfer :=
  s.ms.recv.filterMap (fun (p : Nat × RecvLane) => match p.2.cur with
    | some fr =>
      if fr.type = fWrite && frameFur fr == f.val && frameWin fr == j && decide (p.2.rows < fr.len / 512) then
        some (rowXfer fr j ((s.window f j).rowOf fr p.2.rows) p.2.rows)
      else none
    | none => none)

/-- Whether the check of R106 holds the transfer back. -/
def State.checkHolds (s : State) (f : Fur) (t : Xfer) : Bool := !(s.fur f).sCheck (t.addr / 512) t.write t.tag t.ring

/-- The next row of an open window: the first, by source and lane, that its check lets pass, so that a lane which waits holds back only its own
frames (R312, log 37); else the first. -/
def State.windowNext (s : State) (f : Fur) (j : Nat) : Option Xfer :=
  let rows := s.windowRows f j
  if (s.window f j).isOpen && ((s.fur f).xferOf (.window (Fin.ofNat 16 j))).isNone then
    (match rows.find? (fun t => !s.checkHolds f t) with | some t => some t | none => rows.head?)
  else none

/-- The next transfer of a SCRATCH_WRITE or SCRATCH_READ in its scoreboard (R245); bytes that a SCRATCH_READ has read are not read again. -/
def scratchNext (q : QSlot) (seq : W32) (c : Cmd) : Option Xfer :=
  let a := nfld (c.w 2) 0 25
  if c.stage ≠ 2 then none
  else if c.opcode = 0x0204 then some ⟨.host q seq, a, nfld (c.w 2) 32 7, true, nfld (c.w 2) 40 3, none, c.buf, false, 0, 0, false⟩
  else if c.opcode = 0x0205 ∧ c.buf = [] then some ⟨.host q seq, a, nfld (c.w 2) 32 10, false, 0, none, [], false, 0, 0, false⟩
  else none

/-- The next row that a COPY reads or writes over port S: the furrow, and the transfer but for the bytes to write (R245). -/
def State.copyXfer (s : State) (q : QSlot) (seq : W32) : Option (Fur × Xfer) :=
  match s.copies.find? (fun j => j.ref == ⟨q.val, seq⟩) with
  | none => none
  | some j =>
    match s.jobMove j with
    | some (_, .scratch f a, _, .read off n) => some (f, ⟨.host q seq, a + off, n, false, 0, none, [], false, off, 0, false⟩)
    | some (c, src, .scratch f a, .write off n) =>
      let bs := (s.copyBytes j src off n).2
      some (f, ⟨.host q seq, a + off, n, true, nfld (c.w 1) 12 3, none, bs.map Prod.fst, bs.any Prod.snd, off, (bs.filter Prod.snd).length,
        false⟩)
    | _ => none

/-- The next transfer of a host command in furrow `f`. -/
def State.hostNext (s : State) (f : Fur) (q : QSlot) (seq : W32) : Option Xfer :=
  if ((s.fur f).xferOf (.host q seq)).isSome then none
  else match s.copyXfer q seq with
  | some (g, t) => if g = f then some t else none
  | none => match s.cmd? ⟨q.val, seq⟩ with
    | some c => if c.fur = f then scratchNext q seq c else none
    | none => none

/-- The transfer that an agent of furrow `f` asks for: none while it has none to ask for. -/
def State.xferNext (s : State) (f : Fur) (a : Agent) : Option Xfer :=
  match a with
  | .relay => (s.fur f).relayNext
  | .window j => s.windowNext f j.val
  | .drill k => (s.fur f).drillNext k
  | .host q seq => s.hostNext f q seq

/-! ### Who is served (R105) -/

/-- Host commands that are at work on port S, in the order of acceptance: COPYs by their jobs, and SCRATCH commands. -/
def State.hostAgents (s : State) : List Agent :=
  let scratch := (List.range 64).flatMap (fun q => ((s.queue (slotOf q)).cmds.filter (fun c => (c.opcode == 0x0204 || c.opcode == 0x0205) && c.stage == 2)).map
    (fun c => (c.order, (⟨q, c.seq⟩ : CmdRef))))
  let copies := s.copies.filterMap (fun j => (s.cmd? j.ref).map (fun c => (c.order, j.ref)))
  ((scratch ++ copies).foldr insertRef []).map (fun p => .host (slotOf p.2.q) p.2.seq)

/-- The agents of a furrow in the order that breaks ties. -/
def State.agents (s : State) : List Agent :=
  Agent.relay :: (List.range 16).map (fun j => Agent.window (Fin.ofNat 16 j)) ++ (List.range 8).map (fun k => Agent.drill (drillOf k)) ++ s.hostAgents

/-- The agents that ask, the longest wait first; those that have come to ask since are behind, in the order of ties (log 37). -/
def State.noteAsks (s : State) (f : Fur) : State :=
  let old := (s.fur f).asks.filter (fun a => (s.xferNext f a).isSome)
  s.modFur f (fun x => { x with asks := old ++ s.agents.filter (fun a => (s.xferNext f a).isSome && !old.contains a) })

/-- Whether port S may take a transfer: the bank is free and serves, the row is awake, and a drill has fewer than two in progress (R105, R125,
R327). -/
def State.portFree (s : State) (f : Fur) (t : Xfer) : Bool :=
  let x := s.fur f
  !x.bankBusy t.addr && !s.bankHeld f t.addr && decide ((x.xfers.filter (fun u => u.agent == t.agent)).length < 2)

/-- Whether the agent's transfer would begin: port S takes it and its check passes (R106). -/
def State.served (s : State) (f : Fur) (t : Xfer) : Bool :=
  s.portFree f t && !(s.fur f).asleep (t.addr / 512) && (s.fur f).sCheck (t.addr / 512) t.write t.tag t.ring

/-- Whether no agent that has waited longer would be served by the bank (R105). -/
def State.turn (s : State) (f : Fur) (t : Xfer) : Bool :=
  ((s.fur f).asks.takeWhile (fun a => a != t.agent)).all (fun a => match s.xferNext f a with
    | some u => bankOf u.addr != bankOf t.addr || !s.served f u
    | none => true)

/-- A transfer into a group that has gone to sleep: a drill faults (R120, R149); a list there is a list location fault. -/
def State.asleepAsk (s : State) (f : Fur) (t : Xfer) : State :=
  match t.agent with
  | .drill k => s.asleepFault f k t
  | .relay => (match (s.fur f).recvDrill with | some (k, _) => s.asleepFault f k t | none => s)
  | _ => s

/-- A transfer begins. -/
def State.beginXfer (s : State) (f : Fur) (t : Xfer) : State :=
  match t.agent with
  | .drill k => s.drillBegins f k t
  | .relay => (match (s.fur f).recvDrill with | some (k, _) => s.relayBegins f k t | none => s)
  | _ => s.setFur f ((s.fur f).sBegin t)

/-- An agent's transfer at its turn: refused in a sleeping group, begun where port S takes it and its check passes, else it asks again (R106);
the ticks for which it waits are the reference cycle's to count. -/
def State.tryXfer (s : State) (f : Fur) (t : Xfer) : State :=
  if (s.fur f).asleep (t.addr / 512) then s.asleepAsk f t
  else if s.served f t && s.turn f t then (s.beginXfer f t).noteAsks f
  else s

/-- What an agent asks for is tried. -/
def State.portAsk (s : State) (f : Fur) (a : Agent) : State :=
  let s1 := s.noteAsks f
  match s1.xferNext f a with
  | some t => s1.tryXfer f t
  | none => s1

/-- PORT_S_TRANSFER (R105, R106): an agent's next transfer is checked and begins; a put-queue block takes its next row from the queue instead
(R138). -/
def execPortSTransfer (f : Fur) (a : Agent) (s : State) : Res :=
  if s.stopped then .next s
  else match a with
  | .drill k => .next ((s.takePut f k).portAsk f a)
  | _ => .next (s.portAsk f a)

/-! ### The end of a transfer -/

/-- PORT_S_COMMIT of a window: one row more of its frame; WRITE_FRAME_COMMIT commits the frame after the last. -/
def State.windowCommit (s : State) (f : Fur) (j : Fin 16) : State :=
  let x := s.fur f
  match x.xferOf (.window j) with
  | none => s
  | some t => (s.portWrite f t).rowDone f j.val t.idx

/-- Rows of the WRITE frame at its turn, in order, as far as they can be written now; with the last, the frame commits (R312). -/
def State.writeRows (s : State) (fr : Frame) (fuel : Nat) : State :=
  match fuel with
  | 0 => s
  | n + 1 =>
    let f := furOf (frameFur fr)
    let j : Fin 16 := Fin.ofNat 16 (frameWin fr)
    if fr.len / 512 ≤ (s.ms.recvLane fr.key).rows then s.commitFrame fr stOk
    else if !(s.window f j.val).isOpen then s.refuseFrame fr stPermission
    else if ((s.fur f).xferOf (.window j)).isSome then s
    else
      let i := (s.ms.recvLane fr.key).rows
      let s1 := (s.noteAsks f).tryXfer f (rowXfer fr j.val ((s.window f j.val).rowOf fr i) i)
      if ((s1.fur f).xferOf (.window j)).isSome then (s1.windowCommit f j).writeRows fr n else s1

/-- WRITE_FRAME_COMMIT (R312). -/
def execWriteFrameCommit (src : W16) (lane : BitVec 6) (s : State) : Res :=
  match s.curOf src lane fWrite with
  | some fr => .next (s.writeRows fr 9)
  | none => .next s

/-- The pieces of a run of a segment at the stack ports, with the extra slot of a request that writes part of an encrypted unit (R140, R270). -/
def Loc.slotPieces (l : Loc) (n : Nat) : List Piece :=
  if l.host then [] else if l.key.isSome then encPieces l.addr (l.addr + n) 0 else piecesOf l.addr (l.addr + n) 0

/-- The bytes that a SCRATCH_READ has read go to its segment, once every slot of its request has been granted (R140); TAG and POISON of the row are
in RESULT1. -/
def State.scratchOut (s : State) (r : CmdRef) : State :=
  match s.cmd? r with
  | none => s
  | some c =>
    let l := (s.locOf (c.w 3) (c.w 4)).checked c.since
    if c.opcode ≠ 0x0205 || c.stage ≠ 2 || c.buf == [] || s.fences.any (fun j => j.ref == r) then s
    else
      let o := s.memWrite l c.buf c.bufMark (hIndex (c.w 3))
      o.1.finish r (if c.bufMark || o.2 then stPoisoned else stOk) c.buf.length c.r1

/-- PORT_S_COMMIT of a host command: a SCRATCH_WRITE's bytes are in the row, a SCRATCH_READ's go to its segment, at once where that lies in host
memory, a COPY's row is read or written. -/
def State.hostCommit (s : State) (f : Fur) (q : QSlot) (seq : W32) : State :=
  let x := s.fur f
  let r : CmdRef := ⟨q.val, seq⟩
  match x.xferOf (.host q seq), s.cmd? r with
  | some t, some c =>
    if c.opcode = 0x0204 then (s.portWrite f t).finish r stOk t.len 0
    else if c.opcode = 0x0205 then
      let poison := x.xferPoison t
      ((((s.setFur f (x.sRead t)).modCmd r (fun c => { c with
        buf := x.xferBytes t, bufMark := poison, r1 := b2n (x.isFull (t.addr / 512)) + 2 * b2n poison })).askPieces r
          ((s.locOf (c.w 3) (c.w 4)).slotPieces (x.xferBytes t).length))).scratchOut r
    else
      let o := s.copyWork c
      if t.write then ((s.portWrite f t).copyPut r o.2.1 o.2.2 t.len t.row).noteRequests
      else
        let poison := x.xferPoison t
        ((s.setFur f (x.sRead t)).copyGot r o.2.1 t.idx ((x.xferBytes t).map (fun b => (b, poison)))).noteRequests
  | _, _ => s

/-- PORT_S_COMMIT (R106, R111): an agent's oldest transfer ends. -/
def execPortSCommit (f : Fur) (a : Agent) (s : State) : Res :=
  if s.stopped then .next s
  else .next (State.noteAsks (match a with
    | .relay => s.relayCommit f
    | .window j => s.windowCommit f j
    | .drill k => s.drillCommit f k
    | .host q seq => s.hostCommit f q seq) f)

/-- RELAY_WRITE (R147): the relay input writes its oldest row. -/
def execRelayWrite (f : Fur) (s : State) : Res := if s.stopped then .next s else .next (((s.portAsk f .relay).relayCommit f).noteAsks f)

/-- DESCRIPTOR_FETCH (R128): the next descriptor of a list that is not held in the descriptor store. One in a segment is read once its stack gives slots
(R349); one in the scratchpad by a port-S transfer of the drill, which PORT_S_COMMIT ends. A drill whose beat clock is gated fetches nothing (R384). -/
def execDescriptorFetch (f : Fur) (k : DrillNo) (s : State) : Res :=
  let x := s.drill f k
  if !x.fetches || (s.fur f).gated || s.stopped then .next s
  else if x.listScratch then
    let s1 := s.noteAsks f
    .next (match (s1.fur f).descNext k with | some t => s1.tryXfer f t | none => s1)
  else if s.stackHeld (s.descLoc x x.fetchIdx) 32 then .next s
  else .next ((s.setDrill f k (x.gotDesc (s.listDesc f x x.fetchIdx))).bumpFree)

/-! ### Stack ports (R140 to R142) -/

/-- A piece that waits at a stack port: its requester in the order of R141 (drill 8f + k, 128 the dispatcher, 129 the remote-copy engine),
priority, piece, and the block, pair or job that it belongs to. -/
structure Cand where
  rq : Nat
  prio : Nat
  piece : Piece
  idx : Nat
  ref : CmdRef
  deriving DecidableEq, Repr

/-- The first piece of a list on stack `st`. -/
def firstOn (st : Nat) (ps : List Piece) : Option Piece := ps.find? (fun p => stackOf p.lo == st)

/-- The pieces that a drill has pending, in the order of its requests: the first of each outstanding block; of an OUT block once its rows are
taken (R137, R140). -/
def State.drillCands (s : State) (st : Nat) (n : Nat) : List Cand :=
  let x := s.drill (furOf (n / 8)) (drillOf (n % 8))
  if x.moving then
    (x.blocks.take 4).filterMap (fun b =>
      (b.pieces.find? (fun p => stackOf p.lo == st && (!x.out || b.pieceReady p))).map (fun p => ⟨n, b.prio, p, b.idx, ⟨0, 0⟩⟩))
  else []

/-- A request of the dispatcher, with its number, among others in their order. -/
def insertAsk (a : Nat × Cand) (l : List (Nat × Cand)) : List (Nat × Cand) :=
  match l with
  | [] => [a]
  | b :: r => if a.1 ≤ b.1 then a :: b :: r else b :: insertAsk a r

/-- The pieces that the dispatcher has pending, in the order of its requests: those of the copy engines, of fence signals and of SCRATCH_READs
(R141, R277). -/
def State.dispatchCands (s : State) (st : Nat) : List Cand :=
  let copies := (s.copies.take 8).filterMap (fun j => match j.ask, s.jobPiece j with
    | some n, some p => if stackOf p.lo == st then some (n, (⟨128, j.prio, p, 0, j.ref⟩ : Cand)) else none
    | _, _ => none)
  let fences := s.fences.filterMap (fun j => (firstOn st j.pieces).map (fun p => (j.ask, (⟨128, j.prio, p, 0, j.ref⟩ : Cand))))
  ((copies ++ fences).foldr insertAsk []).map Prod.snd

/-- The pieces that the mesh's engine has pending, in the order of its requests: those of REMOTE_COPYs, and of fence signals that arrived, which
no queue has given a priority (R277, R314, log 92). `idx` is 0, or the pair's key and 1. -/
def State.remoteCands (s : State) (st : Nat) : List Cand :=
  let jobs := s.remotes.filterMap (fun j => (firstOn st j.pieces).map (fun p => (j.ask, (⟨129, j.prio, p, 0, j.ref⟩ : Cand))))
  let signals := s.ms.recv.filterMap (fun (x : Nat × RecvLane) => x.2.slots.bind (fun a =>
    (firstOn st a.2).map (fun p => (a.1, (⟨129, 0, p, x.1 + 1, ⟨0, 0⟩⟩ : Cand)))))
  ((jobs ++ signals).foldr insertAsk []).map Prod.snd

/-- Everything that waits at a stack port, by requester in the order of R141, each requester's pieces in the order of its requests. -/
def State.cands (s : State) (st : Nat) : List (List Cand) :=
  ((List.range 128).map (s.drillCands st) ++ [s.dispatchCands st, s.remoteCands st]).filter (fun l => !l.isEmpty)

/-- The level that the next slot goes to: the highest priority of a piece at the head of its requester's, or, when G has reached 15, the lowest
that is pending at all (R142). -/
def slotLevel (p : StackPort) (cs : List (List Cand)) : Option Nat :=
  let all := cs.flatten.map Cand.prio
  match cs.filterMap (fun l => l.head?.map Cand.prio), all with
  | h :: hs, a :: as => some (if 15 ≤ p.g then as.foldl min a else hs.foldl max h)
  | _, _ => none

/-- The piece that the next slot grants: the first of a requester that has a piece of the level, round-robin over them. A requester's own pieces
are never passed, so the lowest level may be served through the piece before it (log 79). -/
def pickCand (p : StackPort) (cs : List (List Cand)) : Option Cand :=
  match slotLevel p cs with
  | none => none
  | some want =>
    let ok := (cs.filter (fun l => if 15 ≤ p.g then l.any (fun c => c.prio == want) else l.head?.any (fun c => c.prio == want))).filterMap List.head?
    match ok.find? (fun c => decide (vat 0 p.rr want ≤ c.rq)) with
    | some c => some c
    | none => ok.head?

/-- G and the round-robin position after a grant (R141, R142). -/
def StackPort.granted (p : StackPort) (cs : List (List Cand)) (c : Cand) : StackPort :=
  let low := cs.flatten.all (fun d => decide (c.prio ≤ d.prio))
  { p with
    g := if low || decide (15 ≤ p.g) then 0 else p.g + 1
    rr := match slotLevel p cs with | some want => vput p.rr want ((c.rq + 1) % 130) | none => p.rr }

/-- The slot of a drill's piece; a home stack counts it (R151). -/
def State.grantDrill (s : State) (st : Nat) (c : Cand) : State :=
  let f := furOf (c.rq / 8)
  let s1 := s.modDrill f (drillOf (c.rq % 8)) (fun x => { x with
    blocks := mapFirst (fun b => b.idx == c.idx) (fun b => { b with pieces := eraseFirst (fun p => p == c.piece) b.pieces }) x.blocks })
  if st / 2 = f.val then
    s1.modFur f (fun z => { z with
      homeSlots := vput z.homeSlots (st % 2) (vat 0 z.homeSlots (st % 2) + 1)
      homeBytes := vput z.homeBytes (st % 2) (vat 0 z.homeBytes (st % 2) + BitVec.ofNat 64 (if c.piece.extra then 0 else c.piece.hi - c.piece.lo)) })
  else s1

def dropPiece (c : Cand) (js : List Job) : List Job :=
  mapFirst (fun j => j.ref == c.ref) (fun j => { j with pieces := eraseFirst (fun p => p == c.piece) j.pieces }) js

/-- The slot of a fence signal that arrived over the mesh. -/
def State.grantSignal (s : State) (c : Cand) : State :=
  let x := s.ms.recvLane (c.idx - 1)
  s.setMs (s.ms.setRecv (c.idx - 1) { x with slots := x.slots.map (fun a => (a.1, eraseFirst (fun p => p == c.piece) a.2)) })

/-- The slot of a fence signal or of a SCRATCH_READ; with its last one the bytes of a SCRATCH_READ are written. -/
def State.grantFence (s : State) (c : Cand) : State :=
  ({ s with fences := (dropPiece c s.fences).filter (fun j => j.pieces != []) } : State).scratchOut c.ref

/-- One slot of a stack port. -/
def State.grant (s : State) (st : StackNo) : State :=
  let p := s.stackPorts[st]
  let cs := s.cands st.val
  match pickCand p cs with
  | none => s
  | some c =>
    let s1 := { s with stackPorts := s.stackPorts.set st (p.granted cs c) }
    if c.rq < 128 then s1.grantDrill st.val c
    else if c.rq = 128 then
      if s1.fences.any (fun j => j.ref == c.ref) then s1.grantFence c else s1.grantCopy c.ref
    else if c.idx ≠ 0 then s1.grantSignal c
    else State.formFrames { s1 with remotes := dropPiece c s1.remotes } c.ref (1 + match s.cmd? c.ref with | some d => d.w 6 / 4096 | none => 0)

/-- STACK_SLOT_GRANT (R141, R142): none while the stack retrains (R349). -/
def execStackSlotGrant (st : StackNo) (s : State) : Res :=
  let p := s.stackPorts[st]
  if p.retraining || p.failed || s.stopped then .next s else .next (s.grant st)

end Sys2Proof.Machine
end

