-- ==== Sys2Proof/Machine/Store.lean ====
section
/-! DEFINITION. The gleaner's record store: CRC-32C, storing a record, and clearing a partition (R364 to R369). -/

namespace Sys2Proof.Machine

/-! ### CRC-32C (R365) -/

/-- One bit of the reflected CRC. -/
def crcBit (c : W32) : W32 := if bitOf c 0 then (c >>> 1) ^^^ 0x82F63B78#32 else c >>> 1

def crcByte (c : W32) (b : Byte) : W32 :=
  crcBit (crcBit (crcBit (crcBit (crcBit (crcBit (crcBit (crcBit (c ^^^ b.setWidth 32))))))))

/-- CRC-32C of a run of bytes. -/
def crc32c (bs : List Byte) : W32 := bs.foldl crcByte 0xFFFFFFFF#32 ^^^ 0xFFFFFFFF#32

/-! ### Storing (R364, R366, R367) -/

/-- Bytes 0 to 27 of a record stored with SEQUENCE `n`. -/
def GRec.body (r : GRec) (n : W32) : List Byte :=
  toLe 4 n.toNat ++ toLe 8 r.time.toNat ++ toLe 2 r.code.toNat ++ toLe 2 r.source.toNat ++ toLe 4 r.p0.toNat ++ toLe 4 r.p1.toNat
    ++ toLe 4 r.p2.toNat

/-- The words GL_Ri_W0 to GL_Ri_W3 of a record (R382). -/
def GRec.words (r : GRec) (n : W32) : W64 × W64 × W64 × W64 :=
  (w64 (at' (fld r.time 0 32) 32 + n.toNat), w64 (at' r.source.toNat 48 + at' r.code.toNat 32 + fld r.time 32 32),
    w64 (at' r.p1.toNat 32 + r.p0.toNat), w64 (at' (crc32c (r.body n)).toNat 32 + r.p2.toNat))

/-- Records that partition F and partition I hold, and the first index of each (R367). -/
def sizeF : Nat := 12288
def sizeI : Nat := 4096

/-- SEQUENCE after `n`, which skips 0 (R366). -/
def nextSeq (n : W32) : W32 := if n = 0xFFFFFFFF#32 then 1 else n + 1

def emptyRec : W64 × W64 × W64 × W64 := (0, 0, 0, 0)

/-- Places one record in its partition, or refuses and counts it when the partition is full (R366, R367). -/
def Gleaner.put (g : Gleaner) (r : GRec) : Gleaner :=
  if bitOf r.code 15 then
    if g.fillI < sizeI then
      { g with
        store := tset emptyRec g.store (sizeF + g.fillI) (r.words g.seq)
        fillI := g.fillI + 1, lastI := g.seq, seq := nextSeq g.seq, sticky := setBit g.sticky 1 (bitOf g.sticky 1 || g.fillI + 1 == sizeI) }
    else { g with lostI := satInc g.lostI }
  else
    if g.fillF < sizeF then
      { g with
        store := tset emptyRec g.store g.fillF (r.words g.seq)
        fillF := g.fillF + 1, lastF := g.seq, seq := nextSeq g.seq, sticky := setBit g.sticky 0 (bitOf g.sticky 0 || g.fillF + 1 == sizeF) }
    else { g with lostF := satInc g.lostF }

/-- The oldest record of the intake queue goes to the store. -/
def Gleaner.takeOne (g : Gleaner) : Gleaner :=
  match g.intake with
  | [] => g
  | r :: t => { g with intake := t }.put r

/-- Every record of the intake queue goes to the store, oldest first. -/
def Gleaner.takeAll (g : Gleaner) : Gleaner := g.intake.foldl Gleaner.put { g with intake := [] }

/-! ### Clearing (R368) -/

/-- The partition is emptied after every waiting record has been stored; the records that it refused are reported with the SEQUENCE last stored
there. SOURCE of the gleaner's own records is the shared logic. -/
def State.clearPart (s : State) (info : Bool) : State :=
  let g := s.gl.takeAll
  let lost := if info then g.lostI else g.lostF
  let g1 := if info then { g with store := tclear g.store sizeF (sizeF + sizeI), fillI := 0, lostI := 0 }
    else { g with store := tclear g.store 0 sizeF, fillF := 0, lostF := 0 }
  let s1 := { s with gl := g1 }
  if lost = 0 then s1 else s1.offer 0x0E02 srcBlock (b2n info) lost.toNat (if info then g.lastI else g.lastF).toNat

def glOff (r : Nat) : Nat := 0x4000 + r

/-- CLEAR_F (R368). -/
def execClearF (s : State) : Res := .next (s.hostWrite (glOff 8) 8 (fun s => s.clearPart false))
/-- CLEAR_I (R368). -/
def execClearI (s : State) : Res := .next (s.hostWrite (glOff 8) 8 (fun s => s.clearPart true))

/-- Whether the boot record has not been stored: records offered before it wait (R392). -/
def State.bootWait (s : State) : Bool := !s.dc.started

/-- GLEANER_STORE (R369): the store takes the oldest record of the intake queue. -/
def execGleanerStore (s : State) : Res :=
  if s.release = 3 ∧ !s.bootWait then .next { s with gl := s.gl.takeOne } else .next s

end Sys2Proof.Machine
end

