-- ==== Sys2Proof/Machine/Activities.lean ====
section
/-! DEFINITION. Maintenance activities (R340 to R352): admission, claims, ends, patrol, retraining and margin sweeps. -/

namespace Sys2Proof.Machine

def actCode (x : ActState) : Nat :=
  match x with
  | .free => 0 | .queued => 1 | .claiming => 2 | .running => 3 | .done => 4 | .failed => 5 | .aborted => 6 | .cancelled => 7

def State.act (s : State) (k : Fin 16) : Activity := s.rv.acts[k]
def State.setAct (s : State) (k : Fin 16) (x : Activity) : State := { s with rv := { s.rv with acts := s.rv.acts.set k x } }
def allActs : List (Fin 16) := (List.range 16).map (Fin.ofNat 16)

/-! ### Compatibility (R341) -/

/-- Whether two activities are incompatible, the first with the lower code. -/
def clashActs (a t b u : Nat) : Bool :=
  match a, b with
  | 1, 1 => t == u
  | 1, 2 => t == u
  | 1, 6 => t / 2 == u
  | 2, 2 => t / 8 == u / 8
  | 2, 4 => t / 8 == u / 4
  | 2, 6 => t / 2 == u
  | 3, 3 => t == u
  | 3, 4 => t / 4 == u / 4
  | 4, 4 => t / 4 == u / 4
  | 4, 5 => true
  | 5, 5 => true
  | 6, 6 => t == u
  | _, _ => false

def actsClash (a t b u : Nat) : Bool := if a ≤ b then clashActs a t b u else clashActs b u a t

def Activity.clashes (x y : Activity) : Bool := actsClash x.kind.toNat x.target.toNat y.kind.toNat y.target.toNat
def Activity.active (x : Activity) : Bool := x.st == .claiming || x.st == .running
def Activity.takesFurrow (x : Activity) : Bool := x.kind == 3 || x.kind == 4
def Activity.over' (x : Activity) : Bool :=
  x.st == .free || x.st == .done || x.st == .failed || x.st == .aborted || x.st == .cancelled

/-- The offline limit: at most two furrows CLAIMING or RUNNING a BRICK_TEST or MARGIN. -/
def State.offlineRoom (s : State) (x : Activity) : Bool :=
  !x.takesFurrow || decide ((s.rv.acts.toList.filter (fun y => y.active && y.takesFurrow)).length < 2)

/-- Age of a ticket: how many tickets were given since. -/
def Reeve.age (x : Reeve) (a : Activity) : Nat := (x.ticket - a.ticket).toNat

/-- QUEUED activities admitted before `x`. -/
def State.queuedBefore (s : State) (x : Activity) : List Activity :=
  s.rv.acts.toList.filter (fun y => y.st == .queued && decide (s.rv.age x < s.rv.age y))

/-- Whether activity `x` may begin (R342). -/
def State.mayBegin (s : State) (x : Activity) : Bool :=
  s.rv.acts.toList.all (fun y => !(y.active && x.clashes y)) && (s.queuedBefore x).all (fun y => !x.clashes y) && s.offlineRoom x

/-! ### Beginning and finishing (R342, R343, R347) -/

def targetFur (x : Activity) : Fur := furOf x.target.toNat
def targetStack (x : Activity) : StackNo := Fin.ofNat 32 x.target.toNat
def State.modStack (s : State) (k : StackNo) (g : StackPort → StackPort) : State :=
  { s with stackPorts := s.stackPorts.set k (g s.stackPorts[k]) }

/-- The image of an EXPORT that starts now (R381). -/
def State.imageNow (s : State) : Image :=
  ⟨Config.serial, s.gl.seq, s.gl.fillF, s.gl.fillI, s.gl.lostF, s.gl.lostI, s.time, s.gl.store⟩

/-- Bytes of a stored record (R365, R382). -/
def recBytes (r : W64 × W64 × W64 × W64) : List Byte := [r.1, r.2.1, r.2.2.1, r.2.2.2].flatMap (fun w => toLe 8 w.toNat)

/-- The image as it lies in the export area (R381): the 64-byte header, then the records of partition F and of partition I. GL_SEQ is taken as
the 64-bit register and each FILL as four bytes, so that the six figures fill bytes 0 to 39 (log 86). -/
def Image.bytes (x : Image) : List Byte :=
  toLe 8 x.serial.toNat ++ toLe 8 x.seq.toNat ++ toLe 4 x.fillF ++ toLe 4 x.fillI ++ toLe 4 x.lostF.toNat ++ toLe 4 x.lostI.toNat
    ++ toLe 8 x.time.toNat ++ List.replicate 24 0
    ++ (List.range x.fillF).flatMap (fun i => recBytes (tget emptyRec x.records i))
    ++ (List.range x.fillI).flatMap (fun i => recBytes (tget emptyRec x.records (sizeF + i)))

/-- What the end of an EXPORT leaves in the export area (R381): the new image, none when the flash path failed. -/
def State.endExport (s : State) (st : ActState) : State :=
  { s with image := (if st = .done then s.imageWork else if st = .failed then none else s.image), imageWork := none }

/-- Entry into RUNNING, event 0x8A10. -/
def State.runAct (s : State) (k : Fin 16) : State :=
  let x := s.act k
  let s1 := s.setAct k { x with st := .running, started := s.time, step := if x.kind = 4 then 56 else 0, slot := s.uptime, rewrite := false, paused := 0, pausedAt := if x.kind = 4 ∧ s.pins.throttle then some s.time else none }
  let s2 := if x.kind = 2 then s1.modStack (targetStack x) (fun p => { p with retraining := true })
    else if x.kind = 1 then { s1 with rv := { s1.rv with lastPatrol := vput s1.rv.lastPatrol x.target.toNat s.uptime } }
    else if x.kind = 5 then { s1 with imageWork := some s.imageNow } else s1
  s2.offer 0x8A10 srcReeve x.ticket.toNat (at' x.kind.toNat 28 + x.target.toNat) 0

/-- An activity begins: BRICK_TEST and MARGIN in CLAIMING, any other in RUNNING. -/
def State.beginAct (s : State) (k : Fin 16) : State :=
  let x := s.act k
  if x.takesFurrow then (s.setAct k { x with st := .claiming }).modFur (targetFur x) (fun f => { f with claim := .claiming })
  else s.runAct k

/-- Reading of a temperature sensor now: the one that a command gives on this very tick, else a free value (R363, log 91). -/
def State.tempNow (s : State) (i : Nat) : W16 :=
  if s.release ≠ 3 then 0 else if vat none s.rv.tempAt i = some s.uptime then vat 0 s.rv.temps i else Config.sensor i s.uptime

/-- A stack has been trained at its site's present temperature (R346). -/
def State.trained (s : State) (k : StackNo) : State :=
  { s with rv := { s.rv with trainTemp := s.rv.trainTemp.set k (s.tempNow (k.val / 2)) } }

/-- State of domain `d` of a furrow that goes back into service. -/
def backState (split : Bool) (d : Nat) : DomState := if d = 1 ∧ !split then .unused else .idle

/-- OFFLINE domains go back into service, but for those that are `held`. -/
def Furrow.online (x : Furrow) (held : Dom → Bool) : Furrow :=
  { x with doms := x.doms.mapIdx (fun i d => if d.st = .offline ∧ !held (domOf i) then d.setSt (backState x.split i) else d) }

/-- What an activity leaves of its furrow: cells, windrow and vector registers at zero, domains in service (R344). -/
def Furrow.afterTest (x : Furrow) : Furrow :=
  let y := (x.clearCells 0 4).clearWindrow 0 4
  let z : Furrow := { y with doms := y.doms.map (fun (d : Domain) => { d with vregs := Vector.replicate 32 VReg.zero }) }
  z.online (fun _ => false)

/-- A finish, event 0x8A11; the furrow's claim and the stack's retraining end. -/
def State.finishAct (s : State) (k : Fin 16) (st : ActState) (result : Nat) : State :=
  let x := s.act k
  let s1 := s.setAct k { x with st := st, result := byteOf result, finished := s.time }
  let s2 := if x.takesFurrow && x.active then s1.modFur (targetFur x) (fun f => { f with claim := .none }) else s1
  let s3 := if x.kind = 2 ∧ x.st = .running then
      (let s3 := s2.modStack (targetStack x) (fun p => { p with retraining := false })
       if st = .done then s3.trained (targetStack x) else s3)
    else if x.kind = 5 ∧ x.st = .running then s2.endExport st else s2
  s3.offer 0x8A11 srcReeve x.ticket.toNat (actCode st) (byteOf result).toNat

/-- An L2 of a furrow aborts its BRICK_TEST or MARGIN (R347): one that ran ends as R344 says, and the domains that the L2 does not reset go back
into service. -/
def State.abortFurrowActs (s : State) (f : Fur) : State :=
  allActs.foldl (fun s k =>
    let x := s.act k
    if x.takesFurrow && x.active && targetFur x == f then
      (if x.st = .running then s.modFur f Furrow.afterTest else s).finishAct k .aborted 0
    else s) s

/-- An L3 aborts every activity that is not finished (R347). -/
def State.abortActs (s : State) : State :=
  allActs.foldl (fun s k => if (s.act k).over' then s else s.finishAct k .aborted 0) s

/-! ### MAINT_START and MAINT_END (R342, R345) -/

/-- Whether a TARGET exists for an activity. -/
def State.targetOk (s : State) (kind target : Nat) : Bool :=
  match kind with
  | 1 => decide (target < 32)
  | 2 => decide (target < 32)
  | 3 => decide (target < s.build.furrows)
  | 4 => decide (target < s.build.furrows)
  | 5 => target == 0
  | 6 => decide (target < 16)
  | _ => false

/-- The entry for a new activity: the lowest FREE one, else the one that finished first. -/
def State.actSlot (s : State) : Option (Fin 16) :=
  match allActs.find? (fun k => (s.act k).st == .free) with
  | some k => some k
  | none => (allActs.filter (fun k => (s.act k).over')).foldl (fun best k => match best with
    | none => some k
    | some b => if (s.act k).finished.toNat < (s.act b).finished.toNat then some k else some b) none

/-- An activity admitted into entry `k`: begun, or QUEUED (R342). -/
def State.admitAct (s : State) (k : Fin 16) (kind target : Nat) : State :=
  let x : Activity := { Activity.free with ticket := s.rv.ticket, target := byteOf target, kind := BitVec.ofNat 4 kind, st := .queued }
  let s0 := s.setAct k x
  let s1 : State := { s0 with rv := { s0.rv with ticket := s.rv.ticket + 1 } }
  if s1.mayBegin x then s1.beginAct k else s1

/-- Deferral position of an entry: 0 unless it is QUEUED. -/
def State.position (s : State) (k : Fin 16) : Nat := if (s.act k).st = .queued then (s.queuedBefore (s.act k)).length + 1 else 0

def State.maintStart (s : State) : State :=
  let kind := nfld (s.rv.w 1) 0 4
  let target := nfld (s.rv.w 1) 8 8
  if !s.targetOk kind target then s.mbxDone stBadParam 0 0
  else match s.actSlot with
  | none => s.mbxDone stBusy 0 0
  | some k =>
    let s1 := s.admitAct k kind target
    let pos := s1.position k
    s1.mbxDone (if pos = 0 then stOk else stDeferred) s.rv.ticket.toNat pos

/-- MAINT_START (R342). -/
def execMaintStart (s : State) : Res := if s.mbxHas 0x0F10 then .next s.maintStart else .next s

def State.maintEnd (s : State) : State :=
  let t : W16 := BitVec.ofNat 16 (s.rv.w 1)
  match allActs.find? (fun k => (s.act k).st != .free && (s.act k).ticket == t) with
  | none => s.mbxDone stBadParam 0 0
  | some k =>
    let x := s.act k
    if x.st = .queued ∨ x.st = .claiming then (s.finishAct k .cancelled 0).mbxDone stOk t.toNat (actCode .cancelled)
    else if x.st = .running ∧ x.kind = 6 then (s.finishAct k .done 0).mbxDone stOk t.toNat (actCode .done)
    else if x.st = .running then s.mbxDone stBusy 0 0
    else s.mbxDone stOk t.toNat (actCode x.st)

/-- MAINT_END (R345). -/
def execMaintEnd (s : State) : Res := if s.mbxHas 0x0F11 then .next s.maintEnd else .next s

/-! ### The reeve's checks (R342, R343) -/

/-- QUEUED entries in ticket order. -/
def insertAct (s : State) (k : Fin 16) (l : List (Fin 16)) : List (Fin 16) :=
  match l with
  | [] => [k]
  | j :: r => if s.rv.age (s.act j) ≤ s.rv.age (s.act k) then k :: j :: r else j :: insertAct s k r

def State.queuedActs (s : State) : List (Fin 16) :=
  (allActs.filter (fun k => (s.act k).st == .queued)).foldr (insertAct s) []

/-- ACTIVITY_BEGIN (R342): the check of the QUEUED activities in ticket order. -/
def execActivityBegin (s : State) : Res :=
  if s.reeveRuns && !s.stopped then
    .next (s.queuedActs.foldl (fun s k => if s.mayBegin (s.act k) then s.beginAct k else s) s)
  else .next s

/-- The conditions of R343 on a furrow that is claimed. -/
def Furrow.claimReady (x : Furrow) : Bool :=
  x.doms.toList.all (fun d => d.st == .idle || d.st == .unused) &&
  x.drills.toList.all (fun k => k.st != .running && k.st != .stopping) && x.board.isEmpty

/-- ACTIVITY_CLAIM (R343): the furrow is quiet, and its domains enter OFFLINE. -/
def execActivityClaim (k : Fin 16) (s : State) : Res :=
  let x := s.act k
  let f := targetFur x
  if x.st = .claiming ∧ (s.fur f).claimReady ∧ s.reeveRuns ∧ !s.stopped then
    .next ((s.modFur f (fun z => { z with claim := .owned, doms := z.doms.map (fun d => d.setSt .offline) })).runAct k)
  else .next s

/-! ### The end of a BRICK_TEST or MARGIN on its furrow (R344) -/

/-- The pairs of `mask` that are in service are disabled with cause 3 (R174, R344), by their first bricks (log 68). -/
def State.failPairs (s : State) (f : Fur) (mask : BitVec 2) : State :=
  let s1 := if bitOf mask 0 then s.disablePair f 0 3 else s
  if bitOf mask 1 then s1.disablePair f 2 3 else s1

/-- Units of 4 KiB of a stack. -/
def patrolUnits : Nat := Config.stackBytes / 4096

/-- How long a MARGIN has been paused, the pause in progress included: its 90 s grow by that (R347). -/
def State.pausedFor (s : State) (x : Activity) : Nat :=
  x.paused + match x.pausedAt with
    | some t => s.since t
    | none => 0

/-- ACTIVITY_END (R344, R348, R381): a BRICK_TEST after its 40 ms, a PATROL after its last unit, an EXPORT, or a MARGIN at its 90 s. -/
def execActivityEnd (k : Fin 16) (ok : Bool) (failing : BitVec 2) (s : State) : Res :=
  let x := s.act k
  let f := targetFur x
  let age := s.since x.started
  if x.st ≠ .running ∨ !s.reeveRuns ∨ s.stopped then .next s
  else match x.kind.toNat with
  | 1 => if patrolUnits ≤ x.step ∧ !x.rewrite then .next (s.finishAct k .done x.result.toNat) else .next s
  | 3 =>
    if 40000000 ≤ age then
      .next (((s.failPairs f failing).modFur f Furrow.afterTest).finishAct k (if failing = 0 then .done else .failed) failing.toNat)
    else .next s
  | 4 =>
    if 90000000000 + s.pausedFor x ≤ age then
      .next ((s.modFur f Furrow.afterTest).finishAct k .failed 0) else .next s
  | 5 => .next (s.finishAct k (if ok then .done else .failed) 0)
  | _ => .next s

/-! ### Automatic activities (R346) -/

/-- Whether an unfinished activity of this kind and target is in the table. -/
def State.actPending (s : State) (kind target : Nat) : Bool :=
  s.rv.acts.toList.any (fun x => !x.over' && x.kind.toNat == kind && x.target.toNat == target)

/-- Corrected errors of a stack within 1 s: those that PATROL met, and those of other requests, a free value (log 91). -/
def State.errorsNow (s : State) (k : Nat) : Nat :=
  ((vat [] s.rv.corrected k).filter (fun t => decide (s.powered t < 1000000000))).length + Config.correctedErrors k s.uptime

/-- Whether the temperature of a stack has moved by more than 10.0 °C since its last training. -/
def State.tempMoved (s : State) (k : Nat) : Bool :=
  decide (100 < ((s.tempNow (k / 2)).toInt - (vat 0 s.rv.trainTemp k).toInt).natAbs)

/-- Whether the reeve starts an activity now: the PATROL's 24 h of powered time, a RETRAIN for errors or temperature, the MARGIN's DUE. -/
def State.autoDue (s : State) (kind target : Nat) : Bool :=
  match kind with
  | 1 => bitOf s.rv.policy 0 && decide (86400000000000 ≤ s.powered (vat 0 s.rv.lastPatrol target))
  | 2 => bitOf s.rv.policy 1 && (s.tempMoved target || decide (1000 < s.errorsNow target))
  | 4 => bitOf s.rv.policy 2 && bitOf (s.fur (furOf target)).plan 37
  | _ => false

/-- AUTO_ACTIVITY (R346): a mailbox command of the same reeve cycle is admitted first. -/
def execAutoActivity (activity : BitVec 4) (target : Byte) (s : State) : Res :=
  let kind := activity.toNat
  let t := target.toNat
  if s.reeveRuns && !s.stopped && !s.mbxHas 0x0F10 && s.targetOk kind t && s.autoDue kind t && !s.actPending kind t then
    match s.actSlot with
    | some k => .next (s.admitAct k kind t)
    | none => .next s
  else .next s

/-! ### PATROL and RETRAIN (R348, R349) -/

/-- Device address of unit `u` of stack `k` (R262). -/
def unitAddr (k u : Nat) : Nat := k / 2 * (96 * 2 ^ 30) + (2 * u + k % 2) * 4096

/-- Whether the PATROL in entry `k` may take a slot of its stack port now: no other requester waits there, or 64 µs have passed since its last; and
1 µs has passed where the slot is for a further unit. -/
def State.patrolSlot (s : State) (k : Fin 16) : Bool :=
  let x := s.act k
  let p := s.stackPorts[targetStack x]
  let gap := s.powered x.slot
  !p.retraining && !p.failed && ((s.cands x.target.toNat).isEmpty || decide (64000 ≤ gap)) && (x.rewrite || decide (1000 ≤ gap))

/-- A corrected error that PATROL met in stack `k`, with those of the last second (R346). -/
def State.noteCorrected (s : State) (k : Nat) : State :=
  let l := (vat [] s.rv.corrected k).filter (fun t => decide (s.powered t < 1000000000)) ++ [s.uptime]
  { s with rv := { s.rv with corrected := vput s.rv.corrected k l } }

/-- PATROL_READ (R348): a slot of the stack port for a PATROL. Corrected data that waits is written back; else the next unit is read: an
uncorrectable one is counted and left as it is. -/
def execPatrolRead (k : Fin 16) (out : UnitRead) (s : State) : Res :=
  let x := s.act k
  if x.st = .running ∧ x.kind = 1 ∧ (x.rewrite ∨ x.step < patrolUnits) ∧ s.patrolSlot k ∧ s.reeveRuns ∧ !s.stopped then
    let a := unitAddr x.target.toNat x.step
    let bad := out == .uncorrectable || tany s.hbmBad a (a + 4096)
    let fix := !bad && out == .corrected
    if x.rewrite then .next (s.setAct k { x with slot := s.uptime, rewrite := false })
    else
      let s1 := s.setAct k { x with
        step := x.step + 1, slot := s.uptime, rewrite := fix, result := if bad && x.result != 255 then x.result + 1 else x.result }
      .next (if bad then s1.offer 0x0407 srcReeve x.target.toNat x.step 0 else if fix then s1.noteCorrected x.target.toNat else s1)
  else .next s

/-- RETRAIN_END (R349): a failure is repeated up to three times; the fourth is fault 0x0406. -/
def execRetrainEnd (k : Fin 16) (ok : Bool) (s : State) : Res :=
  let x := s.act k
  if x.st = .running ∧ x.kind = 2 ∧ s.reeveRuns ∧ !s.stopped then
    if ok then .next (s.finishAct k .done 0)
    else if x.step < 3 then .next (s.setAct k { x with step := x.step + 1 })
    else
      let s1 := (s.finishAct k .failed 0).modStack (targetStack x) (fun p => { p with failed := true })
      .next (s.oneCycle (s1.raise 3 .block ⟨0x0406, srcOf 8 x.target.toNat, x.target.toNat, 4, 0⟩ 0))
  else .next s

/-! ### MARGIN and plans (R350 to R353) -/

def planWord (fPass count due birth guard spanH ageH : Nat) : W64 :=
  w64 (at' fPass 56 + at' (min count 255) 40 + at' due 37 + at' birth 36 + at' guard 32 + at' (min spanH 65535) 16 + min ageH 65535)

/-- FT_CLOCK.FMAX_PLAN, and FMIN. -/
def fmaxPlan : Nat := 92
def fmin : Nat := 56

/-- CEILING of a plan (R351), never below FMIN: an F_PASS of 56 to 59 gives less at GUARD 6 (R3, R354, log 88). -/
def planCeiling (b : Build) (fPass guard : Nat) : Nat := max fmin (min (min fmaxPlan b.fmaxBuild.toNat) (fPass * (100 - guard) / 100))

def hourNs : Nat := 3600000000000

/-- GUARD of a plan by the counted measurements and the time they span (R352). -/
def guardOf (count span : Nat) : Nat := if 16 ≤ count ∧ 168 * hourNs ≤ span then 3 else 6

/-- Powered time of a plan made now, on the scale of the history's entries: it goes on from the latest entry by the powered time since that plan, or
since start-up (R352, R353, log 60). -/
def State.planTime (s : State) (f : Fur) : Nat :=
  (match (vat [] s.flash f.val).getLast? with | some e => e.2 | none => 0) +
    (match (s.fur f).countAt with | some t => s.powered t | none => s.uptime.toNat)

/-- A counted plan: COUNT so far, powered time of the first and of the latest that count, and F_PASS of the latest. -/
structure Counted where
  count : Nat
  first : Nat
  last : Nat
  fPass : Nat
  deriving DecidableEq, Repr

/-- One entry of the history, with its plan and powered time: it counts, or begins the count anew (R352). -/
def Counted.add (x : Counted) (e : W64 × Nat) : Counted :=
  let n := fld e.1 56 8
  if 0 < x.count && decide (x.fPass ≤ n + 4) then ⟨x.count + 1, x.first, e.2, n⟩ else ⟨1, e.2, e.2, n⟩

/-- COUNT and SPAN as a history rebuilds them (R353). -/
def countedOf (log : List (W64 × Nat)) : Counted := log.foldl Counted.add ⟨0, 0, 0, 0⟩

/-- A plan that measured `fPass`: whether it counts, its guard band and ceiling; the history holds the last 64 (R351 to R353). -/
def State.newPlan (s : State) (f : Fur) (fPass : Nat) : State :=
  let x := s.fur f
  let old := fld x.plan 40 8
  let keeps := decide (0 < old) && decide (x.countPass.toNat ≤ fPass + 4)
  let count := if keeps then old + 1 else 1
  let span := if keeps then x.planSpan + (match x.countAt with | some t => s.powered t | none => 0) else 0
  let guard := guardOf count span
  let p := planWord fPass count 0 0 guard (span / hourNs) 0
  let now := s.planTime f
  let log := vat [] s.flash f.val ++ [(p, now)]
  let s1 := s.setFur f { x with
    plan := p, planAt := some s.uptime, planSpan := span, countPass := byteOf fPass, countAt := some s.uptime
    ceiling := byteOf (planCeiling s.build fPass guard) }
  { s1 with flash := vput s.flash f.val (log.drop (log.length - 64)) }

/-- A plan whose history write fails stays in force and is not counted: event 0x0A07 (R353). -/
def State.unwrittenPlan (s : State) (f : Fur) (fPass : Nat) : State :=
  let x := s.fur f
  let count := fld x.plan 40 8
  let guard := guardOf count x.planSpan
  let s1 := s.setFur f { x with
    plan := planWord fPass count 0 0 guard (x.planSpan / hourNs) 0, planAt := some s.uptime
    ceiling := byteOf (planCeiling s.build fPass guard) }
  s1.offer 0x0A07 srcReeve f.val fPass 0

/-- The sweep stops with F_PASS, or with step 56 failing (R351); `written` says whether the history write succeeds. -/
def State.marginDone (s : State) (k : Fin 16) (f : Fur) (fPass : Nat) (written : Bool) : State :=
  if fPass < 56 then
    ((s.failPairs f 3).modFur f Furrow.afterTest).finishAct k .failed 0
  else
    let s1 := (if written then s.newPlan f fPass else s.unwrittenPlan f fPass).modFur f Furrow.afterTest
    s1.finishAct k .done (s1.fur f).ceiling.toNat

/-- MARGIN_STEP (R351): the step under test passed or failed; steps 56 to 98. -/
def execMarginStep (k : Fin 16) (passed written : Bool) (s : State) : Res :=
  let x := s.act k
  let f := targetFur x
  if x.st = .running ∧ x.kind = 4 ∧ x.pausedAt = none ∧ s.reeveRuns ∧ !s.stopped then
    if !passed then .next (s.marginDone k f (x.step - 1) written)
    else if 98 ≤ x.step then .next (s.marginDone k f 98 written)
    else .next (s.setAct k { x with step := x.step + 1 })
  else .next s

/-- Samples in a row in which each canary has been low, after one in which those of `low` are; the sixteenth starts anew (R350). -/
def lowCounts (low : BitVec 16) (v : Vector Nat 16) : Vector Nat 16 :=
  v.mapIdx (fun i n => if bitOf low i && decide (n < 15) then n + 1 else 0)

/-- The first canary that is low for the sixteenth sample in a row. -/
def lowCanary (low : BitVec 16) (v : Vector Nat 16) : Option Nat := (List.range 16).find? (fun i => bitOf low i && decide (15 ≤ vat 0 v i))

/-- CANARY_SAMPLE (R350): every 62.5 µs of a RUNNING furrow, with the canaries that read low; one that is low for the sixteenth sample in a row
lowers CEILING by one step. -/
def execCanarySample (f : Fur) (low : BitVec 16) (s : State) : Res :=
  let x := s.fur f
  let due := match vat none s.rv.lastCanary f.val with | none => true | some t => decide (62500 ≤ s.since t)
  if s.reeveRuns && !s.stopped && due && x.doms.toList.any (fun d => d.st == .running) then
    let s1 : State := { s with rv := { s.rv with lastCanary := vput s.rv.lastCanary f.val (some s.time) } }
    let s2 := s1.setFur f { x with lowSamples := lowCounts low x.lowSamples }
    match lowCanary low x.lowSamples with
    | none => .next s2
    | some c =>
      let step := max fmin (x.ceiling.toNat - 1)
      .next ((s2.modFur f (fun x => { x with ceiling := byteOf step, plan := setBit x.plan 37 true })).offer 0x0A05 srcReeve f.val c step)
  else .next s

/-- PLAN_DUE (R352): 24 powered hours after the plan in force was made. -/
def execPlanDue (f : Fur) (s : State) : Res :=
  let x := s.fur f
  match x.planAt with
  | some t => if s.reeveRuns && decide (24 * hourNs ≤ s.powered t) then .next (s.setFur f { x with plan := setBit x.plan 37 true }) else .next s
  | none => .next s

end Sys2Proof.Machine
end

