-- ==== Sys2Proof/Machine/Segments.lean ====
section
/-! DEFINITION. Writes and ops of the segment table (R258 to R260, R266 to R268, R273). -/

namespace Sys2Proof.Machine

def sgOff (i r : Nat) : Nat := 0x100000 + 32 * i + r

/-- Event 0x0602 of a refused write or op. DESIGN CHOICE: of a 32-bit write to half a register it gives the register's offset, and bits [23:0] of the value
that the whole register would have taken (R273, log 104). -/
def State.segRefuse (s : State) (i off v : Nat) : State :=
  let g := s.seg i
  s.offer 0x0602 srcBlock i (at' (v % 2 ^ 24) 8 + off) (at' g.refs 2 + g.st.toNat)

/-- R260 on the fields of an entry. A register field that is reserved ignores a nonzero write and reads as zero (R11): no entry holds one (log 87). -/
def Seg.createOk (g : Seg) : Bool :=
  (g.host || decide (g.base.toNat * 2 ^ 21 + g.granules.toNat * 2 ^ 21 ≤ Config.hbmBytes)) && !(g.host && g.enc) && decide (g.keySlot.toNat ≤ 47)

def Seg.withBase (g : Seg) (v : W64) : Seg := { g with base := BitVec.ofNat 43 (fld v 21 43), host := bitOf v 0 }
def Seg.withSize (g : Seg) (v : W64) : Seg := { g with granules := BitVec.ofNat 24 (fld v 0 24) }
def Seg.withAccess (g : Seg) (v : W64) : Seg :=
  { g with
    enc := bitOf v 39, keySlot := BitVec.ofNat 6 (fld v 32 6), owner := BitVec.ofNat 12 (fld v 16 12)
    xF := bitOf v 3, oF := bitOf v 2, oW := bitOf v 1, oR := bitOf v 0 }

/-- A field write (R268): any in FREE; BASE and GRANULES in VALID with no reference, where the result satisfies R260. DESIGN
CHOICE: a write of BASE in VALID whose KIND bit differs from the entry's is refused whole (R268, log 105). -/
def State.writeSeg (s : State) (i reg : Nat) (v : W64) : State :=
  let g := s.seg i
  let new := match reg with | 0 => g.withBase v | 1 => g.withSize v | _ => g.withAccess v
  let free := g.st == 0
  let moved := g.st == 1 && g.refs == 0 && decide (reg ≤ 1) && new.createOk && new.host == g.host
  if i ≠ 0 ∧ (free || moved) then s.setSeg i new else s.segRefuse i (8 * reg) v.toNat

/-- SEGMENT_FIELD_WRITE (R268). -/
def execSegmentFieldWrite (i : BitVec 15) (reg : Fin 3) (v : W64) (s : State) : Res :=
  .next (s.hostWrite (sgOff i.toNat (8 * reg.val)) 8 (fun s => s.writeSeg i.toNat reg.val v))

/-- OP CREATE (R260), written as value `v`. A command is a tick of its own: it sees the writes of earlier ones (R267, log 75). -/
def State.createSeg (s : State) (i v : Nat) : State :=
  let g := s.seg i
  if i ≠ 0 ∧ g.st = 0 ∧ g.createOk then s.setSeg i { g with st := 1 } else s.segRefuse i 0x18 v

/-- SEGMENT_CREATE (R260). -/
def execSegmentCreate (i : BitVec 15) (s : State) : Res :=
  .next (s.hostWrite (sgOff i.toNat 0x18) 8 (fun s => s.createSeg i.toNat 0x10))

/-- The entry is FREE with GEN + 1, or RETIRED with event 0x8601 (R259). -/
def State.retireSeg (s : State) (i : Nat) : State :=
  let g := s.seg i
  if g.gen = 0xFFFF then (s.setSeg i { g with st := 3 }).offer 0x8601 srcBlock i 0xFFFF 0
  else s.setSeg i { g with st := 0, gen := g.gen + 1 }

/-- OP FREE (R259), written as value `v`. -/
def State.freeSeg (s : State) (i v : Nat) : State :=
  let g := s.seg i
  if i = 0 ∨ g.st ≠ 1 then s.segRefuse i 0x18 v
  else if g.refs = 0 then s.retireSeg i
  else s.setSeg i { g with st := 2 }

/-- SEGMENT_FREE (R259). -/
def execSegmentFree (i : BitVec 15) (s : State) : Res :=
  .next (s.hostWrite (sgOff i.toNat 0x18) 8 (fun s => s.freeSeg i.toNat 0x20))

/-- SEGMENT_RELEASE (R259): a DYING entry without references; at L4 nothing happens (R329). -/
def execSegmentRelease (i : BitVec 15) (s : State) : Res :=
  let g := s.seg i.toNat
  if g.st = 2 ∧ g.refs = 0 ∧ !s.dead then .next (s.retireSeg i.toNat) else .next s

end Sys2Proof.Machine
end

