-- ==== Sys2Proof/Machine/Recovery.lean ====
section
/-! DEFINITION. Recoveries: the sequences of L2, L3 and L4, requested recoveries, the faults of the block, and FAULT_N (R321 to R331). -/

namespace Sys2Proof.Machine

/-! ### Parts of a scope (R46, R327) -/

/-- Drills of a scope. -/
def scopeDrills (sc : Scope) : List DrillNo :=
  match sc with | .half0 => [0, 1, 2, 3] | .half1 => [4, 5, 6, 7] | _ => [0, 1, 2, 3, 4, 5, 6, 7]

/-- A scope's share of `n` like things, as a half-open range. -/
def scopeSpan (sc : Scope) (n : Nat) : Nat × Nat :=
  match sc with | .half0 => (0, n / 2) | .half1 => (n / 2, n) | _ => (0, n)

/-- Pairs of bricks of a scope. -/
def scopePairs (sc : Scope) : List Nat := match sc with | .half0 => [0] | .half1 => [1] | _ => [0, 1]

/-- Whether a scratchpad run of a furrow touches the banks of a scope. -/
def State.runInScope (s : State) (sc : Scope) (a n : Nat) : Bool :=
  let w := scopeSpan sc s.build.banks
  overlaps a (max n 1) (w.1 * 0x80000) ((w.2 - w.1) * 0x80000)

/-- Whether an accepted command is a COPY, SCRATCH_WRITE or SCRATCH_READ with a scratchpad side in the scope (R330). -/
def State.sideInScope (s : State) (f : Fur) (sc : Scope) (c : Cmd) : Bool :=
  let w := c.w
  match c.opcode.toNat with
  | 0x0200 =>
    (nfld (w 1) 8 1 == 1 && nfld (w 1) 0 4 == f.val && s.runInScope sc (w 3) (w 6)) ||
    (nfld (w 1) 9 1 == 1 && nfld (w 1) 4 4 == f.val && s.runInScope sc (w 5) (w 6))
  | 0x0204 => nfld (w 1) 0 4 == f.val && s.runInScope sc (nfld (w 2) 0 25) (nfld (w 2) 32 7)
  | 0x0205 => nfld (w 1) 0 4 == f.val && s.runInScope sc (nfld (w 2) 0 25) (nfld (w 2) 32 10)
  | _ => false

/-- Whether an accepted command is a CONFIGURE of a domain of the scope that waits (R330). -/
def configInScope (f : Fur) (sc : Scope) (c : Cmd) : Bool := (scopeDoms sc).any (fun d => isConfig f d c)

/-- Accepted commands that an L2 of the scope abandons, its STARTs and drill lists apart. -/
def State.scopeCmds (s : State) (f : Fur) (sc : Scope) : List CmdRef :=
  (List.range 64).flatMap (fun q =>
    ((s.queue (slotOf q)).cmds.filter (fun c =>
      !c.done && c.stage != 3 && (s.sideInScope f sc c || configInScope f sc c))).map (fun c => (⟨q, c.seq⟩ : CmdRef)))

/-- A command abandoned with BUSY: its engine, scoreboard entries (R118), port-S transfers and slots are given up. -/
def State.abandonCmd (s : State) (r : CmdRef) : State :=
  let s1 := (s.endJob r).leaveBoards r
  let s2 : State := { s1 with
    furs := s1.furs.map (fun x => { x with xfers := x.xfers.filter (fun t => t.agent != .host (slotOf r.q) r.seq) })
    fences := s1.fences.filter (fun j => j.ref != r) }
  s2.finish r stBusy 0 0

/-! ### L2 (R327) -/

/-- The L2 of furrow `f` and scope `sc` in a phase. -/
def State.l2Of (s : State) (f : Fur) (sc : Scope) (phase : Nat) : Option Recov :=
  s.dc.recovs.find? (fun x => x.level == 2 && x.phase == phase && x.fur == f.val && x.scope == sc)

/-- What step 3 clears of the furrow. -/
def Furrow.clearScope (x : Furrow) (sc : Scope) : Furrow :=
  let w := scopeSpan sc 4
  let y := (scopeDoms sc).foldl (fun z d => z.setDom d (z.dom d).clearRegs) x
  ((y.clearWindrow w.1 w.2).clearRings (scopeSpan sc 16).1 (scopeSpan sc 16).2).resetMortars w.1 w.2

/-- VALID cleared in the entries whose code touches the 32 KiB segment of store address `a` (R327). -/
def Furrow.dropCode (x : Furrow) (a : Nat) : Furrow :=
  let lo := a / 0x8000 * 0x8000
  { x with routines := tmap Routine.zero (fun e =>
      if decide (0 < e.length) && decide (e.addr < lo + 0x8000) && decide (lo < e.addr + e.length) then { e with ctrl := setBit e.ctrl 63 false } else e) x.routines 0 256 }

/-- Steps 2 to 4: the scope stops and is cleared, and its accepted commands complete; its domains are then OFFLINE. -/
def State.resetScope (s : State) (f : Fur) (sc : Scope) : State :=
  let s1 := s.stopDrills f (scopeDrills sc)
  let s2 := if sc = .furrow then (let o := s1.dropRelay f; o.1.relayLost f o.2) else s1
  let s3 := (scopeDoms sc).foldl (fun s d => s.abandonDom f d) s2
  let s4 := (s3.scopeCmds f sc).foldl State.abandonCmd s3
  s4.modFur f (fun x =>
    let y := x.clearScope sc
    let z := { y with xfers := y.xfers.filter (fun t => !s.runInScope sc t.addr 1) }
    (scopeDoms sc).foldl (fun z d => if (z.dom d).st = .unused then z else z.setDom d { z.dom d with st := .offline }) z)

/-- L2_RESET (R327 steps 2 to 5). -/
def execL2Reset (f : Fur) (sc : Scope) (s : State) : Res :=
  match s.l2Of f sc 0 with
  | none => .next s
  | some r =>
    if s.stopped then .next s
    else
      let s1 := (s.abortFurrowActs f).resetScope f sc
      let s2 := if r.code = 0x0106 then s1.modFur f (fun x => x.dropCode r.master) else s1
      .next (s.oneCycle { s2 with dc := { s2.dc with recovs := s2.dc.recovs.map (fun x => if x = r then { x with phase := 1 } else x) } })

/-- The quick self-test's word on one pair of a furrow: in service, or disabled, with fault 0x0301 where it was in service (R174); its brick
is the pair's first (log 68). -/
def State.testPair (s : State) (f : Fur) (pair : Nat) (failing : Bool) : State :=
  let x := s.fur f
  let built := decide (pair < s.build.bricksOf f.val / 2)
  let absent := decide (pair = 1) && bitOf s.build.carrierTwo f.val
  let pass := built && !failing && !absent
  let s1 := (s.modFur f (fun x => x.setPair pair pass)).showActive f
  if bitOf x.inService pair && !pass then
    s1.faultRecord 0x0301 (srcDom f (if x.split then domOf pair else 0)) (at' f.val 24 + 2 * pair) pair (if absent then 4 else 2)
      (levByte 1 false false)
  else s1

def State.testPairs (s : State) (f : Fur) (sc : Scope) (failing : Nat) : State :=
  let s1 := (scopePairs sc).foldl (fun s p => s.testPair f p (nfld failing p 1 == 1)) s
  s1.modFur f (fun x => x.clearCells (scopeSpan sc 4).1 (scopeSpan sc 4).2)

/-- SOURCE of the completion record of a furrow's recovery. -/
def scopeSrc (f : Fur) (sc : Scope) : W16 := match sc with | .half1 => srcDom f 1 | .block => srcBlock | _ => srcDom f 0

/-- The domains of a scope go back into service, unless a critical temperature keeps the furrows OFFLINE (R356), and but for those that another
L2 in progress covers (R327). -/
def State.scopeOnline (s : State) (f : Fur) (sc : Scope) : State :=
  if s.rv.critical then s
  else s.modFur f (fun x => (scopeDoms sc).foldl (fun x d =>
    if (x.dom d).st = .offline ∧ !s.underL2 f d then x.setDom d { x.dom d with st := backState x.split d.val } else x) x)

/-- L1 recoveries of the scope's masters are complete: their masters were reset. -/
def State.mastersReset (s : State) (f : Fur) (sc : Scope) : State :=
  let s1 := (scopeDoms sc).foldl (fun s d => s.masterThawed (masterDom f d)) s
  (scopeDrills sc).foldl (fun s k => s.masterThawed (masterDrill f k)) s1

/-- Step 6: the L2 is complete; the release of a furrow that DEBUG_ENABLE evicts begins (R360). -/
def State.l2Done (s : State) (f : Fur) (sc : Scope) (r : Recov) : State :=
  let s1 : State := { s with dc := { s.dc with
    recovs := s.dc.recovs.map (fun x => if x = r then { x with phase := 2, finished := s.time } else x) } }
  let s2 := (s1.scopeOnline f sc).mastersReset f sc
  let s3 := s2.faultRecord 0x8540 (scopeSrc f sc) (at' f.val 8 + scopeCode sc) 2 (s.since r.detect) (levByte 2 false false)
  if r.byDebug && s3.ownedProtected f then (s3.beginLeave f).debugStep else s3.debugStep

/-- L2_COMPLETE (R327 steps 5 and 6): `failing` are the pairs that the quick self-test found failing; its records come before that of step 6. -/
def execL2Complete (f : Fur) (sc : Scope) (failing : BitVec 2) (s : State) : Res :=
  match s.l2Of f sc 1 with
  | none => .next s
  | some r =>
    if s.stopped then .next s
    else
      let t := s.oneCycle (s.testPairs f sc failing.toNat)
      .next (t.oneCycle (t.l2Done f sc r))

/-! ### L3 (R328) -/

/-- A furrow after step 5: as after block reset, but for ownership, clocks, plans, settings and the pairs in service. A gated one has ungated, at FMIN
(R45, R355). Both domains show OFFLINE until
step 6, also in a furrow that is not split (R53, log 69). DESIGN CHOICE: MO_Uu_ERR.CODE goes to zero with the counters (R236, log 102). -/
def Furrow.atL3 (x : Furrow) (audit : Bool) : Furrow :=
  { Furrow.atReset audit with
    doms := Vector.replicate 2 (Domain.atReset .offline)
    lent := x.lent, budgetHeld := x.budgetHeld, thermalHeld := x.thermalHeld, throttled := x.throttled
    ceiling := x.ceiling, current := if x.gated then byteOf fmin else x.current, stallLimit := x.stallLimit, auditEn := x.auditEn
    inService := x.inService, owned := x.owned, owner := x.owner
    pendingAssign := x.pendingAssign, assignZeroing := x.assignZeroing, zeroAt := x.zeroAt, zeroing := x.zeroing, release := x.release, target := x.target
    plan := x.plan, planAt := x.planAt, planSpan := x.planSpan, countPass := x.countPass, countAt := x.countAt
    lowSamples := x.lowSamples, thermalLimit := x.thermalLimit }

/-- A port after step 5: its counters at zero (R319). -/
def Port.atL3 (x : Port) : Port := { x with tx := 0, rx := 0, replays := 0 }

/-- A segment entry after step 5: no references, and a DYING one freed (R259, R269). -/
def State.dropRefs (s : State) : State :=
  s.segs.foldl (fun s (p : Nat × Seg) =>
    let s1 := s.setSeg p.1 { s.seg p.1 with refs := 0 }
    if p.2.st = 2 then s1.retireSeg p.1 else s1) s

/-- A fence signal all of whose slots have been granted is done at its memory, and its command not completed (R277, R328 steps 2 and 3). Whether a
read fails that the memory itself does not show is a free value (R276, log 103). -/
def State.flushSignal (s : State) (q : QSlot) (c : Cmd) : State :=
  let granted := c.opcode == 0x0300 && c.stage == 2 && !c.done && !(s.locOf (c.w 2) (c.w 3)).host && !s.fences.any (fun j => j.ref == ⟨q.val, c.seq⟩)
  if granted then (s.fenceOp (c.w 2) (c.w 3) c.since (c.w 4) (srcQueue q) (at' q.val 24) (s.freeOutcome (s.locOf (c.w 2) (c.w 3)))).1.bumpFree
  else s

/-- The fence signals of the queues and of the mesh that have had both slots. -/
def State.flushSignals (s : State) : State :=
  let s1 := (List.range 64).foldl (fun s q => (s.queue (slotOf q)).cmds.foldl (fun s c => s.flushSignal (slotOf q) c) s) s
  s1.ms.recv.foldl (fun s (p : Nat × RecvLane) => match p.2.cur, p.2.slots with
    | some fr, some (_, []) => if (s.segCheck 0 (fsigHandle fr) (fsigOff fr) 8 3).isNone then
      (s.fsigOp fr (s.freeOutcome (s.locOf (fsigHandle fr) (fsigOff fr)))).1.bumpFree else s
    | _, _ => s) s1

/-- Steps 2 to 5: stack requests already granted complete, and the rest is dropped (log 77). -/
def State.resetBlock (s : State) : State :=
  let s0 := (allFurs.foldl (fun s f => (scopeDrills .block).foldl (fun s k => s.flushDrill f k) s) s).flushSignals
  let s1 := s0.abortActs.endDebugL3
  let s2 : State := { s1 with
    furs := s1.furs.map (fun x => x.atL3 s.build.audit)
    queues := Vector.replicate 64 Queue.atReset, watches := Vector.replicate 256 Watch.free
    ctxs := s1.ctxs.map (fun c => { c with frozen := false, freezes := [] })
    copies := [], remotes := [], fences := [], stackPorts := Vector.replicate 32 StackPort.zero
    dispRR := Vector.replicate 8 0, dispG := 0
    gl := { s1.gl with sticky := 0 }
    rv := { s1.rv with woke := s1.rv.woke || allFurs.any (fun f => (s1.fur f).gated) }
    ms := { s1.ms with
      sticky := 0, drops := 0, ports := s1.ms.ports.map Port.atL3, send := [], recv := [], frozenSrcs := [] } }
  s2.dropRefs

def State.l3Of (s : State) (phase : Nat) : Option Recov := s.dc.recovs.find? (fun x => x.level == 3 && x.phase == phase)

/-- L3_RESET (R328 steps 2 to 5). -/
def execL3Reset (s : State) : Res :=
  match s.l3Of 0 with
  | none => .next s
  | some r =>
    if s.dead then .next s
    else
      let s1 := s.oneCycle s.resetBlock
      .next { s1 with dc := { s1.dc with recovs := s1.dc.recovs.map (fun x => if x = r then { x with phase := 1 } else x) } }

/-- The built furrows. -/
def State.builtFurs (s : State) : List Fur := allFurs.filter (fun f => decide (f.val < s.build.furrows))

/-- Step 6: the quick self-test of every furrow. -/
def State.l3Tests (s : State) (failing : Nat) : State :=
  s.builtFurs.foldl (fun s f => s.testPairs f .furrow (nfld failing (2 * f.val) 2)) s

/-- Step 7, the furrows being in service again: READY; every recovery is complete. An L3 during start-up leaves READY to the rest of
start-up, and the reeve's firmware with it (R392, R393, log 84). -/
def State.l3Done (s : State) (r : Recov) : State :=
  let s1 : State := { s with
    dc := { s.dc with
      ready := s.dc.started, l3 := false
      recovs := s.dc.recovs.map (fun x => if x.phase = 2 then x else { x with phase := 2, finished := s.time }) }
    rv := { s.rv with booted := s.dc.started || s.rv.booted } }
  let s2 := s1.builtFurs.foldl (fun s f => s.scopeOnline f .furrow) s1
  s2.faultRecord 0x8540 srcBlock 3 3 (s.since r.detect) (levByte 3 false false)

/-- Time within which an L3 must reach its step 7. -/
def Recov.l3Limit (r : Recov) : Nat := if r.code = 0x0509 then 400000000 else 100000000

/-- L3_COMPLETE (R328 steps 6 and 7), within the time that R328 gives; the records of step 6 come before that of step 7. -/
def execL3Complete (failing : BitVec 32) (s : State) : Res :=
  match s.l3Of 1 with
  | none => .next s
  | some r =>
    if s.dead || decide (r.l3Limit ≤ s.since r.detect) then .next s
    else
      let t := s.oneCycle (s.l3Tests failing.toNat)
      .next (t.oneCycle (t.l3Done r))

/-- L3_TIMEOUT (R328): the L3 becomes an L4; the parameters of its record are not stated: free values (log 2). -/
def execL3Timeout (s : State) : Res :=
  match s.dc.recovs.find? (fun x => x.level == 3 && x.phase != 2) with
  | none => .next s
  | some r =>
    if !s.dead && decide (r.l3Limit ≤ s.since r.detect) then
      .next (s.startL4 ⟨r.code.toNat, r.source, (Config.freeWord s.free).toNat, (Config.freeWord (s.free + 1)).toNat,
        (Config.freeWord (s.free + 2)).toNat⟩ true false).bumpFree.bumpFree.bumpFree
    else .next s

/-! ### L4 (R329) -/

/-- L4_ENTRY: L4_NEEDED and DC_STICKY.L4; keys are erased and debug ends (R359, R361). -/
def execL4Entry (s : State) : Res :=
  match s.dc.recovs.find? (fun x => x.level == 4 && x.phase == 0) with
  | none => .next s
  | some r =>
    let s1 := (s.endDebug 3).eraseKeys (fun _ _ => true)
    .next { s1 with
      dc := { s1.dc with
        l4 := true, ready := false, sticky := setBit s1.dc.sticky 34 true
        recovs := s1.dc.recovs.map (fun x => if x = r then { x with phase := 1 } else x) } }

/-! ### Windows and FAULT_N (R324, R331) -/

/-- RECOVERY_WINDOW_CLOSE (R324): 1 ms after the recovery completed. -/
def execRecoveryWindowClose (r : RecDomain) (s : State) : Res :=
  match s.openRec r with
  | some o => if o.phase = 2 ∧ 1000000 ≤ s.since o.finished ∧ !s.dead then .next (s.dropRec r) else .next s
  | none => .next s

/-- Whether an L2, L3 or L4 is in progress. -/
def State.recovering (s : State) : Bool := s.dc.l4 || s.dc.l3 || s.dc.recovs.any (fun x => decide (2 ≤ x.level) && x.phase != 2)

/-- FAULT_N_RELEASE (R331). -/
def execFaultNRelease (s : State) : Res :=
  match s.dc.faultN with
  | none => .next s
  | some t =>
    if !s.recovering && fld s.dc.sticky 48 16 == 0 && !bitOf s.dc.sticky 33 && !bitOf s.dc.sticky 34 && decide (10000 ≤ s.since t) then
      .next { s with dc := { s.dc with faultN := none } }
    else .next s

/-! ### Faults of the block and of furrow control (R321) -/

/-- Whether the block can detect a fault now: out of reset and not at L4. -/
def State.detects (s : State) : Bool := s.release == 3 && !s.dead

/-- Domains that fetch: STARTING and RUNNING ones. -/
def Furrow.fetching (x : Furrow) : Nat :=
  b2n ((x.dom 0).st == .running || (x.dom 0).st == .starting) + 2 * b2n ((x.dom 1).st == .running || (x.dom 1).st == .starting)

/-- The failing store address of an L2 in progress is kept for step 3 (R327). -/
def State.noteStore (s : State) (f : Fur) (a : Nat) : State :=
  { s with dc := { s.dc with recovs := s.dc.recovs.map (fun x =>
      if x.dom == .furrow f && x.level == 2 && x.phase == 0 && x.code == 0x0106 then { x with master := a } else x) } }

/-- PSTORE_ECC_ERROR (R85, R50): a fetch meets an uncorrectable error. -/
def execPstoreEccError (f : Fur) (addr : BitVec 18) (s : State) : Res :=
  let n := (s.fur f).fetching
  if s.detects && !s.stopped && n != 0 then
    let s1 := s.modFur f (fun x => { x with sticky := setBit x.sticky 3 true })
    .next ((s1.raise 2 (.furrow f) ⟨0x0106, srcDom f 0, f.val, addr.toNat, n⟩ 0).noteStore f addr.toNat)
  else .next s

/-- FURROW_CONTROL_FAULT (R321). -/
def execFurrowControlFault (f : Fur) (unit : BitVec 2) (s : State) : Res :=
  if s.detects && !s.stopped && decide (f.val < s.build.furrows) then
    let s1 := s.modFur f (fun x => { x with sticky := setBit x.sticky 2 true })
    .next (s1.raise 2 (.furrow f) ⟨0x0108, srcDom f 0, f.val, unit.toNat, 0⟩ 0)
  else .next s

/-- DISPATCHER_ERROR (R321). -/
def execDispatcherError (unit : BitVec 2) (index : W16) (s : State) : Res :=
  if s.detects then .next (s.raise 3 .block ⟨0x0508, srcBlock, unit.toNat, index.toNat, 0⟩ 0) else .next s

/-- REEVE_WATCHDOG (R321): the reeve restarts in the L3. -/
def execReeveWatchdog (report : W32) (s : State) : Res :=
  if s.detects then
    let s1 : State := { s with rv := { s.rv with booted := false } }
    .next (s1.raise 3 .block ⟨0x0509, srcReeve, report.toNat, 0, 0⟩ 0)
  else .next s

/-- SEGMENT_TABLE_ERROR (R321). -/
def execSegmentTableError (i : BitVec 15) (s : State) : Res :=
  if s.detects then .next (s.raise 3 .block ⟨0x0604, srcBlock, i.toNat, 0, 0⟩ 0) else .next s

/-- CONFIGURATION_UPSET (R321). -/
def execConfigurationUpset (report : W32) (s : State) : Res :=
  if s.detects then .next (s.startL4 ⟨0x0520, srcBlock, report.toNat, 0, 0⟩ false false) else .next s

/-! ### DC_CTRL (R321, R322) -/

/-- RESET_FURROW: an L2 of each furrow named that is built and in no L2. -/
def State.resetFurrows (s : State) (mask : W16) : State :=
  allFurs.foldl (fun s f =>
    if bitOf mask f.val && decide (f.val < s.build.furrows) && !s.inL2 f && !s.stopped then
      s.request 2 (.furrow f) ⟨0x0512, srcBlock, 1, at' f.val 8, 2⟩ false
    else s) s

def State.requestBlock (s : State) : State := s.request 3 .block ⟨0x0512, srcBlock, 1, 3, 3⟩ false

def State.thawDebug (s : State) : State :=
  if bitOf s.dc.sticky 35 then s else { s with dc := { s.dc with debugFrozen := false } }

def dcOff (r : Nat) : Nat := 0x1000 + r

/-- RESET_FURROW (R321). -/
def execResetFurrow (mask : W16) (s : State) : Res := .next (s.oneCycle (s.hostWrite (dcOff 0x10) 8 (fun s => s.resetFurrows mask)))
/-- RESET_BLOCK (R321). -/
def execResetBlock (s : State) : Res := .next (s.hostWrite (dcOff 0x10) 8 State.requestBlock)
/-- DBG_THAW (R322). -/
def execDbgThaw (s : State) : Res := .next (s.hostWrite (dcOff 0x10) 8 State.thawDebug)

end Sys2Proof.Machine
end

