-- ==== Sys2Proof/Machine/ClockPlan.lean ====
section
/-! DEFINITION. Clock plans, power and temperature: the reeve's 10 µs evaluation, RV_BUDGET, thermal limits and THROTTLE_N (R354 to R357). -/

namespace Sys2Proof.Machine

/-! ### The budget (R355) -/

/-- Whether a furrow is OFFLINE. -/
def Furrow.offline (x : Furrow) : Bool := x.doms.toList.any (fun d => d.st == .offline)

def sumNat (l : List Nat) : Nat := l.foldl (· + ·) 0

/-- Draw that comes off the budget before the share is formed; `counted` says which gated furrows are gated. -/
def State.fixedDraw (s : State) (gated : Fur → Bool) : Nat :=
  Config.sharedAllowance + sumNat (s.builtFurs.map (fun f =>
    if (s.fur f).offline then Config.maintenanceDraw f.val else if gated f then Config.gatedDraw f.val else 0))

/-- Furrows that share: built, neither gated nor OFFLINE. -/
def State.sharers (s : State) (gated : Fur → Bool) : Nat := (s.builtFurs.filter (fun f => !gated f && !(s.fur f).offline)).length

/-- Whether furrow `f` at a step fits the share (R355): draw ≤ (WATTS − fixed) / n. -/
def State.fits (s : State) (gated : Fur → Bool) (f : Fur) (step : Nat) : Bool :=
  decide (Config.drawAtStep f.val step * s.sharers gated + s.fixedDraw gated ≤ s.rv.budget.toNat)

/-- The highest step from FMIN to 98 that fits, none where FMIN does not. -/
def State.budgetStep (s : State) (gated : Fur → Bool) (f : Fur) : Option Nat :=
  (((List.range 43).map (fun i => fmin + i)).filter (s.fits gated f)).getLast?

def State.isGated (s : State) (f : Fur) : Bool := (s.fur f).gated

/-- Whether even FMIN fits no share: then every furrow runs at FMIN. -/
def State.unmetNow (s : State) (gated : Fur → Bool) : Bool :=
  (s.builtFurs.filter (fun f => !gated f && !(s.fur f).offline)).any (fun f => (s.budgetStep gated f).isNone)

/-- Budget step of furrow `f`. -/
def State.budgetOf (s : State) (gated : Fur → Bool) (f : Fur) : Nat :=
  if s.unmetNow gated then fmin else (s.budgetStep gated f).getD fmin

/-! ### The plan (R354) -/

/-- FU_CLOCK of furrow `f` after an evaluation. A gated furrow keeps its words until it ungates (R45). -/
def State.planFur (s : State) (f : Fur) : Furrow :=
  let x := s.fur f
  let ceil := x.ceiling.toNat
  let thermal := x.thermalLimit.getD ceil
  let b := s.budgetOf s.isGated f
  let step := min ceil (min b thermal)
  let alone := min ceil (min (s.budgetOf (fun _ => false) f) thermal)
  if x.gated then x
  else if s.pins.throttle then { x with current := byteOf fmin, lent := false, budgetHeld := false, thermalHeld := false }
  else { x with
    current := byteOf step, lent := decide (alone < step), budgetHeld := b == step && decide (b < ceil)
    thermalHeld := thermal == step && decide (thermal < ceil) }

/-- Draw of furrow `f` in its state (RV_POWER.ESTIMATE). -/
def State.drawNow (s : State) (f : Fur) : Nat :=
  let x := s.fur f
  if x.offline then Config.maintenanceDraw f.val else if x.gated then Config.gatedDraw f.val else Config.drawAtStep f.val x.current.toNat

def State.estimateNow (s : State) : Nat := Config.sharedAllowance + sumNat (s.builtFurs.map s.drawNow)

/-- Whether R355 gives no share that RV_POWER.SHARE could show: no furrow shares, or less than nothing is left. -/
def State.noShare (s : State) : Bool := s.sharers s.isGated == 0 || decide (s.rv.budget.toNat < s.fixedDraw s.isGated)

/-- RV_POWER.SHARE; a free value where there is none to show (log 2). -/
def State.shareNow (s : State) : Nat :=
  if s.noShare then (Config.freeWord s.free).toNat % 65536
  else (s.rv.budget.toNat - s.fixedDraw s.isGated) / s.sharers s.isGated

/-- One evaluation of all furrows. -/
def State.planAll (s : State) : State :=
  let s1 := s.builtFurs.foldl (fun t f => t.setFur f (s.planFur f)) s
  { s1 with
    free := if s.noShare then s.free + 1 else s.free
    rv := { s1.rv with
      share := s.shareNow, unmet := s.unmetNow s.isGated, woke := false, lastPlan := some s.time } }

/-- An evaluation with the event of a budget that FMIN no longer meets. -/
def State.planUpdate (s : State) : State :=
  let t := s.planAll
  if t.rv.unmet && !s.rv.unmet then t.offer 0x0A04 srcReeve 1 s.rv.budget.toNat t.estimateNow else t

/-- CLOCK_PLAN_UPDATE (R354, R355): every 10 µs, and within 2 µs of an ungating: the furrows that borrowed fall and the one that woke rises in one
evaluation (log 89). An L3 does not suspend it, nor the steps of a thermal limit (R328, log 56). -/
def execClockPlanUpdate (s : State) : Res :=
  let due := match s.rv.lastPlan with | none => true | some t => decide (10000 ≤ s.since t)
  if s.reeveRuns && (due || s.rv.woke) then .next s.planUpdate else .next s

/-- RV_BUDGET written: a value outside 800 to 2,400 is ignored with event 0x0A04. -/
def State.writeBudget (s : State) (v : W64) : State :=
  let w := fld v 0 16
  if 800 ≤ w ∧ w ≤ 2400 then { s with rv := { s.rv with budget := BitVec.ofNat 16 w } } else s.offer 0x0A04 srcReeve 2 w s.estimateNow

/-- RV_BUDGET_WRITE (R355). -/
def execRvBudgetWrite (v : W64) (s : State) : Res := .next (s.hostWrite (rvOff 0x18) 8 (fun s => s.writeBudget v))

/-! ### Temperatures (R356) -/

/-- Sensors of die `d`: its sites and the die's own. -/
def dieSensors (die : Fin 4) : List Nat := [4 * die.val, 4 * die.val + 1, 4 * die.val + 2, 4 * die.val + 3, 16 + die.val]
def dieFurs (die : Fin 4) : List Fur := [furOf (4 * die.val), furOf (4 * die.val + 1), furOf (4 * die.val + 2), furOf (4 * die.val + 3)]

/-- Reading of sensor `i` among 20, in 0.1 °C. -/
def tempAt (temps : List W16) (i : Nat) : Int := (temps.getD i 0).toInt

/-- RV_TEMPs after a reading of all sensors. -/
def State.readTemps (s : State) (temps : List W16) : State :=
  { s with rv := { s.rv with temps := Vector.ofFn (fun i => temps.getD i.val 0), tempAt := Vector.replicate 20 (some s.uptime) } }

def State.hotLimit (s : State) : Int := s.rv.hot.toNat

/-- Whether the next step of a die's limit may come `ns` after the last. -/
def State.dieDue (s : State) (die : Fin 4) (ns : Nat) : Bool :=
  match s.rv.dieStep[die] with | none => true | some t => decide (ns ≤ s.since t)

def State.stepDie (s : State) (die : Fin 4) (g : Furrow → Option Nat) : State :=
  let s1 := (dieFurs die).foldl (fun t f => t.modFur f (fun x => { x with thermalLimit := g x })) s
  { s1 with rv := { s1.rv with dieStep := s1.rv.dieStep.set die (some s.time) } }

/-- The thermal limit one step lower, from CEILING where there was none. -/
def Furrow.cooler (x : Furrow) : Option Nat := some (max fmin (x.thermalLimit.getD x.ceiling.toNat - 1))

/-- The thermal limit one step higher; none once it no longer binds. -/
def Furrow.warmer (x : Furrow) : Option Nat :=
  match x.thermalLimit with
  | none => none
  | some l => if x.ceiling.toNat ≤ l + 1 then none else some (l + 1)

/-- A hold step; the first of a hold records event 0x0A01 with the first hot sensor of the die. -/
def State.holdStep (s : State) (die : Fin 4) (hot : Nat) (temps : List W16) : State :=
  let s1 := s.stepDie die Furrow.cooler
  if bitOf s.rv.holding die.val then s1
  else
    let s2 := { s1 with rv := { s1.rv with holding := setBit s1.rv.holding die.val true } }
    s2.offer 0x0A01 srcReeve hot (temps.getD hot 0).toNat die.val

/-- THERMAL_HOLD_STEP (R356): some sensor of the die is at HOT, and the last step is 100 µs old. -/
def execThermalHoldStep (die : Fin 4) (temps : List W16) (s : State) : Res :=
  match (dieSensors die).find? (fun i => decide (s.hotLimit ≤ tempAt temps i)) with
  | none => .next s
  | some hot =>
    if s.reeveRuns && (!bitOf s.rv.holding die.val || s.dieDue die 100000) then
      .next ((s.readTemps temps).holdStep die hot temps)
    else .next s

/-- THERMAL_RECOVERY_STEP (R356): every sensor of the die is below HOT − 2.0 °C, and the last step is 1 ms old; the hold is over. -/
def execThermalRecoveryStep (die : Fin 4) (temps : List W16) (s : State) : Res :=
  if s.reeveRuns && s.dieDue die 1000000 && (dieSensors die).all (fun i => decide (tempAt temps i < s.hotLimit - 20)) then
    let s1 := (s.readTemps temps).stepDie die Furrow.warmer
    .next { s1 with rv := { s1.rv with holding := setBit s1.rv.holding die.val false } }
  else .next s

/-- RV_THERMAL.CRIT in 0.1 °C. -/
def crit : Nat := 1150

/-- CRITICAL_TEMPERATURE (R356): fault 0x0A02, once until the furrows are released. -/
def execCriticalTemperature (sensor : Fin 20) (temp : W16) (s : State) : Res :=
  if s.reeveRuns && !s.rv.critical && decide ((crit : Int) ≤ temp.toInt) then
    let s1 : State := { s with rv := { s.rv with temps := s.rv.temps.set sensor temp, tempAt := s.rv.tempAt.set sensor (some s.uptime), critical := true } }
    .next (s1.raise 3 .block ⟨0x0A02, srcReeve, sensor.val, temp.toNat, 0⟩ 0)
  else .next s

/-- Whether an activity holds furrow `f` OFFLINE. -/
def Furrow.claimed (x : Furrow) : Bool := x.claim == .owned

/-- THERMAL_RELEASE (R356): after the L3, every sensor is below HOT − 10.0 °C. -/
def execThermalRelease (temps : List W16) (s : State) : Res :=
  if s.reeveRuns && s.rv.critical && !s.stopped && (List.range 20).all (fun i => decide (tempAt temps i < s.hotLimit - 100)) then
    let s1 := s.readTemps temps
    .next { s1 with
      rv := { s1.rv with critical := false }
      furs := s1.furs.mapIdx (fun i x => if x.claimed || decide (s.build.furrows ≤ i) then x else x.online (s1.underL2 (furOf i))) }
  else .next s

/-! ### THROTTLE_N (R357) -/

/-- The counted state of THROTTLE_N changes: every built furrow at FMIN, or R354 again; a MARGIN pauses (R347). -/
def State.pauseMargins (s : State) : State :=
  { s with rv := { s.rv with acts := s.rv.acts.map (fun a => if a.kind = 4 ∧ a.st = .running then { a with pausedAt := some s.time } else a) } }

def State.resumeMargins (s : State) : State :=
  { s with rv := { s.rv with acts := s.rv.acts.map (fun a => match a.pausedAt with
      | some t => { a with paused := a.paused + s.since t, pausedAt := none }
      | none => a) } }

/-- THROTTLE_ASSERT (R357). -/
def execThrottleAssert (lowNs : Nat) (s : State) : Res :=
  if 100 ≤ lowNs ∧ !s.pins.throttle ∧ s.detects then
    let s1 : State := { s.pauseMargins with
      pins := { s.pins with throttle := true }
      furs := s.furs.mapIdx (fun i x => if i < s.build.furrows then { x with current := byteOf fmin, throttled := true } else x) }
    .next (s1.offer 0x8A03 srcReeve 1 0 0)
  else .next s

/-- THROTTLE_RELEASE (R357): the flag clears, and the limits of R354 hold again. -/
def execThrottleRelease (s : State) : Res :=
  if s.pins.throttle ∧ s.detects then
    let s1 : State := { s.resumeMargins with
      pins := { s.pins with throttle := false }
      furs := s.furs.map (fun x => { x with throttled := false }) }
    .next ((if s1.reeveRuns then s1.planUpdate else s1).offer 0x8A03 srcReeve 0 0 0)
  else .next s

end Sys2Proof.Machine
end

