-- ==== Sys2Proof/Machine/Window.lean ====
section
/-! DEFINITION. Refused register accesses (R9) and the debug window: probe port, state capture, and the program store aperture (R374 to R380). -/

namespace Sys2Proof.Machine

/-! ### Refused accesses (R9, R374) -/

/-- The host's read port takes a value. -/
def State.setRead (s : State) (v : W64) : State := { s with hostRead := v }

/-- An access that R9 does not allow: event 0x0506; a read returns zero. Nothing is recorded in block reset (R388) or at L4 (R329). -/
def State.badAccess (s : State) (off bytes : Nat) (write : Bool) : State :=
  let s1 := if write then s else s.setRead 0
  if s.release ≠ 3 || s.dead then s1 else s1.offer 0x0506 srcBlock off bytes (b2n write)

/-- Whether an access is one aligned 64-bit access, or an aligned 32-bit access to a half (R9). -/
def goodAccess (off bytes : Nat) : Bool := (bytes == 8 && off % 8 == 0) || (bytes == 4 && off % 4 == 0)

/-- BAD_REGISTER_ACCESS (R9). -/
def execBadRegisterAccess (off : BitVec 26) (bytes : Nat) (write : Bool) (s : State) : Res :=
  if goodAccess off.toNat bytes then .next s else .next (s.badAccess off.toNat bytes write)

/-- SCOPE bit of the debug-window region that an offset lies in (R374). -/
def regionOf (off : Nat) : Option Nat :=
  if 0x2000000 ≤ off ∧ off < 0x2000018 then some 0
  else if (0x2000100 ≤ off ∧ off < 0x2000118) ∨ (0x2001000 ≤ off ∧ off < 0x2002000) then some 1
  else if 0x2100000 ≤ off ∧ off < 0x2500000 then some 2
  else none

def State.regionOpen (s : State) (r : Nat) : Bool := s.debugOn && bitOf s.debugScope r

def srcDebug : W16 := srcOf 9 0

/-- Event 0x0B06 of an access to a region that is not open; a read returns zero. -/
def State.windowRefuse (s : State) (off : Nat) (write : Bool) : State :=
  let s1 := if write then s else s.setRead 0
  if s.release ≠ 3 || s.dead then s1
  else s1.offer 0x0B06 srcDebug (off % 2 ^ 25) (b2n write) s.debugScope.toNat

/-- DEBUG_WINDOW_REFUSED (R374): a write before READY is discarded under R392 instead. -/
def execDebugWindowRefused (off : BitVec 26) (write : Bool) (s : State) : Res :=
  match regionOf off.toNat with
  | none => .next s
  | some r =>
    if s.regionOpen r then .next s
    else if write then .next (s.hostWrite off.toNat 8 (fun s => s.windowRefuse off.toNat true))
    else .next (s.windowRefuse off.toNat false)

/-- A host write to a register of a debug-window region. -/
def State.debugWrite (s : State) (off bytes r : Nat) (body : State → State) : State :=
  s.hostWrite off bytes (fun s => if s.regionOpen r then body s else s.windowRefuse off true)

/-! ### The probe port (R375) -/

/-- PROBE_CLK in MHz at FT_CLOCK.FMAX_PLAN, before division: the beat clock of a domain, drill or mortar unit, else 250. -/
def probeSourceMhz (src : W16) : Nat := if 1 ≤ src.toNat / 4096 ∧ src.toNat / 4096 ≤ 3 then 1150 else 250

/-- A write of GL_PROBE_CTRL. -/
def State.writeProbeCtrl (s : State) (v : W64) : State :=
  let div := fld v 8 2
  if bitOf v 0 && decide (600 * 2 ^ div < probeSourceMhz (s.gl.probeSel.setWidth 16)) then s
  else { s with gl := { s.gl with probeCtrl := w64 (at' div 8 + fld v 0 1) } }

/-- PROBE_CTRL_WRITE (R375). -/
def execProbeCtrlWrite (v : W64) (s : State) : Res :=
  .next (s.debugWrite 0x2000000 8 0 (fun s => s.writeProbeCtrl v))

/-- PROBE_CLK in kHz now: the clock of the source that SRC names, divided (R375). -/
def State.probeKhz (s : State) : Nat :=
  let src := fld s.gl.probeSel 0 16
  let clock := match src / 4096 with
    | 1 => 12500 * (s.fur (furOf (src % 4096 / 2))).current.toNat
    | 2 => 12500 * (s.fur (furOf (src % 4096 / 8))).current.toNat
    | 3 => 12500 * (s.fur (furOf (src % 4096 / 4))).current.toNat
    | _ => 250000
  clock / 2 ^ fld s.gl.probeCtrl 8 2

/-- The signals of the last tick on which a PROBE_CLK cycle of 2^`div` ticks began; the cycles count from the domain's reset (log 12). -/
def Domain.probeSample (y : Domain) (div : Nat) : W32 :=
  match y.tick.no % 2 ^ div with
  | 0 => y.probeWord
  | p + 1 => y.tick.recent.getD p 0

/-- The 32 signals of the group that GL_PROBE_SEL names (R376): group 0 of a freeze domain; another group as the build's probe list has it, and
zero where the list has none. -/
def State.probeGroup (s : State) : W32 :=
  let src := fld s.gl.probeSel 0 16
  let group := fld s.gl.probeSel 16 8
  if src / 4096 = 1 ∧ group = 0 then
    (if src % 4096 < 2 * s.build.furrows then (s.dom (furOf (src % 4096 / 2)) (domOf (src % 2))).probeSample (fld s.gl.probeCtrl 8 2) else 0)
  else if Config.probeListed (BitVec.ofNat 16 src) group then Config.probeGroup (BitVec.ofNat 16 src) group s.uptime
  else 0

/-- The levels of PROBE_CLK and PROBE_D from the rising edge of a cycle, or from its falling edge. -/
def State.probePins (s : State) (falling : Bool) : Bool × W16 := (!falling, BitVec.ofNat 16 (fld s.probeGroup (if falling then 16 else 0) 16))

/-- Delay code that GL_PROBE_DLY passes to pin `p`: PROBE_D[p], or PROBE_CLK for 16. -/
def State.probeDelay (s : State) (p : Nat) : Nat := fld s.gl.probeDly (3 * p) 3

/-! ### State capture (R377 to R379) -/

/-- Whether a domain can still change its state unless it is held. -/
def Domain.moves (x : Domain) : Bool := x.st == .running || x.st == .starting || x.st == .draining

/-- Domains that a hold stops, by bit 2f + d. -/
def State.movers (s : State) : Nat :=
  (List.range 32).foldl (fun m i => if (s.dom (furOf (i / 2)) (domOf (i % 2))).moves then m + 2 ^ i else m) 0

def State.beginHold (s : State) : State :=
  if s.gl.held then s
  else
    let s1 : State := { s with
      gl := { s.gl with held := true, heldBeats := 0 }
      furs := s.furs.map (fun x => { x with doms := x.doms.map (fun d => { d with hold := true }) }) }
    s1.offer 0x8B06 srcBlock s.movers 0 0

/-- CAPTURE_HOLD (R377). -/
def execCaptureHold (s : State) : Res := .next (s.debugWrite 0x2000100 8 1 State.beginHold)
/-- CAPTURE_RELEASE (R379). -/
def execCaptureRelease (s : State) : Res := .next (s.debugWrite 0x2000100 8 1 (fun s => s.releaseHold 1))

def bytes64 (vs : List W64) : List Byte := vs.flatMap (fun v => toLe 8 v.toNat)
def bytes32 (vs : List W32) : List Byte := vs.flatMap (fun v => toLe 4 v.toNat)

/-- KIND 0 (R378); a level of the return stack is laid out as P0 of the schedule's events (log 26). -/
def Domain.scalarBytes (y : Domain) : List Byte :=
  bytes64 (y.sregs.toList ++ y.aregs.toList
    ++ (List.range 8).map (fun i => w64 (y.loopLeft i))
    ++ (List.range 4).map (fun i => w64 (b2n (bitOf y.flags i)))
    ++ y.stack.map (fun c => w64 (posWord c.rid c.ret)))

/-- Value of a cell of a captured row, four bytes each (log 26): its accumulator where one stands, else its weight byte. -/
def CellRow.values (r : CellRow) : List W32 :=
  (List.range 512).map (fun c => match tget none r.accs c with
    | some a => a
    | none => (r.wt.getD c 0).setWidth 32)

/-- Bytes of a selection, none where it lies outside the build (R378). -/
def State.capture (s : State) (f : Fur) (d : Dom) (kind index : Nat) : Option (List Byte) :=
  let x := s.fur f
  let y := x.dom d
  let v := s.env f d
  let bricks := if x.split then 2 else s.build.bricksOf f.val
  let cell := fun (set : Bool) =>
    let b := if x.split then 2 * d.val + index / 128 else index / 128
    let lv := x.liveOf b
    bytes32 (x.cell b (if set then lv else 1 - lv) (index % 128)).values
  match kind with
  | 0 => if index = 0 then some y.scalarBytes else none
  | 1 => if index < 32 then some (bytes32 ((y.vreg index).vals 0 v.h) ++ [byteOf (y.vreg index).marks.toNat]) else none
  | 2 =>
    if index / 1024 < v.act ∧ index % 1024 < s.build.depth then
      let e := x.went (v.phys (index / 1024)) (index % 1024)
      some (bytes32 (tgets 0 e.lanes 0 512) ++ [byteOf (b2n e.mark)])
    else none
  | 3 => if index = 0 then some (bytes64 (tgets 0 y.live 0 256)) else none
  | 4 => if index = 0 then some (bytes64 (tgets 0 y.next 0 256)) else none
  | 5 => if index / 128 < bricks then some (cell true) else none
  | 6 => if index / 128 < bricks then some (cell false) else none
  | 7 =>
    if index < 15 then
      some ((Config.pipelineDump f.val d.val index y.beat (y.flights.filter (fun g => g.slot == index)) (if index = 4 then y.course else none)
        x.mortarState).take 4096)
    else none
  | 8 =>
    if index < 8 then
      some ((List.range 64).flatMap (fun i =>
        let e := (s.drill f (drillOf index)).store.getD i ⟨0, 0, 0, 0⟩
        bytes64 [e.w0, e.w1, e.w2, e.w3]))
    else none
  | _ => none

/-- Whether a domain stands still: held, IDLE, FAULTED or OFFLINE. -/
def Domain.still (y : Domain) : Bool := (y.hold && y.moves) || y.st == .idle || y.st == .faulted || y.st == .offline

def State.selectCapture (s : State) (v : W64) : State :=
  let f := furOf (fld v 0 4)
  let d := domOf (fld v 4 1)
  let sel := w64 (at' (fld v 16 12) 16 + at' (fld v 8 4) 8 + fld v 0 5)
  let data := if f.val < s.build.furrows ∧ (s.dom f d).still then s.capture f d (fld v 8 4) (fld v 16 12) else none
  { s with gl := { s.gl with capSel := sel, capData := data.getD [], capValid := data.isSome } }

/-- CAPTURE_SELECT (R378). -/
def execCaptureSelect (v : W64) (s : State) : Res := .next (s.debugWrite 0x2000110 8 1 (fun s => s.selectCapture v))

/-! ### The program store aperture (R92, R380) -/

/-- A debug write of `bytes` bytes into a program store: refused, with fault 0x0107 and the debug master frozen, in a held segment. A frozen
debug master writes nothing. -/
def State.writeStore (s : State) (f : Fur) (off bytes : Nat) (v : W64) : State :=
  let held := (s.fur f).heldSegs
  if s.dc.debugFrozen || decide (s.build.furrows ≤ f.val) then s
  else if bitOf held (off / 32768) then
    let s1 : State := { s with dc := { s.dc with debugFrozen := true, sticky := setBit s.dc.sticky 35 true } }
    s1.faultRecord 0x0107 srcDebug 0 off held.toNat (levByte 1 false false)
  else s.modFur f (fun x => { x with pstore := tputs 0 x.pstore off (toLe bytes v.toNat) })

/-- DEBUG_PSTORE_WRITE (R92, R380): one aligned 64-bit or 32-bit write; another is refused under R9. -/
def execDebugPstoreWrite (f : Fur) (off : BitVec 18) (wide : Bool) (v : W64) (s : State) : Res :=
  let bytes := if wide then 8 else 4
  let at0 := 0x2100000 + f.val * 0x40000 + off.toNat
  if goodAccess at0 bytes then .next (s.debugWrite at0 bytes 2 (fun s => s.writeStore f off.toNat bytes v))
  else .next (s.badAccess at0 bytes true)

end Sys2Proof.Machine
end

