-- ==== Sys2Proof/Machine/Boundary.lean ====
section
/-! DEFINITION. The boundary: SYNC_IN and SYNC_OUT, block reset, the staged release, start-up, and the levels of the pins (R383 to R395). -/

namespace Sys2Proof.Machine

/-! ### SYNC_IN (R386) -/

/-- Meaning of a pulse by its high time in ns: 0 and 1 data bits, 2 the marker. -/
def syncSymbol (high : Nat) : Option Nat :=
  if 100000 ≤ high ∧ high ≤ 300000 then some 0
  else if 400000 ≤ high ∧ high ≤ 600000 then some 1
  else if 700000 ≤ high ∧ high ≤ 900000 then some 2
  else none

/-- The number that data bits give, most significant first. -/
def bitsNat (bs : List Bool) : Nat := bs.foldl (fun n b => 2 * n + b2n b) 0

/-- The timebase meets T ms at a marker: a slew where they differ by 10 µs or less, else a step. -/
def State.syncTo (s : State) (t : Nat) : State :=
  let target := BitVec.ofNat 64 (t * 1000000)
  let diff := (target - s.time).toInt
  if -10000 ≤ diff ∧ diff ≤ 10000 then { s with slew := diff } else { s with time := target, slew := 0 }

def State.setSync (s : State) (b : Option (List Bool)) : State := { s with pins := { s.pins with syncBits := b } }

/-- A decoded pulse. -/
def State.syncPulse (s : State) (sym : Nat) : State :=
  if sym = 2 then
    match s.pins.syncBits with
    | some bs => (if bs.length = 48 then s.syncTo (bitsNat bs) else s).setSync (some [])
    | none => s.setSync (some [])
  else match s.pins.syncBits with
  | some bs => s.setSync (if bs.length < 48 then some (bs ++ [sym == 1]) else none)
  | none => s

/-- SYNC_IN_EDGE (R386): an edge `sinceLast` ns after the last, with its pulse high for `high` ns. -/
def execSyncInEdge (sinceLast high : Nat) (s : State) : Res :=
  if !s.detects then .next s
  else if 900000 ≤ sinceLast ∧ sinceLast ≤ 1100000 then
    match syncSymbol high with
    | some sym => .next (s.syncPulse sym)
    | none => .next (s.setSync none)
  else .next (s.setSync none)

/-! ### SYNC_OUT (R387) -/

/-- Symbol at millisecond `m`: the marker, or the bit of m' + 49 for the frame that began at m'. -/
def syncOutSymbol (m : Nat) : Nat :=
  let j := m % 49
  if j = 0 then 2 else nfld (m - j + 49) (48 - j) 1

/-- SYNC_OUT_PULSE (R387): within 10 ns of a multiple of 10^6 ns, once for each. -/
def execSyncOutPulse (s : State) : Res :=
  let m := s.time.toNat / 1000000
  if s.detects && s.pins.outputs && decide (s.time.toNat % 1000000 ≤ 10) && s.pins.syncLast != some m then
    .next { s with pins := { s.pins with syncPulses := s.pins.syncPulses + 1, syncLast := some m, syncHigh := syncOutSymbol m } }
  else .next s

/-! ### Pins (R331, R390, R391) -/

/-- READY is driven high. -/
def State.readyHigh (s : State) : Bool := s.pins.outputs && s.release == 3 && s.dc.ready
/-- FAULT_N is driven low. -/
def State.faultLow (s : State) : Bool := s.pins.outputs && s.release == 3 && s.dc.faultN.isSome
/-- PROBE_CLK and PROBE_D are driven (R375). -/
def State.probeDriven (s : State) : Bool :=
  s.pins.outputs && s.release == 3 && bitOf s.gl.probeCtrl 0 && s.regionOpen 0

/-! ### Reset and release (R388, R389) -/

/-- The block in block reset: every register at its reset value. Host memory, HBM contents, configuration flash, the host's read port and
the count of free values are outside the block; RV_NONCE is drawn anew at start-up. -/
def State.inReset (s : State) : State :=
  let b := State.blank s.build
  { b with
    pending := s.pending, free := s.free, startKind := 2, hostRead := s.hostRead
    hostMem := s.hostMem, hostBad := s.hostBad, hbm := s.hbm, hbmBad := s.hbmBad, flash := s.flash, image := s.image
    rv := { b.rv with nonces := s.rv.nonces }, pins := { b.pins with refClock := s.pins.refClock } }

/-- BLOCK_RESET (R388): debug that is enabled, or about to be, ends: a hold in force is released with event 0x8B07, and 0x0B05 follows; both wait for the
boot record (R361, R379, log 90). -/
def execBlockReset (s : State) : Res :=
  let t := s.inReset
  .next (if s.debugOn || s.rv.evicting.isSome then
    (if s.gl.held then t.offer 0x8B07 srcBlock 2 s.gl.heldBeats.toNat 0 else t).offer 0x0B05 srcReeve 4 0 0
  else t)

/-- RELEASE_STAGE_1 (R389): the outputs are driven, READY low. On a block that runs it belongs to the release that follows a reconfiguration: the
block starts again as from power-up (R329, R393, log 84). -/
def execReleaseStage1 (s : State) : Res :=
  let t := if s.release = 3 ∧ s.pins.outputs then { s.inReset with startKind := 3 } else s
  .next { t with release := max t.release 1, pins := { t.pins with outputs := true } }

/-- RELEASE_STAGE_2 (R389). -/
def execReleaseStage2 (s : State) : Res := .next { s with release := max s.release 2 }

/-- RELEASE_STAGE_3 (R385, R389, R393): the timebase starts at 0 and start-up begins. Without a reference clock the block does not leave reset, and
its outputs stay at rest. -/
def execReleaseStage3 (s : State) : Res :=
  if s.release = 3 then .next s
  else if s.pins.refClock then .next { s with release := 3, time := 0, uptime := 0, slew := 0 }
  else .next { s with pins := { s.pins with outputs := false } }

/-! ### Start-up (R393) -/

/-- Step 3: domains OFFLINE, the quick self-test, then in service. -/
def State.startTest (s : State) (failing : Nat) : State :=
  s.builtFurs.foldl (fun t f =>
    let n := t.build.bricksOf f.val / 2
    let t1 := t.modFur f (fun x => { x with
      doms := x.doms.map (fun d => d.setSt .offline), inService := BitVec.ofNat 2 (2 ^ n - 1) })
    ((t1.testPairs f .furrow (nfld failing (2 * f.val) 2)).modFur f (fun x => { x with split := false })).scopeOnline f .furrow) s

/-- Entries of a furrow's margin history that pass their authentication (R353). -/
def State.goodHistory (s : State) (f : Fur) (bad : List (Fur × Nat)) : List (W64 × Nat) :=
  let all := vat [] s.flash f.val
  ((List.range all.length).filter (fun i => !bad.contains (f, i))).filterMap (fun i => all[i]?)

/-- The plan in force that a history gives: the latest plan, with COUNT and SPAN rebuilt from it, and GUARD and CEILING as these give them (R351 to
R353, log 60). -/
def Furrow.fromHistory (x : Furrow) (b : Build) (now : W64) (log : List (W64 × Nat)) : Furrow :=
  let c := countedOf log
  let span := c.last - c.first
  let guard := guardOf c.count span
  { x with
    plan := planWord c.fPass c.count 0 0 guard (span / hourNs) 0, planAt := some now, planSpan := span, countPass := byteOf c.fPass
    countAt := some now, ceiling := byteOf (planCeiling b c.fPass guard) }

/-- Step 4 for one furrow (R353): the plan that the valid history gives, else the birth record's F_PASS at GUARD 6, else FMIN; after a block reset
the history is not used (R395). `reach` says whether the flash answers. Entries that fail authentication are discarded; event 0x0A06. -/
def State.choosePlan (reach : Bool) (bad : List (Fur × Nat)) (s : State) (f : Fur) : State :=
  let good := s.goodHistory f bad
  let lost := (vat [] s.flash f.val).length - good.length
  let birth := if reach then Config.birthFPass f.val else none
  let t := if reach && s.startKind != 2 && !good.isEmpty then s.modFur f (fun x => x.fromHistory s.build s.uptime good)
    else match birth with
      | some n => s.modFur f (fun x => { x with
          plan := planWord n 0 0 1 6 0 0, planAt := some s.uptime, planSpan := 0, ceiling := byteOf (planCeiling s.build n 6) })
      | none => s.modFur f (fun x => { x with
          plan := planWord 0 0 0 1 6 0 0, planAt := some s.uptime, planSpan := 0, ceiling := byteOf fmin })
  if !reach then t.offer 0x0A06 srcReeve f.val 3 0
  else
    let t1 : State := { t with flash := vput t.flash f.val good }
    let t2 := if lost = 0 then t1 else t1.offer 0x0A06 srcReeve f.val 2 lost
    if birth.isSome then t2 else t2.offer 0x0A06 srcReeve f.val 1 0

/-- Step 6: the boot record goes to the store before every record that waits. -/
def State.storeBoot (s : State) : State :=
  let r : GRec := ⟨s.time, 0x8500, srcBlock, w32 (at' s.rv.fwRev.toNat 16 + s.build.minor.toNat), w32 s.startKind, s.active⟩
  { s with gl := s.gl.put r }

/-- Steps 2 to 7. -/
def State.startUp (s : State) (failing : Nat) (reach : Bool) (bad : List (Fur × Nat)) : State :=
  let s1 : State := { s with rv := { s.rv with booted := true, fwRev := Config.firmwareRevision } }
  let s2 := s1.builtFurs.foldl (State.choosePlan reach bad) (s1.startTest failing)
  let s3 : State := { (s2.eraseKeys (fun _ _ => true)) with segs := [], rv := { s2.rv with nonces := s2.rv.nonces + 1 } }
  let s4 := ((List.range 32).foldl (fun s k => s.trained (Fin.ofNat 32 k)) s3).planUpdate.storeBoot
  { s4 with dc := { s4.dc with ready := true, started := true } }

/-- Whether start-up is in progress: after stage 3, before READY was ever 1, and not at L4. -/
def State.starting (s : State) : Bool := s.detects && !s.dc.started

/-- FIRMWARE_LOADED (R393, R394): an attempt that fails is repeated, three in all. `bad` names the entries of the margin history that fail
authentication. -/
def execFirmwareLoaded (ok : Bool) (failing : BitVec 32) (reach : Bool) (bad : List (Fur × Nat)) (s : State) : Res :=
  if s.starting && !s.dc.l3 && decide (s.rv.attempts < 3) && decide (s.uptime.toNat < 400000000) then
    .next (if ok then s.startUp failing.toNat reach bad else { s with rv := { s.rv with attempts := s.rv.attempts + 1 } })
  else .next s

/-- Start-up ends in L4 (R394). The catalogue has no code for it: no record is written, and the CODE that DC_LAST shows is a free value
(log 2). -/
def State.startFails (s : State) : State :=
  let s1 := (s.noteRecovery 4 ((Config.freeWord s.free).toNat % 2 ^ 16) .block 0 false false).bumpFree
  let s2 := (s1.dropRec .block).addRec ⟨.block, 4, 0, srcBlock, .block, 0, 0, 1, s.time, 0, false⟩
  { s2 with
    furs := s2.furs.map (fun x => x.stopDoms [0, 1])
    dc := { s2.dc with
      l4 := true, l3 := false, ready := false, sticky := setBit s2.dc.sticky 34 true
      recovs := s2.dc.recovs.filter (fun x => !(x.level == 2 && x.phase != 2)) } }

/-- STARTUP_TIMEOUT (R394): three attempts at the firmware have failed, or 400 ms have passed without READY. -/
def execStartupTimeout (firmwareFailed : Bool) (s : State) : Res :=
  if s.starting && ((firmwareFailed && decide (3 ≤ s.rv.attempts)) || decide (400000000 ≤ s.uptime.toNat)) then .next s.startFails else .next s

end Sys2Proof.Machine
end

