-- ==== Sys2Proof/Machine/Registers.lean ====
section
/-! DEFINITION. The register window: what every register reads as, and what a host write to it does (R9 to R11, R23, R55, R99, R124, R151,
R219, R236, R237, R257, R273, R291, R319, R336, R363, R382). -/

namespace Sys2Proof.Machine

/-! ### Reading: the shared blocks -/

/-- DC_STATUS bits of domains in an L2. -/
def State.l2Bits (s : State) : Nat :=
  (List.range 16).foldl (fun m n =>
    let hit := fun (half : Nat) => s.dc.recovs.any (fun x => x.level == 2 && x.phase != 2 && x.fur == n &&
      (match x.scope with
      | .half0 => half == 0
      | .half1 => half == 1
      | .furrow => half == 0 || (s.fur (furOf n)).split
      | .block => false))
    m + b2n (hit 0) * 2 ^ (16 + n) + b2n (hit 1) * 2 ^ (32 + n)) 0

def State.dcStatus (s : State) : Nat :=
  at' (b2n s.dc.ready) 63 + at' (b2n s.dc.faultN.isSome) 62 + at' (b2n s.dc.l4) 61 + at' (b2n s.dc.l3) 60
    + at' (min s.l2Running 3) 58 + s.l2Bits

def State.dcRead (s : State) (r : Nat) : Nat :=
  match r with
  | 0x00 => s.dcStatus
  | 0x08 => s.dc.sticky.toNat
  | 0x18 => s.dc.frCfg.toNat
  | 0x20 => s.dc.frBase.toNat
  | 0x28 => s.dc.frTail.toNat
  | 0x30 => s.dc.frHead.toNat
  | 0x38 => s.dc.frLost.toNat
  | 0x40 => at' s.dc.recovL3.toNat 32 + s.dc.recovL2.toNat
  | 0x48 => s.dc.last.toNat
  | 0x50 => s.dc.lastTime.toNat
  | _ => 0

/-- RV_DEBUG.REMAINING: seconds, rounded up (log 27). -/
def State.debugLeft (s : State) : Nat :=
  if s.debugOn then ((s.rv.debugEnd - s.time).toNat + 999999999) / 1000000000 else 0

def State.rvDebug (s : State) : Nat :=
  at' s.debugLeft 32 + at' s.debugScope.toNat 8 + at' (b2n s.rv.evicting.isSome) 1 + b2n s.debugOn

/-- RV_ACTk. -/
def State.actWord (s : State) (k : Fin 16) : Nat :=
  let x := s.act k
  let elapsed := match x.st with
    | .running => s.since x.started
    | .done => (x.finished - x.started).toNat
    | .failed => (x.finished - x.started).toNat
    | .aborted => if x.started = 0 then 0 else (x.finished - x.started).toNat
    | _ => 0
  at' x.ticket.toNat 48 + at' (min (s.position k) 255) 40 + at' x.target.toNat 32 + at' x.kind.toNat 28 + at' (actCode x.st) 24
    + at' x.result.toNat 16 + min (elapsed / 10000000) 65535

/-- RV_MARGINf, with the hours since the plan was made. -/
def State.marginWord (s : State) (f : Fur) : Nat :=
  let x := s.fur f
  let age := match x.planAt with | some t => min (s.powered t / hourNs) 65535 | none => 0
  x.plan.toNat / 65536 * 65536 + age

def State.tempWord (s : State) (i : Nat) : Nat :=
  let t := s.tempNow i
  at' (b2n (decide (s.hotLimit ≤ t.toInt))) 16 + t.toNat

def State.loadedKeys (s : State) : Nat := (List.range 48).foldl (fun m k => m + b2n (s.keyLoaded k) * 2 ^ k) 0

def State.rvRead (s : State) (r : Nat) : Nat :=
  if r = 0x00 then at' s.rv.seq.toNat 32 + at' s.rv.fwRev.toNat 16 + at' (b2n s.rv.booted) 2 + mbxCode s.rv.mbx
  else if r = 0x10 then s.rv.policy.toNat
  else if r = 0x18 then s.rv.budget.toNat
  else if r = 0x20 then at' crit 16 + s.rv.hot.toNat
  else if r = 0x28 then at' (s.rv.share % 65536) 32 + at' (s.estimateNow % 65536) 16 + b2n s.rv.unmet
  else if r = 0x30 then s.loadedKeys
  else if r = 0x38 then s.rvDebug
  else if r = 0x40 then (Config.nonce s.rv.nonces).toNat
  else if 0x100 ≤ r ∧ r < 0x180 then (vat 0 s.rv.cmd ((r - 0x100) / 8)).toNat
  else if 0x200 ≤ r ∧ r < 0x220 then (vat 0 s.rv.res ((r - 0x200) / 8)).toNat
  else if 0x400 ≤ r ∧ r < 0x480 then s.actWord (Fin.ofNat 16 ((r - 0x400) / 8))
  else if 0x600 ≤ r ∧ r < 0x680 then s.marginWord (furOf ((r - 0x600) / 8))
  else if 0x800 ≤ r ∧ r < 0x8A0 then s.tempWord ((r - 0x800) / 8)
  else 0

def State.glRead (s : State) (r : Nat) : Nat :=
  let g := s.gl
  match r with
  | 0x00 => at' (b2n (g.fillI == sizeI)) 47 + at' g.fillI 32 + at' (b2n (g.fillF == sizeF)) 15 + g.fillF
  | 0x10 => g.seq.toNat
  | 0x18 => at' g.lostI.toNat 32 + g.lostF.toNat
  | 0x20 => g.sticky.toNat
  | 0x28 => g.imask.toNat
  | 0x30 => s.time.toNat
  | _ => 0

/-- GL_Ri_Ww. -/
def State.recRead (s : State) (r : Nat) : Nat :=
  let e := tget emptyRec s.gl.store (r / 32)
  (match r / 8 % 4 with | 0 => e.1 | 1 => e.2.1 | 2 => e.2.2.1 | _ => e.2.2.2).toNat

def State.qsRead (s : State) (q : QSlot) (r : Nat) : Nat :=
  let x := s.queue q
  match r with
  | 0x00 => x.cfg.toNat
  | 0x08 => x.ring.toNat
  | 0x10 => x.cq.toNat
  | 0x20 => at' (x.fetched.length + x.cmds.length) 32 + at' (b2n x.cqFull) 9 + at' (b2n (!x.fetched.isEmpty)) 8 + qCode x.st
  | 0x28 => x.tail.toNat
  | 0x30 => x.head.toNat
  | 0x38 => x.retired.toNat
  | 0x40 => x.seq.toNat
  | 0x48 => x.cqTail.toNat
  | 0x50 => x.cqHead.toNat
  | 0x58 => x.fault.toNat
  | _ => 0

def State.cxRead (s : State) (c r : Nat) : Nat :=
  match r with
  | 0x00 => (s.ctx c).cfg.toNat
  | 0x08 =>
    let owns := (List.range 16).foldl (fun m n => m + b2n ((s.fur (furOf n)).owned && (s.fur (furOf n)).owner.toNat == c) * 2 ^ n) 0
    at' owns 32 + at' (s.boundQueues c).length 16 + b2n (s.ctx c).frozen
  | _ => 0

def State.asRead (s : State) (f : Fur) : Nat :=
  let x := s.fur f
  if s.build.furrows ≤ f.val then 0
  else at' (b2n x.owned) 47 + at' (b2n x.pendingAssign) 46 + at' (b2n x.assignZeroing) 45 + at' x.owner.toNat 32 + at' (b2n x.release) 6
    + x.target.toNat

def State.fwRead (s : State) (k : Fin 256) (r : Nat) : Nat :=
  let x := s.watches[k]
  if x.st = 0 then 0
  else match r with
  | 0x00 => at' x.ref.seq.toNat 32 + at' x.ref.q 8 + at' (b2n x.timedOut) 3 + x.st
  | 0x08 => x.handle.toNat
  | 0x10 => x.offset.toNat
  | 0x18 => x.target.toNat
  | 0x20 => x.last.toNat
  | 0x28 => x.deadline.toNat
  | 0x30 => at' x.failed.toNat 32 + x.reads.toNat
  | _ => 0

def State.sgRead (s : State) (i r : Nat) : Nat :=
  let g := s.seg i
  if i = 0 then 0
  else match r with
  | 0x00 => at' g.base.toNat 21 + b2n g.host
  | 0x08 => g.granules.toNat
  | 0x10 => at' g.gen.toNat 48 + at' (b2n g.enc) 39 + at' g.keySlot.toNat 32 + at' g.owner.toNat 16 + at' (b2n g.xF) 3 + at' (b2n g.oF) 2
      + at' (b2n g.oW) 1 + b2n g.oR
  | _ => at' (g.refs % 2 ^ 20) 32 + g.st.toNat

/-! ### Reading: a furrow's block -/

/-- +0x00 to +0x60 of a domain's block. -/
def Domain.fuRead (y : Domain) (r : Nat) : Nat :=
  if r = 0x00 then y.ticks.toNat
  else if r = 0x08 then y.beats.toNat
  else if 0x10 ≤ r ∧ r < 0x50 then (vat 0 y.frozen ((r - 0x10) / 8)).toNat
  else if r = 0x50 then y.keeper.toNat
  else if r = 0x58 then at' (y.rid % 256) 40 + y.pos % 2 ^ 18
  else if r = 0x60 then at' y.auditSup.toNat 32 + y.auditRec.toNat
  else 0

def Furrow.clockWord (x : Furrow) : Nat :=
  at' (b2n x.lent) 35 + at' (b2n x.budgetHeld) 34 + at' (b2n x.thermalHeld) 33 + at' (b2n x.throttled) 32 + at' x.ceiling.toNat 16
    + at' x.current.toNat 8

def Furrow.statusWord (x : Furrow) : Nat :=
  at' (b2n x.split) 31 + at' (b2n x.gated) 30 + at' (x.dom 1).causes.toNat 16 + at' (x.dom 0).causes.toNat 8 + at' (stCode (x.dom 1).st) 4
    + stCode (x.dom 0).st

def Furrow.fuRead (x : Furrow) (r : Nat) : Nat :=
  if r = 0x08 then x.statusWord
  else if r = 0x10 then x.sticky.toNat
  else if r = 0x18 then x.ovf.toNat
  else if r = 0x20 then x.clockWord
  else if r = 0x28 then x.stallLimit.toNat
  else if r = 0x30 then b2n x.auditEn
  else if 0x100 ≤ r ∧ r < 0x168 then (x.dom 0).fuRead (r - 0x100)
  else if 0x200 ≤ r ∧ r < 0x268 then (x.dom 1).fuRead (r - 0x200)
  else 0

/-- SP_SBk_REGION and SP_SBk_HOLDER; entries are numbered in the order in which they entered (log 27). -/
def Furrow.sbRead (x : Furrow) (k : Nat) (holder : Bool) : Nat :=
  match x.board[k]? with
  | none => 0
  | some e =>
    if holder then at' e.ref.seq.toNat 32 + at' e.kind 12 + e.ref.q
    else at' 1 63 + at' (b2n e.w) 62 + at' e.len 26 + e.base

def Furrow.ringRead (x : Furrow) (k : Nat) (state : Bool) : Nat :=
  let r := vat Ring.none x.rings k
  if state then at' r.count 32 + at' r.tail 16 + r.head else r.defn.toNat

/-- SP_TAGSj of a scratchpad of `rows` rows; zero for the rows of a group that sleeps (R120). -/
def Furrow.tagRead (x : Furrow) (rows j : Nat) : Nat :=
  (List.range 32).foldl (fun m i =>
    let n := 32 * j + i
    if n < rows && !x.asleep n then m + b2n (x.isFull n) * 2 ^ (2 * i) + b2n (x.isPoison n) * 2 ^ (2 * i + 1) else m) 0

def Furrow.spRead (x : Furrow) (rows r : Nat) : Nat :=
  if r = 0x10000 then at' x.waking.toNat 32 + at' (b2n x.zeroing) 16 + x.fallow.toNat
  else if r = 0x10008 then x.spSticky.toNat
  else if r = 0x10010 then at' x.swClashes.toNat 32 + x.portClashes.toNat
  else if 0x10100 ≤ r ∧ r < 0x10200 then x.sbRead ((r - 0x10100) / 16) (r % 16 == 8)
  else if 0x10400 ≤ r ∧ r < 0x10500 then x.ringRead ((r - 0x10400) / 16) (r % 16 == 8)
  else if 0x20000 ≤ r ∧ r < 0x24000 then x.tagRead rows ((r - 0x20000) / 8)
  else 0

def drillCode (x : DrillState) : Nat :=
  match x with | .idle => 0 | .armed => 1 | .running => 2 | .stopping => 3 | .parked => 4 | .frozen => 5

/-- DL_DRk_STATUS.CREDIT. -/
def Drill.creditWord (x : Drill) : Nat :=
  if x.st = .idle ∨ x.out then 0 else min (x.depth + x.credit - (if x.midTile then x.tile + 1 else x.tile)) 0xFFFF

def Drill.statusWord (x : Drill) : Nat :=
  at' x.creditWord 48 + at' x.prio 40 + at' x.outstanding 32 + at' x.depth 28 + at' (b2n x.latched.isSome) 23 + at' (b2n x.persist) 22
    + at' x.mode.toNat 20 + at' (b2n x.out) 19 + at' x.putq.length 8 + drillCode x.st

def Drill.read (x : Drill) (r : Nat) : Nat :=
  if r = 0x00 then x.statusWord
  else if r = 0x08 then at' ((match x.blocks with | b :: _ => b.tile | [] => x.tile) % 65536) 32 + x.next % 65536
  else if 0x10 ≤ r ∧ r < 0x50 then
    let b := vat ⟨0, 0⟩ x.bases ((r - 0x10) / 16)
    if r % 16 = 0 then b.handle.toNat else b.offset.toNat
  else if r = 0x50 then at' x.relayRows.toNat 32 + x.relayBase.toNat
  else if r = 0x58 then at' x.faultDesc.toNat 32 + at' x.faultStatus.toNat 16 + x.faultReason.toNat
  else if r = 0x80 then x.rows.toNat
  else if r = 0x88 then x.poisoned.toNat
  else if 0x90 ≤ r ∧ r < 0xB8 then (vat 0 x.waits ((r - 0x90) / 8)).toNat
  else 0

def Furrow.dlRead (x : Furrow) (r : Nat) : Nat :=
  if r = 0x08 then x.dlSticky.toNat
  else if r = 0x10 then x.dlOvf.toNat
  else if 0x20 ≤ r ∧ r < 0x30 then (vat 0 x.homeSlots ((r - 0x20) / 8)).toNat
  else if 0x30 ≤ r ∧ r < 0x40 then (vat 0 x.homeBytes ((r - 0x30) / 8)).toNat
  else if 0x100 ≤ r ∧ r < 0x900 then (x.drill (drillOf ((r - 0x100) / 0x100))).read (r % 0x100)
  else 0

/-- WR_MARKSb_j of a furrow of `bricks` bricks with windrows `depth` deep. -/
def Furrow.markRead (x : Furrow) (bricks depth b j : Nat) : Nat :=
  (List.range 64).foldl (fun m i =>
    let e := 64 * j + i
    if b < bricks ∧ e < depth then m + b2n (x.went b e).mark * 2 ^ i else m) 0

def Furrow.wrRead (x : Furrow) (bricks depth r : Nat) : Nat :=
  if r = 0 then x.wrSticky.toNat
  else if 0x100 ≤ r ∧ r < 0x300 then x.markRead bricks depth ((r - 0x100) / 0x80) ((r - 0x100) % 0x80 / 8)
  else 0

def Furrow.haRead (x : Furrow) (r : Nat) : Nat :=
  match r with
  | 0x00 => x.haSticky.toNat
  | 0x10 => (x.dom 0).haFirst.toNat
  | 0x18 => if x.split then (x.dom 1).haFirst.toNat else 0
  | _ => 0

def Furrow.moRead (x : Furrow) (b : Build) (r : Nat) : Nat :=
  let u := r / 0x40
  if b.mortar ≤ u then 0
  else match r % 0x40 with
  | 0x00 => (Config.mortarStat (w32 (fld (b.mortars.toList.getD u 0) 32 32)) (vat 0 x.mortarState u)).toNat
  | 0x08 => at' (vat 0 x.mortarCode u).toNat 32 + (vat 0 x.mortarErrs u).toNat
  | 0x10 => (vat 0 x.mortarIssues u).toNat
  | _ => 0

/-- FU_RTi words. -/
def Furrow.rtRead (x : Furrow) (r : Nat) : Nat :=
  let e := x.routine (r / 32)
  (match r / 8 % 4 with | 0 => e.ctrl | 1 => e.sig | 2 => e.foot | _ => 0).toNat

/-- FU_Dd_LIVEj and FU_Dd_NEXTj; zero for a domain that is not in use. -/
def Furrow.lyRead (x : Furrow) (r : Nat) : Nat :=
  let y := x.dom (domOf (r / 0x1000))
  if r / 0x1000 = 1 ∧ !x.split then 0
  else (tget 0 (if r / 0x800 % 2 = 0 then y.live else y.next) (r / 8 % 256)).toNat

def Furrow.storeRead (x : Furrow) (a : Nat) : Nat := ofLe (tgets 0 x.pstore a 8)

/-- The register at offset `r` of a built furrow's block. -/
def State.furRead (s : State) (f : Fur) (r : Nat) : Nat :=
  let x := s.fur f
  let b := s.build
  if r < 0x1000 then x.fuRead r
  else if 0x10000 ≤ r ∧ r < 0x24000 then x.spRead b.rows r
  else if 0x30000 ≤ r ∧ r < 0x31000 then x.dlRead (r - 0x30000)
  else if 0x40000 ≤ r ∧ r < 0x41000 then x.wrRead (b.bricksOf f.val) b.depth (r - 0x40000)
  else if 0x50000 ≤ r ∧ r < 0x51000 then x.haRead (r - 0x50000)
  else if 0x60000 ≤ r ∧ r < 0x61000 then x.moRead b (r - 0x60000)
  else if 0xB0000 ≤ r ∧ r < 0xB2000 then x.rtRead (r - 0xB0000)
  else if 0xB4000 ≤ r ∧ r < 0xB6000 then x.lyRead (r - 0xB4000)
  else if 0xC0000 ≤ r ∧ r < 0x100000 then x.storeRead (r - 0xC0000)
  else 0

/-! ### Reading: the debug window (R374, R378, R380) -/

def State.capStatus (s : State) : Nat :=
  at' (if s.gl.held then s.movers else 0) 32 + at' (b2n s.gl.capValid) 1 + b2n s.gl.held

def State.debugRead (s : State) (a : Nat) : Nat :=
  match regionOf a with
  | none => 0
  | some r =>
    if !s.regionOpen r then 0
    else if a = 0x2000000 then s.gl.probeCtrl.toNat
    else if a = 0x2000008 then s.gl.probeSel.toNat
    else if a = 0x2000010 then s.gl.probeDly.toNat
    else if a = 0x2000108 then s.capStatus
    else if a = 0x2000110 then s.gl.capSel.toNat
    else if 0x2001000 ≤ a ∧ a < 0x2002000 then ofLe ((s.gl.capData.drop (a - 0x2001000)).take 8)
    else if 0x2100000 ≤ a then
      let n := (a - 0x2100000) / 0x40000
      if n < s.build.furrows then (s.fur (furOf n)).storeRead (a % 0x40000) else 0
    else 0

/-! ### The window (R237) -/

/-- The 64-bit register at the aligned offset `a`. -/
def State.regAt (s : State) (a : Nat) : Nat :=
  if a < 0x1000 then s.ftReg a
  else if a < 0x2000 then s.dcRead (a - 0x1000)
  else if a < 0x4000 then s.rvRead (a - 0x2000)
  else if a < 0x10000 then s.glRead (a - 0x4000)
  else if a < 0x14000 then s.qsRead (slotOf ((a - 0x10000) / 0x100)) (a % 0x100)
  else if 0x18000 ≤ a ∧ a < 0x1B000 then s.cxRead ((a - 0x18000) / 0x100) (a % 0x100)
  else if 0x1C000 ≤ a ∧ a < 0x1C080 then s.asRead (furOf ((a - 0x1C000) / 8))
  else if 0x20000 ≤ a ∧ a < 0x24000 then s.fwRead (Fin.ofNat 256 ((a - 0x20000) / 0x40)) (a % 0x40)
  else if 0x40000 ≤ a ∧ a < 0x100000 then s.msRead a
  else if 0x100000 ≤ a ∧ a < 0x200000 then s.sgRead ((a - 0x100000) / 32) (a % 32)
  else if 0x200000 ≤ a ∧ a < 0x280000 then s.recRead (a - 0x200000)
  else if 0x1000000 ≤ a ∧ a < 0x2000000 then
    let n := (a - 0x1000000) / 0x100000
    if n < s.build.furrows then s.furRead (furOf n) (a % 0x100000) else 0
  else if 0x2000000 ≤ a then s.debugRead a
  else 0

/-- What a register reads as; in block reset every read completes with zero (R388). -/
def State.readReg (s : State) (a : Nat) : W64 := if s.release ≠ 3 then 0 else w64 (s.regAt a)

/-- What an access reads: an aligned register, either half of one in the low bits, or zero where R9 allows no such access. -/
def State.readAccess (s : State) (off bytes : Nat) : W64 :=
  if !goodAccess off bytes then 0
  else if bytes = 8 then s.readReg off
  else w64 (fld (s.readReg (off / 8 * 8)) (8 * (off % 8)) 32)

/-! ### Writing -/

/-- Whether the register at `a` holds no field that keeps a written value: its fields are W1C or WO (R10). -/
def triggerReg (a : Nat) : Bool :=
  a == 0x1008 || a == 0x1010 || a == 0x2008 || a == 0x4008 || a == 0x4020 || a == 0x40018 || a == 0x40020 || a == 0x2000100 ||
  (decide (0x10000 ≤ a) && decide (a < 0x14000) && a % 0x100 == 0x18) ||
  (decide (0x18000 ≤ a) && decide (a < 0x1B000) && a % 0x100 == 0x10) ||
  (decide (0x100000 ≤ a) && decide (a < 0x200000) && a % 32 == 0x18) ||
  (decide (0x1000000 ≤ a) && decide (a < 0x2000000) &&
    [0x0, 0x10, 0x18, 0x10008, 0x30000, 0x30008, 0x30010, 0x40000, 0x50000].contains (a % 0x100000))

/-- The 64 bits that a write gives to the register at `a`: a 32-bit write leaves the fields of the other half as they are (R9). -/
def State.merge (s : State) (off : Nat) (wide : Bool) (v : W64) : W64 :=
  if wide then v
  else
    let a := off / 8 * 8
    let cur := if triggerReg a then 0 else s.regAt a
    if off % 8 = 0 then w64 (nfld cur 32 32 * 2 ^ 32 + fld v 0 32) else w64 (at' (fld v 0 32) 32 + nfld cur 0 32)

/-- DC_FR_CFG: no change of LOG2 while EN, no EN with LOG2 outside 4 to 16. -/
def Dc.writeCfg (x : Dc) (v : W64) : Dc :=
  let log2 := fld v 0 5
  if (bitOf x.frCfg 63 && log2 != fld x.frCfg 0 5) || (bitOf v 63 && (decide (log2 < 4) || decide (16 < log2))) then x
  else { x with frCfg := w64 (at' (fld v 63 1) 63 + log2) }

/-- DC_CTRL: its bits from the lowest up. -/
def State.dcCtrl (s : State) (v : W64) : State :=
  let s1 := if bitOf v 0 then s.thawDebug else s
  let s2 := if fld v 48 16 = 0 then s1 else s1.resetFurrows (BitVec.ofNat 16 (fld v 48 16))
  if bitOf v 1 then s2.requestBlock else s2

/-- W1C bits of DC_STICKY. -/
def dcSticky : W64 := 0xFFFF003F00000000#64

def State.dcWrite (s : State) (r : Nat) (lo : Bool) (v : W64) : State :=
  let d := s.dc
  match r with
  | 0x08 => { s with dc := { d with sticky := d.sticky &&& ~~~(v &&& dcSticky) } }
  | 0x10 => s.dcCtrl v
  | 0x18 => { s with dc := d.writeCfg v }
  | 0x20 => { s with dc := { d with frBase := w64 (fld v 12 52 * 4096) } }
  | 0x30 => if lo then { s with dc := { d with frHead := v.setWidth 32 } } else s
  | _ => s

def State.writeThermal (s : State) (v : W64) : State :=
  if 700 ≤ fld v 0 16 ∧ fld v 0 16 ≤ 1050 then { s with rv := { s.rv with hot := v.setWidth 16 } } else s

def State.doorbell (s : State) (v : W64) : State :=
  let s1 := if bitOf v 0 then s.go else s
  if bitOf v 1 then s1.ack else s1

def State.rvWrite (s : State) (r : Nat) (lo : Bool) (v : W64) : State :=
  if 0x100 ≤ r ∧ r < 0x180 then s.writeRvCmd ((r - 0x100) / 8) v
  else if !lo then s
  else if r = 0x08 then s.doorbell v
  else if r = 0x10 then { s with rv := { s.rv with policy := v.setWidth 3 } }
  else if r = 0x18 then s.writeBudget v
  else if r = 0x20 then s.writeThermal v
  else s

def State.glWrite (s : State) (r : Nat) (v : W64) : State :=
  match r with
  | 0x08 =>
    let s1 := if bitOf v 0 then s.clearPart false else s
    if bitOf v 1 then s1.clearPart true else s1
  | 0x20 => { s with gl := { s.gl with sticky := s.gl.sticky &&& ~~~(v.setWidth 3) } }
  | 0x28 => { s with gl := { s.gl with imask := setBit (v.setWidth 16) 0 false } }
  | _ => s

/-- QS_CTRL: one bit acts; more than one is refused with event 0x0502 (R250). -/
def State.qsCtrl (s : State) (q : QSlot) (v : W64) : State :=
  match fld v 0 4 with
  | 0 => s
  | 1 => s.enableQueue q
  | 2 => s.disableQueue q
  | 4 => s.thawQueue q
  | 8 => s.unbindQueue q
  | _ => s.refuse (srcQueue q) (qsOff q 0x18) v.toNat (qCode (s.queue q).st)

/-- Bits of QS_CFG that are not reserved. -/
def qsCfgMask : W64 := 0x3FFF3F07001F001F#64
def baseMask : W64 := 0xFFFFFFFFFFFFF000#64

def State.qsWrite (s : State) (q : QSlot) (r : Nat) (lo : Bool) (v : W64) : State :=
  if r = 0x00 then s.idleWrite q r v (fun x => { x with cfg := v &&& qsCfgMask })
  else if r = 0x08 then s.idleWrite q r v (fun x => { x with ring := v &&& baseMask })
  else if r = 0x10 then s.idleWrite q r v (fun x => { x with cq := v &&& baseMask })
  else if !lo then s
  else if r = 0x18 then s.qsCtrl q v
  else if r = 0x28 then s.writeTail q (v.setWidth 32)
  else if r = 0x30 then s.writeHead q v
  else if r = 0x40 then s.idleWrite q r v (fun x => { x with seq := v.setWidth 32 })
  else if r = 0x48 then s.idleWrite q r v (fun x => { x with cqTail := v.setWidth 32 })
  else if r = 0x50 then s.writeCqHead q v
  else s

def State.cxWrite (s : State) (c : CSlot) (r : Nat) (lo : Bool) (v : W64) : State :=
  if r = 0x00 then s.writeCtx c v else if r = 0x10 ∧ lo ∧ bitOf v 0 then s.thawCtx c else s

/-- A write of an entry's registers; entry 0 refuses every write (R258). -/
def State.sgWrite (s : State) (i r : Nat) (lo : Bool) (v : W64) : State :=
  if r = 0x18 then
    (if !lo && i != 0 then s
    else match (if i = 0 then 3 else fld v 4 4) with
    | 0 => s
    | 1 => s.createSeg i v.toNat
    | 2 => s.freeSeg i v.toNat
    | _ => s.segRefuse i 0x18 v.toNat)
  else s.writeSeg i (r / 8) v

/-- A sticky register of a furrow, W1C. -/
def clearBits {n : Nat} (x : BitVec n) (v : W64) : BitVec n := x &&& ~~~(v.setWidth n)

def State.furWrite (s : State) (f : Fur) (r : Nat) (lo : Bool) (v : W64) : State :=
  let x := s.fur f
  if r = 0x00 then
    (let s1 := if bitOf v 0 then s.thawDom f 0 else s
    if bitOf v 1 then s1.thawDom f 1 else s1)
  else if r = 0x10 then s.setFur f { x with sticky := clearBits x.sticky (v &&& 0xFFFFC#64) }
  else if r = 0x18 then s.setFur f { x with ovf := clearBits x.ovf v }
  else if r = 0x28 then (if lo then s.setFur f { x with stallLimit := v.setWidth 32 } else s)
  else if r = 0x30 then (if lo ∧ s.build.audit then s.setFur f { x with auditEn := bitOf v 0 } else s)
  else if r = 0x10008 then s.setFur f { x with spSticky := clearBits x.spSticky v }
  else if r = 0x30000 then (domDrills false 0).foldl (fun s k => if bitOf v k.val then s.thawDrill f k else s) s
  else if r = 0x30008 then s.setFur f { x with dlSticky := clearBits x.dlSticky v }
  else if r = 0x30010 then s.setFur f { x with dlOvf := clearBits x.dlOvf v }
  else if r = 0x40000 then s.setFur f { x with wrSticky := clearBits x.wrSticky v }
  else if r = 0x50000 then s.setFur f { x with haSticky := clearBits x.haSticky v }
  else s

/-- A write to an open register of the debug window. -/
def State.winWrite (s : State) (off bytes : Nat) (v raw : W64) : State :=
  let a := off / 8 * 8
  if a = 0x2000000 then s.writeProbeCtrl v
  else if a = 0x2000008 then { s with gl := { s.gl with probeSel := v &&& 0xFFFFFF#64 } }
  else if a = 0x2000010 then { s with gl := { s.gl with probeDly := v &&& 0x7FFFFFFFFFFFF#64 } }
  else if a = 0x2000100 then
    (let s1 := if bitOf v 0 then s.beginHold else s
    if bitOf v 1 then s1.releaseHold 1 else s1)
  else if a = 0x2000110 then s.selectCapture v
  else if 0x2100000 ≤ a then s.writeStore (furOf ((off - 0x2100000) / 0x40000)) (off % 0x40000) bytes raw
  else s

/-- A write of the register at the aligned offset `a`; `lo` says that the low half is written. -/
def State.regWrite (s : State) (a : Nat) (lo : Bool) (v : W64) : State :=
  if a < 0x1000 then s
  else if a < 0x2000 then s.dcWrite (a - 0x1000) lo v
  else if a < 0x4000 then s.rvWrite (a - 0x2000) lo v
  else if a < 0x10000 then s.glWrite (a - 0x4000) v
  else if a < 0x14000 then s.qsWrite (slotOf ((a - 0x10000) / 0x100)) (a % 0x100) lo v
  else if 0x18000 ≤ a ∧ a < 0x1B000 then s.cxWrite (Fin.ofNat 48 ((a - 0x18000) / 0x100)) (a % 0x100) lo v
  else if 0x1C000 ≤ a ∧ a < 0x1C080 then (if lo then s.writeAssign (furOf ((a - 0x1C000) / 8)) v else s)
  else if 0x40000 ≤ a ∧ a < 0x100000 then s.msWrite a v false
  else if 0x100000 ≤ a ∧ a < 0x200000 then s.sgWrite ((a - 0x100000) / 32) (a % 32) lo v
  else if 0x1000000 ≤ a ∧ a < 0x2000000 then
    let n := (a - 0x1000000) / 0x100000
    if n < s.build.furrows then s.furWrite (furOf n) (a % 0x100000) lo v else s
  else s

/-- A host write of 8 or 4 bytes at `off` (R9, R10, R374, R392). -/
def State.writeAccess (s : State) (off : Nat) (wide : Bool) (v : W64) : State :=
  let bytes := if wide then 8 else 4
  if !goodAccess off bytes then s.badAccess off bytes true
  else match regionOf off with
  | some r => s.debugWrite off bytes r (fun s => s.winWrite off bytes (s.merge off wide v) v)
  | none => s.hostWrite off bytes (fun s => s.regWrite (off / 8 * 8) (wide || off % 8 == 0) (s.merge off wide v))

/-- REGISTER_WRITE (R10). -/
def execRegisterWrite (off : BitVec 26) (wide : Bool) (v : W64) (s : State) : Res := .next (s.oneCycle (s.writeAccess off.toNat wide v))

end Sys2Proof.Machine
end

