-- ==== Sys2Proof/Machine/SlotOps.lean ====
section
/-! DEFINITION. Slot operations (R65 to R76): each is the attempt of a beat whose long word holds that operation alone (log 15). The
encoding checks, issue checks and effects are those of the beat. -/

namespace Sys2Proof.Machine

/-- LOOP (R77). -/
def execLoop (f : Fur) (d : Dom) (op : BitVec 40) (s : State) : Res := .next (s.opBeat f d ⟨0, 0x01, op.toNat⟩)
/-- CALL (R80). -/
def execCall (f : Fur) (d : Dom) (op : BitVec 40) (s : State) : Res := .next (s.opBeat f d ⟨0, 0x02, op.toNat⟩)
/-- CALLIF (R80). -/
def execCallif (f : Fur) (d : Dom) (op : BitVec 40) (s : State) : Res := .next (s.opBeat f d ⟨0, 0x03, op.toNat⟩)
/-- RET (R80). -/
def execRet (f : Fur) (d : Dom) (op : BitVec 40) (s : State) : Res := .next (s.opBeat f d ⟨0, 0x04, op.toNat⟩)
/-- HALT (R82). -/
def execHalt (f : Fur) (d : Dom) (op : BitVec 40) (s : State) : Res := .next (s.opBeat f d ⟨0, 0x05, op.toNat⟩)
/-- ADD (R66). -/
def execAdd (f : Fur) (d : Dom) (sl : Fin 2) (op : BitVec 40) (s : State) : Res := .next (s.opBeat f d ⟨1 + sl.val, 0x10, op.toNat⟩)
/-- SUB (R66). -/
def execSub (f : Fur) (d : Dom) (sl : Fin 2) (op : BitVec 40) (s : State) : Res := .next (s.opBeat f d ⟨1 + sl.val, 0x11, op.toNat⟩)
/-- MUL (R66). -/
def execMul (f : Fur) (d : Dom) (sl : Fin 2) (op : BitVec 40) (s : State) : Res := .next (s.opBeat f d ⟨1 + sl.val, 0x12, op.toNat⟩)
/-- AND (R66). -/
def execAndOp (f : Fur) (d : Dom) (sl : Fin 2) (op : BitVec 40) (s : State) : Res := .next (s.opBeat f d ⟨1 + sl.val, 0x13, op.toNat⟩)
/-- OR (R66). -/
def execOrOp (f : Fur) (d : Dom) (sl : Fin 2) (op : BitVec 40) (s : State) : Res := .next (s.opBeat f d ⟨1 + sl.val, 0x14, op.toNat⟩)
/-- XOR (R66). -/
def execXorOp (f : Fur) (d : Dom) (sl : Fin 2) (op : BitVec 40) (s : State) : Res := .next (s.opBeat f d ⟨1 + sl.val, 0x15, op.toNat⟩)
/-- SHL (R66). -/
def execShl (f : Fur) (d : Dom) (sl : Fin 2) (op : BitVec 40) (s : State) : Res := .next (s.opBeat f d ⟨1 + sl.val, 0x16, op.toNat⟩)
/-- SHR (R66). -/
def execShr (f : Fur) (d : Dom) (sl : Fin 2) (op : BitVec 40) (s : State) : Res := .next (s.opBeat f d ⟨1 + sl.val, 0x17, op.toNat⟩)
/-- SAR (R66). -/
def execSar (f : Fur) (d : Dom) (sl : Fin 2) (op : BitVec 40) (s : State) : Res := .next (s.opBeat f d ⟨1 + sl.val, 0x18, op.toNat⟩)
/-- MIN (R66). -/
def execMinOp (f : Fur) (d : Dom) (sl : Fin 2) (op : BitVec 40) (s : State) : Res := .next (s.opBeat f d ⟨1 + sl.val, 0x19, op.toNat⟩)
/-- MAX (R66). -/
def execMaxOp (f : Fur) (d : Dom) (sl : Fin 2) (op : BitVec 40) (s : State) : Res := .next (s.opBeat f d ⟨1 + sl.val, 0x1A, op.toNat⟩)
/-- LDI (R66). -/
def execLdi (f : Fur) (d : Dom) (sl : Fin 2) (op : BitVec 40) (s : State) : Res := .next (s.opBeat f d ⟨1 + sl.val, 0x1B, op.toNat⟩)
/-- SHOR (R66). -/
def execShor (f : Fur) (d : Dom) (sl : Fin 2) (op : BitVec 40) (s : State) : Res := .next (s.opBeat f d ⟨1 + sl.val, 0x1C, op.toNat⟩)
/-- CMP (R66). -/
def execCmp (f : Fur) (d : Dom) (sl : Fin 2) (op : BitVec 40) (s : State) : Res := .next (s.opBeat f d ⟨1 + sl.val, 0x1D, op.toNat⟩)
/-- RDL (R66). -/
def execRdl (f : Fur) (d : Dom) (sl : Fin 2) (op : BitVec 40) (s : State) : Res := .next (s.opBeat f d ⟨1 + sl.val, 0x1E, op.toNat⟩)
/-- RDLY (R66). -/
def execRdly (f : Fur) (d : Dom) (sl : Fin 2) (op : BitVec 40) (s : State) : Res := .next (s.opBeat f d ⟨1 + sl.val, 0x1F, op.toNat⟩)
/-- RDA (R66). -/
def execRda (f : Fur) (d : Dom) (sl : Fin 2) (op : BitVec 40) (s : State) : Res := .next (s.opBeat f d ⟨1 + sl.val, 0x20, op.toNat⟩)
/-- LDN (R66). -/
def execLdn (f : Fur) (d : Dom) (op : BitVec 40) (s : State) : Res := .next (s.opBeat f d ⟨1, 0x21, op.toNat⟩)
/-- STN (R66). -/
def execStn (f : Fur) (d : Dom) (op : BitVec 40) (s : State) : Res := .next (s.opBeat f d ⟨1, 0x22, op.toNat⟩)
/-- ASET (R67). -/
def execAset (f : Fur) (d : Dom) (op : BitVec 40) (s : State) : Res := .next (s.opBeat f d ⟨3, 0x30, op.toNat⟩)
/-- ASTR (R67). -/
def execAstr (f : Fur) (d : Dom) (op : BitVec 40) (s : State) : Res := .next (s.opBeat f d ⟨3, 0x31, op.toNat⟩)
/-- ASTEP (R67). -/
def execAstep (f : Fur) (d : Dom) (op : BitVec 40) (s : State) : Res := .next (s.opBeat f d ⟨3, 0x32, op.toNat⟩)
/-- ALY (R67). -/
def execAly (f : Fur) (d : Dom) (op : BitVec 40) (s : State) : Res := .next (s.opBeat f d ⟨3, 0x33, op.toNat⟩)
/-- AADD (R67). -/
def execAadd (f : Fur) (d : Dom) (op : BitVec 40) (s : State) : Res := .next (s.opBeat f d ⟨3, 0x34, op.toNat⟩)
/-- AMOV (R67). -/
def execAmov (f : Fur) (d : Dom) (op : BitVec 40) (s : State) : Res := .next (s.opBeat f d ⟨3, 0x35, op.toNat⟩)
/-- TWS (R163). -/
def execTws (f : Fur) (d : Dom) (op : BitVec 40) (s : State) : Res := .next (s.opBeat f d ⟨4, 0x38, op.toNat⟩)
/-- TWT (R167). -/
def execTwt (f : Fur) (d : Dom) (op : BitVec 40) (s : State) : Res := .next (s.opBeat f d ⟨4, 0x39, op.toNat⟩)
/-- TOS (R168). -/
def execTos (f : Fur) (d : Dom) (op : BitVec 40) (s : State) : Res := .next (s.opBeat f d ⟨4, 0x3A, op.toNat⟩)
/-- TES (R169). -/
def execTes (f : Fur) (d : Dom) (op : BitVec 40) (s : State) : Res := .next (s.opBeat f d ⟨4, 0x3B, op.toNat⟩)
/-- SWAP (R154). -/
def execSwap (f : Fur) (d : Dom) (op : BitVec 40) (s : State) : Res := .next (s.opBeat f d ⟨4, 0x3C, op.toNat⟩)
/-- SLD (R69). -/
def execSld (f : Fur) (d : Dom) (op : BitVec 40) (s : State) : Res := .next (s.opBeat f d ⟨5, 0x40, op.toNat⟩)
/-- WCLR (R201). -/
def execWclr (f : Fur) (d : Dom) (op : BitVec 40) (s : State) : Res := .next (s.opBeat f d ⟨6, 0x48, op.toNat⟩)
/-- WRD (R201). -/
def execWrd (f : Fur) (d : Dom) (op : BitVec 40) (s : State) : Res := .next (s.opBeat f d ⟨6, 0x49, op.toNat⟩)
/-- WWR (R201). -/
def execWwr (f : Fur) (d : Dom) (op : BitVec 40) (s : State) : Res := .next (s.opBeat f d ⟨6, 0x4A, op.toNat⟩)
/-- FMA (R210). -/
def execFma (f : Fur) (d : Dom) (sl : Fin 2) (op : BitVec 40) (s : State) : Res := .next (s.opBeat f d ⟨7 + sl.val, 0x50, op.toNat⟩)
/-- FMS (R210). -/
def execFms (f : Fur) (d : Dom) (sl : Fin 2) (op : BitVec 40) (s : State) : Res := .next (s.opBeat f d ⟨7 + sl.val, 0x51, op.toNat⟩)
/-- FNMA (R210). -/
def execFnma (f : Fur) (d : Dom) (sl : Fin 2) (op : BitVec 40) (s : State) : Res := .next (s.opBeat f d ⟨7 + sl.val, 0x52, op.toNat⟩)
/-- FADD (R210). -/
def execFadd (f : Fur) (d : Dom) (sl : Fin 2) (op : BitVec 40) (s : State) : Res := .next (s.opBeat f d ⟨7 + sl.val, 0x53, op.toNat⟩)
/-- FSUB (R210). -/
def execFsub (f : Fur) (d : Dom) (sl : Fin 2) (op : BitVec 40) (s : State) : Res := .next (s.opBeat f d ⟨7 + sl.val, 0x54, op.toNat⟩)
/-- FMUL (R210). -/
def execFmul (f : Fur) (d : Dom) (sl : Fin 2) (op : BitVec 40) (s : State) : Res := .next (s.opBeat f d ⟨7 + sl.val, 0x55, op.toNat⟩)
/-- FMIN (R211). -/
def execFmin (f : Fur) (d : Dom) (sl : Fin 2) (op : BitVec 40) (s : State) : Res := .next (s.opBeat f d ⟨7 + sl.val, 0x56, op.toNat⟩)
/-- FMAX (R211). -/
def execFmax (f : Fur) (d : Dom) (sl : Fin 2) (op : BitVec 40) (s : State) : Res := .next (s.opBeat f d ⟨7 + sl.val, 0x57, op.toNat⟩)
/-- FCMP (R211). -/
def execFcmp (f : Fur) (d : Dom) (sl : Fin 2) (op : BitVec 40) (s : State) : Res := .next (s.opBeat f d ⟨7 + sl.val, 0x58, op.toNat⟩)
/-- SEL (R211). -/
def execSel (f : Fur) (d : Dom) (sl : Fin 2) (op : BitVec 40) (s : State) : Res := .next (s.opBeat f d ⟨7 + sl.val, 0x59, op.toNat⟩)
/-- FABS (R211). -/
def execFabs (f : Fur) (d : Dom) (sl : Fin 2) (op : BitVec 40) (s : State) : Res := .next (s.opBeat f d ⟨7 + sl.val, 0x5A, op.toNat⟩)
/-- FNEG (R211). -/
def execFneg (f : Fur) (d : Dom) (sl : Fin 2) (op : BitVec 40) (s : State) : Res := .next (s.opBeat f d ⟨7 + sl.val, 0x5B, op.toNat⟩)
/-- MOV (R211). -/
def execMov (f : Fur) (d : Dom) (sl : Fin 2) (op : BitVec 40) (s : State) : Res := .next (s.opBeat f d ⟨7 + sl.val, 0x5C, op.toNat⟩)
/-- PERM (R211). -/
def execPerm (f : Fur) (d : Dom) (sl : Fin 2) (op : BitVec 40) (s : State) : Res := .next (s.opBeat f d ⟨7 + sl.val, 0x5D, op.toNat⟩)
/-- ROT (R211). -/
def execRot (f : Fur) (d : Dom) (sl : Fin 2) (op : BitVec 40) (s : State) : Res := .next (s.opBeat f d ⟨7 + sl.val, 0x5E, op.toNat⟩)
/-- IADD (R212). -/
def execIadd (f : Fur) (d : Dom) (sl : Fin 2) (op : BitVec 40) (s : State) : Res := .next (s.opBeat f d ⟨7 + sl.val, 0x60, op.toNat⟩)
/-- ISUB (R212). -/
def execIsub (f : Fur) (d : Dom) (sl : Fin 2) (op : BitVec 40) (s : State) : Res := .next (s.opBeat f d ⟨7 + sl.val, 0x61, op.toNat⟩)
/-- IAND (R212). -/
def execIand (f : Fur) (d : Dom) (sl : Fin 2) (op : BitVec 40) (s : State) : Res := .next (s.opBeat f d ⟨7 + sl.val, 0x62, op.toNat⟩)
/-- IOR (R212). -/
def execIor (f : Fur) (d : Dom) (sl : Fin 2) (op : BitVec 40) (s : State) : Res := .next (s.opBeat f d ⟨7 + sl.val, 0x63, op.toNat⟩)
/-- IXOR (R212). -/
def execIxor (f : Fur) (d : Dom) (sl : Fin 2) (op : BitVec 40) (s : State) : Res := .next (s.opBeat f d ⟨7 + sl.val, 0x64, op.toNat⟩)
/-- ISHL (R212). -/
def execIshl (f : Fur) (d : Dom) (sl : Fin 2) (op : BitVec 40) (s : State) : Res := .next (s.opBeat f d ⟨7 + sl.val, 0x65, op.toNat⟩)
/-- ISHR (R212). -/
def execIshr (f : Fur) (d : Dom) (sl : Fin 2) (op : BitVec 40) (s : State) : Res := .next (s.opBeat f d ⟨7 + sl.val, 0x66, op.toNat⟩)
/-- ISAR (R212). -/
def execIsar (f : Fur) (d : Dom) (sl : Fin 2) (op : BitVec 40) (s : State) : Res := .next (s.opBeat f d ⟨7 + sl.val, 0x67, op.toNat⟩)
/-- IMIN (R212). -/
def execImin (f : Fur) (d : Dom) (sl : Fin 2) (op : BitVec 40) (s : State) : Res := .next (s.opBeat f d ⟨7 + sl.val, 0x68, op.toNat⟩)
/-- IMAX (R212). -/
def execImax (f : Fur) (d : Dom) (sl : Fin 2) (op : BitVec 40) (s : State) : Res := .next (s.opBeat f d ⟨7 + sl.val, 0x69, op.toNat⟩)
/-- CVT (R213). -/
def execCvt (f : Fur) (d : Dom) (sl : Fin 2) (op : BitVec 40) (s : State) : Res := .next (s.opBeat f d ⟨7 + sl.val, 0x70, op.toNat⟩)
/-- CVTSR (R213). -/
def execCvtsr (f : Fur) (d : Dom) (sl : Fin 2) (op : BitVec 40) (s : State) : Res := .next (s.opBeat f d ⟨7 + sl.val, 0x71, op.toNat⟩)
/-- CVTMX (R214). -/
def execCvtmx (f : Fur) (d : Dom) (sl : Fin 2) (op : BitVec 40) (s : State) : Res := .next (s.opBeat f d ⟨7 + sl.val, 0x72, op.toNat⟩)
/-- CVTIN (R215). -/
def execCvtin (f : Fur) (d : Dom) (sl : Fin 2) (op : BitVec 40) (s : State) : Res := .next (s.opBeat f d ⟨7 + sl.val, 0x73, op.toNat⟩)
/-- EXP2 (R216). -/
def execExp2 (f : Fur) (d : Dom) (op : BitVec 40) (s : State) : Res := .next (s.opBeat f d ⟨8, 0x78, op.toNat⟩)
/-- LOG2 (R216). -/
def execLog2 (f : Fur) (d : Dom) (op : BitVec 40) (s : State) : Res := .next (s.opBeat f d ⟨8, 0x79, op.toNat⟩)
/-- RSQRT (R216). -/
def execRsqrt (f : Fur) (d : Dom) (op : BitVec 40) (s : State) : Res := .next (s.opBeat f d ⟨8, 0x7A, op.toNat⟩)
/-- RCP (R216). -/
def execRcp (f : Fur) (d : Dom) (op : BitVec 40) (s : State) : Res := .next (s.opBeat f d ⟨8, 0x7B, op.toNat⟩)
/-- TANH (R216). -/
def execTanh (f : Fur) (d : Dom) (op : BitVec 40) (s : State) : Res := .next (s.opBeat f d ⟨8, 0x7C, op.toNat⟩)
/-- SIGM (R216). -/
def execSigm (f : Fur) (d : Dom) (op : BitVec 40) (s : State) : Res := .next (s.opBeat f d ⟨8, 0x7D, op.toNat⟩)
/-- RSUM (R217). -/
def execRsum (f : Fur) (d : Dom) (op : BitVec 40) (s : State) : Res := .next (s.opBeat f d ⟨8, 0x7E, op.toNat⟩)
/-- RMAX (R217). -/
def execRmax (f : Fur) (d : Dom) (op : BitVec 40) (s : State) : Res := .next (s.opBeat f d ⟨8, 0x7F, op.toNat⟩)
/-- VLD (R72). -/
def execVld (f : Fur) (d : Dom) (op : BitVec 40) (s : State) : Res := .next (s.opBeat f d ⟨9, 0x90, op.toNat⟩)
/-- VST (R72). -/
def execVst (f : Fur) (d : Dom) (op : BitVec 40) (s : State) : Res := .next (s.opBeat f d ⟨9, 0x91, op.toNat⟩)
/-- DRI_DGO (R134). -/
def execDriDgo (f : Fur) (d : Dom) (op : BitVec 40) (s : State) : Res := .next (s.opBeat f d ⟨10, 0xA0, op.toNat⟩)
/-- DTILE (R137). -/
def execDtile (f : Fur) (d : Dom) (op : BitVec 40) (s : State) : Res := .next (s.opBeat f d ⟨10, 0xA1, op.toNat⟩)
/-- DSTOP (R134). -/
def execDstop (f : Fur) (d : Dom) (op : BitVec 40) (s : State) : Res := .next (s.opBeat f d ⟨10, 0xA2, op.toNat⟩)
/-- DPUT (R138). -/
def execDput (f : Fur) (d : Dom) (op : BitVec 40) (s : State) : Res := .next (s.opBeat f d ⟨11, 0xA8, op.toNat⟩)
/-- DTEND (R139). -/
def execDtend (f : Fur) (d : Dom) (op : BitVec 40) (s : State) : Res := .next (s.opBeat f d ⟨11, 0xA9, op.toNat⟩)
/-- DRO_DGO (R134). -/
def execDroDgo (f : Fur) (d : Dom) (op : BitVec 40) (s : State) : Res := .next (s.opBeat f d ⟨11, 0xAA, op.toNat⟩)
/-- SADD (R283). -/
def execSadd (f : Fur) (d : Dom) (op : BitVec 40) (s : State) : Res := .next (s.opBeat f d ⟨12, 0xB0, op.toNat⟩)
/-- SSUB (R283). -/
def execSsub (f : Fur) (d : Dom) (op : BitVec 40) (s : State) : Res := .next (s.opBeat f d ⟨12, 0xB1, op.toNat⟩)
/-- SSET (R283). -/
def execSset (f : Fur) (d : Dom) (op : BitVec 40) (s : State) : Res := .next (s.opBeat f d ⟨12, 0xB2, op.toNat⟩)
/-- SWAIT (R283). -/
def execSwait (f : Fur) (d : Dom) (op : BitVec 40) (s : State) : Res := .next (s.opBeat f d ⟨12, 0xB3, op.toNat⟩)
/-- MISS (R225). -/
def execMiss (f : Fur) (d : Dom) (sl : Fin 2) (op : BitVec 40) (s : State) : Res := .next (s.opBeat f d ⟨13 + sl.val, 0xC0, op.toNat⟩)

end Sys2Proof.Machine
end

