-- ==== Sys2Proof/Machine/Tick.lean ====
section
/-! DEFINITION. One cycle of the 100 MHz reference clock: the timebase, the waiting ticks of the drills, and the gating condition (R45, R150, R385,
R386), and what has come to wait (R105, R303). -/

namespace Sys2Proof.Machine

/-- Nanoseconds that a reference cycle adds while `slew` remains, and the slew that then remains (R386). -/
def slewStep (slew : Int) : Int × Int :=
  if 0 < slew then (11, slew - 1) else if slew < 0 then (9, slew + 1) else (10, 0)

/-- Beat-clock ticks of a furrow between two readings of the timebase, at CURRENT steps of 12.5 MHz (R384). -/
def ticksBetween (current t t' : Nat) : Nat := current * t' / 80 - current * t / 80

/-- Whether a request of the drill has a piece that waits for its slot: none while the drill is frozen, and none of an OUT block before its rows
are taken (R137, R150). -/
def Drill.waitsStack (x : Drill) : Bool :=
  x.moving && (x.blocks.take 4).any (fun b => b.pieces.any (fun p => !x.out || b.pieceReady p))

/-- Whether a transfer that port S would take now fails its check: of the drill, of its next descriptor, or of the relay input for its RECV
list (R106, R128, R147). -/
def State.waitsTag (s : State) (f : Fur) (k : DrillNo) : Bool :=
  let x := s.fur f
  let relay := match x.recvDrill with | some (k', _) => if k' = k then x.relayNext.toList else [] | none => []
  ((x.drillNext k).toList ++ (x.descNext k).toList ++ relay).any (fun t =>
    s.portFree f t && !x.asleep (t.addr / 512) && s.checkHolds f t)

/-- Whether the relay output refuses a row of the drill, or the drill has an open RECV block and an empty buffer (R150). -/
def State.waitsRelay (s : State) (f : Fur) (k : DrillNo) : Bool :=
  ((s.relayRow f k).isSome && s.relayFull f) ||
    (match (s.fur f).relayIn, (s.fur f).recvDrill with | [], some (k', _) => k' == k | _, _ => false)

/-- The condition of waiting counter `c` of a drill: 0 BUSY, 1 WAIT_TAG, 2 WAIT_STACK, 3 WAIT_CREDIT, 4 WAIT_RELAY (R150). DESIGN CHOICE: WAIT_CREDIT
counts only where the credit alone is missing, and not while four blocks are outstanding (log 105). -/
def State.drillWaits (s : State) (f : Fur) (k : DrillNo) (c : Nat) : Bool :=
  let x := s.drill f k
  match c with
  | 0 => x.st == .running || x.st == .stopping
  | 1 => s.waitsTag f k
  | 2 => x.waitsStack
  | 3 => x.blockNext.isSome && !x.hasCredit
  | _ => s.waitsRelay f k

/-- The waiting counters of the furrow's drills whose conditions hold. -/
def State.waitsNow (s : State) (f : Fur) : List (DrillNo × Nat) :=
  (domDrills false 0).flatMap (fun k => ((List.range 5).filter (s.drillWaits f k)).map (fun c => (k, c)))

/-- Ticks counted by the furrow's drills, on the ungated branch (R384): each counter whose condition holds counts them all (R150). -/
def State.drillTicks (s : State) (f : Fur) (n : Nat) : State := (s.waitsNow f).foldl (fun t p => t.bumpDrill f p.1 p.2 n) s

/-- Whether a row of open window `j` waits: it is not in transfer, and its check holds it back, or its bank serves no transfer (R45, R312, R327). -/
def State.windowWaits (s : State) (f : Fur) (j : Nat) : Bool :=
  (s.window f j).isOpen && (s.windowRows f j).any (fun t =>
    !(s.fur f).xfers.any (fun u => u.agent == t.agent && u.idx == t.idx) && (s.bankHeld f t.addr || s.checkHolds f t))

/-- Ticks for which rows of the furrow's windows wait, on the ungated branch too (R312, R319, R384). -/
def State.windowTicks (s : State) (f : Fur) (n : Nat) : State :=
  ((List.range 16).filter (s.windowWaits f)).foldl (fun t j => t.countWait f j n) s

/-- Since when the gating condition of R45 holds, as a reference cycle finds it: from the first cycle that finds it, until one that does not. -/
def State.watchGate (s : State) (f : Fur) : State :=
  let x := s.fur f
  if s.mayGate f then (if x.gateSince.isNone then s.setFur f { x with gateSince := some s.time } else s)
  else if x.gateSince.isSome then s.setFur f { x with gateSince := none } else s

/-- `n` ticks on which the domain does nothing: the probe shows its last tick, and then as many that retire nothing and run no keeper operation
(R375, R376). -/
def Domain.idled (y : Domain) (n : Nat) : Domain :=
  if n = 0 then y
  else
    let z := { y with tick := y.noted y.pos false false y.course.isSome }
    { z with tick := { z.tick with
        no := (z.tick.no + (n - 1)) % 8
        recent := (List.replicate (min (n - 1) 7) z.probeWord ++ z.tick.recent).take 7 } }

/-- Ticks on which a domain attempts no beat and drains nothing, held in its drain or not: they are noted, on the ungated branch too (R384), and
on a beat clock that runs they carry keeper operations as the phase lets them (R44, R377). -/
def State.idleKeeper (s : State) (f : Fur) (d : Dom) (n : Nat) : State :=
  let y := s.dom f d
  if y.st == .running || (y.st == .draining && !y.hold) || y.st == .unused then s
  else
    if y.keeperPhase = 0 || (s.fur f).gated then s.setDom f d (y.idled n)
    else (List.range n).foldl (fun s _ => (s.noteTick f d false false).keeperTick f d false false) s

/-- COUNTER_WRAP (R41, R150, R151): the tick on which a counter that stands at 2^48 − 1 counts once more: for a cause of freezing a beat attempted and
frozen on it, for the keeper a tick that carries a keeper operation, for a drill a tick on which the counter's condition holds. `c` as in event
0x8E01. -/
def execCounterWrap (f : Fur) (d : Dom) (c : BitVec 8) (s : State) : Res :=
  let y := s.dom f d
  let n := c.toNat
  let full : BitVec 48 := BitVec.allOnes 48
  let beat := if s.canAttempt f d then s.fetchAttempt f d 0 else s
  if n < 8 then (if vat 0 y.frozen n = full && vat 0 (beat.dom f d).frozen n = 0 then .next beat else .next s)
  else if s.stopped then .next s
  else if n = 8 then
    (let t := if s.canAttempt f d then beat else s.idleKeeper f d 1
     if y.keeper = full && (t.dom f d).keeper = 0 then .next t else .next s)
  else
    let k := drillOf ((n - 16) / 8)
    if 16 ≤ n ∧ n < 80 ∧ n % 8 < 5 ∧ vat 0 (s.drill f k).waits (n % 8) = full ∧ s.drillWaits f k (n % 8) then .next (s.bumpDrill f k (n % 8) 1)
    else .next s

/-- The drills and windows of every built furrow count the ticks of a reference cycle from `t` to `t'`; their domains that stand still run keeper
operations, the port-W writes of their last ticks are past (R110, log 22), and the gating condition is watched. -/
def State.countTicks (s : State) (t t' : Nat) : State :=
  (List.range s.build.furrows).foldl (fun s i =>
    let f := furOf i
    let n := ticksBetween (s.fur f).current.toNat t t'
    let s1 := (s.modFur f (fun x => { x with wRows := [] })).drillTicks f n
    ((((s1.windowTicks f n).idleKeeper f 0 n).idleKeeper f 1 n).watchGate f).noteAsks f) s

/-- A reference cycle: from stage 3 the timebase and the powered time advance; before it, nothing does (R385, R388).
The dispatcher cycles before it are over, and the records that they refused are gone (log 25).
What waits at port S and for the mesh ports is noted (R105, R303). -/
def State.tick (s : State) : State :=
  if s.release = 3 then
    let p := slewStep s.slew
    let t := s.time.toNat
    let s1 : State :=
      { s with
        time := s.time + BitVec.ofInt 64 p.1, uptime := s.uptime + 10, slew := p.2,
        gl := { s.gl with refused := [] }, dc := { s.dc with ringLost := [] } }
    if s.dead then s1 else State.noteWaits <| if s.stopped then s1 else s1.countTicks t (t + p.1.toNat)
  else s

end Sys2Proof.Machine
end

