-- ==== Sys2Proof/Machine/Dispatch.lean ====
section
/-! DEFINITION. Which meaning each command has. -/

namespace Sys2Proof.Machine

def exec (i : Instr) (s : State) : Host.Outcome State Fault Refusal :=
  match i with
  | .registerWrite off wide v => Sys2Proof.Machine.execRegisterWrite off wide v s
  | .badRegisterAccess off bytes write => Sys2Proof.Machine.execBadRegisterAccess off bytes write s
  | .debugWindowRefused off write => Sys2Proof.Machine.execDebugWindowRefused off write s
  | .beatAttempt f b => Sys2Proof.Machine.execBeatAttempt f b s
  | .operationCommit f d mismatch => Sys2Proof.Machine.execOperationCommit f d mismatch s
  | .pairLossFreeze f d => Sys2Proof.Machine.execPairLossFreeze f d s
  | .tileChunkSwap f d => Sys2Proof.Machine.execTileChunkSwap f d s
  | .osDrainRead f d => Sys2Proof.Machine.execOsDrainRead f d s
  | .endWord f d => Sys2Proof.Machine.execEndWord f d s
  | .drainEnd f d => Sys2Proof.Machine.execDrainEnd f d s
  | .loop f d op => Sys2Proof.Machine.execLoop f d op s
  | .call f d op => Sys2Proof.Machine.execCall f d op s
  | .callif f d op => Sys2Proof.Machine.execCallif f d op s
  | .ret f d op => Sys2Proof.Machine.execRet f d op s
  | .halt f d op => Sys2Proof.Machine.execHalt f d op s
  | .add f d sl op => Sys2Proof.Machine.execAdd f d sl op s
  | .sub f d sl op => Sys2Proof.Machine.execSub f d sl op s
  | .mul f d sl op => Sys2Proof.Machine.execMul f d sl op s
  | .andOp f d sl op => Sys2Proof.Machine.execAndOp f d sl op s
  | .orOp f d sl op => Sys2Proof.Machine.execOrOp f d sl op s
  | .xorOp f d sl op => Sys2Proof.Machine.execXorOp f d sl op s
  | .shl f d sl op => Sys2Proof.Machine.execShl f d sl op s
  | .shr f d sl op => Sys2Proof.Machine.execShr f d sl op s
  | .sar f d sl op => Sys2Proof.Machine.execSar f d sl op s
  | .minOp f d sl op => Sys2Proof.Machine.execMinOp f d sl op s
  | .maxOp f d sl op => Sys2Proof.Machine.execMaxOp f d sl op s
  | .ldi f d sl op => Sys2Proof.Machine.execLdi f d sl op s
  | .shor f d sl op => Sys2Proof.Machine.execShor f d sl op s
  | .cmp f d sl op => Sys2Proof.Machine.execCmp f d sl op s
  | .rdl f d sl op => Sys2Proof.Machine.execRdl f d sl op s
  | .rdly f d sl op => Sys2Proof.Machine.execRdly f d sl op s
  | .rda f d sl op => Sys2Proof.Machine.execRda f d sl op s
  | .ldn f d op => Sys2Proof.Machine.execLdn f d op s
  | .stn f d op => Sys2Proof.Machine.execStn f d op s
  | .aset f d op => Sys2Proof.Machine.execAset f d op s
  | .astr f d op => Sys2Proof.Machine.execAstr f d op s
  | .astep f d op => Sys2Proof.Machine.execAstep f d op s
  | .aly f d op => Sys2Proof.Machine.execAly f d op s
  | .aadd f d op => Sys2Proof.Machine.execAadd f d op s
  | .amov f d op => Sys2Proof.Machine.execAmov f d op s
  | .tws f d op => Sys2Proof.Machine.execTws f d op s
  | .twt f d op => Sys2Proof.Machine.execTwt f d op s
  | .tos f d op => Sys2Proof.Machine.execTos f d op s
  | .tes f d op => Sys2Proof.Machine.execTes f d op s
  | .swap f d op => Sys2Proof.Machine.execSwap f d op s
  | .sld f d op => Sys2Proof.Machine.execSld f d op s
  | .wclr f d op => Sys2Proof.Machine.execWclr f d op s
  | .wrd f d op => Sys2Proof.Machine.execWrd f d op s
  | .wwr f d op => Sys2Proof.Machine.execWwr f d op s
  | .fma f d sl op => Sys2Proof.Machine.execFma f d sl op s
  | .fms f d sl op => Sys2Proof.Machine.execFms f d sl op s
  | .fnma f d sl op => Sys2Proof.Machine.execFnma f d sl op s
  | .fadd f d sl op => Sys2Proof.Machine.execFadd f d sl op s
  | .fsub f d sl op => Sys2Proof.Machine.execFsub f d sl op s
  | .fmul f d sl op => Sys2Proof.Machine.execFmul f d sl op s
  | .fmin f d sl op => Sys2Proof.Machine.execFmin f d sl op s
  | .fmax f d sl op => Sys2Proof.Machine.execFmax f d sl op s
  | .fcmp f d sl op => Sys2Proof.Machine.execFcmp f d sl op s
  | .sel f d sl op => Sys2Proof.Machine.execSel f d sl op s
  | .fabs f d sl op => Sys2Proof.Machine.execFabs f d sl op s
  | .fneg f d sl op => Sys2Proof.Machine.execFneg f d sl op s
  | .mov f d sl op => Sys2Proof.Machine.execMov f d sl op s
  | .perm f d sl op => Sys2Proof.Machine.execPerm f d sl op s
  | .rot f d sl op => Sys2Proof.Machine.execRot f d sl op s
  | .iadd f d sl op => Sys2Proof.Machine.execIadd f d sl op s
  | .isub f d sl op => Sys2Proof.Machine.execIsub f d sl op s
  | .iand f d sl op => Sys2Proof.Machine.execIand f d sl op s
  | .ior f d sl op => Sys2Proof.Machine.execIor f d sl op s
  | .ixor f d sl op => Sys2Proof.Machine.execIxor f d sl op s
  | .ishl f d sl op => Sys2Proof.Machine.execIshl f d sl op s
  | .ishr f d sl op => Sys2Proof.Machine.execIshr f d sl op s
  | .isar f d sl op => Sys2Proof.Machine.execIsar f d sl op s
  | .imin f d sl op => Sys2Proof.Machine.execImin f d sl op s
  | .imax f d sl op => Sys2Proof.Machine.execImax f d sl op s
  | .cvt f d sl op => Sys2Proof.Machine.execCvt f d sl op s
  | .cvtsr f d sl op => Sys2Proof.Machine.execCvtsr f d sl op s
  | .cvtmx f d sl op => Sys2Proof.Machine.execCvtmx f d sl op s
  | .cvtin f d sl op => Sys2Proof.Machine.execCvtin f d sl op s
  | .exp2 f d op => Sys2Proof.Machine.execExp2 f d op s
  | .log2 f d op => Sys2Proof.Machine.execLog2 f d op s
  | .rsqrt f d op => Sys2Proof.Machine.execRsqrt f d op s
  | .rcp f d op => Sys2Proof.Machine.execRcp f d op s
  | .tanh f d op => Sys2Proof.Machine.execTanh f d op s
  | .sigm f d op => Sys2Proof.Machine.execSigm f d op s
  | .rsum f d op => Sys2Proof.Machine.execRsum f d op s
  | .rmax f d op => Sys2Proof.Machine.execRmax f d op s
  | .vld f d op => Sys2Proof.Machine.execVld f d op s
  | .vst f d op => Sys2Proof.Machine.execVst f d op s
  | .driDgo f d op => Sys2Proof.Machine.execDriDgo f d op s
  | .dtile f d op => Sys2Proof.Machine.execDtile f d op s
  | .dstop f d op => Sys2Proof.Machine.execDstop f d op s
  | .dput f d op => Sys2Proof.Machine.execDput f d op s
  | .dtend f d op => Sys2Proof.Machine.execDtend f d op s
  | .droDgo f d op => Sys2Proof.Machine.execDroDgo f d op s
  | .sadd f d op => Sys2Proof.Machine.execSadd f d op s
  | .ssub f d op => Sys2Proof.Machine.execSsub f d op s
  | .sset f d op => Sys2Proof.Machine.execSset f d op s
  | .swait f d op => Sys2Proof.Machine.execSwait f d op s
  | .signalArrive f => Sys2Proof.Machine.execSignalArrive f s
  | .miss f d sl op => Sys2Proof.Machine.execMiss f d sl op s
  | .mortarError f u code => Sys2Proof.Machine.execMortarError f u code s
  | .longFreeze f d => Sys2Proof.Machine.execLongFreeze f d s
  | .counterWrap f d c => Sys2Proof.Machine.execCounterWrap f d c s
  | .keeperStepDown f d => Sys2Proof.Machine.execKeeperStepDown f d s
  | .clockGate f => Sys2Proof.Machine.execClockGate f s
  | .clockUngate f => Sys2Proof.Machine.execClockUngate f s
  | .fuThaw f mask => Sys2Proof.Machine.execFuThaw f mask s
  | .commandFetch q => Sys2Proof.Machine.execCommandFetch q s
  | .nop q => Sys2Proof.Machine.execNop q s
  | .barrier q => Sys2Proof.Machine.execBarrier q s
  | .timestamp q => Sys2Proof.Machine.execTimestamp q s
  | .loadProgram q => Sys2Proof.Machine.execLoadProgram q s
  | .programStoreLoad q seq => Sys2Proof.Machine.execProgramStoreLoad q seq s
  | .configure q => Sys2Proof.Machine.execConfigure q s
  | .configureApply q seq => Sys2Proof.Machine.execConfigureApply q seq s
  | .start q => Sys2Proof.Machine.execStart q s
  | .hostCall q => Sys2Proof.Machine.execHostCall q s
  | .scoreboardEntry f => Sys2Proof.Machine.execScoreboardEntry f s
  | .split q => Sys2Proof.Machine.execSplit q s
  | .splitChange f => Sys2Proof.Machine.execSplitChange f s
  | .fallow q => Sys2Proof.Machine.execFallow q s
  | .fallowSleep f => Sys2Proof.Machine.execFallowSleep f s
  | .fallowWakeEnd f => Sys2Proof.Machine.execFallowWakeEnd f s
  | .copy q => Sys2Proof.Machine.execCopy q s
  | .fill q => Sys2Proof.Machine.execFill q s
  | .copyDone q seq => Sys2Proof.Machine.execCopyDone q seq s
  | .armDrill q => Sys2Proof.Machine.execArmDrill q s
  | .rearmDrill q => Sys2Proof.Machine.execRearmDrill q s
  | .disarmDrill q => Sys2Proof.Machine.execDisarmDrill q s
  | .scratchWrite q => Sys2Proof.Machine.execScratchWrite q s
  | .scratchRead q => Sys2Proof.Machine.execScratchRead q s
  | .fenceSignal q => Sys2Proof.Machine.execFenceSignal q s
  | .fenceOperation q seq out => Sys2Proof.Machine.execFenceOperation q seq out s
  | .fenceWait q => Sys2Proof.Machine.execFenceWait q s
  | .fenceWatchRead k out => Sys2Proof.Machine.execFenceWatchRead k out s
  | .fenceWaitDeadline k out => Sys2Proof.Machine.execFenceWaitDeadline k out s
  | .signalSet q => Sys2Proof.Machine.execSignalSet q s
  | .windowOpen q => Sys2Proof.Machine.execWindowOpen q s
  | .windowClose q => Sys2Proof.Machine.execWindowClose q s
  | .windowClosed f j => Sys2Proof.Machine.execWindowClosed f j s
  | .remoteCopy q => Sys2Proof.Machine.execRemoteCopy q s
  | .remoteSignal q => Sys2Proof.Machine.execRemoteSignal q s
  | .completionRecordWrite q => Sys2Proof.Machine.execCompletionRecordWrite q s
  | .qsEnable q => Sys2Proof.Machine.execQsEnable q s
  | .qsDisable q => Sys2Proof.Machine.execQsDisable q s
  | .queueStopped q => Sys2Proof.Machine.execQueueStopped q s
  | .qsThaw q => Sys2Proof.Machine.execQsThaw q s
  | .qsUnbind q => Sys2Proof.Machine.execQsUnbind q s
  | .qsTailWrite q v => Sys2Proof.Machine.execQsTailWrite q v s
  | .qsHeadWrite q v => Sys2Proof.Machine.execQsHeadWrite q v s
  | .qsCqHeadWrite q v => Sys2Proof.Machine.execQsCqHeadWrite q v s
  | .cxCfgWrite c v => Sys2Proof.Machine.execCxCfgWrite c v s
  | .cxThaw c => Sys2Proof.Machine.execCxThaw c s
  | .cxAssignWrite f v => Sys2Proof.Machine.execCxAssignWrite f v s
  | .furrowOwnershipChange f => Sys2Proof.Machine.execFurrowOwnershipChange f s
  | .segmentFieldWrite ix reg v => Sys2Proof.Machine.execSegmentFieldWrite ix reg v s
  | .segmentCreate ix => Sys2Proof.Machine.execSegmentCreate ix s
  | .segmentFree ix => Sys2Proof.Machine.execSegmentFree ix s
  | .segmentRelease ix => Sys2Proof.Machine.execSegmentRelease ix s
  | .descriptorFetch f k => Sys2Proof.Machine.execDescriptorFetch f k s
  | .drillBlockBegin f k => Sys2Proof.Machine.execDrillBlockBegin f k s
  | .portSTransfer f a => Sys2Proof.Machine.execPortSTransfer f a s
  | .portSCommit f a => Sys2Proof.Machine.execPortSCommit f a s
  | .stackSlotGrant st => Sys2Proof.Machine.execStackSlotGrant st s
  | .rowsLand f k out => Sys2Proof.Machine.execRowsLand f k out s
  | .writeAcknowledge f k => Sys2Proof.Machine.execWriteAcknowledge f k s
  | .drillListEnd f k => Sys2Proof.Machine.execDrillListEnd f k s
  | .drillStopped f k => Sys2Proof.Machine.execDrillStopped f k s
  | .drillThaw f mask => Sys2Proof.Machine.execDrillThaw f mask s
  | .relaySend f k => Sys2Proof.Machine.execRelaySend f k s
  | .relayArrive f => Sys2Proof.Machine.execRelayArrive f s
  | .relayWrite f => Sys2Proof.Machine.execRelayWrite f s
  | .l2Reset f sc => Sys2Proof.Machine.execL2Reset f sc s
  | .l2Complete f sc failing => Sys2Proof.Machine.execL2Complete f sc failing s
  | .l3Reset => Sys2Proof.Machine.execL3Reset s
  | .l3Complete failing => Sys2Proof.Machine.execL3Complete failing s
  | .l3Timeout => Sys2Proof.Machine.execL3Timeout s
  | .l4Entry => Sys2Proof.Machine.execL4Entry s
  | .recoveryWindowClose r => Sys2Proof.Machine.execRecoveryWindowClose r s
  | .faultNRelease => Sys2Proof.Machine.execFaultNRelease s
  | .pstoreEccError f addr => Sys2Proof.Machine.execPstoreEccError f addr s
  | .furrowControlFault f unit => Sys2Proof.Machine.execFurrowControlFault f unit s
  | .dispatcherError unit index => Sys2Proof.Machine.execDispatcherError unit index s
  | .reeveWatchdog report => Sys2Proof.Machine.execReeveWatchdog report s
  | .segmentTableError ix => Sys2Proof.Machine.execSegmentTableError ix s
  | .configurationUpset report => Sys2Proof.Machine.execConfigurationUpset report s
  | .resetFurrow mask => Sys2Proof.Machine.execResetFurrow mask s
  | .resetBlock => Sys2Proof.Machine.execResetBlock s
  | .dbgThaw => Sys2Proof.Machine.execDbgThaw s
  | .goMailbox => Sys2Proof.Machine.execGoMailbox s
  | .ackMailbox => Sys2Proof.Machine.execAckMailbox s
  | .mailboxTake => Sys2Proof.Machine.execMailboxTake s
  | .rvNop => Sys2Proof.Machine.execRvNop s
  | .maintStart => Sys2Proof.Machine.execMaintStart s
  | .maintEnd => Sys2Proof.Machine.execMaintEnd s
  | .activityBegin => Sys2Proof.Machine.execActivityBegin s
  | .activityClaim k => Sys2Proof.Machine.execActivityClaim k s
  | .activityEnd k ok failing => Sys2Proof.Machine.execActivityEnd k ok failing s
  | .autoActivity activity target => Sys2Proof.Machine.execAutoActivity activity target s
  | .patrolRead k out => Sys2Proof.Machine.execPatrolRead k out s
  | .retrainEnd k ok => Sys2Proof.Machine.execRetrainEnd k ok s
  | .marginStep k passed written => Sys2Proof.Machine.execMarginStep k passed written s
  | .canarySample f low => Sys2Proof.Machine.execCanarySample f low s
  | .planDue f => Sys2Proof.Machine.execPlanDue f s
  | .clockPlanUpdate => Sys2Proof.Machine.execClockPlanUpdate s
  | .rvBudgetWrite v => Sys2Proof.Machine.execRvBudgetWrite v s
  | .thermalHoldStep die temps => Sys2Proof.Machine.execThermalHoldStep die temps s
  | .thermalRecoveryStep die temps => Sys2Proof.Machine.execThermalRecoveryStep die temps s
  | .criticalTemperature sensor temp => Sys2Proof.Machine.execCriticalTemperature sensor temp s
  | .thermalRelease temps => Sys2Proof.Machine.execThermalRelease temps s
  | .throttleAssert lowNs => Sys2Proof.Machine.execThrottleAssert lowNs s
  | .throttleRelease => Sys2Proof.Machine.execThrottleRelease s
  | .keyLoad => Sys2Proof.Machine.execKeyLoad s
  | .keyErase => Sys2Proof.Machine.execKeyErase s
  | .debugEnable => Sys2Proof.Machine.execDebugEnable s
  | .debugDisable => Sys2Proof.Machine.execDebugDisable s
  | .debugExpiry => Sys2Proof.Machine.execDebugExpiry s
  | .meshDrRead => Sys2Proof.Machine.execMeshDrRead s
  | .meshDrWrite => Sys2Proof.Machine.execMeshDrWrite s
  | .mgmtTimeout => Sys2Proof.Machine.execMgmtTimeout s
  | .clearF => Sys2Proof.Machine.execClearF s
  | .clearI => Sys2Proof.Machine.execClearI s
  | .gleanerStore => Sys2Proof.Machine.execGleanerStore s
  | .probeCtrlWrite v => Sys2Proof.Machine.execProbeCtrlWrite v s
  | .captureHold => Sys2Proof.Machine.execCaptureHold s
  | .captureRelease => Sys2Proof.Machine.execCaptureRelease s
  | .captureSelect v => Sys2Proof.Machine.execCaptureSelect v s
  | .debugPstoreWrite f off wide v => Sys2Proof.Machine.execDebugPstoreWrite f off wide v s
  | .meshPortEnable p en => Sys2Proof.Machine.execMeshPortEnable p en s
  | .pcsLock p => Sys2Proof.Machine.execPcsLock p s
  | .linkDown p cause => Sys2Proof.Machine.execLinkDown p cause s
  | .portRetrain p => Sys2Proof.Machine.execPortRetrain p s
  | .helloSend p => Sys2Proof.Machine.execHelloSend p s
  | .linkSend p => Sys2Proof.Machine.execLinkSend p s
  | .portTransmit p => Sys2Proof.Machine.execPortTransmit p s
  | .meshFrameReceive p good fr => Sys2Proof.Machine.execMeshFrameReceive p good fr s
  | .linkFrame p => Sys2Proof.Machine.execLinkFrame p s
  | .helloFrame p => Sys2Proof.Machine.execHelloFrame p s
  | .mgmtFrame p => Sys2Proof.Machine.execMgmtFrame p s
  | .frameForward src => Sys2Proof.Machine.execFrameForward src s
  | .frameDrop src => Sys2Proof.Machine.execFrameDrop src s
  | .laneFrameDeliver => Sys2Proof.Machine.execLaneFrameDeliver s
  | .writeFrameCommit src lane => Sys2Proof.Machine.execWriteFrameCommit src lane s
  | .fsigFrame src lane out => Sys2Proof.Machine.execFsigFrame src lane out s
  | .csigFrame src lane => Sys2Proof.Machine.execCsigFrame src lane s
  | .ackFrame => Sys2Proof.Machine.execAckFrame s
  | .nakFrame => Sys2Proof.Machine.execNakFrame s
  | .nakBusyResend dest lane => Sys2Proof.Machine.execNakBusyResend dest lane s
  | .laneRetransmit dest lane => Sys2Proof.Machine.execLaneRetransmit dest lane s
  | .thawPair id lane => Sys2Proof.Machine.execThawPair id lane s
  | .thawSource id => Sys2Proof.Machine.execThawSource id s
  | .resetSenderLane id lane => Sys2Proof.Machine.execResetSenderLane id lane s
  | .resetSenderLanes id => Sys2Proof.Machine.execResetSenderLanes id s
  | .syncInEdge sinceLast high => Sys2Proof.Machine.execSyncInEdge sinceLast high s
  | .syncOutPulse => Sys2Proof.Machine.execSyncOutPulse s
  | .blockReset => Sys2Proof.Machine.execBlockReset s
  | .releaseStage1 => Sys2Proof.Machine.execReleaseStage1 s
  | .releaseStage2 => Sys2Proof.Machine.execReleaseStage2 s
  | .releaseStage3 => Sys2Proof.Machine.execReleaseStage3 s
  | .firmwareLoaded ok failing reach bad => Sys2Proof.Machine.execFirmwareLoaded ok failing reach bad s
  | .startupTimeout firmwareFailed => Sys2Proof.Machine.execStartupTimeout firmwareFailed s

end Sys2Proof.Machine
end

