-- ==== Sys2Proof/WellFormed.lean ====
section
/-! DEFINITION. Which commands are well formed: operands that the table's rows allow, beyond what their types say. The meanings are total, and
answer for an ill-formed command too. -/

namespace Sys2Proof

/-- Whether an access is one aligned 64-bit access, or an aligned 32-bit access to a half (R9). -/
def aligned (off bytes : Nat) : Bool := (bytes == 8 && off % 8 == 0) || (bytes == 4 && off % 4 == 0)

/-- Whether an offset lies in the debug window (R374). -/
def inDebugWindow (off : Nat) : Bool := decide (0x2000000 ≤ off) && decide (off < 0x2500000)

/-- Whether a frame's payload is no longer than 4,096 bytes (R294). -/
def Frame.wellFormed (f : Frame) : Bool := decide (f.payload.length ≤ 4096)

/-- The checks of one command. -/
def Instr.wellFormed (c : Instr) : Bool :=
  match c with
  | .registerWrite off wide _ => aligned off.toNat (if wide then 8 else 4)
  | .badRegisterAccess off bytes _ => decide (0 < bytes) && !aligned off.toNat bytes
  | .debugWindowRefused off _ => inDebugWindow off.toNat && off.toNat % 4 == 0
  | .counterWrap _ _ c => decide (c.toNat ≤ 8) || (decide (16 ≤ c.toNat) && decide (c.toNat < 80) && decide (c.toNat % 8 < 5))
  | .l2Reset _ sc => sc != .block
  | .l2Complete _ sc _ => sc != .block
  | .autoActivity a _ => a == 1 || a == 2 || a == 4
  | .thermalHoldStep _ temps => temps.length == 20
  | .thermalRecoveryStep _ temps => temps.length == 20
  | .thermalRelease temps => temps.length == 20
  | .throttleAssert lowNs => decide (100 ≤ lowNs)
  | .debugPstoreWrite _ off wide _ => aligned off.toNat (if wide then 8 else 4)
  | .meshFrameReceive _ _ fr => fr.wellFormed
  | .syncInEdge sinceLast high => decide (high < sinceLast)
  | _ => true

end Sys2Proof
end

