-- ==== Sys2Proof/Safety.lean ====
section
/-! DEFINITION. What claims are stated in: when a beat retires, when host writes reach their registers, and what a safe state is. -/

namespace Sys2Proof.Machine

/-! ### Beats -/

/-- A RUNNING domain of a block that runs stands at a beat that may issue a word: no pair has been lost, no beat with no issue is due, and the end of
the routine has not been reached (R38, R80, R175, R405). -/
def State.atBeat (s : State) (f : Fur) (d : Dom) : Prop :=
  s.canAttempt f d = true ∧ (s.dom f d).pairLost = false ∧ (s.dom f d).idle = 0 ∧ (s.dom f d).done = 0 ∧
    (s.dom f d).pos < (s.dom f d).stop

/-- The course that reads port W in this beat: the running one, or the one that the beat issues, unless it costs no beat. -/
def State.courseNow (s : State) (f : Fur) (d : Dom) (acts : List Act) : Option Course :=
  liveCourse (s.dom f d) acts

/-- The port-W accesses of the beat that get their banks (R104). -/
def State.servedNow (s : State) (f : Fur) (d : Dom) (acts : List Act) : List Acc :=
  ((clashes (courseAccs s.build (s.courseNow f d acts) ++ accsOf acts)).filter (fun p => p.2.isNone)).map Prod.fst

/-- No served access is out of range or out of ring order, and no cause of R40 is present: steps 4 and 5 of R405 pass. -/
def State.unblocked (s : State) (f : Fur) (d : Dom) (acts : List Act) : Prop :=
  portFaults (s.env f d) (s.servedNow f d acts) = [] ∧ beatCauses (s.env f d) (s.servedNow f d acts) acts = 0

/-- The word with one operation. -/
def oneOp (o : SlotOp) : Word := ⟨0, [o], 0⟩

/-- The state after a beat that issued the word with the one operation `o`, whose acts are `acts`, and retired. -/
def State.issued (s : State) (f : Fur) (d : Dom) (o : SlotOp) (acts : List Act) : State :=
  s.retireBeat f d (some (oneOp o)) acts (s.dom f d).pos 0

/-- Command `c` is the operation `o` of a beat: where the domain stands at a beat, the slot's encoding is right (R98) and nothing stops the beat,
the beat retires, and the slot does `acts`. -/
def issues (c : Instr) (s : State) (f : Fur) (d : Dom) (o : SlotOp) (acts : List Act) : Prop :=
  s.atBeat f d → encFault o = none → s.unblocked f d acts → exec c s = .next (s.issued f d o acts)

/-- The slot operation that a command is: its domain, and slot, code and operand of the one-operation word (R64, log 15). -/
def slotOpOf (c : Instr) : Option (Fur × Dom × SlotOp) :=
  match c with
  | .loop f d op => some (f, d, ⟨0, 0x01, op.toNat⟩)
  | .call f d op => some (f, d, ⟨0, 0x02, op.toNat⟩)
  | .callif f d op => some (f, d, ⟨0, 0x03, op.toNat⟩)
  | .ret f d op => some (f, d, ⟨0, 0x04, op.toNat⟩)
  | .halt f d op => some (f, d, ⟨0, 0x05, op.toNat⟩)
  | .add f d sl op => some (f, d, ⟨1 + sl.val, 0x10, op.toNat⟩)
  | .sub f d sl op => some (f, d, ⟨1 + sl.val, 0x11, op.toNat⟩)
  | .mul f d sl op => some (f, d, ⟨1 + sl.val, 0x12, op.toNat⟩)
  | .andOp f d sl op => some (f, d, ⟨1 + sl.val, 0x13, op.toNat⟩)
  | .orOp f d sl op => some (f, d, ⟨1 + sl.val, 0x14, op.toNat⟩)
  | .xorOp f d sl op => some (f, d, ⟨1 + sl.val, 0x15, op.toNat⟩)
  | .shl f d sl op => some (f, d, ⟨1 + sl.val, 0x16, op.toNat⟩)
  | .shr f d sl op => some (f, d, ⟨1 + sl.val, 0x17, op.toNat⟩)
  | .sar f d sl op => some (f, d, ⟨1 + sl.val, 0x18, op.toNat⟩)
  | .minOp f d sl op => some (f, d, ⟨1 + sl.val, 0x19, op.toNat⟩)
  | .maxOp f d sl op => some (f, d, ⟨1 + sl.val, 0x1A, op.toNat⟩)
  | .ldi f d sl op => some (f, d, ⟨1 + sl.val, 0x1B, op.toNat⟩)
  | .shor f d sl op => some (f, d, ⟨1 + sl.val, 0x1C, op.toNat⟩)
  | .cmp f d sl op => some (f, d, ⟨1 + sl.val, 0x1D, op.toNat⟩)
  | .rdl f d sl op => some (f, d, ⟨1 + sl.val, 0x1E, op.toNat⟩)
  | .rdly f d sl op => some (f, d, ⟨1 + sl.val, 0x1F, op.toNat⟩)
  | .rda f d sl op => some (f, d, ⟨1 + sl.val, 0x20, op.toNat⟩)
  | .ldn f d op => some (f, d, ⟨1, 0x21, op.toNat⟩)
  | .stn f d op => some (f, d, ⟨1, 0x22, op.toNat⟩)
  | .aset f d op => some (f, d, ⟨3, 0x30, op.toNat⟩)
  | .astr f d op => some (f, d, ⟨3, 0x31, op.toNat⟩)
  | .astep f d op => some (f, d, ⟨3, 0x32, op.toNat⟩)
  | .aly f d op => some (f, d, ⟨3, 0x33, op.toNat⟩)
  | .aadd f d op => some (f, d, ⟨3, 0x34, op.toNat⟩)
  | .amov f d op => some (f, d, ⟨3, 0x35, op.toNat⟩)
  | .tws f d op => some (f, d, ⟨4, 0x38, op.toNat⟩)
  | .twt f d op => some (f, d, ⟨4, 0x39, op.toNat⟩)
  | .tos f d op => some (f, d, ⟨4, 0x3A, op.toNat⟩)
  | .tes f d op => some (f, d, ⟨4, 0x3B, op.toNat⟩)
  | .swap f d op => some (f, d, ⟨4, 0x3C, op.toNat⟩)
  | .sld f d op => some (f, d, ⟨5, 0x40, op.toNat⟩)
  | .wclr f d op => some (f, d, ⟨6, 0x48, op.toNat⟩)
  | .wrd f d op => some (f, d, ⟨6, 0x49, op.toNat⟩)
  | .wwr f d op => some (f, d, ⟨6, 0x4A, op.toNat⟩)
  | .fma f d sl op => some (f, d, ⟨7 + sl.val, 0x50, op.toNat⟩)
  | .fms f d sl op => some (f, d, ⟨7 + sl.val, 0x51, op.toNat⟩)
  | .fnma f d sl op => some (f, d, ⟨7 + sl.val, 0x52, op.toNat⟩)
  | .fadd f d sl op => some (f, d, ⟨7 + sl.val, 0x53, op.toNat⟩)
  | .fsub f d sl op => some (f, d, ⟨7 + sl.val, 0x54, op.toNat⟩)
  | .fmul f d sl op => some (f, d, ⟨7 + sl.val, 0x55, op.toNat⟩)
  | .fmin f d sl op => some (f, d, ⟨7 + sl.val, 0x56, op.toNat⟩)
  | .fmax f d sl op => some (f, d, ⟨7 + sl.val, 0x57, op.toNat⟩)
  | .fcmp f d sl op => some (f, d, ⟨7 + sl.val, 0x58, op.toNat⟩)
  | .sel f d sl op => some (f, d, ⟨7 + sl.val, 0x59, op.toNat⟩)
  | .fabs f d sl op => some (f, d, ⟨7 + sl.val, 0x5A, op.toNat⟩)
  | .fneg f d sl op => some (f, d, ⟨7 + sl.val, 0x5B, op.toNat⟩)
  | .mov f d sl op => some (f, d, ⟨7 + sl.val, 0x5C, op.toNat⟩)
  | .perm f d sl op => some (f, d, ⟨7 + sl.val, 0x5D, op.toNat⟩)
  | .rot f d sl op => some (f, d, ⟨7 + sl.val, 0x5E, op.toNat⟩)
  | .iadd f d sl op => some (f, d, ⟨7 + sl.val, 0x60, op.toNat⟩)
  | .isub f d sl op => some (f, d, ⟨7 + sl.val, 0x61, op.toNat⟩)
  | .iand f d sl op => some (f, d, ⟨7 + sl.val, 0x62, op.toNat⟩)
  | .ior f d sl op => some (f, d, ⟨7 + sl.val, 0x63, op.toNat⟩)
  | .ixor f d sl op => some (f, d, ⟨7 + sl.val, 0x64, op.toNat⟩)
  | .ishl f d sl op => some (f, d, ⟨7 + sl.val, 0x65, op.toNat⟩)
  | .ishr f d sl op => some (f, d, ⟨7 + sl.val, 0x66, op.toNat⟩)
  | .isar f d sl op => some (f, d, ⟨7 + sl.val, 0x67, op.toNat⟩)
  | .imin f d sl op => some (f, d, ⟨7 + sl.val, 0x68, op.toNat⟩)
  | .imax f d sl op => some (f, d, ⟨7 + sl.val, 0x69, op.toNat⟩)
  | .cvt f d sl op => some (f, d, ⟨7 + sl.val, 0x70, op.toNat⟩)
  | .cvtsr f d sl op => some (f, d, ⟨7 + sl.val, 0x71, op.toNat⟩)
  | .cvtmx f d sl op => some (f, d, ⟨7 + sl.val, 0x72, op.toNat⟩)
  | .cvtin f d sl op => some (f, d, ⟨7 + sl.val, 0x73, op.toNat⟩)
  | .exp2 f d op => some (f, d, ⟨8, 0x78, op.toNat⟩)
  | .log2 f d op => some (f, d, ⟨8, 0x79, op.toNat⟩)
  | .rsqrt f d op => some (f, d, ⟨8, 0x7A, op.toNat⟩)
  | .rcp f d op => some (f, d, ⟨8, 0x7B, op.toNat⟩)
  | .tanh f d op => some (f, d, ⟨8, 0x7C, op.toNat⟩)
  | .sigm f d op => some (f, d, ⟨8, 0x7D, op.toNat⟩)
  | .rsum f d op => some (f, d, ⟨8, 0x7E, op.toNat⟩)
  | .rmax f d op => some (f, d, ⟨8, 0x7F, op.toNat⟩)
  | .vld f d op => some (f, d, ⟨9, 0x90, op.toNat⟩)
  | .vst f d op => some (f, d, ⟨9, 0x91, op.toNat⟩)
  | .driDgo f d op => some (f, d, ⟨10, 0xA0, op.toNat⟩)
  | .dtile f d op => some (f, d, ⟨10, 0xA1, op.toNat⟩)
  | .dstop f d op => some (f, d, ⟨10, 0xA2, op.toNat⟩)
  | .dput f d op => some (f, d, ⟨11, 0xA8, op.toNat⟩)
  | .dtend f d op => some (f, d, ⟨11, 0xA9, op.toNat⟩)
  | .droDgo f d op => some (f, d, ⟨11, 0xAA, op.toNat⟩)
  | .sadd f d op => some (f, d, ⟨12, 0xB0, op.toNat⟩)
  | .ssub f d op => some (f, d, ⟨12, 0xB1, op.toNat⟩)
  | .sset f d op => some (f, d, ⟨12, 0xB2, op.toNat⟩)
  | .swait f d op => some (f, d, ⟨12, 0xB3, op.toNat⟩)
  | .miss f d sl op => some (f, d, ⟨13 + sl.val, 0xC0, op.toNat⟩)
  | _ => none

/-- Operands of format S (R61): register A, and register B or the sign-extended immediate. -/
def State.opA64 (s : State) (f : Fur) (d : Dom) (op : BitVec 40) : W64 := (s.dom f d).sreg (op.extractLsb' 30 5).toNat
def State.opB64 (s : State) (f : Fur) (d : Dom) (op : BitVec 40) : W64 :=
  if op.getLsbD 29 then (op.extractLsb' 0 29).signExtend 64 else (s.dom f d).sreg (op.extractLsb' 24 5).toNat

/-- What a scalar operation does: D takes `w` after the latency of byte 19 (R66). -/
def State.scalarTo (s : State) (op : BitVec 40) (w : W64) : List Act :=
  [.eff (s.build.latOf 19) (.sreg (op.extractLsb' 35 5).toNat w)]

/-- What an address operation does: register `i` takes `w` after the latency of byte 20 (R67). -/
def State.addressTo (s : State) (i : Nat) (w : W64) : Act := .eff (s.build.latOf 20) (.areg i w)

/-- An address register with its BASE moved by `n` modulo 2^25, TV2 and STRIDE kept (R67). -/
def stepped (r : W64) (n : Int) : W64 :=
  (r.extractLsb' 32 32 ++ r.extractLsb' 31 1 ++ (0 : BitVec 6) ++ BitVec.ofInt 25 ((r.extractLsb' 0 25).toNat + n)).setWidth 64

/-- STRIDE of an address register. -/
def strideOf (r : W64) : Int := (r.extractLsb' 32 32).toInt

/-- Harrow lanes of the domain (R205), and the lanes of a vector register. -/
def State.lanesOf (s : State) (f : Fur) (d : Dom) (i : Nat) : List W32 := ((s.dom f d).vreg i).vals 0 (s.env f d).h

/-- Operand B of a harrow operation: the broadcast scalar's bits [31:0] where SB is set, else the register (R208). -/
def State.opBLanes (s : State) (f : Fur) (d : Dom) (n : Nat) : List W32 :=
  if opSB n then List.replicate (s.env f d).h (((s.dom f d).sreg (opSI n)).setWidth 32) else s.lanesOf f d (opB n)

/-- Poison marks of a vector register in the segments of the domain. -/
def State.marksOf (s : State) (f : Fur) (d : Dom) (i : Nat) : BitVec 8 := ((s.dom f d).vreg i).marks &&& segsOf 0 (s.env f d).h
def State.opBMarks (s : State) (f : Fur) (d : Dom) (n : Nat) : BitVec 8 := if opSB n then 0 else s.marksOf f d (opB n)

/-- What a harrow operation of slot `slot` does: all lanes of D take `r`'s values after the latency of sheet byte `byte`, with the segment marks
`marks`, and the flags of `r` are raised (R207, R208, R218); a lane of a marked segment takes a free value (R198, log 30). -/
def State.vectorTo (s : State) (f : Fur) (d : Dom) (slot n byte : Nat) (r : List W32 × Raised) (marks : BitVec 8) : List Act :=
  [.hrw (s.build.latOf byte) (.vreg (opD n) 0 (poisonLanes (s.free + slot) marks r.1) (segsOf 0 (s.env f d).h) marks) r.2]

/-- A lane-wise operation on H lanes: lane ℓ of the result is `g` of lane ℓ of each operand, and the flags are those of all lanes (R207). -/
def laneWise (h : Nat) (g : W32 → W32 → W32 → W32 × Raised) (a b c : List W32) : List W32 × Raised :=
  ((List.range h).map (fun i => (g (a.getD i 0) (b.getD i 0) (c.getD i 0)).1),
    (List.range h).foldl (fun fl i => fl ||| (g (a.getD i 0) (b.getD i 0) (c.getD i 0)).2) 0)

/-- MOD of format V: TYPE, SAT or COND[2] position, FLUSH, RM (R209). -/
def tyOf (n : Nat) : Nat := nfld (opMod n) 4 2
def satOf (n : Nat) : Bool := nfld (opMod n) 3 1 == 1
def flushOf (n : Nat) : Bool := nfld (opMod n) 2 1 == 1
def rmOf (n : Nat) : Rnd := Rnd.ofRM (opMod n % 4)

/-- Integer element width of a MOD field (R209). -/
def iwOf (n : Nat) : Nat := if tyOf n = 0 then 32 else if tyOf n = 1 then 16 else 8

/-! ### Host accesses -/

/-- The block takes host writes: out of reset, not at L4, and READY has been 1 since stage 3 (R329, R388, R392). -/
def State.takesWrites (s : State) : Prop := s.release = 3 ∧ s.dead = false ∧ s.dc.started = true

/-! ### Queue commands -/

/-- The dispatcher picks the head `p` of queue `q`, of opcode `op`, and it passes steps 1 to 6 and the shared part of step 7 of R243. -/
def State.takesHead (s : State) (q : QSlot) (op : Nat) (p : Packet) : Prop :=
  (s.queue q).fetched.head? = some p ∧ s.dispatchPick = some q ∧ p.op = op ∧ s.headCheck (s.queue q) p = none ∧ s.notOwned (s.queue q) p = false ∧
    s.badHandle (s.ctx (s.queue q).ctxSlot).id (handleUses op p.w) = none ∧ s.badRange p = false ∧ s.domainState p = none

/-- The state once that head has become an accepted command, its segments referenced (R242, R266). -/
def State.admitted (s : State) (q : QSlot) (op : Nat) (p : Packet) : State :=
  s.letIn q p ((handleUses op p.w).map (fun u => hIndex u.handle))

/-- The name of the command that a head becomes. -/
def refOf (q : QSlot) (p : Packet) : CmdRef := ⟨q.val, p.seq⟩

/-- Command `c` takes a head that passes those checks, and its effect then is `body`. -/
def accepts (c : Instr) (s : State) (q : QSlot) (op : Nat) (p : Packet) (t : State) : Prop :=
  s.takesHead q op p → exec c s = .next t

/-! ### Safe states -/

/-- The memories outside the block and the tables of the shared logic are in canonical form: keys rising, and no element that equals what an
unlisted key reads as. -/
def State.tablesOk (s : State) : Prop :=
  twf 0 s.hostMem = true ∧ twf false s.hostBad = true ∧ twf 0 s.hbm = true ∧ twf false s.hbmBad = true ∧ twf Seg.zero s.segs = true

/-- A furrow's arrays are in canonical form. -/
def Furrow.tablesOk (x : Furrow) : Prop :=
  twf 0 x.pstore = true ∧ twf Routine.zero x.routines = true ∧ twf 0 x.data = true ∧ twf false x.full = true ∧ twf false x.poison = true
    ∧ twf 0 x.counters = true ∧ twf WEntry.zero x.windrow = true ∧ twf CellRow.zero x.cells = true

/-- A safe step: it answers a next state, and leaves every table of the shared logic in canonical form. -/
def SafeStep (s : State) : Prop := ∃ t, step s = .next t ∧ t.tablesOk

/-- The furrows of two states agree but for their scoreboards: what a host command holds there ends with the command (R118). -/
def sameFurrows (s t : State) : Prop :=
  ∀ f : Fur, t.fur f = { s.fur f with board := (t.fur f).board, waiting := (t.fur f).waiting }

end Sys2Proof.Machine
end

