-- ==== Sys2Proof/Certificates/Slice0/Obligations.lean ====
section
/-! DEFINITION. The statements for the provers. -/

open Sys2Proof Sys2Proof.Machine

/-- A step of a state with a command at the front of its queue is the command's effect on the state with the queue's rest. -/
def Obligations.StepRunsFront : Prop :=
  ∀ (c : Instr) (s : State), step { s with pending := c :: s.pending } = exec c s

/-- With no command waiting a step is one cycle of the reference clock: from stage 3 the timebase adds 10 ns, or 11 or 9 ns while a slew remains, and before it nothing happens (R385, R386; that the empty queue gives the cycle is the model's choice, log 1). Memories, queues, scratchpads and records stay, and the mesh but for the notes of since when a frame waits; of a domain only the KEEPER count, the eighths that it gathers and the record of the last tick may change, for a domain that stands still runs keeper operations (R44; at which ticks is the model's choice, log 19). -/
def Obligations.ReferenceCycle : Prop :=
  ∀ s : State, s.pending = [] →
    (s.release ≠ 3 → step s = .next s) ∧
    (s.release = 3 → ∃ t, step s = .next t ∧
      t.time = s.time + (if 0 < s.slew then 11 else if s.slew < 0 then 9 else 10) ∧
      t.slew = (if 0 < s.slew then s.slew - 1 else if s.slew < 0 then s.slew + 1 else 0) ∧
      t.hostMem = s.hostMem ∧ t.hbm = s.hbm ∧ t.queues = s.queues ∧ t.segs = s.segs ∧ { t.dc with ringLost := s.dc.ringLost } = s.dc ∧ t.rv = s.rv ∧
      t.gl.store = s.gl.store ∧ { t.ms with send := s.ms.send, transit := s.ms.transit, answers := s.ms.answers } = s.ms ∧
      t.ms.transit.map Transit.frame = s.ms.transit.map Transit.frame ∧ t.ms.answers.map Prod.fst = s.ms.answers.map Prod.fst ∧
      ∀ f : Fur, (t.fur f).data = (s.fur f).data ∧ (t.fur f).full = (s.fur f).full ∧ (t.fur f).counters = (s.fur f).counters ∧
        (t.fur f).windrow = (s.fur f).windrow ∧ (t.fur f).cells = (s.fur f).cells ∧ (t.fur f).xfers = (s.fur f).xfers ∧
        (t.fur f).board = (s.fur f).board ∧
        ∀ d : Dom, ∃ keeper acc tick, t.dom f d = { s.dom f d with keeper := keeper, keeperAcc := acc, tick := tick })

/-- After block reset every queue, context and watch slot is FREE, GL_SEQ is 1 with both partitions empty, the dispatcher's and the stack ports' counts are zero, MS_ID.VALID and LOCK are 0 and every mesh port is DISABLED, RV_BUDGET is 2,400 and RV_POLICY has every bit set (R395); every domain is in RESET, the segment table is FREE at GEN 0, no key is loaded, FU_CLOCK is 56 with FU_STALL_LIMIT 0x000F4240, and READY is 0. -/
def Obligations.ResetValues : Prop :=
  let s := State.reset
  s.pending = [] ∧ s.release = 0 ∧ s.time = 0 ∧ s.dc.ready = false ∧ s.dc.recovs = [] ∧
    (∀ q : QSlot, (s.queue q).st = .free ∧ (s.queue q).cmds = []) ∧
    (∀ c : CSlot, (s.ctx c.val).valid = false ∧ (s.ctx c.val).frozen = false) ∧ (∀ k : Fin 256, (s.watch k).st = 0) ∧
    s.gl.seq = 1 ∧ s.gl.fillF = 0 ∧ s.gl.fillI = 0 ∧ s.gl.intake = [] ∧
    (∀ k : StackNo, s.stackPorts[k].g = 0 ∧ s.stackPorts[k].rr = Vector.replicate 8 0) ∧ s.dispG = 0 ∧ s.dispRR = Vector.replicate 8 0 ∧
    s.ms.valid = false ∧ s.ms.lock = false ∧ (∀ p : PortNo, (s.port p).st = .disabled) ∧ s.ms.hops = 8 ∧ s.ms.retries = 6 ∧ s.ms.rto = 20 ∧
    s.rv.budget = 2400 ∧ s.rv.policy = 7 ∧ s.rv.mbx = .idle ∧ s.rv.ticket = 1 ∧ s.keys = [] ∧ s.debugOn = false ∧
    (∀ i : Nat, (s.seg i).st = 0 ∧ (s.seg i).gen = 0) ∧
    (∀ f : Fur, (s.fur f).owned = false ∧ (s.fur f).current = 56 ∧ (s.fur f).ceiling = 56 ∧ (s.fur f).stallLimit = 0x000F4240 ∧
      (∀ d : Dom, ((s.fur f).dom d).st = .reset) ∧ (∀ k : DrillNo, ((s.fur f).drill k).st = .idle) ∧
      (∀ c : Nat, tget 0 (s.fur f).counters c = 0))

/-- The state after reset has every sparse memory and table in its canonical form. -/
def Obligations.ResetTables : Prop :=
  State.reset.tablesOk ∧ ∀ f : Fur, (State.reset.fur f).tablesOk

/-- Every step from a state whose memories and segment table are in canonical form answers a next state, and leaves them so: no command stops the block, and equal memories stay equal data. -/
def Obligations.StepKeepsTables : Prop :=
  ∀ s : State, s.tablesOk → SafeStep s

/-- Every step keeps the canonical form of the arrays of every furrow: program store, routine table, scratchpad, TAG, POISON, counters, windrows and cells. -/
def Obligations.StepKeepsFurrowTables : Prop :=
  ∀ (s t : State), (∀ f : Fur, (s.fur f).tablesOk) → step s = .next t → ∀ f : Fur, (t.fur f).tablesOk

/-- Scalar operations ADD to SHOR write D with the value of R66, from registers A and B or the sign-extended immediate. CMP writes flag D[4:3] with condition D[2:0] on A and B; RDL, RDLY and RDA write D with the iterations left, the live layer register and the address register (R66). -/
def Obligations.ScalarOperations : Prop :=
  (∀ (f : Fur) (d : Dom) (sl : Fin 2) (op : BitVec 40) (s : State),
      let a := s.opA64 f d op
      let b := s.opB64 f d op
      let does := fun (c : Instr) (code : Nat) (w : W64) => issues c s f d ⟨1 + sl.val, code, op.toNat⟩ (s.scalarTo op w)
      does (.add f d sl op) 0x10 (a + b) ∧
      does (.sub f d sl op) 0x11 (a - b) ∧
      does (.mul f d sl op) 0x12 (a * b) ∧
      does (.andOp f d sl op) 0x13 (a &&& b) ∧
      does (.orOp f d sl op) 0x14 (a ||| b) ∧
      does (.xorOp f d sl op) 0x15 (a ^^^ b) ∧
      does (.shl f d sl op) 0x16 (a <<< (b.toNat % 64)) ∧
      does (.shr f d sl op) 0x17 (a >>> (b.toNat % 64)) ∧
      does (.sar f d sl op) 0x18 (a.sshiftRight (b.toNat % 64)) ∧
      does (.minOp f d sl op) 0x19 (if a.slt b then a else b) ∧
      does (.maxOp f d sl op) 0x1A (if a.slt b then b else a) ∧
      does (.ldi f d sl op) 0x1B (b) ∧
      does (.shor f d sl op) 0x1C ((a <<< 29) ||| (op.extractLsb' 0 29).setWidth 64)) ∧
  (∀ (f : Fur) (d : Dom) (sl : Fin 2) (op : BitVec 40) (s : State),
      let a := s.opA64 f d op
      let b := s.opB64 f d op
      let x := s.dom f d
      let cond := op.extractLsb' 35 3
      let holds := if cond = 0 then a = b else if cond = 1 then a ≠ b else if cond = 2 then a.toInt < b.toInt else if cond = 3 then b.toInt ≤ a.toInt
        else if cond = 4 then a.toNat < b.toNat else if cond = 5 then b.toNat ≤ a.toNat else if cond = 6 then a &&& b ≠ 0 else a &&& b = 0
      let reads := fun (c : Instr) (code : Nat) (w : W64) => issues c s f d ⟨1 + sl.val, code, op.toNat⟩ (s.scalarTo op w)
      (∃ v : Bool, (v = true ↔ holds) ∧
        issues (.cmp f d sl op) s f d ⟨1 + sl.val, 0x1D, op.toNat⟩ [.eff (s.build.latOf 19) (.flag (op.extractLsb' 38 2).toNat v)]) ∧
      reads (.rdl f d sl op) 0x1E (w64 (match x.loops.find? (fun l => l.ctr == (op.extractLsb' 30 3).toNat) with | some l => l.left | none => 0)) ∧
      reads (.rdly f d sl op) 0x1F (tget 0 x.live (op.extractLsb' 0 8).toNat) ∧
      reads (.rda f d sl op) 0x20 (x.areg (op.extractLsb' 30 4).toNat))

/-- Address operations ASET to AMOV write P, and ASTEP with TWO also Q, with the value of R67: BASE arithmetic is modulo 2^25, and a register that ASTEP names twice steps twice as one write. -/
def Obligations.AddressOperations : Prop :=
  ∀ (f : Fur) (d : Dom) (op : BitVec 40) (s : State),
    let x := s.dom f d
    let p := (op.extractLsb' 36 4).toNat
    let q := (op.extractLsb' 32 4).toNat
    let ap := x.areg p
    let aq := x.areg q
    let does := fun (c : Instr) (code : Nat) (acts : List Act) => issues c s f d ⟨3, code, op.toNat⟩ acts
    does (.aset f d op) 0x30 [s.addressTo p ((ap.extractLsb' 32 32 ++ op.extractLsb' 31 1 ++ (0 : BitVec 6) ++ op.extractLsb' 0 25).setWidth 64)] ∧
    does (.astr f d op) 0x31 [s.addressTo p ((op.extractLsb' 0 32 ++ ap.extractLsb' 0 32).setWidth 64)] ∧
    does (.astep f d op) 0x32 (if op.getLsbD 31 then
      (if p = q then [s.addressTo p (stepped ap (2 * strideOf ap))]
        else [s.addressTo p (stepped ap (strideOf ap)), s.addressTo q (stepped aq (strideOf aq))])
      else [s.addressTo p (stepped ap (strideOf ap))]) ∧
    does (.aly f d op) 0x33 [s.addressTo p (tget 0 x.live (op.extractLsb' 0 8).toNat &&& 0xFFFFFFFF81FFFFFF)] ∧
    does (.aadd f d op) 0x34 [s.addressTo p (stepped ap ((x.sreg (op.extractLsb' 31 5).toNat).extractLsb' 0 25).toNat)] ∧
    does (.amov f d op) 0x35 [s.addressTo p aq] ∧
    (op.extractLsb' 25 6 ≠ 0 → encFault ⟨3, 0x30, op.toNat⟩ = some 2)

/-- LDN, STN, VLD and VST make one port-W access at the resolved address register's BASE, narrow or wide, with the operation's tag mode: a load of S or of the lanes that WIDTH and PART select, or a store of S or of the row those lanes form (R66, R72, R206). The address lies in the scratchpad and the domain's own half, is aligned, and is awake (R47, R102). -/
def Obligations.MemoryOperations : Prop :=
  ∀ (f : Fur) (d : Dom) (op : BitVec 40) (s : State) (a : Nat),
    let n := op.toNat
    let x := s.dom f d
    let acc := fun (slot code prio ar : Nat) (wide : Bool) (tag : Nat) (use : Use) (c : Instr) =>
      (s.env f d).resolve ar = .ok a → accFault (s.env f d) ⟨slot, code, prio, a, wide, tag, use⟩ = none →
      issues c s f d ⟨slot, code, n⟩ [.acc ⟨slot, code, prio, a, wide, tag, use⟩]
    acc 1 0x21 4 (nfld n 26 4) false (nfld n 23 3) (.ldn (opD n)) (.ldn f d op) ∧
    acc 1 0x22 4 (nfld n 26 4) false (nfld n 23 3) (.store 0 (toLe 8 (x.sreg (opD n)).toNat) false) (.stn f d op) ∧
    (∀ lo k : Nat, rowLanes (s.env f d).h (nfld n 26 2) (nfld n 24 2) = some (lo, k) →
      acc 9 0x90 3 (nfld n 31 4) true (nfld n 28 3) (.vld (opD n) (nfld n 26 2) (nfld n 24 2)) (.vld f d op) ∧
      (let rb := rowOfLanes ((x.vreg (opD n)).vals lo k) (nfld n 26 2) (nfld n 24 2)
       acc 9 0x91 3 (nfld n 31 4) true (nfld n 28 3) (.store rb.1 rb.2 ((x.vreg (opD n)).marks &&& segsOf lo k != 0)) (.vst f d op)))

/-- WCLR clears COUNT entries, WRD reads an entry into V with its mark in every segment, and WWR writes V's lanes and mark into an entry; the entry is ENTRY, or (AR.BASE + ENTRY) mod WINDROW_DEPTH (R70, R201). -/
def Obligations.WindrowOperations : Prop :=
  ∀ (f : Fur) (d : Dom) (op : BitVec 40) (s : State),
    let n := op.toNat
    let v := s.env f d
    let x := s.dom f d
    let brick := nfld n 33 2
    let entry := if nfld n 28 1 = 1 then nfld n 18 10 else (fld (x.areg (nfld n 29 4)) 0 25 + nfld n 18 10) % s.build.depth
    let mine := (nfld n 28 1 = 1 → nfld n 18 10 < s.build.depth) ∧ (if (s.fur f).split then brick < 2 else brick < v.act)
    let part := nfld n 7 3
    let e := (s.fur f).went (v.phys brick) entry
    (mine → nfld n 7 11 ≤ s.build.depth → issues (.wclr f d op) s f d ⟨6, 0x48, n⟩
      (if nfld n 7 11 = 0 then [] else [.eff (s.build.latOf 12) (.winClear (v.phys brick) entry (nfld n 7 11))])) ∧
    (mine → part ≤ 512 / v.h - 1 → issues (.wrd f d op) s f d ⟨6, 0x49, n⟩
      [.eff (s.build.latOf 13) (.vreg (opD n) 0 (tgets 0 e.lanes (v.h * part) v.h) (segsOf 0 v.h) (if e.mark then segsOf 0 v.h else 0))]) ∧
    (mine → part ≤ 512 / v.h - 1 → issues (.wwr f d op) s f d ⟨6, 0x4A, n⟩
      [.eff (s.build.latOf 12) (.win (v.phys brick) entry .replace (v.h * part) (s.lanesOf f d (opD n))
        (s.marksOf f d (opD n) != 0) 0 false false)])

/-- FMA to FMUL write every lane of D with the element-wise result, computed exactly and rounded once by RM to FP32 or a BF16 pair (R209, R210); only the three multiply-adds read C, and a segment's mark is the OR of the marks of the vector operands read (R207). -/
def Obligations.HarrowArithmetic : Prop :=
  ∀ (f : Fur) (d : Dom) (sl : Fin 2) (op : BitVec 40) (s : State),
    let n := op.toNat
    let h := (s.env f d).h
    let a := s.lanesOf f d (opA n)
    let b := s.opBLanes f d n
    let c := s.lanesOf f d (opC n)
    let ma := s.marksOf f d (opA n)
    let mb := s.opBMarks f d n
    let mc := s.marksOf f d (opC n)
    let does := fun (i : Instr) (code k : Nat) (m : BitVec 8) => tyOf n ≤ 1 → issues i s f d ⟨7 + sl.val, code, n⟩
      (s.vectorTo f d (7 + sl.val) n 14 (laneWise h (laneOp (tyOf n) (fpArith fp32 k (rmOf n) (satOf n) (flushOf n))
        (fpArith bf16 k (rmOf n) (satOf n) (flushOf n))) a b c) m)
    does (.fma f d sl op) 0x50 0 (ma ||| mb ||| mc) ∧
    does (.fms f d sl op) 0x51 1 (ma ||| mb ||| mc) ∧
    does (.fnma f d sl op) 0x52 2 (ma ||| mb ||| mc) ∧
    does (.fadd f d sl op) 0x53 3 (ma ||| mb) ∧
    does (.fsub f d sl op) 0x54 4 (ma ||| mb) ∧
    does (.fmul f d sl op) 0x55 5 (ma ||| mb)

/-- FMIN, FMAX, FCMP, SEL, FABS, FNEG and MOV write every lane of D as R211 states: SEL takes a where the element of C is nonzero (its bits are tested, so that −0.0 selects a: the model's choice, log 100), FABS clears and FNEG inverts each sign bit, MOV copies A or the broadcast scalar. -/
def Obligations.HarrowCompareAndSelect : Prop :=
  ∀ (f : Fur) (d : Dom) (sl : Fin 2) (op : BitVec 40) (s : State),
    let n := op.toNat
    let h := (s.env f d).h
    let a := s.lanesOf f d (opA n)
    let b := s.opBLanes f d n
    let c := s.lanesOf f d (opC n)
    let ma := s.marksOf f d (opA n)
    let mb := s.opBMarks f d n
    let mc := s.marksOf f d (opC n)
    let does := fun (i : Instr) (code : Nat) (g : W32 → W32 → W32 → W32 × Raised) (m : BitVec 8) => tyOf n ≤ 1 →
      issues i s f d ⟨7 + sl.val, code, n⟩ (s.vectorTo f d (7 + sl.val) n 15 (laneWise h g a b c) m)
    does (.fmin f d sl op) 0x56 (laneOp (tyOf n) (fun x y _ => fpMinMax fp32 false (flushOf n) x y) (fun x y _ => fpMinMax bf16 false (flushOf n) x y))
      (ma ||| mb) ∧
    does (.fmax f d sl op) 0x57 (laneOp (tyOf n) (fun x y _ => fpMinMax fp32 true (flushOf n) x y) (fun x y _ => fpMinMax bf16 true (flushOf n) x y))
      (ma ||| mb) ∧
    does (.fcmp f d sl op) 0x58 (laneOp (tyOf n) (fun x y _ => fpCompare fp32 (opMod n % 8) (satOf n) x y)
      (fun x y _ => fpCompare bf16 (opMod n % 8) (satOf n) x y)) (ma ||| mb) ∧
    does (.sel f d sl op) 0x59 (fun x y z => if tyOf n = 0 then (if z ≠ 0 then x else y, 0)
      else ((if z.extractLsb' 16 16 ≠ 0 then x.extractLsb' 16 16 else y.extractLsb' 16 16) ++
        (if z.extractLsb' 0 16 ≠ 0 then x.extractLsb' 0 16 else y.extractLsb' 0 16), 0)) (ma ||| mb ||| mc) ∧
    does (.fabs f d sl op) 0x5A (fun x _ _ => (if tyOf n = 0 then x &&& 0x7FFFFFFF else x &&& 0x7FFF7FFF, 0)) ma ∧
    does (.fneg f d sl op) 0x5B (fun x _ _ => (if tyOf n = 0 then x ^^^ 0x80000000 else x ^^^ 0x80008000, 0)) ma ∧
    issues (.mov f d sl op) s f d ⟨7 + sl.val, 0x5C, n⟩
      (s.vectorTo f d (7 + sl.val) n 15 (laneWise h (fun x y _ => (if opSB n then y else x, 0)) a b c) (if opSB n then 0 else ma))

/-- PERM writes element i of D with element j of A, where j is element i of B (zero beyond the last; bytes stay in their 64-lane segment); ROT writes it with element (i + r) mod n (R211). Operations that mix segments mark every segment where any operand segment is marked (R207). IADD to IMAX act on elements of IW bits: IADD and ISUB wrap, shifts take element b modulo IW, IMIN and IMAX compare as signed, or as unsigned when UNS = 1 (R212); no flag is raised. -/
def Obligations.HarrowLanesAndIntegers : Prop :=
  (∀ (f : Fur) (d : Dom) (sl : Fin 2) (op : BitVec 40) (s : State),
      let n := op.toNat
      let h := (s.env f d).h
      let segs := segsOf 0 h
      let a := s.lanesOf f d (opA n)
      let b := s.opBLanes f d n
      let m := s.marksOf f d (opA n) ||| s.opBMarks f d n
      let all := if m = 0 then 0 else segs
      let w := iwOf n
      let count := h * (32 / w)
      let elem := fun (vs : List W32) (i : Nat) => fld (vs.getD (i / (32 / w)) 0) (w * (i % (32 / w))) w
      (tyOf n ≤ 2 → ∃ vs : List W32, vs.length = h ∧
        (∀ i : Nat, i < count → elem vs i =
          (if w = 8 then elem a (i / 256 * 256 + elem b i) else if elem b i % 2048 < count then elem a (elem b i % 2048) else 0)) ∧
        issues (.perm f d sl op) s f d ⟨7 + sl.val, 0x5D, n⟩ (s.vectorTo f d (7 + sl.val) n 15 (vs, 0) (if w = 8 then m else all))) ∧
      (tyOf n ≤ 2 → ∃ vs : List W32, vs.length = h ∧
        (∀ i : Nat, i < count → elem vs i = elem a ((i + fld (b.getD 0 0) 0 11) % count)) ∧
        issues (.rot f d sl op) s f d ⟨7 + sl.val, 0x5E, n⟩ (s.vectorTo f d (7 + sl.val) n 15 (vs, 0) all))) ∧
  (∀ (f : Fur) (d : Dom) (sl : Fin 2) (op : BitVec 40) (s : State),
      let n := op.toNat
      let h := (s.env f d).h
      let w := iwOf n
      let less := fun (x y : Nat) => if opMod n % 2 = 1 then decide (x < y) else decide (sint w x < sint w y)
      let does := fun (i : Instr) (code : Nat) (g : Nat → Nat → Nat) => tyOf n ≤ 2 → issues i s f d ⟨7 + sl.val, code, n⟩
        (s.vectorTo f d (7 + sl.val) n 15 (laneWise h (fun x y _ => (laneElems w g x y, 0)) (s.lanesOf f d (opA n)) (s.opBLanes f d n) (s.lanesOf f d (opC n)))
          (s.marksOf f d (opA n) ||| s.opBMarks f d n))
      does (.iadd f d sl op) 0x60 (fun x y => (x + y) % 2 ^ w) ∧
      does (.isub f d sl op) 0x61 (fun x y => (x + 2 ^ w - y) % 2 ^ w) ∧
      does (.iand f d sl op) 0x62 (fun x y => x &&& y) ∧
      does (.ior f d sl op) 0x63 (fun x y => x ||| y) ∧
      does (.ixor f d sl op) 0x64 (fun x y => x ^^^ y) ∧
      does (.ishl f d sl op) 0x65 (fun x y => x * 2 ^ (y % w) % 2 ^ w) ∧
      does (.ishr f d sl op) 0x66 (fun x y => x / 2 ^ (y % w)) ∧
      does (.isar f d sl op) 0x67 (fun x y => (sint w x / (2 ^ (y % w) : Nat) % (2 ^ w : Nat)).toNat) ∧
      does (.imin f d sl op) 0x68 (fun x y => if less x y then x else y) ∧
      does (.imax f d sl op) 0x69 (fun x y => if less x y then y else x))

/-- CVT, CVTSR, CVTMX and CVTIN convert every lane of A: CVTSR draws at index IB + lane, CVTMX scales block i of 32 lanes by its own E8M0 scale or writes the scales, CVTIN with an MX format takes the scale of block i from lane i of B (R213 to R215). The flags of CVTMX with SCALES 1 are the model's reading (log 31), and FLUSH for a conversion to an integer its choice (log 100). -/
def Obligations.HarrowConversions : Prop :=
  ∀ (f : Fur) (d : Dom) (sl : Fin 2) (op : BitVec 40) (s : State),
    let n := op.toNat
    let h := (s.env f d).h
    let a := s.lanesOf f d (opA n)
    let fmt := nfld (opMod n) 2 4
    let sat := nfld n 24 1 == 1
    let flush := nfld n 23 1 == 1
    let ma := s.marksOf f d (opA n)
    let ib := (s.dom f d).sreg (opB n)
    let seed := (s.dom f d).sreg (opSI n)
    let segs := segsOf 0 h
    let scale := fun (i : Nat) => mxScale fmt flush (((a.drop (32 * i)).take 32).map BitVec.toNat)
    let scales := (List.range (h / 32)).map scale
    let does := fun (i : Instr) (code : Nat) (r : List W32 × Raised) (m : BitVec 8) => fmtPresent s.build.formats fmt = true →
      issues i s f d ⟨7 + sl.val, code, n⟩ (s.vectorTo f d (7 + sl.val) n 16 r m)
    let each := fun (g : Nat → Nat → Val) => ((List.range h).map (fun i => w32 (g i (a.getD i 0).toNat).bits),
      (List.range h).foldl (fun fl i => fl ||| (g i (a.getD i 0).toNat).fl) 0)
    (fmt ∈ [0, 1, 5, 9, 10, 11] → does (.cvt f d sl op) 0x70 (each (fun _ x => cvtElem fmt (rmOf n) sat flush x)) ma) ∧
    (fmt ∈ [0, 1, 5, 9, 10, 11] → does (.cvtsr f d sl op) 0x71
      (each (fun i x => cvtElem fmt (.sr (srDraw seed (fld ib 48 16) (fld ib 0 48 + i))) sat flush x)) ma) ∧
    (fmtMx fmt = true → nfld n 29 1 = 0 → does (.cvtmx f d sl op) 0x72
      (each (fun i x => cvtmxElem fmt (rmOf n) sat flush (scales.getD (i / 32) 0) x)) ma) ∧
    (fmtMx fmt = true → nfld n 29 1 = 1 → does (.cvtmx f d sl op) 0x72
      ((List.range h).map (fun i => w32 (scales.getD i 0)),
        (if scales.any (fun k => k == 0xFF) then fScaleNan else 0) ||| flushedOf fp32 flush (a.map BitVec.toNat))
      (if ma = 0 then 0 else segs)) ∧
    (fmtMx fmt = false → fmt ≤ 11 → does (.cvtin f d sl op) 0x73 (each (fun _ x => cvtinElem fmt sat flush 0x7F x)) ma) ∧
    (fmtMx fmt = true → fmt ≤ 11 → does (.cvtin f d sl op) 0x73
      (each (fun i x => cvtinElem fmt sat flush (fld ((s.lanesOf f d (opB n)).getD (i / 32) 0) 0 8) x))
      (if ma ||| s.marksOf f d (opB n) = 0 then 0 else segs))

/-- EXP2 to SIGM write every lane of D with the rounded function of A's element (R216); RSUM and RMAX reduce each 64-lane segment s in the fixed tree into lane s of D, every other lane being +0.0 (R217). -/
def Obligations.HarrowTranscendentalsAndReductions : Prop :=
  ∀ (f : Fur) (d : Dom) (op : BitVec 40) (s : State),
    let n := op.toNat
    let h := (s.env f d).h
    let a := s.lanesOf f d (opA n)
    let ma := s.marksOf f d (opA n)
    let does := fun (i : Instr) (code k : Nat) => tyOf n ≤ 1 → issues i s f d ⟨8, code, n⟩
      (s.vectorTo f d 8 n 18 (laneWise h (laneOp (tyOf n) (fun x _ _ => transElem fp32 k (satOf n) (flushOf n) x)
        (fun x _ _ => transElem bf16 k (satOf n) (flushOf n) x)) a a a) ma)
    let reduces := fun (i : Instr) (code : Nat) (g : Nat → Nat → Val) => issues i s f d ⟨8, code, n⟩
      (s.vectorTo f d 8 n 17
        (let r := fun (k : Nat) => treeReduce 6 g (((a.drop (64 * k)).take 64).map BitVec.toNat) 0
         ((List.range h).map (fun i => if i < h / 64 then w32 (r i).1 else 0), (List.range (h / 64)).foldl (fun fl k => fl ||| (r k).2) 0))
        (if ma = 0 then 0 else segsOf 0 h))
    does (.exp2 f d op) 0x78 0 ∧
    does (.log2 f d op) 0x79 1 ∧
    does (.rsqrt f d op) 0x7A 2 ∧
    does (.rcp f d op) 0x7B 3 ∧
    does (.tanh f d op) 0x7C 4 ∧
    does (.sigm f d op) 0x7D 5 ∧
    reduces (.rsum f d op) 0x7E (add32 (satOf n) (flushOf n)) ∧
    reduces (.rmax f d op) 0x7F (fpMinMax fp32 true (flushOf n))

/-- DGO, DTILE and DSTOP of a drill not armed OUT, and DPUT, DTEND and DGO of one not armed IN, act on that drill of the domain's own half; DPUT hands over the 512-byte row that WIDTH and PART form, zero in the other half of the row (R138) and, by the model's choice (log 98), where the lanes of a narrow domain do not reach (R73, R134, R137 to R139). SADD, SSUB and SSET change counter CTR of a furrow of the same owner by VALUE or S[SI] bits [15:0]; SWAIT retires once its own furrow's counter has reached the value (R74, R283, R284). At the end of the beat a DGO is latched in IDLE and PARKED, in place of one latched before (of the other direction: the model's choice, log 98), starts the list of an ARMED drill, which with COUNT 0 ends at once (R136), and changes no other; DTILE adds a credit; DSTOP stops a RUNNING drill, dropping the blocks that have begun nothing, which is the model's choice (log 76); DTEND cuts the open put-queue block to the rows it has received; DPUT joins its row to the queue; and a signal changes the domain's own counter in its beat, or enters the changes of another furrow with the last row handed over before (R134, R137 to R139, R285). -/
def Obligations.DrillAndSignalOperations : Prop :=
  (∀ (f : Fur) (d : Dom) (op : BitVec 40) (s : State),
      let n := op.toNat
      let k := nfld n 37 3
      let x := s.drill f (drillOf k)
      let mine := (s.fur f).split = true → k / 4 = d.val
      let does := fun (c : Instr) (slot code : Nat) (acts : List Act) => mine → issues c s f d ⟨slot, code, n⟩ acts
      ((x.st = .idle ∨ x.out = false) → does (.driDgo f d op) 10 0xA0 [.dgo k false] ∧ does (.dtile f d op) 10 0xA1 [.dtile k] ∧
        does (.dstop f d op) 10 0xA2 [.dstop k]) ∧
      ((x.st = .idle ∨ x.out = true) → does (.dtend f d op) 11 0xA9 [.dtend k] ∧ does (.droDgo f d op) 11 0xAA [.dgo k true] ∧
        (∀ lo m : Nat, rowLanes (s.env f d).h (nfld n 30 2) (nfld n 28 2) = some (lo, m) →
          let r := (s.dom f d).vreg (nfld n 32 5)
          let rb := rowOfLanes (r.vals lo m) (nfld n 30 2) (nfld n 28 2)
          does (.dput f d op) 11 0xA8 [.put k
            (List.replicate rb.1 0 ++ rb.2 ++ List.replicate (512 - (rb.1 + rb.2.length)) 0) (r.marks &&& segsOf lo m != 0)]))) ∧
  (∀ (f : Fur) (d : Dom) (op : BitVec 40) (s : State),
      let n := op.toNat
      let fn := nfld n 36 4
      let ctr := nfld n 28 8
      let v := if nfld n 27 1 = 1 then fld ((s.dom f d).sreg (nfld n 22 5)) 0 16 else nfld n 0 16
      let does := fun (c : Instr) (code k : Nat) => fn < s.build.furrows → bitOf (s.mine f) fn = true →
        issues c s f d ⟨12, code, n⟩ [.sig fn ctr k v]
      does (.sadd f d op) 0xB0 1 ∧ does (.ssub f d op) 0xB1 2 ∧ does (.sset f d op) 0xB2 0 ∧
      (fn = 0 → issues (.swait f d op) s f d ⟨12, 0xB3, n⟩ [.wait ctr v])) ∧
  (∀ (f : Fur) (d : Dom) (o : SlotOp) (k : DrillNo) (s : State),
      let y := s.drill f k
      let after := fun (a : Act) => (s.issued f d o [a]).drill f k
      (∀ out : Bool, ((y.st = .idle ∨ y.st = .parked) → after (.dgo k.val out) = { y with latched := some out }) ∧
        (y.st = .armed → y.count ≠ 0 → after (.dgo k.val out) = { y with st := .running, latched := none }) ∧
        (y.st = .armed → y.count = 0 → after (.dgo k.val out) = if y.persist && y.disarm.isEmpty then y.toParked else y.toIdle) ∧
        ((y.st = .running ∨ y.st = .stopping ∨ y.st = .frozen) → after (.dgo k.val out) = y)) ∧
      after (.dtile k.val) = { y with credit := y.credit + 1 } ∧
      (y.st = .running → after (.dstop k.val) = { y with st := .stopping, blocks := y.blocks.filter (fun b => !y.untouched b) }) ∧
      (y.st ≠ .running → after (.dstop k.val) = y) ∧
      (y.st ≠ .running → y.st ≠ .stopping → after (.dtend k.val) = y) ∧
      (∀ b : Block, (y.st = .running ∨ y.st = .stopping) → y.blocks = [b] → b.isPut = true → 0 < b.begun → b.begun < b.rows → y.putq = [] →
        y.tilePut = some b.tile → (b.begun ≤ b.moved → (after (.dtend k.val)).blocks = []) ∧
          (b.moved < b.begun → ∃ b' : Block, (after (.dtend k.val)).blocks = [b'] ∧ b'.rows = b.begun ∧ b'.outRows = b.outRows ∧ b'.moved = b.moved)) ∧
      (∀ (bytes : List Byte) (mark : Bool),
        after (.put k.val bytes mark) = { y with putq := y.putq ++ [⟨2 * (s.dom f d).puts + d.val, bytes, mark⟩] })) ∧
  (∀ (f g : Fur) (d : Dom) (o : SlotOp) (c k v : Nat) (s : State),
      let x := s.dom f d
      let t := s.issued f d o [.sig g.val c k v]
      (g = f → (s.fur f).tablesOk → x.flights = [] → x.course = none → slotActs (s.env f d) x.rid x.pos none o = .ok [.sig g.val c k v] →
        tget 0 (t.fur f).counters c = counterOp k v (tget 0 (s.fur f).counters c) ∧
        ∀ c', c' ≠ c → tget 0 (t.fur f).counters c' = tget 0 (s.fur f).counters c') ∧
      (g ≠ f → (t.fur g).counters = (s.fur g).counters ∧
        ∃ l, ⟨2 * f.val + d.val, c, k, v, x.lastPut, l⟩ ∈ (t.fur g).changes ∧ (x.lastPut = none → l = some s.time)))

/-- TWS, TWT, TOS and TES whose checks of R160 pass start a tile operation: the beat retires with the course whose descriptor is live LY[LY] to LY[LY + 2] and whose beat cost is that of R164 to R170 (R68). SWAP exchanges the sets of the pairs in PAIRS, which are built, in service and of the domain's own half; SLD reads one row for each masked brick at AR.BASE + p × 512 KiB into its standby row ROW (R68, R69, R154). That an operand of a tile operation that reads no stream (needA, needB), and that of an SLD whose MASK is 0, need not resolve is the model's choice (log 66). -/
def Obligations.BrickOperations : Prop :=
  (∀ (f : Fur) (d : Dom) (op : BitVec 40) (s : State),
      let n := op.toNat
      let x := s.dom f d
      let does := fun (c : Instr) (k : Nat) => ∀ a b : Nat,
        let t := tileCourse (s.env f d) k (nfld n 32 8) (nfld n 28 4) (nfld n 24 4) x.rid x.pos
        let needA := !t.emptyRed && !t.emptyOut
        let needB := needA && (k == 2 || t.mx)
        x.course = none → tileFault (s.env f d) k (nfld n 32 8) (nfld n 24 4) t = none →
        fmtPresent s.build.formats t.fmtA = true → fmtPresent s.build.formats t.fmtB = true →
        (if needA then (s.env f d).resolve (nfld n 28 4) else .ok t.faBase) = .ok a →
        (if needB then (s.env f d).resolve (nfld n 24 4) else .ok t.fbBase) = .ok b →
        let acts := [Act.tile { t with cost := t.beatCost s.build, faBase := a, fbBase := b }]
        actsHalf (s.env f d) acts = none → issues c s f d ⟨4, 0x38 + k, n⟩ acts
      does (.tws f d op) 0 ∧ does (.twt f d op) 1 ∧ does (.tos f d op) 2 ∧ does (.tes f d op) 3) ∧
  (∀ (f : Fur) (d : Dom) (op : BitVec 40) (s : State),
      let n := op.toNat
      let v := s.env f d
      let split := (s.fur f).split
      let pairs := nfld n 38 2
      let bricks := (List.range 4).filter (fun b => nfld n (36 + b) 1 == 1)
      let log := fun (b : Nat) => if split then b - 2 * d.val else b
      let row := fun (a b : Nat) => (⟨5, 0x40, 2, ((a + log b * 0x80000 : Nat) : Int), true, 0, .sld (v.phys (log b)) (nfld n 25 7)⟩ : Acc)
      ((∀ p : Nat, p < 2 → nfld pairs p 1 = 1 → if split then p = d.val else 2 * p < v.act) →
        ∃ ps : BitVec 2, (∀ i : Nat, i < 2 → (bitOf ps i = true ↔ ∃ p : Nat, p < 2 ∧ nfld pairs p 1 = 1 ∧ i = if split then p else v.phys (2 * p) / 2)) ∧
          issues (.swap f d op) s f d ⟨4, 0x3C, n⟩ (if pairs = 0 then [] else [.swapOp ps (BitVec.ofNat 2 pairs)])) ∧
      (∀ a : Nat, (bricks ≠ [] → v.resolve (nfld n 32 4) = .ok a) →
        (∀ b ∈ bricks, (split = true → b / 2 = d.val) ∧ log b < v.act ∧ accFault v (row a b) = none) →
        issues (.sld f d op) s f d ⟨5, 0x40, n⟩ (bricks.map (fun b => .acc (row a b)))))

/-- MISS to a built unit of the domain's own half, not before II beats have retired since its last, hands A, B, their marks and CTRL to the unit, whose result lanes, marks and next state are the unit's own (R75, R76, R223, R225 to R231). The unit's function is a free value of the model (log 9). -/
def Obligations.MortarIssue : Prop :=
  ∀ (f : Fur) (d : Dom) (sl : Fin 2) (op : BitVec 40) (s : State),
    let n := op.toNat
    let u := nfld n 38 2
    let h := (s.env f d).h
    let reg := s.build.mortars.toList.getD u 0
    let two := decide (fld reg 16 2 = 2)
    let pad := fun (l : List W32) => l ++ List.replicate (s.build.lanes - l.length) 0
    let id := BitVec.ofNat 32 (fld reg 32 32)
    let ctrl := BitVec.ofNat 23 (nfld n 0 23)
    let a := pad (s.lanesOf f d (nfld n 33 5))
    let b := if two then pad (s.lanesOf f d (nfld n 28 5)) else List.replicate s.build.lanes 0
    let pa := s.marksOf f d (nfld n 33 5)
    let pb := if two then s.marksOf f d (nfld n 28 5) else 0
    let state := vat 0 (s.fur f).mortarState u
    let pres := Config.mortarMarks id ctrl a b (pa, pb) (s.fur f).split state
    let segs := segsOf 0 h
    u < s.build.mortar → (∀ t : W64, vat none (s.dom f d).lastMiss u = some t → fld reg 0 8 ≤ ((s.dom f d).beats - t).toNat) →
    ((s.fur f).split = true → u / 2 = d.val) →
    ∃ marks : BitVec 8, (∀ i : Nat, i < 8 → (bitOf marks i = true ↔ bitOf segs i = true ∧ (pa ||| pb ≠ 0 ∨ bitOf pres i = true))) ∧
      issues (.miss f d sl op) s f d ⟨13 + sl.val, 0xC0, n⟩ [.miss u (nfld n 23 5)
        (poisonLanes (s.free + (13 + sl.val)) marks ((List.range h).map (fun i => (Config.mortarResult id ctrl a b (s.fur f).split state).getD i 0))) marks
        (Config.mortarNext id ctrl a b (pa, pb) (s.fur f).split state)]

/-- LOOP opens its counter over the next BODY words, or costs two beats where the count or BODY is zero; CALL and a taken CALLIF push the caller and enter the callee after two beats, as an untaken CALLIF goes on after two beats; RET at depth 1 or more returns after two beats (R65, R77 to R82). The word that follows stands at the domain's position (log 15). -/
def Obligations.ControlFlow : Prop :=
  ∀ (f : Fur) (d : Dom) (op : BitVec 40) (s : State),
    let n := op.toNat
    let x := s.dom f d
    let v := s.env f d
    let does := fun (c : Instr) (code : Nat) (after : Domain → Prop) =>
      s.atBeat f d → encFault ⟨0, code, n⟩ = none → s.unblocked f d [.seqOp code n] → seqFault v false x.pos code n = none →
        ∃ t, exec c s = .next t ∧ after (t.dom f d)
    let adv := advLoops x.stack.length x.pos x.loops
    let body := nfld n 20 16
    let count := if nfld n 36 1 = 1 then fld (tget 0 x.live (nfld n 0 8)) 0 32 else nfld n 0 20
    let stop := (skipWords (s.fur f).pstore (2 ^ 18) body x.pos).getD x.pos
    let target := nfld n 32 8
    let callee := (s.fur f).routine target
    let entered := fun (y : Domain) => y.rid = target ∧ y.pos = callee.addr ∧ y.stop = callee.addr + callee.length ∧ y.bricks = callee.bricks ∧
      y.idle = 2 ∧ y.loops = adv.2 ∧ y.stack = ⟨x.rid, adv.1, x.stop, x.bricks, false⟩ :: x.stack
    let taken := bitOf x.flags (nfld n 30 2) == decide (nfld n 29 1 = 1)
    (count ≠ 0 → body ≠ 0 → does (.loop f d op) 1 (fun y => y.pos = x.pos ∧ y.idle = 0 ∧ y.stack = x.stack ∧
      y.loops = ⟨nfld n 37 3, x.stack.length, x.pos, stop, count⟩ :: x.loops)) ∧
    (count = 0 ∨ body = 0 → does (.loop f d op) 1 (fun y => y.idle = 2 ∧ y.stack = x.stack ∧
      (y.pos, y.loops) = advLoops x.stack.length stop x.loops)) ∧
    does (.call f d op) 2 entered ∧
    (taken = true → does (.callif f d op) 3 entered) ∧
    (taken = false → does (.callif f d op) 3 (fun y => y.rid = x.rid ∧ y.pos = adv.1 ∧ y.loops = adv.2 ∧ y.idle = 2 ∧ y.stack = x.stack)) ∧
    (∀ fr r, x.stack = fr :: r → does (.ret f d op) 4 (fun y => y.rid = fr.rid ∧ y.pos = fr.ret ∧ y.stop = fr.stop ∧
      y.bricks = fr.bricks ∧ y.idle = 2 ∧ y.stack = r ∧ y.endAfter = fr.endPending))

/-- RET and END at depth 0, and HALT at any depth, end the routine: the domain enters DRAINING, its loops are abandoned and its course is cut (R82, R171). -/
def Obligations.RoutineEnds : Prop :=
  ∀ (f : Fur) (d : Dom) (op : BitVec 40) (s : State),
    let x := s.dom f d
    let ends := fun (c : Instr) => ∃ t, exec c s = .next t ∧ (t.dom f d).st = .draining ∧ (t.dom f d).loops = [] ∧ (t.dom f d).stack = [] ∧
      (t.dom f d).course = none ∧ (t.dom f d).beat = x.beat + 1
    s.atBeat f d → s.unblocked f d [] →
      (x.stack = [] → op = 0 → ends (.ret f d op)) ∧ (op = 0 → ends (.halt f d op)) ∧ (x.stack = [] → ends (.endWord f d))

/-- An operation issued in beat b with latency L of two or more is in flight at the end of the beat, to commit at the end of beat b + L − 1 (R33): a register's result; the eight bytes that an LDN reads, the lanes of a VLD with the row's mark, the row of an SLD, each read at the beginning of the beat, a refused read giving zeros (R72, R104, R155), and each marked as stamped where the audit is on (R51); the bytes that a store writes; and every result of the running course (R152). A WS feed's result in a brick is, for each valid column, the chunk sum of the products of the feed row and the live set's weights (R163, R166); an OS drain writes each valid column's accumulator of the standby set (R168; that the sum of a column of the 16-bit class stands in physical column 2n is the model's choice, log 95). -/
def Obligations.IssuedFlies : Prop :=
  (∀ (s : State) (f : Fur) (d : Dom) (o : SlotOp) (lat : Nat) (e : Effect) (fl : Raised),
    let x := s.dom f d
    let fresh : Flight := ⟨x.beat + lat - 1, x.beat, o.slot, o.code, x.rid, x.pos, 0, s.build.audit && (s.fur f).auditEn, e⟩
    2 ≤ lat → slotActs (s.env f d) x.rid x.pos none o = .ok [.eff lat e] ∨ slotActs (s.env f d) x.rid x.pos none o = .ok [.hrw lat e fl] →
      ∀ acts, slotActs (s.env f d) x.rid x.pos none o = .ok acts → fresh ∈ ((s.issued f d o acts).dom f d).flights) ∧
  (∀ (s : State) (f : Fur) (d : Dom) (o : SlotOp) (acts : List Act) (a : Acc),
    let x := s.dom f d
    let v := s.env f d
    let n := a.addr.toNat
    let served := s.servedNow f d acts
    let row : RowBuf := if a ∈ served then ⟨tgets 0 (s.fur f).data (n / 512 * 512) 512, (s.fur f).isPoison (n / 512)⟩ else ⟨[], false⟩
    let flies := fun (lat : Nat) (e : Effect) =>
      2 ≤ lat → ⟨x.beat + lat - 1, x.beat, o.slot, o.code, x.rid, x.pos, 0, s.build.audit && (s.fur f).auditEn, e⟩ ∈ ((s.issued f d o acts).dom f d).flights
    slotActs v x.rid x.pos none o = .ok acts → .acc a ∈ acts →
      (∀ i, a.use = .ldn i → flies (v.readLat n + s.build.latOf 3) (.sreg i (w64 (ofLe ((row.bytes.drop (n % 512)).take 8))))) ∧
      (∀ i width part lo k, a.use = .vld i width part → rowLanes v.h width part = some (lo, k) →
        flies (v.readLat n) (.vreg i lo (lanesOfRow row.bytes width part k) (segsOf lo k) (if row.mark then segsOf lo k else 0))) ∧
      (∀ b r, a.use = .sld b r → flies (v.readLat n) (.standby b r row.bytes row.mark)) ∧
      (∀ off bytes mark, a.use = .store off bytes mark → a ∈ served → flies (v.writeLat n) (.row (n + off) bytes a.tag mark))) ∧
  (∀ (s : State) (f : Fur) (d : Dom) (c : Course),
    let x := s.dom f d
    let v := s.env f d
    let b := s.build
    let accs := courseAccs b (some c)
    let rows := accs.map (fun a => if a ∈ s.servedNow f d [] then v.readRow a else ⟨[], false⟩)
    let fl := ((s.retireBeat f d (some ⟨0, [], 0⟩) [] x.pos 0).dom f d).flights
    let flies := fun (lat : Nat) (e : Effect) => 2 ≤ lat → ⟨x.beat + lat - 1, x.beat, 4, 0x38 + c.op, c.rid, c.addr, 0, b.audit && (s.fur f).auditEn, e⟩ ∈ fl
    x.course = some c →
      (∀ p ∈ (c.run v rows s.free).effs, flies p.1 p.2) ∧
      (∀ p j m q, c.op = 0 → c.at b c.t = .feed p j m → q < c.nb → 0 < c.cols p q →
        let kl := c.klass
        let ks := min kl.kc (c.k - j * kl.kc)
        let feed := if m % feedGroup c.fmtA = 0 then rows.getD 0 ⟨[], false⟩ else c.feed
        let cells := fun (r : Nat) => (s.fur f).cell (v.phys q) ((s.fur f).liveOf (v.phys q)) r
        let one := fun (n : Nat) => chunkSum kl.frac c.sat c.flush ((List.range ks).map (fun k =>
          brickProd c.fmtA c.fmtB c.flush (feedElem c.fmtA feed.bytes m k) (cellElem c.fmtB (cells (k / kl.perCell)).weights (k % kl.perCell) n)
            (c.scaleA m (k / 32)) (c.scaleB q (k / 32) n)))
        (feed.mark || c.scaleMark q j m || (List.range (cdiv ks kl.perCell)).any (fun r => (cells r).mark)) = false →
          flies (c.lat b) (.win (v.phys q) (c.e0 + p * c.pstep + m) (if 0 < j ∨ c.init = 1 then .accum else if c.init = 0 then .replace
            else .bias (c.bias + p)) 0 ((List.range (c.cols p q)).map (fun n => w32 (one n).bits)) false (setBit 0 (v.phys q) true) c.sat c.flush)) ∧
      (∀ i r q, c.op = 2 → c.drainAt b c.t = some (i, r) → i % c.chunks * 128 + r < c.k → q < c.nb → 0 < c.cols (i / c.chunks) q →
        let cell := (s.fur f).cell (v.phys q) (1 - (s.fur f).liveOf (v.phys q)) r
        cell.mark = false → flies (b.latOf 12) (.win (v.phys q) (c.e0 + i * 128 + r) (if c.init = 1 then .accum else .replace) 0
          ((List.range (c.cols (i / c.chunks) q)).map (fun n => cell.acc (n * if c.klass = .b16 then 2 else 1))) false 0 c.sat c.flush)))

/-- A tick of the drain commits the operations whose beat has come, and so does a beat of a RUNNING domain that nothing blocks, here one that issues nothing (OPERATION_COMMIT): the scalar register, address register, flag or vector register of an operation in flight alone takes its value, a store its bytes with TAG and POISON, an SLD its row of the standby set, a result of a course or WWR the lanes of its windrow entry, one of a course being put before an addition of the course that was issued later and has committed (R186; how it is put there is the model's reading, log 73), WCLR its entries, an exchange the live sets, a signal its counter; and nothing else of the domain's registers, the scratchpad, the windrow and the cells changes (R33, R36, R38, R69, R108, R154, R155, R201, R202, R283). -/
def Obligations.DrainCommits : Prop :=
  ∀ (s : State) (f : Fur) (d : Dom) (g : Flight),
    let x := s.dom f d
    let z := s.fur f
    let ticks := fun (after : Furrow → Prop) => ∃ t, exec (.operationCommit f d 0) s = .next t ∧ after (t.fur f) ∧
      (t.dom f d).flights = [] ∧ (t.dom f d).beat = x.beat + 1 ∧ (t.dom f d).st = x.st ∧ t.hostMem = s.hostMem ∧ t.hbm = s.hbm ∧
      ∀ k : Fur, k ≠ f → t.fur k = s.fur k
    let regs := fun (y : Domain) => y.sregs = x.sregs ∧ y.aregs = x.aregs ∧ y.flags = x.flags ∧ y.vregs = x.vregs
    let row := fun (u : Furrow) => u.data = z.data ∧ u.full = z.full ∧ u.poison = z.poison
    let win := fun (u : Furrow) => u.windrow = z.windrow
    let cells := fun (u : Furrow) => u.cells = z.cells ∧ u.liveSet = z.liveSet
    let ctrs := fun (u : Furrow) => u.counters = z.counters
    let commits := fun (after : Domain → Prop) => ticks (fun u => after (u.dom d) ∧ row u ∧ win u ∧ cells u ∧ ctrs u)
    ((x.st = .draining ∧ s.stopped = false ∧ x.hold = false) ∨ (s.atBeat f d ∧ x.course = none ∧ s.unblocked f d [])) →
    x.flights = [g] → g.due ≤ x.beat → g.overtaken = 0 →
      (∀ i v, g.eff = .sreg i v → i < 32 → commits (fun y => y.sreg i = v ∧ (∀ j, j ≠ i → y.sreg j = x.sreg j) ∧ y.aregs = x.aregs ∧
        y.flags = x.flags ∧ y.vregs = x.vregs)) ∧
      (∀ i v, g.eff = .areg i v → i < 16 → commits (fun y => y.areg i = v ∧ (∀ j, j ≠ i → y.areg j = x.areg j) ∧ y.sregs = x.sregs ∧
        y.flags = x.flags ∧ y.vregs = x.vregs)) ∧
      (∀ i v, g.eff = .flag i v → i < 4 → commits (fun y => bitOf y.flags i = v ∧ (∀ j, j ≠ i → bitOf y.flags j = bitOf x.flags j) ∧
        y.sregs = x.sregs ∧ y.aregs = x.aregs ∧ y.vregs = x.vregs)) ∧
      (∀ i lo vals segs marks, g.eff = .vreg i lo vals segs marks → i < 32 → commits (fun y => y.sregs = x.sregs ∧ y.aregs = x.aregs ∧
        y.flags = x.flags ∧ (∀ j, j ≠ i → y.vreg j = x.vreg j) ∧ (y.vreg i).lanes = tputs 0 (x.vreg i).lanes lo vals ∧
        ∀ k : Nat, k < 8 → bitOf (y.vreg i).marks k = if bitOf segs k then bitOf marks k else bitOf (x.vreg i).marks k)) ∧
      (∀ a bytes tag mark, g.eff = .row a bytes tag mark → z.asleep (a / 512) = false → z.tablesOk → ticks (fun u => regs (u.dom d) ∧ win u ∧ cells u ∧ ctrs u ∧
        u.data = tputs 0 z.data a bytes ∧ (∀ r, u.isFull r = if r = a / 512 ∧ (tag = 3 ∨ tag = 4) then true else z.isFull r) ∧
        ∀ r, u.isPoison r = if r = a / 512 ∧ mark = true then true else if r = a / 512 ∧ bytes.length = 512 then false else z.isPoison r)) ∧
      (∀ b r bytes mark, g.eff = .standby b r bytes mark → ticks (fun u => regs (u.dom d) ∧ row u ∧ win u ∧ ctrs u ∧ u.liveSet = z.liveSet ∧
        u.cells = tset CellRow.zero z.cells (cellKey b (1 - z.liveOf b) r) ⟨bytes, [], mark⟩)) ∧
      (∀ ps named auto, g.eff = .swap ps named auto → ticks (fun u => regs (u.dom d) ∧ row u ∧ win u ∧ ctrs u ∧ u.cells = z.cells ∧
        ∀ p : Nat, p < 2 → bitOf u.liveSet p = (bitOf z.liveSet p ^^ bitOf ps p))) ∧
      (∀ b e lo vals mark sums sat flush, g.eff = .win b e .replace lo vals mark sums sat flush →
        let sum := fun (a : LaneAdd) (v : W32) => w32 (add32 a.sat a.flush v.toNat a.val.toNat).bits
        let takes := fun (vs : List W32) => ticks (fun u => regs (u.dom d) ∧ row u ∧ cells u ∧
          ctrs u ∧ u.windrow = tset WEntry.zero z.windrow (winKey b e) ⟨tputs 0 (z.went b e).lanes lo vs,
            if vals.length = 512 then mark else (z.went b e).mark || mark⟩)
        (x.lateAdds = [] ∨ g.slot ≠ 4 → takes vals) ∧
        (∀ (w base : W32) (a : LaneAdd), g.slot = 4 → vals = [w] → g.issue < a.issue → x.lateAdds = [(512 * winKey b e + lo, ⟨base, [a]⟩)] →
          takes [sum a w])) ∧
      (∀ b e lo vals mark sums sat flush, g.eff = .win b e .accum lo vals mark sums sat flush →
        let sum := fun (sat flush : Bool) (v w : W32) => w32 (add32 sat flush v.toNat w.toNat).bits
        let takes := fun (vs : List W32) => ticks (fun u => regs (u.dom d) ∧ row u ∧ cells u ∧ ctrs u ∧
          u.windrow = tset WEntry.zero z.windrow (winKey b e) ⟨tputs 0 (z.went b e).lanes lo vs, (z.went b e).mark || mark⟩)
        (x.lateAdds = [] ∨ g.slot ≠ 4 → takes (vals.mapIdx (fun i w => sum sat flush (tget 0 (z.went b e).lanes (lo + i)) w))) ∧
        (∀ (w base : W32) (a : LaneAdd), g.slot = 4 → vals = [w] → g.issue < a.issue → x.lateAdds = [(512 * winKey b e + lo, ⟨base, [a]⟩)] →
          takes [sum a.sat a.flush (sum sat flush base w) a.val])) ∧
      (∀ b e n, g.eff = .winClear b e n → b < 4 → s.build.depth ≤ 1024 → n ≤ s.build.depth → e < s.build.depth → z.tablesOk → ticks (fun u => regs (u.dom d) ∧
        row u ∧ cells u ∧ ctrs u ∧ ∀ b' e', b' < 4 → e' < s.build.depth → u.went b' e' =
          if b' = b ∧ (e' + s.build.depth - e) % s.build.depth < n then WEntry.zero else z.went b' e')) ∧
      (∀ c k v, g.eff = .counter c k v → ticks (fun u => regs (u.dom d) ∧ row u ∧ win u ∧ cells u ∧
        u.counters = tset 0 z.counters c (counterOp k v (tget 0 z.counters c))))

/-- The beat of a scalar or address operation in a domain with nothing else in flight leaves every other furrow, the other domain, the drills, the scratchpad, the windrow, the cells and both memories unchanged, and of the domain's registers changes at most its destination; with latency 1, which every address operation has, the destination reads the result at the end of that beat (R33, R38, R67). -/
def Obligations.ScalarFrame : Prop :=
  ∀ (s : State) (f : Fur) (d : Dom) (o : SlotOp) (lat i : Nat) (v : W64) (e : Effect),
    let x := s.dom f d
    let acts := [Act.eff lat e]
    let t := s.issued f d o acts
    let y := t.dom f d
    x.flights = [] → x.course = none → (e = .sreg i v ∨ e = .areg i v) → 1 ≤ lat → slotActs (s.env f d) x.rid x.pos none o = .ok acts →
      (∀ k : Fur, k ≠ f → t.fur k = s.fur k) ∧ (∀ d' : Dom, d' ≠ d → t.dom f d' = s.dom f d') ∧
      (t.fur f).drills = (s.fur f).drills ∧ (t.fur f).data = (s.fur f).data ∧ (t.fur f).full = (s.fur f).full ∧
      (t.fur f).poison = (s.fur f).poison ∧ (t.fur f).windrow = (s.fur f).windrow ∧ (t.fur f).cells = (s.fur f).cells ∧
      (t.fur f).counters = (s.fur f).counters ∧ t.hostMem = s.hostMem ∧ t.hbm = s.hbm ∧ t.segs = s.segs ∧ t.queues = s.queues ∧
      y.vregs = x.vregs ∧ y.flags = x.flags ∧ y.live = x.live ∧
      (∀ j, (e = .sreg i v → j ≠ i) → y.sreg j = x.sreg j) ∧ (∀ j, (e = .areg i v → j ≠ i) → y.areg j = x.areg j) ∧
      (lat = 1 → (e = .sreg i v → i < 32 → y.sreg i = v) ∧ (e = .areg i v → i < 16 → y.areg i = v)) ∧
      y.beat = x.beat + 1 ∧ y.beats = x.beats + 1 ∧ y.ticks = x.ticks + 1

/-- A beat one of whose conditions fails does not retire: no register, flight, tag or ring changes, the tick is charged to the lowest cause present, and the beat is tried again (R38, R40, R41). This holds of the stored word and of a beat with no issue at BEAT_ATTEMPT, whatever the cause (a tag check, a ring's occupancy, a full put queue, a counter, a gated clock, a hold), and of every slot operation given alone (log 15), an SWAIT among them. -/
def Obligations.FrozenBeat : Prop :=
  ∀ (s : State) (f : Fur) (d : Dom) (acts : List Act) (c : Instr),
    let x := s.dom f d
    let w := readWord (s.fur f).pstore x.pos
    let m := beatCauses (s.env f d) (s.servedNow f d acts) acts
    let stored := x.idle = 0 ∧ x.pos < x.stop ∧ wordActs (s.env f d) x.rid x.pos (decide (w.extra ≤ x.done)) (x.pos + w.size) w = .ok acts
    let attempts := ∃ mask : BitVec 4, c = .beatAttempt f ⟨d, mask⟩ ∧ s.canAttempt f d = true ∧ x.pairLost = false ∧
      (stored ∨ (0 < x.idle ∧ acts = []))
    let alone := ∃ o : SlotOp, slotOpOf c = some (f, d, o) ∧ s.atBeat f d ∧ wordActs (s.env f d) x.rid x.pos true x.pos (oneOp o) = .ok acts
    let waits := ∃ op : BitVec 40, c = .swait f d op ∧ s.atBeat f d ∧ encFault ⟨12, 0xB3, op.toNat⟩ = none ∧ nfld op.toNat 36 4 = 0 ∧
      acts = [.wait (nfld op.toNat 28 8) (if nfld op.toNat 27 1 = 1 then fld (x.sreg (nfld op.toNat 22 5)) 0 16 else nfld op.toNat 0 16)]
    (attempts ∨ alone ∨ waits) → portFaults (s.env f d) (s.servedNow f d acts) = [] → m ≠ 0 →
      ∃ t k, exec c s = .next t ∧ k < 8 ∧ bitOf m k = true ∧ (∀ j, j < k → bitOf m j = false) ∧
        (let y := t.dom f d
         y.sregs = x.sregs ∧ y.aregs = x.aregs ∧ y.vregs = x.vregs ∧ y.flags = x.flags ∧ y.flights = x.flights ∧ y.course = x.course ∧
         y.pos = x.pos ∧ y.beat = x.beat ∧ y.beats = x.beats ∧ y.ticks = x.ticks + 1 ∧ y.causes = m ∧
         vat 0 y.frozen k = vat 0 x.frozen k + 1 ∧ (∀ j, j ≠ k → vat 0 y.frozen j = vat 0 x.frozen j)) ∧
        (t.fur f).data = (s.fur f).data ∧ (t.fur f).full = (s.fur f).full ∧ (t.fur f).rings = (s.fur f).rings ∧
        (t.fur f).counters = (s.fur f).counters ∧ t.hostMem = s.hostMem ∧ t.hbm = s.hbm

/-- A slot operation whose encoding breaks R98, or that cannot issue, stops its domain before the beat: FU_STICKY.OPCODE is set, the domain is FAULTED, no register changes, and fault 0x0105 reports the slot, the operation code and the reason (R98, R405): 4 a LOOP of an open counter, 5 a call at depth eight, 6 a target that is not valid, 8 a tile operation while the course is busy, 9 a MISS to a unit that is not built or before II beats have retired, 10 an operand out of its range. -/
def Obligations.SequencerFault : Prop :=
  ∀ (s : State) (f : Fur) (d : Dom) (c : Instr) (o : SlotOp) (r : Nat),
    let x := s.dom f d
    let v := s.env f d
    let n := o.op
    let late := (o.slot = 0 ∧ seqFault v false x.pos o.code n = some r) ∨
      ((o.slot = 0 → seqFault v false x.pos o.code n = none) ∧ slotActs v x.rid x.pos none o = .error (.seq r))
    let reason := (r = 4 ∧ o.slot = 0 ∧ o.code = 1 ∧ ∃ l ∈ x.loops, l.ctr = nfld n 37 3) ∨
      (r = 5 ∧ o.slot = 0 ∧ o.code = 2 ∧ 8 ≤ x.stack.length) ∨
      (r = 6 ∧ o.slot = 0 ∧ o.code = 2 ∧ x.stack.length < 8 ∧ ((s.fur f).routine (nfld n 32 8)).valid = false) ∨
      (r = 8 ∧ o.slot = 4 ∧ 0x38 ≤ o.code ∧ o.code < 0x3C ∧ x.course ≠ none) ∨
      (r = 9 ∧ (o.slot = 13 ∨ o.slot = 14) ∧ o.code = 0xC0 ∧ (s.build.mortar ≤ nfld n 38 2 ∨
        ∃ t, vat none x.lastMiss (nfld n 38 2) = some t ∧ (x.beats - t).toNat < fld (s.build.mortars.toList.getD (nfld n 38 2) 0) 0 8)) ∨
      (r = 10 ∧ o.slot = 12 ∧ o.code = 0xB0 ∧ (s.build.furrows ≤ nfld n 36 4 ∨ bitOf v.mine (nfld n 36 4) = false)) ∨
      (r = 10 ∧ o.slot = 6 ∧ o.code = 0x49 ∧ nfld n 28 1 = 1 ∧ s.build.depth ≤ nfld n 18 10)
    slotOpOf c = some (f, d, o) → s.atBeat f d → (encFault o = some r ∨ (encFault o = none ∧ (late ∨ reason))) →
    s.openRec (s.recDom f d) = none → s.gl.intake.length < 256 →
      ∃ t, exec c s = .next t ∧ bitOf (t.fur f).sticky (8 + d.val) = true ∧ (t.dom f d).st = .faulted ∧
        (t.dom f d).sregs = x.sregs ∧ (t.dom f d).aregs = x.aregs ∧ (t.dom f d).vregs = x.vregs ∧ (t.dom f d).pos = x.pos ∧
        (t.dom f d).beats = x.beats ∧ t.hbm = s.hbm ∧ (∃ e ∈ t.gl.intake, e.code = 0x0105 ∧ e.source = srcDom f d ∧
          e.p0 = BitVec.ofNat 32 (posWord x.rid x.pos) ∧ e.p1 = BitVec.ofNat 32 (o.slot * 2 ^ 24 + o.code * 2 ^ 16) ∧ e.p2 = BitVec.ofNat 32 r) ∧
        (∀ d' : Dom, d' ≠ d → t.dom f d' = s.dom f d') ∧ ∀ g : Fur, g ≠ f → t.fur g = s.fur g

/-- BEAT_ATTEMPT retires the stored word, or a beat with no issue, when nothing stops it, and counts the fetch ticks of STARTING, on which MO_ADV is low (R224; that they are counted at BEAT_ATTEMPT is the model's choice, log 35); OPERATION_COMMIT, TILE_CHUNK_SWAP and OS_DRAIN_READ retire a beat that issues nothing, and a chunk's end exchanges the sets of the course's pairs at the end of that beat (R38, R84, R95, R164, R168); a domain that lost a pair freezes at its beat boundary (R175). A beat with no operation in a domain with nothing in flight and no course changes, of registers, scratchpad, windrow, cells, drills and memories, nothing. -/
def Obligations.ScheduleBeats : Prop :=
  ∀ (f : Fur) (d : Dom) (s : State),
    let x := s.dom f d
    let w := readWord (s.fur f).pstore x.pos
    let idle := fun (c : Instr) (mask : BitVec 4) => s.atBeat f d → s.unblocked f d [] →
      exec c s = .next (s.retireBeat f d (some ⟨0, [], 0⟩) [] x.pos mask)
    (∀ (acts : List Act) (mask : BitVec 4), s.canAttempt f d = true → x.pairLost = false → x.idle = 0 → x.pos < x.stop →
      wordActs (s.env f d) x.rid x.pos (decide (w.extra ≤ x.done)) (x.pos + w.size) w = .ok acts → s.unblocked f d acts →
      exec (.beatAttempt f ⟨d, mask⟩) s = .next (s.retireBeat f d (some w) acts (x.pos + w.size) mask)) ∧
    (∀ mask : BitVec 4, s.canAttempt f d = true → x.pairLost = false → 0 < x.idle → s.unblocked f d [] →
      exec (.beatAttempt f ⟨d, mask⟩) s = .next (s.retireBeat f d none [] x.pos mask)) ∧
    (x.st = .starting → 0 < x.startLeft → (s.fur f).gated = false → x.hold = false → s.stopped = false →
      ∀ mask : BitVec 4, exec (.beatAttempt f ⟨d, mask⟩) s = .next ((s.dropW f d).setDom f d
        { x with startLeft := x.startLeft - 1, st := if x.startLeft = 1 then .running else .starting, tick := x.tick.low }) ∧
        x.tick.low.adv = false) ∧
    (∀ (w : Option Word) (next : Nat) (mask : BitVec 4), x.flights = [] → x.course = none → (∀ u, w = some u → u.slots = []) →
      let t := s.retireBeat f d w [] next mask
      let y := t.dom f d
      (∀ k : Fur, k ≠ f → t.fur k = s.fur k) ∧ (∀ d' : Dom, d' ≠ d → t.dom f d' = s.dom f d') ∧ t.hostMem = s.hostMem ∧ t.hbm = s.hbm ∧
      t.queues = s.queues ∧ t.segs = s.segs ∧ (t.fur f).drills = (s.fur f).drills ∧ (t.fur f).data = (s.fur f).data ∧
      (t.fur f).full = (s.fur f).full ∧ (t.fur f).poison = (s.fur f).poison ∧ (t.fur f).rings = (s.fur f).rings ∧
      (t.fur f).windrow = (s.fur f).windrow ∧ (t.fur f).cells = (s.fur f).cells ∧ (t.fur f).counters = (s.fur f).counters ∧
      y.sregs = x.sregs ∧ y.aregs = x.aregs ∧ y.vregs = x.vregs ∧ y.flags = x.flags ∧ y.live = x.live ∧ y.flights = [] ∧ y.course = none ∧
      y.beat = x.beat + 1 ∧ y.beats = x.beats + 1 ∧ y.ticks = x.ticks + 1 ∧ y.runBeats = x.runBeats + 1 ∧ y.causes = 0) ∧
    (∀ mask : BitVec 4, idle (.operationCommit f d mask) mask) ∧
    (∀ c : Course, x.course = some c → (c.chunkEnds s.build = true → idle (.tileChunkSwap f d) 0 ∧
        (x.flights = [] → c.op ≠ 2 → s.atBeat f d → s.unblocked f d [] →
          ∃ t, exec (.tileChunkSwap f d) s = .next t ∧ (t.fur f).liveSet = (s.fur f).liveSet ^^^ (s.env f d).pairsOf c.nb)) ∧
      ((c.drainAt s.build c.t).isSome = true → idle (.osDrainRead f d) 0)) ∧
    (s.canAttempt f d = true → x.pairLost = true → ∃ t tick, exec (.pairLossFreeze f d) s = .next t ∧
      t = (s.dropW f d).setDom f d { x with st := .faulted, pairLost := false, causes := 0, frozenSince := none, tick := tick }) ∧
    (x.st = .draining → x.flights = [] → x.hold = false → s.stopped = false →
      exec (.drainEnd f d) s = .next (((s.leaveBoardOpt f x.cmd).setDom f d { x with st := .idle, held := 0, cmd := none }).finishOpt x.cmd
        stOk x.runBeats (min x.runFrozen (2 ^ 32 - 1))))

/-- MORTAR_ERROR, LONG_FREEZE, COUNTER_WRAP (of FROZEN0 to FROZEN7, KEEPER and a drill's counters, R41, R151), KEEPER_STEP_DOWN, CLOCK_GATE, CLOCK_UNGATE and FU_THAW do what R232, R42, R41, R44, R45 and R54 state, each under its own condition, and none at level L4 (R329); MO_ERR of a domain that another unit or a lost pair has stopped on that tick adds its record to that one fault, and beside a recovery of the block or of the whole furrow that has stopped the domain it is a fault of level L1 of its own (R323, R325). COUNTER_WRAP is the tick on which a counter at its maximum counts once more: a keeper or drill counter only on a tick on which its condition holds (R44, R150). That the wrap of a counter and KEEPER_STEP_DOWN are commands of their own (log 28, log 19), that the 20 µs of CLOCK_GATE are counted from a reference cycle (log 18), the mark `woke`, by which CLOCK_UNGATE has the clock plan evaluated at once (log 89), and that P0 of 0x0901 names the word that retired last on a tick of the drain too (log 102), are the model's choices. -/
def Obligations.FurrowEvents : Prop :=
  ∀ (f : Fur) (d : Dom) (s : State),
    let z := s.fur f
    let x := s.dom f d
    let noted := fun (u : Fin 4) (code : W16) => s.modFur f (fun z => { z with
      sticky := setBit z.sticky (6 + d.val) true
      mortarCode := vput z.mortarCode u.val code
      mortarErrs := vput z.mortarErrs u.val (satInc (vat 0 z.mortarErrs u.val)) })
    let moErr := fun (u : Fin 4) (code : W16) => (⟨0x0901, srcOf 3 (4 * f.val + u.val), x.lastPos, at' u.val 30 + code.toNat, d.val⟩ : FaultInfo)
    (∀ (u : Fin 4) (code : W16), u.val < s.build.mortar → (x.st = .running ∨ x.st = .draining) → (if z.split then u.val / 2 = d.val else d = 0) →
      x.tick.adv = true → z.gated = false → s.stopped = false → (x.pairLost = true → s.stoppedNow f d = false) →
      exec (.mortarError f u code) s = .next ((noted u code).freezeDomain f d (moErr u code))) ∧
    (∀ (u : Fin 4) (code : W16), u.val < s.build.mortar → (if z.split then u.val / 2 = d.val else d = 0) → x.tick.adv = true →
      (∀ r : Recov, s.ownStop f d = some r →
        let again := fun (t : State) => exec (.mortarError f u code) s = .next
          (t.faultRecord 0x0901 (moErr u code).source (moErr u code).p0 (moErr u code).p1 (moErr u code).p2
            (levByte r.level (decide (2 ≤ r.level) && r.code != 0x0512) false))
        ((x.st = .faulted ∨ x.st = .reset) → s.dead = false → again (noted u code)) ∧
        ((x.st = .running ∨ x.st = .draining) → x.pairLost = true → z.gated = false → s.stopped = false →
          again ((noted u code).modDom f d (fun y => { y with st := .faulted, pairLost := false, causes := 0, frozenSince := none })))) ∧
      (s.ownStop f d = none → x.st = .reset → s.dead = false → (∃ r ∈ s.dc.recovs, (r.dom = .block ∨ r.dom = .furrow f) ∧ 2 ≤ r.level ∧ r.detect = s.time) →
        exec (.mortarError f u code) s = .next ((noted u code).faultBeside f d (moErr u code)) ∧
        (s.openRec (s.recDom f d) = none → ∃ t, exec (.mortarError f u code) s = .next t ∧ (t.dom f d).st = .reset ∧ t.dc.sticky = s.dc.sticky ∧
          ∃ r ∈ t.dc.recovs, r.dom = s.recDom f d ∧ r.level = 1 ∧ r.code = 0x0901 ∧ r.detect = s.time))) ∧
    (∀ t : W64, x.frozenSince = some t → x.st = .running → s.stopped = false → x.longReported = false → z.stallLimit ≠ 0 → z.stallLimit.toNat * 1000 < s.since t →
      ∃ s', exec (.longFreeze f d) s = .next s' ∧ bitOf (s'.fur f).sticky (14 + d.val) = true ∧ (s'.dom f d).longReported = true ∧
        (s'.dom f d).st = .running ∧ (s'.dom f d).sregs = x.sregs ∧ (s'.dom f d).flights = x.flights ∧
        (s.gl.intake.length < 256 → ∃ r ∈ s'.gl.intake, r.code = 0x0110 ∧ r.source = srcDom f d ∧ r.p1.toNat = x.causes.toNat ∧
          r.p2 = z.stallLimit)) ∧
    (s.stopped = false → x.keeper = BitVec.allOnes 48 → x.st ≠ .running → x.st ≠ .draining → x.st ≠ .unused → z.gated = false →
      x.keeperPhase ≠ 0 → 8 ≤ x.keeperAcc + x.keeperPhase → ∃ s', exec (.counterWrap f d 8) s = .next s' ∧ (s'.dom f d).keeper = 0 ∧
      bitOf (s'.fur f).ovf (16 + d.val) = true ∧ (s'.dom f d).sregs = x.sregs) ∧
    (∀ (k : DrillNo) (j : Nat), s.stopped = false → j < 5 → s.drillWaits f k j = false →
      exec (.counterWrap f d (BitVec.ofNat 8 (16 + 8 * k.val + j))) s = .next s) ∧
    (∀ (k : DrillNo) (j : Nat), s.stopped = false → j < 5 → vat 0 (s.drill f k).waits j = BitVec.allOnes 48 → s.drillWaits f k j = true →
      ∃ s', exec (.counterWrap f d (BitVec.ofNat 8 (16 + 8 * k.val + j))) s = .next s' ∧ vat 0 (s'.drill f k).waits j = 0 ∧
        (∀ i, i ≠ j → vat 0 (s'.drill f k).waits i = vat 0 (s.drill f k).waits i) ∧ bitOf (s'.fur f).dlOvf (5 * k.val + j) = true ∧
        (s'.drill f k).st = (s.drill f k).st) ∧
    (∀ (acts : List Act) (n : Nat), n < 8 → vat 0 x.frozen n = BitVec.allOnes 48 →
      let w := readWord z.pstore x.pos
      let m := beatCauses (s.env f d) (s.servedNow f d acts) acts
      s.canAttempt f d = true → x.pairLost = false → x.idle = 0 → x.pos < x.stop →
      wordActs (s.env f d) x.rid x.pos (decide (w.extra ≤ x.done)) (x.pos + w.size) w = .ok acts →
      portFaults (s.env f d) (s.servedNow f d acts) = [] → bitOf m n = true → (∀ j, j < n → bitOf m j = false) →
      ∃ s', exec (.counterWrap f d (BitVec.ofNat 8 n)) s = .next s' ∧ vat 0 (s'.dom f d).frozen n = 0 ∧
        bitOf (s'.fur f).ovf (8 * d.val + n) = true ∧ (s'.dom f d).sregs = x.sregs ∧ (s'.dom f d).pos = x.pos) ∧
    (∀ t : W64, s.stopped = false → x.lastBrick = some t → 0 < x.keeperPhase → 4000 + 125 * (8 - x.keeperPhase) ≤ s.since t →
      exec (.keeperStepDown f d) s = .next (s.setDom f d { x with keeperPhase := x.keeperPhase - 1 })) ∧
    (∀ t : W64, s.stopped = false → z.gateSince = some t → z.gated = false → s.mayGate f = true → 20000 ≤ s.since t →
      exec (.clockGate f) s = .next (s.setFur f { z with gated := true })) ∧
    (s.stopped = false → z.gated = true → s.mayGate f = false →
      exec (.clockUngate f) s = .next (State.setFur { s with rv := { s.rv with woke := true } } f
        { z with gated := false, gateSince := none, current := 56 })) ∧
    (s.takesWrites → f.val < s.build.furrows → x.st = .faulted → (∀ b ∈ [4, 6, 8, 12], bitOf z.sticky (b + d.val) = false) →
      exec (.fuThaw f (if d = 0 then 1 else 2)) s = .next (s.oneCycle ((((s.abandonDom f d).stopDrills f (domDrills z.split d)).modDom f d
        (fun y => { y with st := .idle })).masterThawed (masterDom f d))))

/-- NOP, and BARRIER once every earlier command of its queue is complete, complete with OK and zero results when they are accepted; TIMESTAMP completes with the device timebase (R244). LOAD_PROGRAM, CONFIGURE, START, the host CALL, SPLIT and FALLOW that pass their checks wait for what R90, R94, R117, R48 and R119 name; a START or CALL in a half that has lost its pair since the furrow was split completes with SHAPE_MISMATCH (R50). That a domain is STARTING, with the entry of its routine read, from the acceptance on, and that START first applies the CONFIGUREs that wait, is the model's choice (log 35), as are OK for a SPLIT to the mode in force (log 69), that a FALLOW waits behind an earlier one that waits and that a wake which it cuts short counts as ended (log 78), and what a LOAD_PROGRAM whose image, or a START or CALL before which a CONFIGURE's values, cannot be read yet holds meanwhile (log 97). -/
def Obligations.ImmediateCommands : Prop :=
  ∀ (q : QSlot) (s : State) (p : Packet),
    let r := refOf q p
    let takes := fun (c : Instr) (op : Nat) (g : State → State) => accepts c s q op p (g (s.admitted q op p))
    takes (.nop q) 0x0000 (fun a => a.finish r stOk 0 0) ∧
    takes (.barrier q) 0x0001 (fun a => a.finish r stOk 0 0) ∧
    takes (.timestamp q) 0x0002 (fun a => a.finish r stOk s.time.toNat 0) ∧
    (let a := s.admitted q 0x0100 p
     let held := a.imageHeld (p.w 2) (p.w 3) a.erasures
     let image := a.checkImage (p.w 2) (p.w 3) a.erasures
     let waits := fun (mask : BitVec 8) (g : Cmd → Cmd) => takes (.loadProgram q) 0x0100 (fun a => (a.modCmd r g).modFur p.fur (fun x => x.joinLoads mask r))
     (∀ img : List Byte, held = false → image = .ok img → ¬ (imageCount img = 0 ∧ imageMask img = 0) →
        waits (imageMask img) (fun c => { c with stage := 2, buf := img })) ∧
     (∀ st : Nat, held = false → image = .error st → takes (.loadProgram q) 0x0100 (fun a => (a.modFur p.fur (fun x => x.leaveLoads r)).finish r st 0 0)) ∧
     (held = true → waits (BitVec.allOnes 8) (fun c => { c with stage := 1 }))) ∧
    takes (.configure q) 0x0101 (fun a => if nfld (p.w 2) 8 9 = 0 ∧ a.configs p.fur p.dom = [] ∧ (a.dom p.fur p.dom).unswapped = false
      then a.finish r stOk 0 0 else a.modCmd r (fun c => { c with stage := 2 })) ∧
    (let starts := fun (c : Instr) (op : Nat) (isCall : Bool) =>
      let a := s.admitted q op p
      let a0 := a.applyReady (a.configs p.fur p.dom)
      let x := a0.fur p.fur
      let y := x.dom p.dom
      let e := x.routine (nfld (p.w 2) 0 8)
      let bank := if isCall then y.live else y.next
      let regions := footRegions e.foot bank
      let lost := x.split = true ∧ bitOf x.halfLost p.dom.val = true
      (e.valid = true → lost → accepts c s q op p (a0.finish r stShape 0 0)) ∧
      (e.valid = true → e.placement = placementOf x.split p.dom → e.bricks ≤ (a0.env p.fur p.dom).shown → ¬ lost →
      let begun := y.begin (nfld (p.w 2) 0 8) e r isCall
      (a0.configs p.fur p.dom ≠ [] → accepts c s q op p (a0.setDom p.fur p.dom begun)) ∧
      (a0.configs p.fur p.dom = [] →
        regions.any (badRegion a0.build x p.dom) = false → (isCall = false → a0.ringCheck p.fur p.dom bank = none) →
        accepts c s q op p ((a0.modCmd r (fun c => { c with stage := 1 })).setFur p.fur
          { x.setDom p.dom begun with waiting := x.waiting.filter (fun w => decide (w.order ≤ a0.accepted)) ++
            ⟨a0.accepted, 1 + p.dom.val, r, regions⟩ :: x.waiting.filter (fun w => decide (a0.accepted < w.order)) })))
     starts (.start q) 0x0102 false ∧ starts (.hostCall q) 0x0103 true) ∧
    (let x := (s.admitted q 0x0104 p).fur p.fur
     let want := decide (nfld (p.w 2) 0 1 = 1)
     s.build.bricksOf p.fur.val = 4 → 8 ≤ s.build.scratchMib → x.split ≠ want → (want = true → x.inService = 3) →
      takes (.split q) 0x0104 (fun a => a.setFur p.fur { x with modeChange := some (want, r) })) ∧
    (((s.admitted q 0x0104 p).fur p.fur).split = decide (nfld (p.w 2) 0 1 = 1) → takes (.split q) 0x0104 (fun a => a.finish r stOk 0 0)) ∧
    (let x := (s.admitted q 0x0105 p).fur p.fur
     let mask : BitVec 16 := BitVec.ofNat 16 (p.w 2)
     let sleep := mask &&& ~~~x.fallow
     mask ≠ x.fallow → sleep &&& x.usedGroups = 0 → accepts (.fallow q) s q 0x0105 p (s.oneCycle
      (let a := s.admitted q 0x0105 p
       if x.fallowWait = [] ∧ sleep &&& x.boardGroups = 0 then (a.applyFallow p.fur mask r).endWakes p.fur
       else a.setFur p.fur { x with fallowWait := x.fallowWait ++ [(mask, r)] })))

/-- PROGRAM_STORE_LOAD writes the image once no domain holds a target segment; CONFIGURE_APPLY applies the oldest waiting CONFIGURE of its domain; SCOREBOARD_ENTRY enters a START's regions, swaps its banks and begins its fetch ticks; SPLIT_CHANGE, FALLOW_SLEEP and FALLOW_WAKE_END end what waited for them (R90, R94, R95, R117, R48, R119). A load writes the image's segments in ascending order and its entries, and clears VALID of other routines in a target segment (R90); the swap makes the next bank live and the rings that it changes empty (R95, R113); a change of mode clears the registers, windrow and rings and disarms the drills (R48); a group put to sleep, and one that wakes, reads zero, empty and clear (R119). That a FALLOW is refused with BUSY where a ring or window has come to use a group meanwhile is the model's choice (log 78), as is that a START or CALL that waited for the values of earlier CONFIGUREs forms its footprint after the last of them (log 97). -/
def Obligations.CommandEvents : Prop :=
  ∀ (q : QSlot) (seq : W32) (f : Fur) (s : State),
    let r : CmdRef := ⟨q.val, seq⟩
    let x := s.fur f
    s.stopped = false →
    (∀ c : Cmd, s.atWork q seq 0x0100 = some c → c.stage ≠ 1 → (s.fur c.fur).loads.any (fun l => l.2 == r) = true →
      imageMask c.buf &&& (s.fur c.fur).heldSegs = 0 →
      exec (.programStoreLoad q seq) s = .next ((s.setFur c.fur { (s.fur c.fur).loadImage c.buf with
        loads := (s.fur c.fur).loads.filter (fun l => l.2 != r) }).finish r stOk (imageCount c.buf) 0)) ∧
    (∀ c : Cmd, s.atWork q seq 0x0100 = some c → c.stage = 1 →
      let held := s.imageHeld (c.w 2) (c.w 3) c.since
      (held = true → exec (.programStoreLoad q seq) s = .next s) ∧
      ∀ img : List Byte, held = false → s.checkImage (c.w 2) (c.w 3) c.since = .ok img → ¬ (imageCount img = 0 ∧ imageMask img = 0) →
        exec (.programStoreLoad q seq) s = .next ((s.modCmd r (fun c => { c with stage := 2, buf := img })).modFur c.fur
          (fun x => x.joinLoads (imageMask img) r))) ∧
    (∀ img : List Byte, x.tablesOk → img.length = imageSize (ofLe (img.take 8)) →
      let u := x.loadImage img
      let n := imageCount img
      let below := fun (k : Nat) => ((List.range k).filter (fun i => bitOf (imageMask img) i)).length
      (∀ k, k < 8 → tgets 0 u.pstore (32768 * k) 32768 = if bitOf (imageMask img) k
        then (img.drop (8 + 32 * n + 32768 * below k)).take 32768 else tgets 0 x.pstore (32768 * k) 32768) ∧
      (∀ i, i < n → (∀ j, j < n → j ≠ i → nfld (imageEntry img j 0) 48 8 ≠ nfld (imageEntry img i 0) 48 8) →
        u.routine (nfld (imageEntry img i 0) 48 8) = ⟨w64 (imageEntry img i 0), w64 (imageEntry img i 1), w64 (imageEntry img i 2)⟩) ∧
      (∀ k, k < 256 → (∀ j, j < n → nfld (imageEntry img j 0) 48 8 ≠ k) → (u.routine k).valid =
        ((x.routine k).valid && segsTouched (x.routine k).addr (x.routine k).length &&& imageMask img == 0))) ∧
    (∀ c : Cmd, s.atWork q seq 0x0101 = some c → (s.configs c.fur c.dom).head? = some r → s.configHeld c = false →
      let t := ((s.modDom c.fur c.dom (fun y =>
        { y with next := tputs 0 y.next (nfld (c.w 2) 0 8) (s.configValues c) })).bumpFree).finish r stOk (s.configValues c).length 0
      let y := t.dom c.fur c.dom
      let waits := fun (k : CmdRef) (start : Cmd) => y.st = .starting ∧ y.startLeft = 0 ∧ y.cmd = some k ∧ t.cmd? k = some start ∧ start.stage = 0
      s.afterStart c = false →
        ((∀ k start, ¬ waits k start) → exec (.configureApply q seq) s = .next t) ∧
        ∀ k start, waits k start → (∀ j ∈ t.configs c.fur c.dom, ∀ i, t.cmd? j = some i → start.order < i.order) →
          t.footRefused c.fur c.dom y.isCall y.foot = none → exec (.configureApply q seq) s = .next (t.joinFoot c.fur c.dom k start.order)) ∧
    (∀ e : Entrant, x.waiting = [e] → e.kind = 1 ∨ e.kind = 2 → x.admits e = true →
      e.regions.any (fun g => (groupsOf g.1 g.2.1 &&& (x.fallow ||| x.waking)) != 0) = false →
      exec (.scoreboardEntry f) s = .next (s.oneCycle (((s.setFur f (x.enter e)).modCmd e.ref (fun c => { c with stage := 2 })).startEntered f
        (domOf (e.kind - 1)) e.ref)) ∧
      (let d := domOf (e.kind - 1)
       let y := x.dom d
       let o := ringsOwned x.split d
       y.pos < y.stop → ∃ t, exec (.scoreboardEntry f) s = .next t ∧ (t.dom f d).startLeft = 3 ∧ (t.dom f d).st = y.st ∧
        (t.dom f d).live = (if y.isCall then y.live else y.next) ∧ (t.dom f d).next = y.next ∧ (t.fur f).waiting = [] ∧
        (t.fur f).board = x.board ++ e.regions.map (fun g => ⟨g.1, g.2.1, g.2.2, e.kind, e.ref⟩) ∧
        ∀ k, o.1 ≤ k → k < o.1 + o.2 → vat Ring.none (t.fur f).rings k =
          (let old := vat Ring.none x.rings k
           if y.isCall = true ∨ tget 0 y.next (240 + k) = old.defn then old else ⟨tget 0 y.next (240 + k), 0, 0, 0⟩))) ∧
    (∀ want k, x.modeChange = some (want, k) → x.modeReady = true →
      exec (.splitChange f) s = .next (s.oneCycle ((s.changeMode f want).finish k stOk 0 0)) ∧
      ∃ t, exec (.splitChange f) s = .next t ∧ (t.fur f).split = want ∧ (t.fur f).halfLost = 0 ∧ (t.fur f).modeChange = none ∧
        (t.dom f 1).st = (if want then .idle else .unused) ∧ (t.dom f 0).st = (x.dom 0).st ∧
        (∀ d : Dom, (t.dom f d).sregs = Vector.replicate 32 0 ∧ (t.dom f d).aregs = Vector.replicate 16 0 ∧ (t.dom f d).flags = 0 ∧
          (t.dom f d).vregs = Vector.replicate 32 VReg.zero ∧ (t.dom f d).live = [] ∧ (t.dom f d).next = []) ∧
        (∀ j : Nat, vat Ring.none (t.fur f).rings j = Ring.none) ∧ (∀ j : DrillNo, (t.drill f j).st = .idle) ∧
        (∀ b e, b < 4 → e < 1024 → (t.fur f).went b e = WEntry.zero) ∧ (t.fur f).data = x.data ∧ (t.fur f).pstore = x.pstore) ∧
    (∀ mask k rest, x.fallowWait = (mask, k) :: rest →
      let sleep := mask &&& ~~~x.fallow
      (sleep &&& x.usedGroups = 0 → sleep &&& x.boardGroups = 0 →
        exec (.fallowSleep f) s = .next (s.oneCycle ((s.applyFallow f mask k).endWakes f)) ∧
        (x.tablesOk → ∃ t, exec (.fallowSleep f) s = .next t ∧ (t.fur f).fallow = mask ∧ ∀ g a : Nat, g < 16 →
          (bitOf (t.fur f).waking g = true ↔ (bitOf x.waking g = true ∧ bitOf mask g = false) ∨ (bitOf x.fallow g = true ∧ bitOf mask g = false) ∨
            (bitOf x.waking g = true ∧ bitOf x.fallow g = true)) ∧
          (a / 2 ^ 21 = g → tget 0 (t.fur f).data a = (if bitOf sleep g then 0 else tget 0 x.data a)) ∧
          (a / 4096 = g → (t.fur f).isFull a = (!bitOf sleep g && x.isFull a) ∧ (t.fur f).isPoison a = (!bitOf sleep g && x.isPoison a)))) ∧
      (sleep &&& x.usedGroups ≠ 0 → exec (.fallowSleep f) s = .next
        ((s.setFur f { x with fallowWait := x.fallowWait.filter (fun p => p.2 != k) }).finish k stBusy 0 0))) ∧
    (∃ t, exec (.fallowWakeEnd f) s = .next t ∧ ∀ g : Nat, g < 16 →
      (bitOf (t.fur f).waking g = true ↔ bitOf x.waking g = true ∧ reached s.time (tget 0 x.wakeEnd g) = false) ∧
      (x.tablesOk → bitOf x.waking g = true → reached s.time (tget 0 x.wakeEnd g) = true → ∀ a : Nat,
        (a / 2 ^ 21 = g → tget 0 (t.fur f).data a = 0) ∧ (a / 4096 = g → (t.fur f).isFull a = false ∧ (t.fur f).isPoison a = false)))

/-- COMMAND_FETCH takes a whole packet between QS_HEAD and QS_TAIL and advances QS_HEAD by its units and QS_SEQ by one (R251); COMPLETION_RECORD_WRITE writes the oldest record that has room, with its phase bit and the time at which it had both become ready and found room, to the completion ring, and the command has completed, which frees the scoreboard entries of a COPY, SCRATCH_WRITE or SCRATCH_READ (R116, R118, R247, R248; that TIME is that of the room is the model's choice, log 43). A record without room waits, as does one whose ring a later QS_CQ_HEAD has filled again (R248). When QS_CQ_HEAD makes room the record that waits is ready, two that find room together stand in ascending SEQUENCE (R247), and the command of a QUIET record that would have been written completes without one (R242). -/
def Obligations.FetchAndRecord : Prop :=
  ∀ (q : QSlot) (s : State),
    let x := s.queue q
    let w0 := unitWords (s.hostRd (x.ringAddr x.head.toNat) 64)
    let n := headerUnits w0
    let ws := if n = 2 then w0 ++ unitWords (s.hostRd (x.ringAddr (x.head.toNat + 1)) 64) else w0
    (s.mayFetch x = true → n ≤ (x.tail - x.head).toNat →
      exec (.commandFetch q) s = .next (s.setQueue q { x with
        head := x.head + BitVec.ofNat 32 n, seq := x.seq + 1, fetched := x.fetched ++ [⟨ws, n, x.seq⟩] })) ∧
    (∀ k rest t, x.ready = k :: rest → k.time = some t → s.stopped = false → (x.cqTail - x.cqHead).toNat < 2 ^ fld x.cfg 16 5 →
      exec (.completionRecordWrite q) s = .next ((((s.hostWr x.cqAddr (recordBytes x q t k)).modQueue q (fun x =>
        { x with cqTail := x.cqTail + 1, ready := x.ready.drop 1 })).completed ⟨q.val, k.key⟩).freeWatch ⟨q.val, k.key⟩)) ∧
    (∀ k rest t (c : Cmd), x.ready = k :: rest → k.time = some t → s.stopped = false → (x.cqTail - x.cqHead).toNat < 2 ^ fld x.cfg 16 5 →
      s.cmd? ⟨q.val, k.key⟩ = some c → ∃ u, exec (.completionRecordWrite q) s = .next u ∧ ∀ f : Fur, (u.fur f).board =
        if c.opcode = 0x0200 ∨ c.opcode = 0x0204 ∨ c.opcode = 0x0205 then (s.fur f).board.filter (fun e => e.ref != ⟨q.val, k.key⟩)
        else (s.fur f).board) ∧
    (∀ k rest, x.ready = k :: rest → k.time = none → exec (.completionRecordWrite q) s = .next s) ∧
    (2 ^ fld x.cfg 16 5 ≤ (x.cqTail - x.cqHead).toNat → exec (.completionRecordWrite q) s = .next s) ∧
    (∀ (k l : Rec) (v : W64), s.takesWrites → x.ready = [k, l] → k.time = none → l.time = none → k.quiet = false → l.quiet = false →
      (x.cqTail - v.setWidth 32).toNat + 2 ≤ 2 ^ fld x.cfg 16 5 →
      let now := fun (k : Rec) => { k with time := some s.time }
      ∃ t, exec (.qsCqHeadWrite q v) s = .next t ∧
        (t.queue q).ready = if (l.key - k.key).toNat < 2 ^ 31 then [now k, now l] else [now l, now k]) ∧
    (∀ (k : Rec) (v : W64), s.takesWrites → x.ready = [k] → k.time = none →
      let room := decide ((x.cqTail - v.setWidth 32).toNat < 2 ^ fld x.cfg 16 5)
      ∃ t, exec (.qsCqHeadWrite q v) s = .next t ∧ (t.queue q).cqHead = v.setWidth 32 ∧
        (t.queue q).ready = (if !room then [k] else if k.quiet then [] else [{ k with time := some s.time }]) ∧
        (room = true → k.quiet = true → ∀ c : Cmd, x.cmds = [c] → c.seq = k.key → c.done = false →
          (t.queue q).cmds = [] ∧ (t.queue q).retired = x.retired + BitVec.ofNat 32 c.units))

/-- QS_CTRL's ENABLE, DISABLE, THAW and UNBIND move a queue slot between its states, a DRAINING slot without commands becomes STOPPED with what it had fetched discarded, and QS_TAIL, QS_HEAD and QS_CQ_HEAD take their values where R250, R251 and R248 let them; nothing else of the block changes, but that the waits of a slot that goes DRAINING end at their next read (R280) and that records take the room that QS_CQ_HEAD makes. A doorbell that fails the checks of R251 in an ACTIVE or DRAINING slot leaves QS_TAIL as it was, freezes the queue and shows BAD_PARAM with opcode 0xFFFF in QS_FAULT. -/
def Obligations.QueueControl : Prop :=
  ∀ (q : QSlot) (v : W64) (s : State),
    let x := s.queue q
    let ending : State := { s with
      watches := s.watches.map (fun k => if k.st = 1 ∧ k.ref.q = q.val then { k with ending := true } else k) }
    (s.takesWrites →
      ((x.st = .free ∨ x.st = .stopped) → s.cfgOk x = true → x.tailOk x.tail = true →
        exec (.qsEnable q) s = .next (s.setQueue q { x with st := .active })) ∧
      ((x.st = .active ∨ x.st = .frozen) → exec (.qsDisable q) s = .next (ending.setQueue q { x with st := .draining })) ∧
      (x.st = .frozen → exec (.qsThaw q) s = .next (s.setQueue q { x with st := .active })) ∧
      (x.st = .stopped → exec (.qsUnbind q) s = .next (s.setQueue q { x with st := .free })) ∧
      ((x.st = .free ∨ x.st = .stopped ∨ x.tailOk (v.setWidth 32) = true) →
        exec (.qsTailWrite q v) s = .next (s.setQueue q { x with tail := v.setWidth 32 })) ∧
      ((x.st = .free ∨ x.st = .stopped) →
        exec (.qsHeadWrite q v) s = .next (s.setQueue q { x with head := v.setWidth 32, retired := v.setWidth 32 })) ∧
      exec (.qsCqHeadWrite q v) s = .next ((s.setQueue q { x with cqHead := v.setWidth 32 }).giveRoom q) ∧
      (x.ready = [] → exec (.qsCqHeadWrite q v) s = .next (s.setQueue q { x with cqHead := v.setWidth 32 })) ∧
      ((x.st = .active ∨ x.st = .draining) → x.tailOk (v.setWidth 32) = false →
        ∃ t, exec (.qsTailWrite q v) s = .next t ∧ (t.queue q).st = .frozen ∧ (t.queue q).tail = x.tail ∧
          (t.queue q).fault = w64 (x.seq.toNat * 2 ^ 32 + 0x0107 * 2 ^ 16 + 0xFFFF) ∧ (∀ q' : QSlot, q' ≠ q → t.queue q' = s.queue q') ∧
          t.furs = s.furs ∧ t.segs = s.segs)) ∧
    (x.st = .draining → x.cmds = [] → s.stopped = false → exec (.queueStopped q) s = .next (s.setQueue q { x with
      st := .stopped, head := x.retired, seq := x.seq - BitVec.ofNat 32 x.fetched.length, fetched := [], headJudged := none }))

/-- CX_CFG is written where no queue or furrow is bound to the slot and no other VALID slot has the CONTEXT_ID; CX_THAW clears FROZEN; CX_ASSIGN records the requested owner and whether the change is pending; FURROW_OWNERSHIP_CHANGE of a quiet furrow clears one that a context owns, ZEROING reading 1 until the next, which hands it to the target and records in event 0x8505 the nanoseconds that this took (R254 to R256, R322). Of a furrow that no context owned, and at that second change too, what its relay input holds or is being sent is discarded; R147 says this of a furrow reassigned to another context, and that it holds here is the model's reading (log 42). That no context owns the furrow meanwhile, and that a request which debug has come to bar is dropped when it would be granted, is the model's choice (log 17). -/
def Obligations.ContextControl : Prop :=
  ∀ (c : CSlot) (f : Fur) (v : W64) (s : State),
    let x := s.ctx c.val
    let new := v &&& 0xC0BF000000000FFF
    let z := s.fur f
    let target : BitVec 6 := v.setWidth 6
    (s.takesWrites →
      (¬ (s.debugOn = true ∧ bitOf v 62 = true) → s.boundQueues c.val = [] → s.ownsFurrow c.val = false →
        (bitOf v 63 = true → s.idTaken c.val (fld new 0 12) = false) →
        exec (.cxCfgWrite c v) s = .next (s.setCtx c.val { x with cfg := new })) ∧
      exec (.cxThaw c) s = .next (s.setCtx c.val { x with frozen := false }) ∧
      (f.val < s.build.furrows → bitOf v 6 = true →
        exec (.cxAssignWrite f v) s = .next (s.setFur f { z with release := true, target := target, pendingAssign := z.assignZeroing || z.owned })) ∧
      (f.val < s.build.furrows → bitOf v 6 = false → (s.ctx target.toNat).valid = true → target.toNat < 48 →
        ¬ (s.debugOn = true ∧ bitOf (s.ctx target.toNat).cfg 62 = true) →
        exec (.cxAssignWrite f v) s = .next (s.setFur f { z with
          release := false, target := target, pendingAssign := z.assignZeroing || !(z.owned && z.owner == target) }))) ∧
    (s.stopped = false → s.assignBarred f = false →
      let change := exec (.furrowOwnershipChange f) s
      (z.assignZeroing = false → z.pendingAssign = true → z.owned = true → s.mayReassign f = true →
        ∃ t, change = .next t ∧ (t.fur f).owned = false ∧ (t.fur f).zeroing = true ∧ (t.fur f).assignZeroing = true ∧
          (t.fur f).pendingAssign = true ∧ (t.fur f).split = false ∧ (t.fur f).data = [] ∧ (t.fur f).full = [] ∧ (t.fur f).poison = [] ∧
          (t.fur f).pstore = [] ∧ (t.fur f).routines = [] ∧ (t.fur f).counters = [] ∧ (t.fur f).xfers = [] ∧
          (∀ j : Fin 16, (t.window f j).isOpen = false) ∧ ∀ d : Dom, ((t.fur f).dom d).sregs = Vector.replicate 32 0) ∧
      ((z.assignZeroing = true ∨ (z.pendingAssign = true ∧ z.owned = false ∧ s.mayReassign f = true)) →
        ∃ t, change = .next t ∧ (t.fur f).owned = (z.pendingAssign && !z.release) ∧ (t.fur f).pendingAssign = false ∧
          (t.fur f).zeroing = false ∧ (t.fur f).assignZeroing = false ∧ ((t.fur f).owned = true → (t.fur f).owner = z.target) ∧
          (t.fur f).data = z.data ∧ (∀ d : Dom, ∃ st causes since, (t.fur f).dom d = { z.dom d with st := st, causes := causes, frozenSince := since }) ∧
          (t.fur f).relayIn = [] ∧ (f.val ≠ 0 → (t.fur (furOf (f.val - 1))).relayOut = []) ∧
          (z.assignZeroing = true → s.gl.intake.length < 240 → bitOf s.gl.imask 5 = false → ∃ r ∈ t.gl.intake, r.code = 0x8505 ∧
            r.source = srcBlock ∧ r.p0.toNat = f.val ∧ r.p2 = BitVec.ofNat 32 (s.since z.zeroAt)))) ∧
    (s.stopped = false → s.debugOn = true → z.pendingAssign = true → z.release = false → bitOf (s.ctx z.target.toNat).cfg 62 = true →
      z.assignZeroing = false → ∃ t, exec (.furrowOwnershipChange f) s = .next t ∧ (t.fur f).pendingAssign = false ∧
        (t.fur f).owned = z.owned ∧ (t.fur f).owner = z.owner)

/-- An entry's fields are written in FREE, and BASE and GRANULES in VALID without references; CREATE makes a FREE entry that satisfies R260 VALID; FREE frees a VALID entry with GEN + 1 or makes it DYING while it has users, and a DYING entry is freed once it has none; an entry at GEN 0xFFFF is RETIRED (R259, R260, R266, R268). -/
def Obligations.SegmentTable : Prop :=
  ∀ (i : BitVec 15) (reg : Fin 3) (v : W64) (s : State),
    let n := i.toNat
    let g := s.seg n
    let new : Seg := if reg = 0 then { g with base := (v >>> 21).setWidth 43, host := bitOf v 0 }
      else if reg = 1 then { g with granules := v.setWidth 24 }
      else { g with enc := bitOf v 39, keySlot := (v >>> 32).setWidth 6, owner := (v >>> 16).setWidth 12,
                    xF := bitOf v 3, oF := bitOf v 2, oW := bitOf v 1, oR := bitOf v 0 }
    let freed := fun (c : Instr) => if g.gen = 0xFFFF then ∃ t, exec c s = .next t ∧ t.segs = tset Seg.zero s.segs n { g with st := 3 }
      else exec c s = .next (s.setSeg n { g with st := 0, gen := g.gen + 1 })
    n ≠ 0 →
    (s.takesWrites →
      (g.st = 0 ∨ (g.st = 1 ∧ g.refs = 0 ∧ reg.val ≤ 1 ∧ new.createOk = true ∧ new.host = g.host) →
        exec (.segmentFieldWrite i reg v) s = .next (s.setSeg n new)) ∧
      (g.st = 0 → g.createOk = true → exec (.segmentCreate i) s = .next (s.setSeg n { g with st := 1 })) ∧
      (g.st = 1 → g.refs = 0 → freed (.segmentFree i)) ∧
      (g.st = 1 → g.refs ≠ 0 → exec (.segmentFree i) s = .next (s.setSeg n { g with st := 2 }))) ∧
    (g.st = 2 → g.refs = 0 → s.dead = false → freed (.segmentRelease i))

/-- COPY, FILL, SCRATCH_WRITE and SCRATCH_READ of at least one byte take an engine and wait for the scoreboards of their scratchpad sides (R245). A slot granted to a COPY moves one unit: it reads the next bytes of its source, or writes the next that it holds to its destination, in ascending address order; once all are written COPY_DONE completes the command with their number and the number poisoned (R244, R245). Where neither side takes a slot or port S, host memory and the pattern of a FILL, all bytes move at COPY_DONE, which is the model's choice (log 16). -/
def Obligations.CopyCommands : Prop :=
  ∀ (q : QSlot) (seq : W32) (s : State) (p : Packet),
    let r := refOf q p
    let k : CmdRef := ⟨q.val, seq⟩
    let takes := fun (c : Instr) (op : Nat) (g : State → State) => accepts c s q op p (g (s.admitted q op p))
    (let a := s.admitted q 0x0200 p
     let src := a.copySrc p.w
     let dst := a.copyDst p.w
     let regions := src.region (p.w 6) false ++ dst.region (p.w 6) true
     p.w 6 ≠ 0 → sidesOverlap src dst (p.w 6) = false → takes (.copy q) 0x0200 (fun a =>
      (((a.modCmd r (fun c => { c with stage := if regions = [] then 2 else 1 })).addJob r).joinBoards r regions).noteRequests)) ∧
    (p.w 4 ≠ 0 → takes (.fill q) 0x0201 (fun a => ((a.modCmd r (fun c => { c with stage := 2 })).addJob r).noteRequests)) ∧
    (nfld (p.w 2) 32 7 ≠ 0 → takes (.scratchWrite q) 0x0204 (fun a => ((a.modCmd r (fun c => { c with
      stage := 1, buf := payloadBytes p.words (nfld (p.w 2) 32 7) })).addJob r).joinBoards r
        [(p.fur, nfld (p.w 2) 0 25, nfld (p.w 2) 32 7, true)])) ∧
    (nfld (p.w 2) 32 10 ≠ 0 → takes (.scratchRead q) 0x0205 (fun a => ((a.modCmd r (fun c => { c with
      stage := 1, buf := [] })).addJob r).joinBoards r [(p.fur, nfld (p.w 2) 0 25, nfld (p.w 2) 32 10, false)])) ∧
    (∀ (j : CopyJob) (c : Cmd), (s.copies.take 8).find? (fun j => j.ref == k) = some j → s.cmd? k = some c → c.stage = 2 → s.stopped = false →
      let o := s.copyWork c
      let n := o.2.2
      (n ≠ 0 → (o.1.isNow && o.2.1.isNow) = false → n ≤ j.wr →
        exec (.copyDone q seq) s = .next ((s.endJob k).finish k (if j.pois = 0 then stOk else stPoisoned) n j.pois)) ∧
      (∀ a b seg seg', n ≠ 0 → o.1 = .mem a seg → o.2.1 = .mem b seg' → a.host = true → b.host = true → twf 0 s.hostMem = true →
        tany s.hostBad a.addr (a.addr + n) = false → ∃ t, exec (.copyDone q seq) s = .next t ∧ t.hostRd b.addr n = s.hostRd a.addr n ∧
          ∀ i, (i < b.addr ∨ b.addr + n ≤ i) → tget 0 t.hostMem i = tget 0 s.hostMem i) ∧
      (∀ v b seg, n ≠ 0 → o.1 = .fill v → o.2.1 = .mem b seg → b.host = true → twf 0 s.hostMem = true → ∃ t, exec (.copyDone q seq) s = .next t ∧
        (∀ i, i < n → tget 0 t.hostMem (b.addr + i) = BitVec.ofNat 8 (v / 256 ^ (i % 8))) ∧
        ∀ i, (i < b.addr ∨ b.addr + n ≤ i) → tget 0 t.hostMem i = tget 0 s.hostMem i)) ∧
    (∀ (st : StackNo) (x : Cand) (j : CopyJob) (c : Cmd) (a b : Side) (m : Move), s.stopped = false → s.stackPorts[st].retraining = false →
      s.stackPorts[st].failed = false → pickCand s.stackPorts[st] (s.cands st.val) = some x → x.rq = 128 →
      s.fences.any (fun j => j.ref == x.ref) = false → s.copies.find? (fun j => j.ref == x.ref) = some j → s.jobMove j = some (c, a, b, m) →
      twf 0 s.hbm = true → twf false s.hbmBad = true →
      ∃ t, exec (.stackSlotGrant st) s = .next t ∧ ∃ j' ∈ t.copies, j'.ref = x.ref ∧
        (∀ l seg off n, m = .read off n → a = .mem l seg → l.host = false → l.key = none → tany s.hbmBad (l.addr + off) (l.addr + off + n) = false →
          n ≤ 4096 → b.isNow = false → j'.wr = j.wr ∧ j'.buf = j.buf ++ (s.hbmRd (l.addr + off) n).map (fun y => (y, false)) ∧ t.hbm = s.hbm) ∧
        (∀ l seg off n, m = .write off n → b = .mem l seg → a.isNow = false → l.host = false → l.key = none → n ≤ j.buf.length →
          needsExtra b (s.copyWork c).2.2 off = false → j'.wr = j.wr + n ∧ j'.buf = j.buf.drop n ∧
          t.hbmRd (l.addr + off) n = (j.buf.take n).map Prod.fst ∧
          (∀ i, i < n → tget false t.hbmBad (l.addr + off + i) = ((j.buf.getD i (0, false)).2)) ∧
          ∀ i, (i < l.addr + off ∨ l.addr + off + n ≤ i) → tget 0 t.hbm i = tget 0 s.hbm i))

/-- An accepted FENCE_SIGNAL of a fence in HBM waits for two slots at its queue's priority (R277); FENCE_OPERATION then performs the indivisible operation of R276: it writes VALUE where VALUE has reached the stored word, and changes nothing where it has not; FENCE_WAIT takes a watch slot and reads it at once, whether that read fails being a free value (log 103), and each read ends the wait when the fence has reached the target, or at the deadline, or once its queue has entered DRAINING or FROZEN, with TIMEOUT (R278 to R280); SIGNAL_SET changes a counter and completes with its new value (R287). -/
def Obligations.FenceCommands : Prop :=
  ∀ (q : QSlot) (seq : W32) (k : Fin 256) (s : State) (p : Packet),
    let r := refOf q p
    let takes := fun (c : Instr) (op : Nat) (g : State → State) => accepts c s q op p (g (s.admitted q op p))
    takes (.fenceSignal q) 0x0300 (fun a =>
      let l := a.locOf (p.w 2) (p.w 3)
      let b := a.modCmd r (fun c => { c with stage := 2 })
      if l.host then b
      else { b with
        fences := b.fences ++ [⟨r, (a.queue q).prio, a.requests, List.replicate 2 ⟨l.addr, l.addr + 8, 0, false⟩⟩]
        requests := a.requests + 1 }) ∧
    (∀ c : Cmd, s.atWork q seq 0x0300 = some c → s.stopped = false → s.fences.any (fun j => j.ref == ⟨q.val, seq⟩) = false →
      let l := (s.locOf (c.w 2) (c.w 3)).checked c.since
      let cur := ofLe (s.memRead l 8).1
      (l.host = true → s.build.atomicOp = true) → (s.memRead l 8).2 = .good →
      exec (.fenceOperation q seq .good) s = .next (if reached (w64 (c.w 4)) (w64 cur)
        then ((s.memWrite l (toLe 8 (c.w 4)) false (hIndex (c.w 2))).1).finish ⟨q.val, seq⟩ stOk (c.w 4) 0
        else (s.offer 0x0701 (srcQueue q) (c.w 2) (c.w 4) (q.val * 2 ^ 24 + cur % 2 ^ 24)).finish ⟨q.val, seq⟩ stOk cur 0)) ∧
    (∀ j : Fin 256, (s.admitted q 0x0301 p).freeSlot = some j → takes (.fenceWait q) 0x0301 (fun a =>
      ((a.modCmd r (fun c => { c with stage := 2 })).setWatch j
        { st := 1, ref := r, timedOut := false, handle := BitVec.ofNat 32 (p.w 2), offset := BitVec.ofNat 44 (p.w 3), target := w64 (p.w 4),
          last := 0, deadline := if p.w 5 = 0 then 0 else a.time + BitVec.ofNat 64 (1000 * p.w 5), reads := 0, failed := 0,
          order := a.accepted, ending := false, since := a.erasures }).watchRead j (a.freeOutcome (a.locOf (p.w 2) (p.w 3))) false |>.bumpFree)) ∧
    ((s.watch k).st = 1 → s.stopped = false →
      let x := s.watch k
      let l := (s.locOf x.handle.toNat x.offset.toNat).checked x.since
      let v := w64 (ofLe (s.memRead l 8).1)
      let seen := s.setWatch k { x with last := v, reads := satInc x.reads }
      (s.memRead l 8).2 = .good → s.stackHeld l 8 = false →
      (reached v x.target = true → exec (.fenceWatchRead k .good) s = .next (seen.endWatch k false)) ∧
      (reached v x.target = false → exec (.fenceWatchRead k .good) s = .next (if x.ending then seen.endWatch k true else seen)) ∧
      (x.deadline ≠ 0 → reached s.time x.deadline = true →
        exec (.fenceWaitDeadline k .good) s = .next (seen.endWatch k (!reached v x.target)))) ∧
    (let c := nfld (p.w 2) 0 8
     takes (.signalSet q) 0x0302 (fun a =>
      let b := a.modFur p.fur (fun x => x.changeCounter c (nfld (p.w 2) 8 2) (nfld (p.w 2) 16 16))
      b.finish r stOk (tget 0 (b.fur p.fur).counters c).toNat 0))

/-- SIGNAL_ARRIVE applies the changes of other furrows that left them at least 2 ns before, each after every earlier one of its domain to its counter, and keeps the others in order; a change that has not left leaves now where memory has acknowledged the put rows before it (R285). Those that take effect act on each counter one after another in ascending furrow, domain 0 before 1, a set, a sum or a difference modulo 2^16 of what the one before left, and every other counter keeps its value (R283, R286). That changes by other commands are of other ticks is the model's choice (log 74). -/
def Obligations.CounterChanges : Prop :=
  ∀ (f : Fur) (s : State),
    let x := s.fur f
    let cs := x.changes.map (fun c => if c.left = none ∧ s.hasLeft c = true then { c with left := some s.time } else c)
    let ripe := fun (c : Change) => c.left.any (fun t => decide (2 ≤ s.since t))
    let takes := fun (p : Change × Nat) => (cs.take (p.2 + 1)).all (fun e => e.src != p.1.src || e.ctr != p.1.ctr || ripe e)
    let effects := (cs.zipIdx.filter takes).map Prod.fst
    let ordered := (List.range 32).flatMap (fun n => effects.filter (fun c => c.src == n))
    let change := fun (v : W16) (c : Change) => match c.op with
      | 0 => BitVec.ofNat 16 c.v
      | 1 => v + BitVec.ofNat 16 c.v
      | _ => v - BitVec.ofNat 16 c.v
    s.stopped = false → (∀ c ∈ x.changes, c.src < 32 ∧ c.src / 2 ≠ f.val) → twf 0 x.counters = true →
      ∃ t, exec (.signalArrive f) s = .next t ∧ (t.fur f).changes = (cs.zipIdx.filter (fun p => !takes p)).map Prod.fst ∧
        (∀ j : Nat, tget 0 (t.fur f).counters j = (ordered.filter (fun c => c.ctr == j)).foldl change (tget 0 x.counters j)) ∧
        (t.fur f).data = x.data ∧ (t.fur f).doms = x.doms ∧ ∀ g : Fur, g ≠ f → t.fur g = s.fur g

/-- ARM_DRILL of an IDLE drill sets its list, copies the descriptors of a persistent list in a segment where the stacks that hold it give slots (that it fetches them one by one elsewhere is the model's choice, log 97), and enters ARMED, or RUNNING where a DGO of its direction is latched, a list of COUNT zero then ending at once (R128, R136); REARM_DRILL does so for a PARKED one with new bases; DISARM_DRILL returns an ARMED or PARKED drill to IDLE and stops a RUNNING one (R127, R134, R135, R148), dropping the blocks that have begun nothing, which is the model's choice (log 76). -/
def Obligations.DrillArming : Prop :=
  ∀ (q : QSlot) (s : State) (p : Packet),
    let r := refOf q p
    let f := p.fur
    let k := p.drillNo
    let run := fun (b : State) =>
      let t := b.modDrill f k (fun z => { z with st := .running, latched := none })
      if (b.drill f k).count = 0 then t.endList f k else t
    let takes := fun (c : Instr) (op : Nat) (g : State → State) => accepts c s q op p (g (s.admitted q op p))
    (let a := s.admitted q 0x0202 p
     let x := (a.drill f k).armed p.w (a.queue q).prio r
     a.armRefused f k (decide (nfld (p.w 1) 12 1 = 1)) (nfld (p.w 1) 13 2) = none →
      let y := if x.persist && !x.listScratch && !a.stackHeld (a.descLoc x 0) (32 * x.count) then { x with store := (List.range x.count).map (a.listDesc f x), fetchIdx := x.count } else x
      let b := ((a.modCmd r (fun c => { c with stage := 2 })).setDrill f k y).bumpFree
      takes (.armDrill q) 0x0202 (fun _ => if x.latched = none then b else run b)) ∧
    (let a := s.admitted q 0x0203 p
     let x := a.drill f k
     let b := (a.modCmd r (fun c => { c with stage := 2 })).setDrill f k { x with
      st := .armed, bases := packetBases p.w, prio := (a.queue q).prio, cmd := some r }
     x.st = .parked → takes (.rearmDrill q) 0x0203 (fun _ => if x.latched = none then b else run b)) ∧
    (let a := s.admitted q 0x0206 p
     let x := a.drill f k
     let ends := fun (b : State) => accepts (.disarmDrill q) s q 0x0206 p (s.oneCycle b)
     let y := { x with st := .stopping, disarm := x.disarm ++ [r] }
     (x.st = .idle → ends (a.finish r stOk 0 0)) ∧
     (x.st = .armed → ends ((a.idleDrill f k stBusy 0 0).finish r stOk 0 0)) ∧
     (x.st = .parked → ends ((a.idleDrill f k stOk 0 0).finish r stOk 0 0)) ∧
     (x.st = .running → ends (((a.modCmd r (fun c => { c with stage := 2 })).setDrill f k
      { y with blocks := x.blocks.filter (fun b => !x.untouched b) }).unrefSegs ((x.blocks.filter x.untouched).filterMap Block.seg))) ∧
     (x.st = .stopping → ends ((a.modCmd r (fun c => { c with stage := 2 })).setDrill f k y)))

/-- DESCRIPTOR_FETCH takes the next descriptor of a list in a segment, and begins a port-S read of one in the scratchpad, which PORT_S_COMMIT ends; DRILL_BLOCK_BEGIN of a block that passes R130 and R132 adds it to the drill's blocks and references its segment, and a block of a tile that has ended without rows for it is passed over; a tile without credit waits (R137); a list that has ended or stopped leaves its drill IDLE or PARKED and completes its command; none of these happens while the beat clock is gated (R384); DRILL_THAW returns a FROZEN drill whose sticky bits are clear to IDLE (R128, R132, R136, R139, R149). -/
def Obligations.DrillLists : Prop :=
  ∀ (f : Fur) (k : DrillNo) (s : State),
    let z := s.fur f
    let x := s.drill f k
    let status := if x.listPois = 0 then stOk else stPoisoned
    let ended := if x.persist && x.disarm.isEmpty then (s.setDrill f k x.toParked).finishOpt x.cmd status x.listRows x.listPois
      else s.idleDrill f k status x.listRows x.listPois
    (s.stopped = false →
      (z.gated = false → (x.st = .armed ∨ x.st = .running) → x.persist = false → x.lastSeen = false → x.fetched = [] → x.fetchIdx < x.count →
        x.listScratch = false → s.stackHeld (s.descLoc x x.fetchIdx) 32 = false →
        exec (.descriptorFetch f k) s = .next ((s.setDrill f k { x with
          fetched := [s.listDesc f x x.fetchIdx], fetchIdx := x.fetchIdx + 1 }).bumpFree)) ∧
      (z.gated = false → x.fetches = true → x.listScratch = true → z.xfers = [] →
        let a := x.listOffset + 32 * x.fetchIdx
        let d : Xfer := ⟨.drill k, a, 32, false, 0, none, [], false, x.fetchIdx, 0, true⟩
        s.bankHeld f a = false → z.asleep (a / 512) = false → z.isPending (a / 512) = false → (s.noteAsks f).turn f d = true →
        ∃ t, exec (.descriptorFetch f k) s = .next t ∧ t.drill f k = x ∧ (t.fur f).data = z.data ∧
          (t.fur f).xfers = [{ d with bytes := tgets 0 z.data a 32, poison := z.isPoison (a / 512) }]) ∧
      (∀ d : Xfer, z.xferOf (.drill k) = some d → d.write = false → d.desc = true → x.persist = false → z.asleep (d.addr / 512) = false → ∃ t, exec (.portSCommit f (.drill k)) s = .next t ∧
        (t.drill f k).fetched = x.fetched ++ [descOf (z.xferBytes d)] ∧ (t.drill f k).fetchIdx = x.fetchIdx + 1 ∧ (t.fur f).data = z.data) ∧
      (∀ d : Desc, x.nextDesc = some d → x.st = .running → x.lastSeen = false → x.mayBegin = true → x.hasCredit = true → z.gated = false →
        x.endedRows = some 0 → exec (.drillBlockBegin f k) s = .next (s.oneCycle (s.setDrill f k (x.advance d)))) ∧
      (∀ d : Desc, x.nextDesc = some d → x.st = .running → x.lastSeen = false → x.mayBegin = true → x.hasCredit = true →
        z.gated = false → x.endedRows = none → descBad x d = false → movesNothing x d = false →
        (x.mode.toNat < 2 → s.memRefused f x d = none) → spRefused s.build z x k d = none →
        exec (.drillBlockBegin f k) s = .next (s.oneCycle
          (let b := s.newBlock x d
           let t := s.setDrill f k { x.advance d with blocks := x.blocks ++ [b] }
           match b.seg with | some i => t.refSeg i | none => t))) ∧
      (∀ d : Desc, x.nextDesc = some d → (z.gated = true ∨ x.hasCredit = false) → exec (.drillBlockBegin f k) s = .next s) ∧
      (z.gated = false → x.st = .running → (x.lastSeen = true ∨ x.count ≤ x.next) → x.blocks = [] → x.landing = [] →
        exec (.drillListEnd f k) s = .next (s.oneCycle ended)) ∧
      (z.gated = false → x.st = .stopping → x.blocks = [] → x.landing = [] → exec (.drillStopped f k) s = .next (s.oneCycle ended)) ∧
      (z.gated = true → ∀ c ∈ [Instr.descriptorFetch f k, .drillListEnd f k, .drillStopped f k], exec c s = .next s)) ∧
    (∀ mask : BitVec 8, s.takesWrites → f.val < s.build.furrows → mask = BitVec.twoPow 8 k.val → x.st = .frozen → (∀ b ∈ [0, 8, 24], bitOf z.dlSticky (b + k.val) = false) →
      exec (.drillThaw f mask) s = .next (s.oneCycle ((s.idleDrill f k stOk 0 0).masterThawed (masterDrill f k))))

/-- A port-S transfer of a drill's landed row, or of a SCRATCH command, begins in a free bank once its check of R106 passes and no agent that has waited longer would be served by the bank, and otherwise waits; at its end the bytes, TAG and POISON are written together, a write on the tick of a port-W write to its row counting as a clash (R110), and a SCRATCH_READ's bytes go to its segment, in HBM once the stack ports have granted every slot of the request, with the extra slot of a partial encrypted unit (R105, R106, R111, R140, R245, R270); a drill whose transfer finds its group asleep faults (R120, R149); ROWS_LAND takes the next row in list order once its pieces are granted, the bytes of its memory side, poisoned where a request that carries it fails (R131, R137, R144), and WRITE_ACKNOWLEDGE has written the row to its memory side, with the error pattern of a poisoned one (R136, R145); with the beat clock gated neither moves a row (R384). Which agents have waited longer is counted from when a command or reference cycle finds them waiting, the model's choice (log 37). -/
def Obligations.PortSTransfers : Prop :=
  ∀ (f : Fur) (k : DrillNo) (q : QSlot) (seq : W32) (s : State),
    let z := s.fur f
    let x := s.drill f k
    s.stopped = false →
    let s1 := s.noteAsks f
    let first := fun (t : Xfer) => ∀ a ∈ (s1.fur f).asks.takeWhile (fun a => a != t.agent), ∀ u, s1.xferNext f a = some u →
      bankOf u.addr = bankOf t.addr → s1.served f u = false
    let asks := fun (t : Xfer) => z.asleep (t.addr / 512) = false → z.bankBusy t.addr = false → s.bankHeld f t.addr = false →
      (z.xfers.filter (fun u => u.agent == t.agent)).length < 2 → z.sCheck (t.addr / 512) t.write t.tag t.ring = true →
      (first t → exec (.portSTransfer f t.agent) s = .next ((s1.modFur f (fun y => y.sBegin t)).noteAsks f)) ∧
      (¬ first t → exec (.portSTransfer f t.agent) s = .next s1)
    (∀ (r : LandRow) (b : Block), x.moving = true → x.out = false → z.nextWrite k = some r → x.blocks.find? (fun b => b.idx == r.idx) = some b →
      let p := z.spRow b.desc r.row true
      asks ⟨.drill k, p.1 * 512, r.bytes.length, true, if r.poison && b.desc.tag == 0 then 4 else b.desc.tag, p.2, r.bytes, r.poison, r.idx, r.row, false⟩) ∧
    (∀ t : Xfer, z.xferOf (.drill k) = some t →
      (t.write = true → z.asleep (t.addr / 512) = false → exec (.portSCommit f (.drill k)) s =
        .next (((s.portWrite f t).settleRow f k t.idx t.row (fun r => { r with written := true })).noteAsks f)) ∧
      (z.asleep (t.addr / 512) = true → exec (.portSCommit f (.drill k)) s = .next ((s.drillFault f k t.idx stBounds (if t.desc then 7 else 4)).noteAsks f))) ∧
    (∀ t : Xfer, (z.wRow (t.addr / 512) = none → s.portWrite f t = s.setFur f (z.sWrite t)) ∧
      (∀ w : WRow, z.wRow (t.addr / 512) = some w → ((s.portWrite f t).fur f).swClashes = satInc z.swClashes ∧
        bitOf ((s.portWrite f t).fur f).spSticky (2 + w.dom.val) = true)) ∧
    (∀ c : Cmd, s.copyXfer q seq = none → s.cmd? ⟨q.val, seq⟩ = some c → c.fur = f → c.stage = 2 → z.xferOf (.host q seq) = none →
      let a := nfld (c.w 2) 0 25
      (c.opcode = 0x0204 → asks ⟨.host q seq, a, nfld (c.w 2) 32 7, true, nfld (c.w 2) 40 3, none, c.buf, false, 0, 0, false⟩) ∧
      (c.opcode = 0x0205 → c.buf = [] → asks ⟨.host q seq, a, nfld (c.w 2) 32 10, false, 0, none, [], false, 0, 0, false⟩)) ∧
    (∀ (t : Xfer) (c : Cmd), z.xferOf (.host q seq) = some t → s.cmd? ⟨q.val, seq⟩ = some c → c.opcode = 0x0204 → exec (.portSCommit f (.host q seq)) s =
      .next (((s.portWrite f t).finish ⟨q.val, seq⟩ stOk t.len 0).noteAsks f)) ∧
    (∀ (t : Xfer) (c : Cmd), z.xferOf (.host q seq) = some t → s.cmd? ⟨q.val, seq⟩ = some c → c.opcode = 0x0205 → c.stage = 2 →
      let l := s.locOf (c.w 3) (c.w 4)
      let bs := z.xferBytes t
      bs ≠ [] → l.host = true → twf 0 s.hostMem = true → s.fences.any (fun j => j.ref == ⟨q.val, seq⟩) = false →
        ∃ u, exec (.portSCommit f (.host q seq)) s = .next u ∧ u.hostRd l.addr bs.length = bs ∧
        (∀ i, (i < l.addr ∨ l.addr + bs.length ≤ i) → tget 0 u.hostMem i = tget 0 s.hostMem i) ∧ (u.fur f).data = z.data) ∧
    (∀ (t : Xfer) (c : Cmd), z.xferOf (.host q seq) = some t → s.cmd? ⟨q.val, seq⟩ = some c → c.opcode = 0x0205 → c.stage = 2 →
      let l := s.locOf (c.w 3) (c.w 4)
      let n := (z.xferBytes t).length
      n ≠ 0 → l.host = false → ∃ u, exec (.portSCommit f (.host q seq)) s = .next u ∧ u.hbm = s.hbm ∧ u.requests = s.requests + 1 ∧
        u.fences = s.fences ++ [⟨⟨q.val, seq⟩, (s.queue q).prio, s.requests,
          if l.key = none then piecesOf l.addr (l.addr + n) 0 else encPieces l.addr (l.addr + n) 0⟩]) ∧
    (∀ (b : Block) (i : Nat) (o : ReadOutcome), z.gated = false → x.moving = true → x.out = false → x.mode.toNat < 2 → x.nextLanding = some (b, i) →
      b.rowWaits i = false → exec (.rowsLand f k o) s = .next (s.landRow f k b i o) ∧
        (b.host = false → b.enc = none → b.failed = [] →
          let bad := fun (r : Nat × Nat) => tany s.hbmBad r.1 (r.1 + (r.2 - r.1))
          ((∀ r ∈ b.requests i, bad r = false) → o = .good → ∃ t, exec (.rowsLand f k o) s = .next t ∧ (t.drill f k).landing = x.landing ++
            [⟨b.idx, i, s.hbmRd (b.rowAddr i) b.desc.bytes, false, false, false⟩] ∧ t.hbm = s.hbm ∧ t.hostMem = s.hostMem ∧ (t.fur f).data = z.data) ∧
          ((∃ r ∈ b.requests i, bad r = true) → ∃ t w, exec (.rowsLand f k o) s = .next t ∧ (t.drill f k).landing = x.landing ++ [w] ∧
            w.idx = b.idx ∧ w.row = i ∧ w.poison = true ∧ bitOf (t.fur f).dlSticky (16 + k.val) = true))) ∧
    (∀ (b : Block) (rest : List Block) (bytes : List Byte) (poison : Bool), z.gated = false → x.moving = true → x.out = true → x.blocks = b :: rest →
      b.outRows = [(b.moved, bytes, poison)] → b.rowWaits b.moved = false →
      exec (.writeAcknowledge f k) s = .next ((List.range 16).foldl (fun u i => u.leaveChanges (furOf i)) (s.ackRow f k b b.moved bytes poison)) ∧
      (b.host = false → b.enc = none → twf 0 s.hbm = true → twf false s.hbmBad = true → b.desc.bytes ≤ bytes.length →
        let a := b.rowAddr b.moved
        ∃ t, exec (.writeAcknowledge f k) s = .next t ∧ t.hbmRd a b.desc.bytes = bytes.take b.desc.bytes ∧
          (∀ i, i < b.desc.bytes → tget false t.hbmBad (a + i) = poison) ∧
          (∀ i, (i < a ∨ a + b.desc.bytes ≤ i) → tget 0 t.hbm i = tget 0 s.hbm i) ∧ (t.drill f k).rows = x.rows + 1))

/-- At the end of a port-S write transfer of a whole number of bytes within one row, each byte of it reads back from the scratchpad, every byte outside it reads as before, and its row is FULL where the tag mode is PRODUCE or FILL (R108, R111); on the tick of a port-W write to its row the bytes of port W stand (R110). -/
def Obligations.ScratchWriteLands : Prop :=
  ∀ (z : Furrow) (t : Xfer),
    twf 0 z.data = true → twf false z.full = true → z.asleep (t.addr / 512) = false → t.ring = none → t.addr % 512 + t.bytes.length ≤ 512 →
      (z.wRow (t.addr / 512) = none → ∀ i : Nat, i < t.bytes.length → tget 0 (z.sWrite t).data (t.addr + i) = t.bytes.getD i 0) ∧
      (∀ w : WRow, z.wRow (t.addr / 512) = some w → ∀ a : Nat, tget 0 (z.sWrite t).data a =
        if w.addr ≤ a ∧ a < w.addr + w.len then tget 0 z.data a else if t.addr ≤ a ∧ a < t.addr + t.bytes.length then t.bytes.getD (a - t.addr) 0
        else tget 0 z.data a) ∧
      (∀ a : Nat, a < t.addr ∨ t.addr + t.bytes.length ≤ a → tget 0 (z.sWrite t).data a = tget 0 z.data a) ∧
      (t.tag = 3 ∨ t.tag = 4 → (z.sWrite t).isFull (t.addr / 512) = true) ∧
      (∀ row : Nat, (row ≠ t.addr / 512 ∨ (t.tag ≠ 3 ∧ t.tag ≠ 4)) → (z.sWrite t).isFull row = z.isFull row) ∧
      (z.sWrite t).windrow = z.windrow ∧ (z.sWrite t).cells = z.cells ∧ (z.sWrite t).counters = z.counters

/-- RELAY_SEND hands a landed row to the furrow's relay output while the receiver has room, and waits where it has none, once port S has accepted every earlier row, RELAY_ARRIVE brings the oldest row on the link to the next furrow's input buffer once the relay hop of byte 22 has passed (R26; that its ticks are counted at the sender's present CURRENT is the model's choice, log 42), and RELAY_WRITE writes a buffered row into the destination of the RECV or RECV_TEE drill, of which the second then holds it for the relay output (R146, R147). -/
def Obligations.RelayRows : Prop :=
  ∀ (f : Fur) (k : DrillNo) (s : State),
    let z := s.fur f
    let x := s.drill f k
    s.stopped = false →
    (∀ r : LandRow, x.landing.find? (fun r => !r.relayed) = some r → x.moving = true → x.mode.toNat % 2 = 1 → f.val + 1 < s.build.furrows →
      z.gated = false → z.portTook k r = true → z.relayOut.length + (s.fur (furOf (f.val + 1))).relayIn.length < 16 →
      exec (.relaySend f k) s = .next ((s.setFur f { z with relayOut := z.relayOut ++ [(⟨r.bytes, r.poison⟩, s.uptime)] }).settleRow f k r.idx r.row
        (fun r => { r with relayed := true }))) ∧
    (16 ≤ z.relayOut.length + (s.fur (furOf (f.val + 1))).relayIn.length → exec (.relaySend f k) s = .next s) ∧
    (∀ r rest, f.val ≠ 0 → (s.fur (furOf (f.val - 1))).relayOut = r :: rest →
      let hop := 80 * s.build.latOf 22 ≤ (s.fur (furOf (f.val - 1))).current.toNat * s.powered r.2
      (¬ hop → exec (.relayArrive f) s = .next s) ∧
      (hop → ∃ t, exec (.relayArrive f) s = .next t ∧ (t.fur f).relayIn = z.relayIn ++ [r.1] ∧ (t.fur (furOf (f.val - 1))).relayOut = rest ∧
        (t.fur f).data = z.data ∧ ∀ g : Fur, g ≠ f → g ≠ furOf (f.val - 1) → t.fur g = s.fur g)) ∧
    (∀ r rest (b : Block), z.relayIn = r :: rest → z.recvDrill = some (k, b) → z.xfers = [] → (∀ j : DrillNo, j ≠ k → (s.drill f j).isRecv = false) →
      (x.mode = 2 ∨ (x.mode = 3 ∧ ∀ q ∈ x.landing, q.relayed = true)) → twf 0 z.data = true →
      let p := z.spRow b.desc b.begun true
      z.wRow p.1 = none →
      let t : Xfer := ⟨.relay, p.1 * 512, r.bytes.length, true, b.desc.tag, p.2, r.bytes, r.poison, b.idx, b.begun, false⟩
      s.bankHeld f (p.1 * 512) = false → z.asleep p.1 = false → z.sCheck p.1 true b.desc.tag p.2 = true → (s.noteAsks f).turn f t = true →
        ∃ u, exec (.relayWrite f) s = .next u ∧ (u.fur f).relayIn = rest ∧ (u.fur f).xfers = [] ∧
          tgets 0 (u.fur f).data (p.1 * 512) r.bytes.length = r.bytes ∧
          (∀ a, (a < p.1 * 512 ∨ p.1 * 512 + r.bytes.length ≤ a) → tget 0 (u.fur f).data a = tget 0 z.data a) ∧
          (x.mode = 2 → (u.drill f k).rows = x.rows + 1 ∧ (u.drill f k).landing = x.landing) ∧
          (x.mode = 3 → (u.drill f k).rows = x.rows ∧ (u.drill f k).landing = x.landing ++ [⟨b.idx, b.begun, r.bytes, r.poison, true, false⟩]))

/-- A slot of a stack port that neither retrains nor has failed goes to the first waiting piece of one requester, a drill, the dispatcher or the mesh's engine: of the highest priority among these first pieces, round-robin over the requesters of that priority in ascending order; or, once the guard count has reached 15, of a requester that has a piece of the lowest priority waiting. The guard count rises by one unless the lowest priority was granted (R141, R142). That a requester's own pieces are not passed, so that the guard may serve the piece before that of the lowest priority, is the model's choice (log 79), and that a fence signal which arrived over the mesh asks for its slots as the mesh's engine, at priority 0 (log 92). -/
def Obligations.StackSlots : Prop :=
  ∀ (st : StackNo) (s : State) (c : Cand),
    let p := s.stackPorts[st]
    let cs := s.cands st.val
    p.retraining = false → p.failed = false → s.stopped = false → pickCand p cs = some c →
      let same := fun (d : Cand) => (∃ l ∈ cs, l.head? = some d) ∧ d.prio = c.prio
      let pos := vat 0 p.rr c.prio
      (∃ l ∈ cs, l.head? = some c ∧ (15 ≤ p.g → ∃ d ∈ l, ∀ e ∈ cs.flatten, d.prio ≤ e.prio)) ∧
      (p.g < 15 → (∀ l ∈ cs, ∀ d, l.head? = some d → d.prio ≤ c.prio) ∧
        (∀ d, same d → pos ≤ d.rq → pos ≤ c.rq ∧ c.rq ≤ d.rq) ∧ ((∀ d, same d → d.rq < pos) → ∀ d, same d → c.rq ≤ d.rq)) ∧
      c.rq ≤ 129 ∧
      (∀ want : Nat, (p.g < 15 → want = c.prio) → (15 ≤ p.g → (∃ d ∈ cs.flatten, d.prio = want) ∧ ∀ d ∈ cs.flatten, want ≤ d.prio) →
       let low := cs.flatten.all (fun d => decide (c.prio ≤ d.prio))
       let t := { s with stackPorts := s.stackPorts.set st { p with
          g := if low || decide (15 ≤ p.g) then 0 else p.g + 1, rr := vput p.rr want ((c.rq + 1) % 130) } }
       (c.rq < 128 → exec (.stackSlotGrant st) s = .next (t.grantDrill st.val c) ∧
        ∃ u, exec (.stackSlotGrant st) s = .next u ∧ (st.val / 2 = c.rq / 8 →
          vat 0 (u.fur (furOf (c.rq / 8))).homeSlots (st.val % 2) = vat 0 (s.fur (furOf (c.rq / 8))).homeSlots (st.val % 2) + 1)) ∧
       (c.rq = 128 → s.fences.any (fun j => j.ref == c.ref) = true → 
        let g : State := { t with fences := (dropPiece c t.fences).filter (fun j => j.pieces != []) }
        exec (.stackSlotGrant st) s = .next (g.scratchOut c.ref) ∧
        ((g.fences.any (fun j => j.ref == c.ref) = true ∨ ∀ k : Cmd, s.cmd? c.ref = some k → k.opcode ≠ 0x0205) →
          exec (.stackSlotGrant st) s = .next g)) ∧
       (c.rq = 128 → s.fences.any (fun j => j.ref == c.ref) = false → exec (.stackSlotGrant st) s = .next (t.grantCopy c.ref)) ∧
       (c.rq = 129 → c.idx ≠ 0 → exec (.stackSlotGrant st) s = .next (t.grantSignal c) ∧
        ∃ u, exec (.stackSlotGrant st) s = .next u ∧ ∀ n ps, (s.ms.recvLane (c.idx - 1)).slots = some (n, ps) → twf RecvLane.clear s.ms.recv = true →
          (u.ms.recvLane (c.idx - 1)).slots = some (n, eraseFirst (fun p => p == c.piece) ps)) ∧
       (c.rq = 129 → c.idx = 0 → exec (.stackSlotGrant st) s = .next (State.formFrames { t with remotes := dropPiece c t.remotes } c.ref
         (1 + match s.cmd? c.ref with | some d => d.w 6 / 4096 | none => 0))))

/-- A port's states (R298, R299): enabling a DISABLED port starts TRAINING with both LINKSEQ counts at zero (log 23), the lock of its PCS takes it to HELLO, where a HELLO goes out every 10 microseconds, and the first HELLO received takes it to UP and stores the neighbour; a cause of DOWN and a disable discard its buffers; a DOWN port trains again after 1 ms. Other ports, furrows and queues stay. Since when a link is silent, and what a port drops with its buffers beyond the words of R298, are the model's choice (log 49). -/
def Obligations.MeshPorts : Prop :=
  ∀ (p : PortNo) (cause : DownCause) (s : State),
    let x := s.port p
    let becomes := fun (c : Instr) (good : Port → Mesh → Prop) => ∃ t, exec c s = .next t ∧ good (t.port p) t.ms ∧
      (∀ p' : PortNo, p' ≠ p → t.port p' = s.port p') ∧ t.furs = s.furs ∧ t.queues = s.queues
    let emptied := fun (y : Port) (m : Mesh) => y.replay = [] ∧ y.ingress = [] ∧ y.ctl = [] ∧ y.resend = 0 ∧ y.credits = 0 ∧
      m.transit = s.ms.transit.filter (fun t => t.port != p.val)
    (s.takesWrites →
      (x.st = .disabled → becomes (.meshPortEnable p true) (fun y _ => y.st = .training ∧ y.en = true ∧ y.txSeq = 0 ∧ y.rxSeq = 0 ∧ y.since = s.time)) ∧
      (x.st ≠ .disabled → becomes (.meshPortEnable p false) (fun y m => y.st = .disabled ∧ y.en = false ∧ y.nbrSeen = false ∧ emptied y m))) ∧
    (s.meshRuns = true →
      (x.st = .training → exec (.pcsLock p) s =
        .next ((s.setPort p { x with st := .hello, since := s.time }).offer 0x0801 (srcOf 6 p.val) p.val 0x12 1)) ∧
      (x.st = .up → s.downHolds p cause = true → becomes (.linkDown p cause) (fun y m => y.st = .down ∧ emptied y m ∧ bitOf m.sticky 0 = true)) ∧
      (x.st = .down → 1000000 ≤ s.since x.since → becomes (.portRetrain p) (fun y _ => y.st = .training ∧ y.txSeq = 0 ∧ y.rxSeq = 0)) ∧
      (x.st = .hello → (x.lastHello = none ∨ ∃ t0, x.lastHello = some t0 ∧ 10000 ≤ s.since t0) →
        exec (.helloSend p) s = .next (s.setPort p { x with
          lastHello := some s.time, wire := some (s.helloFor p), tx := x.tx + 48 })) ∧
      (∀ fr rest, x.ctl = fr :: rest → fr.type = 9 →
        let serial := w64 (ofLe (fr.payload.take 8))
        let y : Port := { x with
          ctl := rest, nbrSerial := serial, nbrId := BitVec.ofNat 16 (ofLe ((fr.payload.drop 8).take 8))
          nbrValid := ofLe ((fr.payload.drop 8).take 8) / 2 ^ 16 % 2 == 1, nbrSeen := true, nbrPort := BitVec.ofNat 4 (fld fr.h2 0 4) }
        (x.st = .hello → exec (.helloFrame p) s =
          .next ((s.setPort p { y with st := .up, since := s.time }).offer 0x0801 (srcOf 6 p.val) p.val 0x23 4)) ∧
        (x.st = .up → x.nbrSerial = serial → exec (.helloFrame p) s = .next (s.setPort p y)) ∧
        (x.st = .up → x.nbrSerial ≠ serial → ∃ t, exec (.helloFrame p) s = .next t ∧ t.port p = y ∧ bitOf t.ms.sticky 1 = true)))

/-- The link of an UP port (R293, R296, R297): a LINK frame tells the free ingress slots and the LINKSEQ expected; PORT_TRANSMIT sends one frame, a due replay request first, then replays, then MGMT, transit and the device's own frames, numbered and kept; a Seq frame in order with room is taken, any other asks once for a replay; a LINK frame received frees what it acknowledges and sets the credits, and one whose header breaks R294 is dropped; a frame on the wire has its preamble and FCS and at least 64 bytes between. That link silence runs from the first frame not acknowledged, and the octets of the preamble, are the model's choice (log 49, log 81). -/
def Obligations.MeshLinks : Prop :=
  ∀ (p : PortNo) (fr : Frame) (good : Bool) (s : State),
    let x := s.port p
    let sent := fun (y : Port) (g : Frame) => { y with
      wire := some (g.withLinkSeq y.txSeq), tx := y.tx + BitVec.ofNat 64 (g.withLinkSeq y.txSeq).bytes, txSeq := y.txSeq + 1
      credits := y.credits - 1, replay := y.replay ++ [⟨g.withLinkSeq y.txSeq, 0⟩]
      lastLink := if y.replay = [] then some s.time else y.lastLink }
    let link := fun (replay : Nat) => (⟨mkH0 8 0 0 0 0, 0, 0,
      w64 (replay * 2 ^ 32 + (32 - s.occupancy p) * 2 ^ 16 + x.rxSeq.toNat), []⟩ : Frame)
    (∀ g : Frame, g.onWire.length = 8 + max 64 (g.bytes + 4) ∧ (g.onWire.drop 8).take 8 = toLe 8 g.h0.toNat ∧
      (g.onWire.drop 40).take g.payload.length = g.payload) ∧
    (s.meshRuns = true → x.st = .up ∨ (x.st = .hello ∧ fr.type = 9) → fr.type = 8 ∨ fr.type = 9 → fr.headerOk = false →
      exec (.meshFrameReceive p true fr) s = .next ((s.setMs { s.ms with drops := s.ms.drops + 1, sticky := setBit s.ms.sticky 4 true }).offer 0x0805
        (srcOf 6 p.val) p.val 4 (fr.src * 2 ^ 16 + fr.dest))) ∧
    (s.meshRuns = true → x.st = .up →
      exec (.linkSend p) s = .next (s.setPort p { x with wire := some (link 0), tx := x.tx + 32 }) ∧
      (x.askDue = true → exec (.portTransmit p) s =
        .next (s.setPort p { x with askDue := false, wire := some (link 1), tx := x.tx + 32 })) ∧
      (x.askDue = false → x.credits = 0 → exec (.portTransmit p) s = .next s) ∧
      (x.askDue = false → x.credits ≠ 0 →
        (∀ r, x.resend ≠ 0 → x.replay[x.replay.length - x.resend]? = some r → exec (.portTransmit p) s = .next (s.setPort p { x with
          wire := some r.frame, tx := x.tx + BitVec.ofNat 64 r.frame.bytes, resend := x.resend - 1, credits := x.credits - 1
          replays := x.replays + 1, replay := lset x.replay (x.replay.length - x.resend) { r with times := r.times + 1 } })) ∧
        (x.resend = 0 → x.replay.length < 128 →
          (∀ g rest, x.mgmtOut = g :: rest → exec (.portTransmit p) s = .next (s.setPort p (sent { x with mgmtOut := rest } g))) ∧
          (∀ t, x.mgmtOut = [] → s.transitFor p.val = some t → exec (.portTransmit p) s = .next
            ((s.setMs { s.ms with transit := eraseFirst (fun u => u == t) s.ms.transit }).setPort p (sent x t.frame))) ∧
          (∀ o, x.mgmtOut = [] → s.transitFor p.val = none → s.ownFrame p.val x.rr = some o → exec (.portTransmit p) s = .next
            ((s.setMs o.2.1).setPort p (sent { x with rr := o.2.2 } o.1))))) ∧
      (good = true → fr.headerOk = true →
        (fr.type = 8 ∨ fr.type = 9 → exec (.meshFrameReceive p good fr) s = .next (s.setPort p { x with
          ctl := x.ctl ++ [fr], rx := x.rx + BitVec.ofNat 64 fr.bytes })) ∧
        (fr.isSeq = true → fr.linkSeq = x.rxSeq → s.occupancy p < 32 → exec (.meshFrameReceive p good fr) s = .next (s.setPort p { x with
          rxSeq := x.rxSeq + 1, asked := false, askDue := false, rx := x.rx + BitVec.ofNat 64 fr.bytes, ingress := x.ingress ++ [fr] }))) ∧
      (fr.isSeq = true → (good = false ∨ fr.linkSeq ≠ x.rxSeq ∨ 32 ≤ s.occupancy p) → exec (.meshFrameReceive p good fr) s =
        .next (s.setPort p (if x.asked then x else { x with asked := true, askDue := true }))) ∧
      (∀ g rest, x.ctl = g :: rest → g.type = 8 →
        let kept := x.replay.dropWhile (fun r => !reached r.frame.linkSeq (BitVec.ofNat 16 (fld g.h3 0 16)))
        (bitOf g.h3 32 = true → exec (.linkFrame p) s = .next (s.setPort p { x with
          ctl := rest, resend := kept.length, credits := min 32 (fld g.h3 16 16), lastLink := some s.time })) ∧
        (bitOf g.h3 32 = false → x.resend = 0 → exec (.linkFrame p) s = .next (s.setPort p { x with
          ctl := rest, replay := kept, credits := min 32 (fld g.h3 16 16) - kept.length, lastLink := some s.time }))))

/-- A Lane frame that has arrived leaves its ingress buffer: to the device's own transport where DEST is its MESH_ID, dropped where its hops have run out or MS_ID is not VALID, else into transit with one hop fewer; a frame that has found no port for 1 ms, or no credit on its port for 1 ms, is dropped and counted; while MS_ID.VALID is 0 none is forwarded (R300), and that a frame in transit is then dropped with reason 6 is the model's choice (log 82); a device's frame to itself, and a frame in transit for an ID that the device has taken since, go round the loopback (R303, R304). Both times are measured at the reference cycles (log 82, the model's choice). -/
def Obligations.FrameForwarding : Prop :=
  ∀ (p : PortNo) (s : State),
    let x := s.port p
    let dropped := fun (t : State) (n reason : Nat) (fr : Frame) =>
      (t.setMs { t.ms with drops := t.ms.drops + 1, sticky := setBit t.ms.sticky 4 true }).offer 0x0805
        (if n < 16 then srcOf 6 n else 0) n reason (fr.src * 2 ^ 16 + fr.dest)
    s.meshRuns = true →
    (∀ fr rest, x.ingress = fr :: rest → fr.isLane = true →
      let t := s.setPort p { x with ingress := rest }
      let c : Instr := .frameForward p.castSucc
      (s.ms.valid = false → exec c s = .next (dropped t p.val 6 fr)) ∧
      (s.ms.valid = true →
        (fr.dest = s.ms.id.toNat → exec c s = .next (t.setMs { t.ms with arrivals := t.ms.arrivals ++ [(fr, p.val)] })) ∧
        (fr.dest ≠ s.ms.id.toNat → fr.hops = 0 → exec c s = .next (dropped t p.val 1 fr)) ∧
        (fr.dest ≠ s.ms.id.toNat → fr.hops ≠ 0 → exec c s =
          .next (t.setMs { t.ms with transit := t.ms.transit ++ [⟨fr.withHops (fr.hops - 1), p.val, none, none⟩] })))) ∧
    (∀ w rest, s.ms.valid = true → s.ms.transit = w :: rest → w.frame.dest = s.ms.id.toNat → exec (.frameForward (Fin.last 16)) s =
      .next (s.setMs { s.ms with transit := rest, arrivals := s.ms.arrivals ++ [(w.frame, w.port)] })) ∧
    (∀ o, s.ms.transit = [] → s.ownFrame 16 s.ms.rr = some o → exec (.frameForward (Fin.last 16)) s =
      .next (s.setMs { o.2.1 with rr := o.2.2, arrivals := o.2.1.arrivals ++ [(o.1, 16)] })) ∧
    (∀ w rest, s.ms.transit = w :: rest → w.port = p.val →
      let t := s.setMs { s.ms with transit := rest }
      (s.ms.valid = false → exec (.frameDrop p.castSucc) s = .next (dropped t p.val 6 w.frame) ∧
        exec (.frameForward (Fin.last 16)) s = .next s ∧ (∀ n : Nat, s.transitFor n = none)) ∧
      (∀ t0, s.ms.valid = true → s.routeOf w.frame.dest = none → w.noPort = some t0 → 1000000 ≤ s.since t0 →
        exec (.frameDrop p.castSucc) s = .next (dropped t p.val 2 w.frame)) ∧
      (∀ q t0, s.ms.valid = true → s.routeOf w.frame.dest = some q → q < 16 → (s.port (portOf q)).credits = 0 → w.noCredit = some t0 → 1000000 ≤ s.since t0 →
        exec (.frameDrop p.castSucc) s = .next (dropped t p.val 3 w.frame)) ∧
      (∀ q, s.ms.valid = true → rest = [] → s.routeOf w.frame.dest = some q → (q = 16 ∨ (s.port (portOf q)).credits ≠ 0) → exec (.frameDrop p.castSucc) s = .next s)) ∧
    (∀ (a : Frame × Option W64) rest t0, s.ms.answers = a :: rest → a.2 = some t0 → 1000000 ≤ s.since t0 → s.routeOf a.1.dest = none →
      exec (.frameDrop (Fin.last 16)) s = .next (dropped (s.setMs { s.ms with answers := rest }) 16 2 a.1)) ∧
    (∀ w rest, s.ms.transit = w :: rest → ∃ u rest', s.noteWaits.ms.transit = u :: rest' ∧ u.frame = w.frame ∧ u.port = w.port ∧
      u.noPort = (if s.routeOf w.frame.dest = none then some (w.noPort.getD s.time) else none))

/-- A receiver pair takes the data frame with the LSEQ expected, holds up to 63 frames ahead of it, acknowledges again one that it has committed, and answers an unknown pair or a full buffer with a NAK (R307, R309); a frame that fails its checks freezes its pair, and with the sixteenth pair its source, whose every lane then loses the frames that it has at its turn or held (R317); later frames of them get their NAK and record no further 0x0802, and a SYN frame drops the frame that is being committed with the held ones (both the model's reading, log 51); a WRITE row reaches the window and counts, and its last row, an FSIG and a CSIG commit with an ACK (R312, R315, R316), whatever other lanes of the window wait for (R312); an FSIG of a fence in HBM first has two slots of its stack (R277; log 92, the model's choice), and one whose handle has bit 31 set is refused with BAD_PARAM (R261; that this reserved bit is a failed check is the model's reading, log 99). MS_CTRL ends a pair's or a source's freeze. -/
def Obligations.LaneReceiver : Prop :=
  ∀ (fr : Frame) (src : W16) (lane : BitVec 6) (s : State),
    let k := fr.key
    let x := s.ms.recvLane k
    let answered := fun (t : State) (type lseq control : Nat) => t.setMs { t.ms with answers := t.ms.answers ++
      [(⟨mkH0 type 0 t.ms.id.toNat fr.src 0, mkH1 0 fr.lane 0 0 lseq 0, 0, w64 control, []⟩, none)] }
    (∀ p rest, s.ms.arrivals = (fr, p) :: rest → fr.isData = true → s.meshRuns = true → s.ms.valid = true → s.stopped = false →
      let t := s.setMs { s.ms with arrivals := rest }
      let c : Instr := .laneFrameDeliver
      ((tget false s.ms.frozenSrcs fr.src = true ∨ x.frozen = true) →
        exec c s = .next (answered t 5 fr.lseq.toNat (2 ^ 16 + 0x0103))) ∧
      (tget false s.ms.frozenSrcs fr.src = false → x.frozen = false → fr.syn = false →
        (x.valid = false → ∃ st, exec c s = .next { answered t 5 fr.lseq.toNat (3 * 2 ^ 16 + st % 2 ^ 16) with free := s.free + 1 }) ∧
        (x.valid = true → fr.lseq = x.expect → x.cur = none → (fr.type = 1 → s.writeCheck fr = none) →
          exec c s = .next (t.setMs (t.ms.setRecv k { x with cur := some fr, rows := 0, slots := none }))) ∧
        (x.valid = true → fr.lseq = x.expect → x.cur = none → fr.type = 1 → s.writeCheck fr ≠ none → twf RecvLane.clear s.ms.recv = true →
          ∃ t', exec c s = .next t' ∧ (t'.ms.recvLane k).frozen = true ∧ (t'.ms.recvLane k).cur = none ∧ bitOf t'.ms.sticky 3 = true ∧
            (∀ f : Fur, (t'.fur f).data = (s.fur f).data ∧ (t'.fur f).full = (s.fur f).full ∧ (t'.fur f).counters = (s.fur f).counters) ∧
            (15 ≤ s.ms.frozenPairs fr.src → tget false t'.ms.frozenSrcs fr.src = true ∧
              ∀ i : Nat, i / 64 = fr.src → (t'.ms.recvLane i).cur = none ∧ (t'.ms.recvLane i).held = []) ∧
            (s.ms.frozenPairs fr.src < 15 → t'.ms.frozenSrcs = s.ms.frozenSrcs ∧ t'.furs = s.furs)) ∧
        (x.valid = true → 0 < (fr.lseq - x.expect).toNat → (fr.lseq - x.expect).toNat < 64 → x.held.any (fun g => g.lseq == fr.lseq) = false →
          s.ms.heldCount < 64 → exec c s = .next (t.setMs (t.ms.setRecv k { x with held := x.held ++ [fr] }))) ∧
        (x.valid = true → 0 < (fr.lseq - x.expect).toNat → (fr.lseq - x.expect).toNat < 64 → x.held.any (fun g => g.lseq == fr.lseq) = false →
          64 ≤ s.ms.heldCount → ∃ st, exec c s = .next { answered t 5 fr.lseq.toNat (2 * 2 ^ 16 + st % 2 ^ 16) with free := s.free + 1 }) ∧
        (x.valid = true → 64 ≤ (fr.lseq - x.expect).toNat → reached x.expect fr.lseq = true →
          ∃ st, exec c s = .next { answered t 4 (x.expect - 1).toNat (st % 2) with free := s.free + 1 })) ∧
      (tget false s.ms.frozenSrcs fr.src = false → x.frozen = false → fr.syn = true → x.cur = none → (fr.type = 1 → s.writeCheck fr = none) →
        twf RecvLane.clear s.ms.recv = true → ∃ t', exec c s = .next t' ∧ t'.furs = s.furs ∧
          t'.ms.recvLane k = { x with expect := fr.lseq, valid := true, held := [], cur := some fr, rows := 0, slots := none }) ∧
      (∀ g, tget false s.ms.frozenSrcs fr.src = false → x.frozen = false → fr.syn = true → x.cur = some g → g.lseq ≠ fr.lseq →
        (fr.type = 1 → s.writeCheck fr = none) → twf RecvLane.clear s.ms.recv = true → ∃ t', exec c s = .next t' ∧
          t'.ms.recvLane k = { x with expect := fr.lseq, valid := true, held := [], cur := some fr, rows := 0, slots := none } ∧
          (∀ w ∈ (t'.fur (furOf (frameFur g))).xfers, ∀ j, w.agent = .window j → w.idx ≠ k) ∧
          ∀ h : Fur, (t'.fur h).data = (s.fur h).data)) ∧
    (let j := laneKey src.toNat lane.toNat
     let y := s.ms.recvLane j
     s.meshRuns = true → s.stopped = false → y.cur = some fr → fr.key = j → y.held = [] →
      let done := fun (t : State) (status : Nat) => answered (t.setMs (t.ms.setRecv j { y with
        expect := y.expect + 1, cur := none, rows := 0, held := [], slots := none })) 4 fr.lseq.toNat status
      (fr.type = 1 → fr.len / 512 ≤ y.rows → exec (.writeFrameCommit src lane) s = .next (done s 0)) ∧
      (let f := furOf (frameFur fr)
       let w := s.window f (frameWin fr)
       let row := (w.base.toNat + frameOff fr + 512 * y.rows) / 512
       let t := rowXfer fr (frameWin fr) row y.rows
       fr.type = 1 → y.rows + 1 = fr.len / 512 → w.isOpen = true →
        s.bankHeld f (row * 512) = false → (s.fur f).xfers = [] → (s.fur f).asleep row = false → (s.noteAsks f).turn f t = true →
        (s.fur f).sCheck row true 3 none = true → twf RecvLane.clear s.ms.recv = true → twf 0 (s.fur f).data = true →
        ∃ t', exec (.writeFrameCommit src lane) s = .next t' ∧
          tgets 0 (t'.fur f).data (row * 512) t.bytes.length = t.bytes ∧
          (∀ a, (a < row * 512 ∨ row * 512 + t.bytes.length ≤ a) → tget 0 (t'.fur f).data a = tget 0 (s.fur f).data a) ∧
          (t'.window f (frameWin fr)).bytes = w.bytes + 512 ∧ (t'.ms.recvLane j).expect = y.expect + 1 ∧ (t'.ms.recvLane j).cur = none) ∧
      (let h := ofLe (fr.payload.take 4)
       let off := ofLe ((fr.payload.drop 8).take 8)
       let v := ofLe ((fr.payload.drop 16).take 8)
       let l := (s.locOf h off).checked s.erasures
       let cur := ofLe (s.memRead l 8).1
       (fr.type = 2 → 2 ^ 31 ≤ h → exec (.fsigFrame src lane .good) s = .next (s.refuseFrame fr stBadParam)) ∧
       (fr.type = 2 → h < 2 ^ 31 → s.segCheck 0 h off 8 3 = none →
        (l.host = false → y.slots = none → exec (.fsigFrame src lane .good) s = .next { s with
          ms := s.ms.setRecv j { y with slots := some (s.requests, List.replicate 2 ⟨l.addr, l.addr + 8, 0, false⟩) }, requests := s.requests + 1 }) ∧
        (∀ n p ps, l.host = false → y.slots = some (n, p :: ps) → exec (.fsigFrame src lane .good) s = .next s) ∧
        ((l.host = true → s.build.atomicOp = true) → (l.host = false → ∃ n, y.slots = some (n, [])) → (s.memRead l 8).2 = .good →
        reached (w64 v) (w64 cur) = true →
          exec (.fsigFrame src lane .good) s = .next (done (s.memWrite l (toLe 8 v) false (hIndex h)).1 0)))) ∧
      (let f := furOf (frameFur fr)
       fr.type = 3 → frameFur fr < s.build.furrows → (s.fur f).windows.toList.any (fun w => w.admits fr) = true →
        exec (.csigFrame src lane) s = .next (done (s.setFur f
          ((s.fur f).changeCounter (fld fr.h2 8 8) (fld fr.h2 16 2) (fld fr.h2 32 16))) 0))) ∧
    (s.takesWrites →
      ((s.ms.recvLane (laneKey src.toNat lane.toNat)).frozen = true → exec (.thawPair src lane) s =
        .next (s.setMs (s.ms.setRecv (laneKey src.toNat lane.toNat) RecvLane.clear))) ∧
      exec (.thawSource src) s = .next (s.setMs { s.ms with
        frozenSrcs := tset false s.ms.frozenSrcs src.toNat false
        recv := s.ms.recv.filter (fun (p : Nat × RecvLane) => !(p.1 / 64 == src.toNat && p.2.frozen)) }))

/-- A sender lane (R306 to R309): an ACK frees every frame up to its LSEQ, however many, and makes the lane SYNCED, and the last frame of a command completes it; an ACK or NAK of a frozen source has no effect, which is the model's reading of R317 (log 80); a NAK of REASON 2 defers one frame for 2 microseconds, of REASON 3 sends all again, and of REASON 1 fails the lane; a lane that has not moved for RTO_US sends its oldest frame again, and fails after RETRIES; MS_CTRL resets failed lanes. -/
def Obligations.LaneSender : Prop :=
  ∀ (dest : W16) (lane : BitVec 6) (fr : Frame) (s : State),
    let k := laneKey dest.toNat lane.toNat
    let x := s.ms.sendLane k
    let again := fun (f : LaneFrame) => { f with due := true, sentAt := s.time, busyAt := none }
    (∀ p rest, s.ms.arrivals = (fr, p) :: rest → s.meshRuns = true → fr.key = k → tget false s.ms.frozenSrcs fr.src = true →
      (fr.type = 4 → exec .ackFrame s = .next (s.setMs { s.ms with arrivals := rest })) ∧
      (fr.type = 5 → exec .nakFrame s = .next (s.setMs { s.ms with arrivals := rest }))) ∧
    (∀ p rest, s.ms.arrivals = (fr, p) :: rest → s.meshRuns = true → fr.key = k → tget false s.ms.frozenSrcs fr.src = false →
      let t := s.setMs { s.ms with arrivals := rest }
      (fr.type = 4 → ∀ acked g, x.unacked = acked ++ g → acked ≠ [] → (∀ f ∈ acked, reached fr.lseq f.frame.lseq = true) →
        (∀ e, g.head? = some e → reached fr.lseq e.frame.lseq = false) →
        let freed := t.setMs (t.ms.setSend k { x with unacked := g, synced := true, moved := s.time })
        let counted := fun (u : State) (f : LaneFrame) => u.modCmd f.ref
          (fun c => { c with r0 := c.r0 + f.bytes, bufMark := c.bufMark || (f.frame.lseq == fr.lseq && fld fr.h3 0 16 == 1) })
        ((∀ f ∈ acked, f.last = false) → exec .ackFrame s = .next (acked.foldl counted freed)) ∧
        (∀ before f c, acked = before ++ [f] → (∀ b ∈ before, b.last = false) → f.last = true →
          let u := acked.foldl counted freed
          u.cmd? f.ref = some c → exec .ackFrame s = .next
            (State.finish { u with remotes := u.remotes.filter (fun j => j.ref != f.ref) } f.ref (if c.bufMark then 1 else 0) c.r0 0)) ∧
        (∃ t', exec .ackFrame s = .next t' ∧ t'.ms = freed.ms ∧ sameFurrows s t')) ∧
      (fr.type = 5 → x.unacked.any (fun f => f.frame.lseq == fr.lseq) = true →
        (fld fr.h3 16 8 = 2 → exec .nakFrame s = .next (t.setMs (t.ms.setSend k { x with
          moved := s.time, unacked := mapFirst (fun f => f.frame.lseq == fr.lseq) (fun f => { f with busyAt := some s.time }) x.unacked }))) ∧
        (fld fr.h3 16 8 = 3 → exec .nakFrame s = .next (t.setMs (t.ms.setSend k { x with
          moved := s.time, synced := false, unacked := x.unacked.map again }))) ∧
        (fld fr.h3 16 8 = 1 → twf SendLane.clear s.ms.send = true → ∃ t', exec .nakFrame s = .next t' ∧
          (t'.ms.sendLane k).failed = some (fld fr.h3 0 16) ∧ (t'.ms.sendLane k).unacked = [] ∧ (t'.ms.sendLane k).jobs = [] ∧
          bitOf t'.ms.sticky 2 = true ∧ sameFurrows s t'))) ∧
    (s.meshRuns = true →
      (x.unacked.any s.busyOver = true → exec (.nakBusyResend dest lane) s =
        .next (s.setMs (s.ms.setSend k { x with unacked := mapFirst s.busyOver again x.unacked }))) ∧
      (∀ f g, x.unacked = f :: g → f.due = false → f.busyAt = none → 1000 * s.ms.rto.toNat ≤ s.since f.sentAt →
        1000 * s.ms.rto.toNat ≤ s.since x.moved →
        (f.retries < s.ms.retries.toNat → exec (.laneRetransmit dest lane) s = .next (s.setMs (s.ms.setSend k { x with
          unacked := { f with due := true, sentAt := s.time, retries := f.retries + 1 } :: g }))) ∧
        (s.ms.retries.toNat ≤ f.retries → twf SendLane.clear s.ms.send = true → ∃ t, exec (.laneRetransmit dest lane) s = .next t ∧
          (t.ms.sendLane k).failed = some 0x0105 ∧ (t.ms.sendLane k).unacked = [] ∧ bitOf t.ms.sticky 2 = true ∧ sameFurrows s t))) ∧
    (s.takesWrites →
      (x.failed.isSome = true → exec (.resetSenderLane dest lane) s = .next (s.setMs (s.ms.setSend k SendLane.clear))) ∧
      exec (.resetSenderLanes dest) s = .next (s.setMs { s.ms with
        send := s.ms.send.filter (fun (p : Nat × SendLane) => !(p.1 / 64 == dest.toNat && p.2.failed.isSome)) }))

/-- MESH_DR_READ and MESH_DR_WRITE with no hop act on the device's own MS_ registers and complete; with hops they send a MGMT frame out of the first port of their path, and TIMEOUT after 1 ms completes them; a MGMT frame is forwarded, served at its last hop, or returns by the path it came, and its answer completes the command (R301, R302); the MS_ registers read and take writes at their offsets (R319), and a write of MS_ID or a route notes the heads that have passed their check of these (R243, log 96). That the STATUS of a request names its command, and that an event's blank parameter is 0, are the model's choice (log 24, log 46). -/
def Obligations.DirectedRoutes : Prop :=
  ∀ (p : PortNo) (s : State),
    let h2 := w64 (s.rv.w 1)
    let off := s.rv.w 2
    let first := portOf (fld h2 0 4)
    let sent := fun (op v : Nat) => s.setPort first { s.port first with mgmtOut := (s.port first).mgmtOut ++
      [⟨mkH0 10 0 0 0 8, 0, h2, w64 (op * 2 ^ 48 + 2 ^ 36 + off), toLe 8 v⟩] }
    (s.ms.mgmt = none → 0x40000 ≤ off → off ≤ 0xFFFFF →
      (s.mbxHas 0x0F40 = true →
        (fld h2 60 4 = 0 → exec .meshDrRead s = .next (s.mbxDone 0 (s.msRead off) 0)) ∧
        (fld h2 60 4 ≠ 0 → (s.port first).st = .up → exec .meshDrRead s =
          let t := sent 0x0F40 0
          .next (t.setMs { t.ms with mgmt := some (0x0F40, s.time) })) ∧
        (fld h2 60 4 ≠ 0 → (s.port first).st ≠ .up → exec .meshDrRead s = .next (s.mbxDone 0x0105 0 0))) ∧
      (s.mbxHas 0x0F41 = true →
        (fld h2 60 4 = 0 → exec .meshDrWrite s = .next ((s.msWrite off (w64 (s.rv.w 3)) true).mbxDone 0 0 0)) ∧
        (fld h2 60 4 ≠ 0 → (s.port first).st = .up → exec .meshDrWrite s =
          let t := sent 0x0F41 (w64 (s.rv.w 3)).toNat
          .next (t.setMs { t.ms with mgmt := some (0x0F41, s.time) })) ∧
        (fld h2 60 4 ≠ 0 → (s.port first).st ≠ .up → exec .meshDrWrite s = .next (s.mbxDone 0x0105 0 0)))) ∧
    (s.ms.mgmt = none → (off < 0x40000 ∨ 0xFFFFF < off) →
      (s.mbxHas 0x0F40 = true → exec .meshDrRead s = .next (s.mbxDone 0x0107 0 0)) ∧
      (s.mbxHas 0x0F41 = true → exec .meshDrWrite s = .next (s.mbxDone 0x0107 0 0))) ∧
    (∀ op t0, s.ms.mgmt = some (op, t0) → s.meshRuns = true → 1000000 ≤ s.since t0 → exec .mgmtTimeout s =
      .next ((s.setMs { s.ms with mgmt := none }).mbxDone 0x0105 0 0)) ∧
    (∀ fr rest, (s.port p).ingress = fr :: rest → fr.type = 10 → s.reeveRuns = true →
      let t := s.setPort p { s.port p with ingress := rest }
      let hop := fld fr.h3 36 4
      let count := fld fr.h2 60 4
      let reg := fld fr.h3 0 24
      let status := fld fr.h3 48 16
      (bitOf fr.h3 32 = true → hop = 0 →
        (s.ms.mgmt = none → exec (.mgmtFrame p) s = .next t) ∧
        (∀ t0, s.ms.mgmt = some (0x0F40, t0) → exec (.mgmtFrame p) s =
          .next ((t.setMs { t.ms with mgmt := none }).mbxDone status (if status = 0 then ofLe fr.payload else 0) 0)) ∧
        (∀ t0, s.ms.mgmt = some (0x0F41, t0) → exec (.mgmtFrame p) s = .next ((t.setMs { t.ms with mgmt := none }).mbxDone status 0 0))) ∧
      (bitOf fr.h3 32 = true → hop ≠ 0 → exec (.mgmtFrame p) s = .next (t.queueMgmt (portOf (fld fr.h2 (4 * (hop - 1)) 4))
        (mgmtFrame fr.h2 reg 1 (hop - 1) (fld fr.h3 48 16) fr.payload))) ∧
      (bitOf fr.h3 32 = false → hop ≠ 0 → hop ≤ count →
        let back := withPathPort fr.h2 (hop - 1) p.val
        (hop = count → (reg < 0x40000 ∨ 0xFFFFF < reg) → exec (.mgmtFrame p) s =
          .next (t.queueMgmt p (mgmtFrame back reg 1 (hop - 1) 0x0107 (toLe 8 0)))) ∧
        (hop = count → 0x40000 ≤ reg → reg ≤ 0xFFFFF → status ≠ 0x0F41 → exec (.mgmtFrame p) s =
          .next (t.queueMgmt p (mgmtFrame back reg 1 (hop - 1) 0 (toLe 8 (t.msRead reg))))) ∧
        (hop = count → 0x40000 ≤ reg → reg ≤ 0xFFFFF → status = 0x0F41 → s.ms.lock = false → exec (.mgmtFrame p) s =
          .next ((t.msWrite reg (w64 (ofLe fr.payload)) true).queueMgmt p (mgmtFrame back reg 1 (hop - 1) 0 (toLe 8 0)))) ∧
        (hop = count → 0x40000 ≤ reg → reg ≤ 0xFFFFF → status = 0x0F41 → s.ms.lock = true → exec (.mgmtFrame p) s =
          .next ((t.offer 0x0807 srcReeve reg p.val 0).queueMgmt p (mgmtFrame back reg 1 (hop - 1) 0x0103 (toLe 8 0)))) ∧
        (hop < count → (t.port (portOf (fld fr.h2 (4 * hop) 4))).st = .up → exec (.mgmtFrame p) s =
          .next (t.queueMgmt (portOf (fld fr.h2 (4 * hop) 4)) (mgmtFrame back reg 0 (hop + 1) status fr.payload))) ∧
        (hop < count → (t.port (portOf (fld fr.h2 (4 * hop) 4))).st ≠ .up → exec (.mgmtFrame p) s =
          .next (t.queueMgmt p (mgmtFrame back reg 1 (hop - 1) 0x0105 (toLe 8 0)))))) ∧
    (let m := s.ms
     s.msRead 0x40000 = b2n m.lock * 2 ^ 17 + b2n m.valid * 2 ^ 16 + m.id.toNat ∧ s.msRead 0x40008 = Config.serial.toNat ∧
     s.msRead 0x40010 = m.hops.toNat * 2 ^ 32 + m.retries.toNat * 2 ^ 24 + m.rto.toNat ∧ s.msRead 0x40018 = m.sticky.toNat ∧
     s.msRead 0x40028 = m.drops.toNat ∧ (∀ n < 4096, s.msRead (0x48000 + 8 * n) = (tget 0 m.routes n).toNat) ∧
     (∀ (f : Fur) (j : Fin 16), s.msRead (0x41000 + 0x40 * (16 * f.val + j.val) + 0x18) = (s.window f j.val).bytes.toNat) ∧
     s.msRead (0x40108 + 0x40 * p.val) = (s.port p).nbrSerial.toNat ∧ s.msRead (0x40118 + 0x40 * p.val) = (s.port p).tx.toNat ∧
     ∀ (v : W64) (remote : Bool),
      (fld v 12 4 = 0 → s.msWrite 0x40000 v remote = s.judgeHeads.setMs { m with
        id := v.setWidth 16, valid := bitOf v 16, lock := bitOf v 17 || (remote && m.lock) }) ∧
      (fld v 12 4 ≠ 0 → s.msWrite 0x40000 v remote = s.judgeHeads) ∧ (∀ q : QSlot, ∃ b, s.judgeHeads.queue q = { s.queue q with headJudged := b }) ∧
      s.msWrite 0x40010 v remote = s.setMs { m with hops := byteOf (fld v 32 8), retries := BitVec.ofNat 4 (fld v 24 4), rto := v.setWidth 16 } ∧
      ∀ n < 4096, s.msWrite (0x48000 + 8 * n) v remote = s.judgeHeads.setMs { m with routes := tset 0 m.routes n (v &&& 0x1F1F) })

/-- WINDOW_OPEN sets a closed window's fields and opens it, and completes with BUSY where it is open; WINDOW_CLOSE closes a window once no frame is being committed into it, and its fields stay as they were (the model's reading, log 52); REMOTE_SIGNAL gives its lane one frame and REMOTE_COPY takes a remote-copy engine, with the frames formed as its pieces are granted; a lane that has FAILED completes them with its status (R310, R313 to R318). -/
def Obligations.RemoteCommands : Prop :=
  ∀ (q : QSlot) (f : Fur) (j : Fin 16) (s : State) (p : Packet),
    let r := refOf q p
    let takes := fun (c : Instr) (op : Nat) (g : State → State) => accepts c s q op p (g (s.admitted q op p))
    let n := nfld (p.w 1) 16 4
    let k := laneKey (nfld (p.w 1) 0 16) (nfld (p.w 1) 16 6)
    (let a := s.admitted q 0x0400 p
     let w := a.window p.fur n
     (w.isOpen = true → takes (.windowOpen q) 0x0400 (fun a => a.finish r 0x0109 0 0)) ∧
     (w.isOpen = false → takes (.windowOpen q) 0x0400 (fun a => (a.setWindow p.fur n { w with
        isOpen := true, base := BitVec.ofNat 25 (p.w 2), length := BitVec.ofNat 26 (p.w 3), lanes := w64 (p.w 4)
        srcId := BitVec.ofNat 16 (p.w 5), srcMask := BitVec.ofNat 16 (nfld (p.w 5) 16 16) }).finish r 0 0 0))) ∧
    (let a := s.admitted q 0x0401 p
     let w := a.window p.fur n
     let waits := fun (a : State) => a.setWindow p.fur n { w with closing := w.closing ++ [r] }
     (w.isOpen = false → takes (.windowClose q) 0x0401 (fun a => a.finish r 0 0 0)) ∧
     (w.isOpen = true → a.windowBusy p.fur n = true → takes (.windowClose q) 0x0401 waits) ∧
     (w.isOpen = true → a.windowBusy p.fur n = false → w.closing = [] → takes (.windowClose q) 0x0401 (fun a =>
        (a.setWindow p.fur n { w with isOpen := false }).finish r 0 0 0))) ∧
    (let w := s.window f j.val
     w.closing ≠ [] → s.windowBusy f j.val = false → s.stopped = false →
      (∀ r', w.closing = [r'] → exec (.windowClosed f j) s = .next ((s.setWindow f j.val { w with isOpen := false, closing := [] }).finish r' 0 0 0)) ∧
      ∃ t, exec (.windowClosed f j) s = .next t ∧ (t.window f j.val).isOpen = false ∧ (t.window f j.val).closing = [] ∧
        (∀ i : Fin 16, i ≠ j → t.window f i.val = s.window f i.val) ∧ t.ms = s.ms) ∧
    (let a := s.admitted q 0x0403 p
     (∀ st, a.laneFailed p.w = some st → takes (.remoteSignal q) 0x0403 (fun a => a.finish r st 0 0)) ∧
     (a.laneFailed p.w = none →
      let h1 := mkH1 0 (nfld (p.w 1) 16 6) 0 0 0 0
      let fr : Frame := if nfld (p.w 2) 0 1 = 1 then ⟨mkH0 3 0 s.ms.id.toNat (nfld (p.w 1) 0 16) 0, h1, w64 (p.w 3), 0, []⟩
        else ⟨mkH0 2 0 s.ms.id.toNat (nfld (p.w 1) 0 16) 24, h1, 0, 0, toLe 4 (p.w 3) ++ toLe 4 0 ++ toLe 8 (p.w 4) ++ toLe 8 (p.w 5)⟩
      takes (.remoteSignal q) 0x0403 (fun a => (a.modCmd r (fun c => { c with stage := 2 })).setMs (a.ms.setSend k
        { a.ms.sendLane k with jobs := (a.ms.sendLane k).jobs ++ [⟨r, a.accepted, [(fr, 0)], true⟩] })))) ∧
    (let a := s.admitted q 0x0402 p
     (p.w 6 = 0 → takes (.remoteCopy q) 0x0402 (fun a => a.finish r 0 0 0)) ∧
     (∀ st, p.w 6 ≠ 0 → a.laneFailed p.w = some st → takes (.remoteCopy q) 0x0402 (fun a => a.finish r st 0 0)) ∧
     (p.w 6 ≠ 0 → a.laneFailed p.w = none → takes (.remoteCopy q) 0x0402 (fun a =>
      let b := (a.modCmd r (fun c => { c with stage := 2 })).addLaneJob k ⟨r, a.accepted, [], false⟩
      State.formFrames { b with remotes := b.remotes ++ [⟨r, (a.queue (slotOf q.val)).prio, a.requests, (a.locOf (p.w 2) (p.w 3)).pieces (p.w 6)⟩], requests := a.requests + 1 } r
        (p.w 6 / 4096 + 1))) ∧
     (let l := (a.locOf (p.w 2) (p.w 3)).checked s.erasures
      let bs := (a.readMarked l (l.runs (p.w 6))).2
      s.takesHead q 0x0402 p → p.w 6 ≠ 0 → p.w 6 ≤ 4096 → l.host = true → a.laneFailed p.w = none → s.cmd? r = none →
      twf SendLane.clear s.ms.send = true → ((a.ms.sendLane k).jobs.all (fun j => j.ref != r)) = true →
        ∃ t, exec (.remoteCopy q) s = .next t ∧ (t.ms.sendLane k).jobs = (a.ms.sendLane k).jobs ++ [⟨r, a.accepted,
          [(⟨mkH0 1 0 s.ms.id.toNat (nfld (p.w 1) 0 16) bs.length, mkH1 (poisonBits bs) (nfld (p.w 1) 16 6) 0 0 0 0,
            w64 (nfld (p.w 5) 0 26 * 2 ^ 8 + nfld (p.w 4) 16 4 * 2 ^ 4 + nfld (p.w 4) 0 4), 0, bs.map Prod.fst⟩, p.w 6)], true⟩] ∧
          (∀ i < 8, bitOf (w64 (poisonBits bs)) i = ((bs.drop (512 * i)).take 512).any Prod.snd)))

/-- The steps of a recovery (R324, R327 to R331): an L2 clears the registers of its scope's domains and their windrow entries and leaves them OFFLINE, and its completion puts back into service the pairs that the quick self-test passes and the domains, but for those that another L2 in progress covers; an L3 resets every furrow and queue and keeps memory, keys and ownership, and its completion sets READY; an L3 that takes 100 ms, or 400 ms where the reeve restarts in it, becomes an L4, which erases the keys; a window closes 1 ms after its recovery; FAULT_N is released once nothing holds it. Rows that memory had granted are written before an L3 resets their drill, and a fence signal that has had both its slots reaches its fence (R328). That what R328 does not list stays, that an L3 within start-up leaves READY to start-up, and which granted rows complete, are the model's choice (log 56, log 77, log 84), as is that both domains, domain 1 of an unsplit furrow among them, are OFFLINE after an L3 until its completion (log 69). -/
def Obligations.Recoveries : Prop :=
  ∀ (f : Fur) (sc : Scope) (failing : BitVec 2) (fails : BitVec 32) (rd : RecDomain) (s : State),
    let z := s.fur f
    let done := fun (r : Recov) (n : Nat) => { r with phase := n, finished := if n = 2 then s.time else r.finished }
    (s.stopped = false →
      (∀ r, s.l2Of f sc 0 = some r → ∃ t, exec (.l2Reset f sc) s = .next t ∧
        (∀ d ∈ scopeDoms sc,
          let y := (t.fur f).dom d
          (y.st = .offline ∨ y.st = .unused) ∧ y.sregs = Vector.replicate 32 0 ∧ y.aregs = Vector.replicate 16 0 ∧ y.flags = 0 ∧
            y.vregs = Vector.replicate 32 VReg.zero ∧ y.live = [] ∧ y.next = [] ∧ y.flights = [] ∧ y.course = none ∧ y.stack = [] ∧ y.cmd = none) ∧
        (∀ b e : Nat, (scopeSpan sc 4).1 ≤ b → b < (scopeSpan sc 4).2 → e < 1024 → (t.fur f).went b e = WEntry.zero) ∧
        (sc ≠ .furrow → done r 1 ∈ t.dc.recovs)) ∧
      (∀ r, s.l2Of f sc 1 = some r → r.byDebug = false → s.rv.evicting = none → s.rv.critical = false →
        ∃ t, exec (.l2Complete f sc failing) s = .next t ∧ done r 2 ∈ t.dc.recovs ∧
          (∀ d ∈ scopeDoms sc, (z.dom d).st = .offline → ((t.fur f).dom d).st =
            if ∃ o ∈ s.dc.recovs, o ≠ r ∧ o.level = 2 ∧ o.phase ≠ 2 ∧ o.scope ≠ .block ∧ o.fur = f.val ∧ d ∈ scopeDoms o.scope then .offline
            else if d = 1 ∧ z.split = false then .unused else .idle) ∧
          (∀ p ∈ scopePairs sc, bitOf (t.fur f).inService p = (decide (p < s.build.bricksOf f.val / 2) && !bitOf failing p &&
            !(decide (p = 1) && bitOf s.build.carrierTwo f.val))) ∧
          (∀ g : Fur, g ≠ f → t.fur g = s.fur g))) ∧
    (s.dead = false →
      (∀ r, s.l3Of 0 = some r → ∃ t, exec .l3Reset s = .next t ∧ t.queues = Vector.replicate 64 Queue.atReset ∧
        t.watches = Vector.replicate 256 Watch.free ∧ t.copies = [] ∧ t.remotes = [] ∧ t.fences = [] ∧ t.ms.send = [] ∧ t.ms.recv = [] ∧ t.ms.id = s.ms.id ∧
        t.ms.routes = s.ms.routes ∧ t.keys = s.keys ∧ t.gl.store = s.gl.store ∧ t.debugOn = false ∧ done r 1 ∈ t.dc.recovs ∧
        ∀ g : Fur, (t.fur g).doms = Vector.replicate 2 (Domain.atReset .offline) ∧ (t.fur g).data = [] ∧ (t.fur g).pstore = [] ∧
          (t.fur g).counters = [] ∧ (t.fur g).windrow = [] ∧ (t.fur g).cells = [] ∧ (t.fur g).split = false ∧
          (t.fur g).owned = (s.fur g).owned ∧ (t.fur g).owner = (s.fur g).owner ∧ (t.fur g).plan = (s.fur g).plan ∧ (t.fur g).gated = false ∧
          (t.fur g).current = if (s.fur g).gated then 56 else (s.fur g).current) ∧
      (∀ r, s.l3Of 0 = some r → (∀ (q : QSlot) (c : Cmd), c ∈ (s.queue q).cmds → c.opcode ≠ 0x0300) → (∀ x ∈ s.ms.recv, x.2.slots = none) →
        ((∀ (g : Fur) (k : DrillNo), (s.drill g k).out = false ∨ ∀ b ∈ (s.drill g k).blocks, b.outRows = []) →
          ∃ t, exec .l3Reset s = .next t ∧ t.hbm = s.hbm) ∧
        (∀ (g : Fur) (k : DrillNo) (b : Block) (i : Nat) (bs : List Byte) (p : Bool),
          (∀ (g' : Fur) (k' : DrillNo), (g', k') ≠ (g, k) → (s.drill g' k').out = false) → (s.drill g k).out = true →
          (s.drill g k).blocks = [b] → b.outRows = [(i, bs, p)] → b.rowWaits i = false →
          ∃ t, exec .l3Reset s = .next t ∧
            t.hbm = (s.memWrite (b.loc (b.rowAddr i)) (bs.take b.desc.bytes) p (b.seg.getD 0)).1.hbm)) ∧
      (∀ (r : Recov) (q : QSlot) (c : Cmd), s.l3Of 0 = some r → (∀ (g : Fur) (k : DrillNo), (s.drill g k).out = false) → (∀ x ∈ s.ms.recv, x.2.slots = none) →
        (s.queue q).cmds = [c] → (∀ q' : QSlot, q' ≠ q → (s.queue q').cmds = []) → c.opcode = 0x0300 → c.stage = 2 → c.done = false →
        s.fences = [] →
        let l := (s.locOf (c.w 2) (c.w 3)).checked c.since
        l.host = false → (s.memRead l 8).2 = .good → reached (w64 (c.w 4)) (w64 (ofLe (s.memRead l 8).1)) = true →
        ∃ t, exec .l3Reset s = .next t ∧ t.hbm = (s.memWrite l (toLe 8 (c.w 4)) false (hIndex (c.w 2))).1.hbm) ∧
      (∀ r, s.l3Of 1 = some r → (if r.code = 0x0509 then 400000000 else 100000000) ≤ s.since r.detect → exec (.l3Complete fails) s = .next s) ∧
      (∀ r, s.l3Of 1 = some r → s.since r.detect < (if r.code = 0x0509 then 400000000 else 100000000) → s.rv.critical = false →
        ∃ t, exec (.l3Complete fails) s = .next t ∧ t.dc.ready = s.dc.started ∧ t.dc.l3 = false ∧
        (s.dc.started = true → t.rv.booted = true) ∧ (∀ r' ∈ t.dc.recovs, r'.phase = 2) ∧ (∀ (g : Fur) (d : Dom), g.val < s.build.furrows →
          ((s.fur g).dom d).st = .offline → ((t.fur g).dom d).st = if d = 1 ∧ (s.fur g).split = false then .unused else .idle)) ∧
      (∀ r, s.dc.recovs.find? (fun x => x.level == 3 && x.phase != 2) = some r →
        (if r.code = 0x0509 then 400000000 else 100000000) ≤ s.since r.detect →
        ∃ t, exec .l3Timeout s = .next t ∧ t.dead = true ∧ t.dc.ready = false ∧ fld t.dc.last 48 16 = r.code.toNat) ∧
      (∀ r, s.openRec rd = some r → r.phase = 2 → 1000000 ≤ s.since r.finished →
        exec (.recoveryWindowClose rd) s = .next (s.dropRec rd))) ∧
    (∀ r, s.dc.recovs.find? (fun x => x.level == 4 && x.phase == 0) = some r → ∃ t, exec .l4Entry s = .next t ∧ t.dc.l4 = true ∧
      t.dc.ready = false ∧ t.keys = [] ∧ bitOf t.dc.sticky 34 = true ∧ t.debugOn = false ∧ t.hbm = s.hbm) ∧
    (∀ t0, s.dc.faultN = some t0 → s.recovering = false → fld s.dc.sticky 48 16 = 0 → bitOf s.dc.sticky 33 = false →
      bitOf s.dc.sticky 34 = false → 10000 ≤ s.since t0 → exec .faultNRelease s = .next { s with dc := { s.dc with faultN := none } })

/-- A fault of level L2 of a furrow, or a requested reset of it, outside the window of a recovery of it and with fewer than two L2s running, takes its domains to RESET, is counted and shown in DC_LAST, and asserts FAULT_N; a fault of level L3, or a requested block reset, does so for every furrow and takes READY away; an upset of the configuration is an L4; DC_CTRL thaws the debug master once its sticky bit is clear (R321 to R331). That domain 1 of an unsplit furrow stays UNUSED then is the model's choice (R53, log 69). -/
def Obligations.BlockFaults : Prop :=
  ∀ (f : Fur) (addr : BitVec 18) (unit : BitVec 2) (index : W16) (i : BitVec 15) (report : W32) (s : State),
    let after := fun (x y : DomState) => y = if x = .unused then .unused else .reset
    let l2 := fun (c : Instr) (code : Nat) => ∃ t, exec c s = .next t ∧ (∀ d : Dom, after ((s.fur f).dom d).st ((t.fur f).dom d).st) ∧
      (∀ g : Fur, g ≠ f → t.fur g = s.fur g) ∧ bitOf t.dc.sticky (48 + f.val) = true ∧ t.dc.recovL2 = satInc s.dc.recovL2 ∧
      fld t.dc.last 48 16 = code ∧ t.dc.faultN.isSome = true ∧
      ∃ r ∈ t.dc.recovs, r.dom = .furrow f ∧ r.level = 2 ∧ r.code.toNat = code ∧ r.phase = 0 ∧ r.scope = .furrow
    let l3 := fun (c : Instr) (code : Nat) => ∃ t, exec c s = .next t ∧
      (∀ (g : Fur) (d : Dom), after ((s.fur g).dom d).st ((t.fur g).dom d).st) ∧ t.dc.ready = false ∧ t.dc.l3 = true ∧
      bitOf t.dc.sticky 33 = true ∧ t.dc.recovL3 = satInc s.dc.recovL3 ∧ fld t.dc.last 48 16 = code ∧ t.dc.faultN.isSome = true ∧
      ∃ r ∈ t.dc.recovs, r.dom = .block ∧ r.level = 3 ∧ r.code.toNat = code ∧ r.phase = 0
    (s.detects = true → s.stopped = false → s.openRec (.furrow f) = none → s.l2Running < 2 →
      ((s.fur f).fetching ≠ 0 → l2 (.pstoreEccError f addr) 0x0106) ∧
      (f.val < s.build.furrows → l2 (.furrowControlFault f unit) 0x0108)) ∧
    (s.takesWrites → s.stopped = false → s.openRec (.furrow f) = none → s.l2Running < 2 → s.inL2 f = false → f.val < s.build.furrows →
      l2 (.resetFurrow (BitVec.twoPow 16 f.val)) 0x0512) ∧
    (s.detects = true → s.openRec .block = none →
      l3 (.dispatcherError unit index) 0x0508 ∧ l3 (.reeveWatchdog report) 0x0509 ∧ l3 (.segmentTableError i) 0x0604 ∧
      ∃ t, exec (.reeveWatchdog report) s = .next t ∧ t.rv.booted = false) ∧
    (s.takesWrites → s.openRec .block = none → l3 .resetBlock 0x0512) ∧
    (s.detects = true → ∃ t, exec (.configurationUpset report) s = .next t ∧ t.dead = true ∧ t.dc.ready = false ∧ fld t.dc.last 48 16 = 0x0520) ∧
    (s.takesWrites →
      (bitOf s.dc.sticky 35 = false → exec .dbgThaw s = .next { s with dc := { s.dc with debugFrozen := false } }) ∧
      (bitOf s.dc.sticky 35 = true → exec .dbgThaw s = .next s))

/-- GO and ACK move the mailbox between IDLE, BUSY and DONE, and are refused elsewhere; a packet taken advances RV_STATUS.SEQ, and one that fails its checks completes, and records no 0x0501 where its SEQ does not fit (the model's reading, log 53); a completed command leaves its record; KEY_LOAD binds an unwrapped key to an empty slot and KEY_ERASE empties one; DEBUG_ENABLE with a valid token opens the debug window for its scope, and DEBUG_DISABLE and the end of its duration close it (R337 to R339, R358 to R361). How a key unwraps and a token verifies are functions that the model leaves open (log 10). -/
def Obligations.ReeveMailbox : Prop :=
  ∀ s : State,
    (s.takesWrites →
      (s.rv.mbx = .idle → exec .goMailbox s = .next { s with rv := { s.rv with mbx := .busy, taken := false } }) ∧
      (s.rv.mbx ≠ .idle → exec .goMailbox s = .next (s.offer 0x0511 srcReeve 8 (mbxCode s.rv.mbx) 0)) ∧
      (s.rv.mbx = .done → exec .ackMailbox s = .next { s with rv := { s.rv with mbx := .idle } }) ∧
      (s.rv.mbx ≠ .done → exec .ackMailbox s = .next (s.offer 0x0511 srcReeve 8 (mbxCode s.rv.mbx) 0))) ∧
    (s.rv.mbx = .busy → s.rv.taken = false → s.reeveRuns = true →
      let t : State := { s with rv := { s.rv with taken := true, seq := s.rv.seq + 1 } }
      (s.rv.check = none → exec .mailboxTake s = .next t) ∧
      (∀ st, s.rv.check = some st → s.rv.op ≠ 0x0F38 → exec .mailboxTake s = .next (t.mbxDone st 0 0)) ∧
      (∀ st, s.rv.check = some st → s.rv.op = 0x0F38 → exec .mailboxTake s =
        .next (State.mbxDone { t with rv := { t.rv with nonces := s.rv.nonces + 1 } } st 0 0))) ∧
    (s.mbxHas 0x0F00 = true → ∃ t, exec .rvNop s = .next t ∧ t.rv.mbx = .done ∧ t.rv.taken = false ∧
      vat 0 t.rv.res 0 = w64 (s.rv.seqOf + 0x0F00 * 2 ^ 48) ∧ vat 0 t.rv.res 1 = s.time ∧ vat 0 t.rv.res 2 = 0 ∧
      t.furs = s.furs ∧ t.queues = s.queues ∧ t.rv.cmd = s.rv.cmd) ∧
    (let k := nfld (s.rv.w 1) 0 6
     k ≤ 47 →
      (s.mbxHas 0x0F30 = true → s.keyLoaded k = false →
        (Config.kwUnwrap s.rv.wrapped = none → exec .keyLoad s = .next ((s.offer 0x0B01 srcReeve k 0 0).mbxDone 0x0103 0 0)) ∧
        (∀ bs, Config.kwUnwrap s.rv.wrapped = some bs → ofLe (bs.take 8) < 4096 → s.debugOn = false →
          ∃ t, exec .keyLoad s = .next t ∧ (k, bs) ∈ t.keys ∧ t.rv.mbx = .done ∧ ∀ j, j ≠ k → t.keyLoaded j = s.keyLoaded j)) ∧
      (s.mbxHas 0x0F30 = true → s.keyLoaded k = true → exec .keyLoad s = .next (s.mbxDone 0x0109 0 0)) ∧
      (s.mbxHas 0x0F31 = true → ∃ t, exec .keyErase s = .next t ∧ t.rv.mbx = .done ∧ t.keyLoaded k = false ∧
        ∀ j, j ≠ k → t.keyLoaded j = s.keyLoaded j)) ∧
    (let closed := fun (c : Instr) => ∃ t, exec c s = .next t ∧ t.debugOn = false ∧ t.debugScope = 0 ∧ t.gl.held = false ∧
      bitOf t.gl.probeCtrl 0 = false ∧ t.rv.evicting = none ∧ t.hbm = s.hbm
     (s.mbxHas 0x0F39 = true → s.debugOn = true → closed .debugDisable) ∧
     (s.debugOn = true → reached s.time s.rv.debugEnd = true → s.dead = false → closed .debugExpiry)) ∧
    (s.mbxHas 0x0F38 = true → s.rv.evicting = none → s.tokenHeld = false →
      let bs := (s.memRead (s.locOf (s.rv.w 2) (s.rv.w 3)) 128).1
      let u : State := { s with rv := { s.rv with nonces := s.rv.nonces + 1 } }
      (∀ reason, s.tokenFault (s.rv.w 2) (s.rv.w 3) = some reason →
        exec .debugEnable s = .next (s.oneCycle ((u.offer 0x0B02 srcReeve reason 0 0).mbxDone 0x0103 0 0))) ∧
      (s.tokenFault (s.rv.w 2) (s.rv.w 3) = none → (∀ c ∈ s.ctxs.toList, c.isProtected = false) → s.stopped = false →
        ∃ t, exec .debugEnable s = .next t ∧ t.debugOn = true ∧ t.debugScope = BitVec.ofNat 4 (ofLe ((bs.drop 16).take 4)) ∧
          t.rv.debugEnd = s.time + BitVec.ofNat 64 (ofLe ((bs.drop 20).take 4) % 2 ^ 32 * 1000000000) ∧ t.rv.mbx = .done ∧
          t.rv.nonces = s.rv.nonces + 1 ∧ t.keys = s.keys ∧ t.furs = s.furs))

/-- Activities (R340 to R353): MAINT_START admits one with the next ticket and MAINT_END cancels one that has not begun; a claimed furrow goes OFFLINE once it is quiet; a BRICK_TEST ends after 40 ms and frees its furrow; an EXPORT leaves its image, or none when it fails (R381); PATROL_READ counts an uncorrectable unit; a RETRAIN is repeated up to three times; a MARGIN's failing step makes the plan, not counted when its history write fails; the sixteenth low sample in a row of one canary lowers CEILING; a plan is due after 24 powered hours. How a test or a margin step ends is an operand, and an ended EXPORT's image, a CEILING not below FMIN and the counting of powered time are the model's choice (log 55, log 83, log 88). -/
def Obligations.MaintenanceActivities : Prop :=
  ∀ (k : Fin 16) (f : Fur) (kind : BitVec 4) (target : Byte) (good : Bool) (low : BitVec 16) (out : UnitRead) (s : State),
    let x := s.act k
    (s.mbxHas 0x0F10 = true → ∀ j,
      let what := nfld (s.rv.w 1) 0 4
      let where' := nfld (s.rv.w 1) 8 8
      (s.targetOk what where' = false → exec .maintStart s = .next (s.mbxDone 0x0107 0 0)) ∧
      (s.targetOk what where' = true → s.actSlot = some j →
        let t := s.admitAct j what where'
        exec .maintStart s = .next (t.mbxDone (if t.position j = 0 then 0 else 0x0108) s.rv.ticket.toNat (t.position j)) ∧
        (t.act j).kind.toNat = what ∧ (t.act j).target.toNat = where' ∧ (∀ i : Fin 16, i ≠ j → t.act i = s.act i) ∧
        ((∀ i : Fin 16, i ≠ j → (s.act i).over' = true) → (t.act j).st = if what = 3 ∨ what = 4 then .claiming else .running) ∧
        (∀ i : Fin 16, i ≠ j → ((s.act i).st = .claiming ∨ (s.act i).st = .running) →
          actsClash what where' (s.act i).kind.toNat (s.act i).target.toNat = true → (t.act j).st = .queued) ∧
        (t.act j).ticket = s.rv.ticket ∧ t.rv.ticket = s.rv.ticket + 1 ∧ ((t.act j).st = .queued ∨ (t.act j).st = .claiming ∨ (t.act j).st = .running))) ∧
    (s.mbxHas 0x0F11 = true → allActs.find? (fun k => (s.act k).st != .free && (s.act k).ticket == BitVec.ofNat 16 (s.rv.w 1)) = some k →
      (x.st = .queued ∨ x.st = .claiming → ∃ t, exec .maintEnd s = .next t ∧ (t.act k).st = .cancelled ∧ t.rv.mbx = .done) ∧
      (x.st = .running → x.kind ≠ 6 → exec .maintEnd s = .next (s.mbxDone 0x0109 0 0))) ∧
    (s.reeveRuns = true → s.stopped = false →
      (s.queuedActs = [k] → s.mayBegin x = true → ∃ t, exec .activityBegin s = .next t ∧
        (t.act k).st = (if x.takesFurrow then .claiming else .running) ∧ (x.takesFurrow = true → (t.fur (targetFur x)).claim = .claiming)) ∧
      (x.st = .claiming → (s.fur (targetFur x)).claimReady = true → ∃ t, exec (.activityClaim k) s = .next t ∧ (t.act k).st = .running ∧
        (t.act k).started = s.time ∧ (t.fur (targetFur x)).claim = .owned ∧ ∀ d : Dom, ((t.fur (targetFur x)).dom d).st = .offline) ∧
      (s.mbxHas 0x0F10 = false → s.targetOk kind.toNat target.toNat = true → s.autoDue kind.toNat target.toNat = true →
        s.actPending kind.toNat target.toNat = false → ∀ j, s.actSlot = some j →
        exec (.autoActivity kind target) s = .next (s.admitAct j kind.toNat target.toNat)) ∧
      (x.st = .running →
        (x.kind = 3 → 40000000 ≤ s.since x.started → ∃ t, exec (.activityEnd k true 0) s = .next t ∧ (t.act k).st = .done ∧
          (t.act k).result = 0 ∧ (t.fur (targetFur x)).claim = .none ∧ (t.fur (targetFur x)).data = (s.fur (targetFur x)).data ∧
          (∀ b e : Nat, b < 4 → e < 1024 → (t.fur (targetFur x)).went b e = WEntry.zero) ∧
          ∀ d : Dom, ((s.fur (targetFur x)).dom d).st = .offline → ((t.fur (targetFur x)).dom d).st =
            if d = 1 ∧ (s.fur (targetFur x)).split = false then .unused else .idle) ∧
        (x.kind = 1 → s.patrolSlot k = false → exec (.patrolRead k out) s = .next s) ∧
        (x.kind = 1 → s.patrolSlot k = true → x.rewrite = true →
          exec (.patrolRead k out) s = .next (s.setAct k { x with slot := s.uptime, rewrite := false })) ∧
        (x.kind = 1 → s.patrolSlot k = true → x.rewrite = false → x.step < patrolUnits →
          let a := unitAddr x.target.toNat x.step
          let y := { x with step := x.step + 1, slot := s.uptime }
          (tany s.hbmBad a (a + 4096) = false → exec (.patrolRead k .good) s = .next (s.setAct k y)) ∧
          (tany s.hbmBad a (a + 4096) = false → ∃ t, exec (.patrolRead k .corrected) s = .next t ∧ t.act k = { y with rewrite := true } ∧
            t.hbm = s.hbm ∧ (vat [] t.rv.corrected x.target.toNat).getLast? = some s.uptime) ∧
          (x.result ≠ 255 → exec (.patrolRead k .uncorrectable) s = .next
            ((s.setAct k { y with result := x.result + 1 }).offer 0x0407 srcReeve x.target.toNat x.step 0))) ∧
        (x.kind = 1 → patrolUnits ≤ x.step → x.rewrite = false → ∃ t, exec (.activityEnd k good 0) s = .next t ∧ (t.act k).st = .done ∧
          (t.act k).result = x.result) ∧
        (x.kind = 2 →
          (∃ t, exec (.retrainEnd k true) s = .next t ∧ (t.act k).st = .done ∧ t.stackPorts[targetStack x].retraining = false) ∧
          (x.step < 3 → exec (.retrainEnd k false) s = .next (s.setAct k { x with step := x.step + 1 })) ∧
          (3 ≤ x.step → s.openRec .block = none → ∃ t, exec (.retrainEnd k false) s = .next t ∧ (t.act k).st = .failed ∧
            t.stackPorts[targetStack x].failed = true ∧ t.dc.l3 = true ∧ fld t.dc.last 48 16 = 0x0406)) ∧
        (x.kind = 5 →
          (∃ t, exec (.activityEnd k true 0) s = .next t ∧ (t.act k).st = .done ∧ t.image = s.imageWork) ∧
          ∃ t, exec (.activityEnd k false 0) s = .next t ∧ (t.act k).st = .failed ∧ t.image = none) ∧
        (x.kind = 4 → x.pausedAt = none →
          (x.step < 98 → exec (.marginStep k true good) s = .next (s.setAct k { x with step := x.step + 1 })) ∧
          (56 < x.step → x.step ≤ 98 → ∃ t, exec (.marginStep k false good) s = .next t ∧ (t.act k).st = .done ∧
            fld (t.fur (targetFur x)).plan 56 8 = x.step - 1 ∧ (t.fur (targetFur x)).planAt = some s.uptime ∧
            (t.fur (targetFur x)).ceiling.toNat = max 56 (min (min 92 s.build.fmaxBuild.toNat)
              ((x.step - 1) * (100 - fld (t.fur (targetFur x)).plan 32 4) / 100)) ∧
            (t.act k).result = (t.fur (targetFur x)).ceiling ∧
            (good = false → fld (t.fur (targetFur x)).plan 40 8 = fld (s.fur (targetFur x)).plan 40 8)))) ∧
      (let z := s.fur f
       let sampled := { s with rv := { s.rv with lastCanary := vput s.rv.lastCanary f.val (some s.time) } }
       (vat none s.rv.lastCanary f.val = none ∨ ∃ t0, vat none s.rv.lastCanary f.val = some t0 ∧ 62500 ≤ s.since t0) →
       z.doms.toList.any (fun d => d.st == .running) = true →
        ((∀ i : Fin 16, bitOf low i.val = true → z.lowSamples[i] < 15) → exec (.canarySample f low) s = .next (sampled.setFur f
          { z with lowSamples := Vector.ofFn (fun i => if bitOf low i.val then z.lowSamples[i] + 1 else 0) })) ∧
        (∀ i : Fin 16, bitOf low i.val = true → 15 ≤ z.lowSamples[i] → ∃ t, exec (.canarySample f low) s = .next t ∧
          (t.fur f).lowSamples[i] = 0 ∧ bitOf (t.fur f).plan 37 = true ∧ (t.fur f).ceiling.toNat = max 56 (z.ceiling.toNat - 1)))) ∧
    (∀ t0, (s.fur f).planAt = some t0 → s.reeveRuns = true → 86400000000000 ≤ s.powered t0 →
      exec (.planDue f) s = .next (s.setFur f { s.fur f with plan := setBit (s.fur f).plan 37 true }))

/-- Clocks (R354 to R357): an evaluation, due every 10 microseconds and at once after an ungating, sets each ungated furrow to the lowest of its ceiling, its budget step and its thermal limit; RV_BUDGET takes 800 to 2,400; a hot die steps its furrows down every 100 microseconds and up every 1 ms once it has cooled; a critical temperature is an L3 and holds the furrows OFFLINE until every sensor has cooled; THROTTLE_N holds the built furrows at FMIN while it is asserted, and its release evaluates the plan at once. An L3 suspends neither the plan nor the steps of a die (that R328 names neither is the model's reading, log 56). That one evaluation meets an ungating, what a furrow draws and shares at a step, and how often the events of a hold come, are the model's choice (log 57, log 58, log 89). -/
def Obligations.ClockAndHeat : Prop :=
  ∀ (die : Fin 4) (sensor : Fin 20) (temp : W16) (temps : List W16) (v : W64) (low : Nat) (s : State),
    (s.reeveRuns = true →
      ((s.rv.lastPlan = none ∨ (∃ t0, s.rv.lastPlan = some t0 ∧ 10000 ≤ s.since t0) ∨ s.rv.woke = true) → s.pins.throttle = false →
        ∃ t, exec .clockPlanUpdate s = .next t ∧ t.rv.lastPlan = some s.time ∧ t.rv.woke = false ∧
          (∀ f : Fur, f.val < s.build.furrows → (s.fur f).gated = false → (t.fur f).current =
            byteOf (min (s.fur f).ceiling.toNat (min (s.budgetOf s.isGated f) ((s.fur f).thermalLimit.getD (s.fur f).ceiling.toNat)))) ∧
          (∀ f : Fur, (s.fur f).gated = true → t.fur f = s.fur f) ∧ (∀ f : Fur, (t.fur f).doms = (s.fur f).doms)) ∧
      (∀ hot, (dieSensors die).find? (fun i => decide (s.hotLimit ≤ tempAt temps i)) = some hot →
        (bitOf s.rv.holding die.val = false ∨ s.dieDue die 100000 = true) →
        ∃ t, exec (.thermalHoldStep die temps) s = .next t ∧ bitOf t.rv.holding die.val = true ∧ t.rv.dieStep[die] = some s.time ∧
          ∀ f ∈ dieFurs die, (t.fur f).thermalLimit = some (max 56 ((s.fur f).thermalLimit.getD (s.fur f).ceiling.toNat - 1))) ∧
      (s.dieDue die 1000000 = true → (∀ i ∈ dieSensors die, tempAt temps i < s.hotLimit - 20) →
        ∃ t, exec (.thermalRecoveryStep die temps) s = .next t ∧ bitOf t.rv.holding die.val = false ∧ t.rv.dieStep[die] = some s.time ∧
          ∀ f ∈ dieFurs die, ∀ l, (s.fur f).thermalLimit = some l →
            (t.fur f).thermalLimit = if (s.fur f).ceiling.toNat ≤ l + 1 then none else some (l + 1)) ∧
      (s.stopped = false → s.rv.critical = true → (∀ i < 20, tempAt temps i < s.hotLimit - 100) →
        ∃ t, exec (.thermalRelease temps) s = .next t ∧ t.rv.critical = false ∧
          ∀ (f : Fur) (d : Dom), f.val < s.build.furrows → (s.fur f).claim ≠ .owned → ((s.fur f).dom d).st = .offline →
            ((t.fur f).dom d).st = if d = 1 ∧ (s.fur f).split = false then .unused else .idle)) ∧
    (s.reeveRuns = true → s.rv.critical = false → 1150 ≤ temp.toInt → s.openRec .block = none →
      ∃ t, exec (.criticalTemperature sensor temp) s = .next t ∧ t.rv.critical = true ∧ t.dc.l3 = true ∧ t.dc.ready = false ∧
        fld t.dc.last 48 16 = 0x0A02 ∧ t.rv.temps[sensor] = temp) ∧
    (s.takesWrites →
      (800 ≤ fld v 0 16 → fld v 0 16 ≤ 2400 → exec (.rvBudgetWrite v) s = .next { s with rv := { s.rv with budget := v.setWidth 16 } }) ∧
      (fld v 0 16 < 800 ∨ 2400 < fld v 0 16 → exec (.rvBudgetWrite v) s = .next (s.offer 0x0A04 srcReeve 2 (fld v 0 16) s.estimateNow))) ∧
    (s.detects = true →
      (100 ≤ low → s.pins.throttle = false → ∃ t, exec (.throttleAssert low) s = .next t ∧ t.pins.throttle = true ∧
        ∀ f : Fur, f.val < s.build.furrows → (t.fur f).current = 56 ∧ (t.fur f).throttled = true) ∧
      (low < 100 → exec (.throttleAssert low) s = .next s) ∧
      (s.pins.throttle = true → ∃ t, exec .throttleRelease s = .next t ∧ t.pins.throttle = false ∧ ∀ f : Fur, (t.fur f).throttled = false ∧
        (s.reeveRuns = true → f.val < s.build.furrows → (s.fur f).gated = false → (t.fur f).current =
          byteOf (min (s.fur f).ceiling.toNat (min (s.budgetOf s.isGated f) ((s.fur f).thermalLimit.getD (s.fur f).ceiling.toNat))))))

/-- A host write of DC_STICKY, DC_FR_HEAD, RV_POLICY, GL_STICKY, GL_IMASK, MS_STICKY, FU_STICKY or FU_STALL_LIMIT changes that register alone and one of an FT_ register nothing, an access that R9 does not allow and one to a closed region of the debug window are recorded and a read of them returns zero; the gleaner stores its oldest record in its partition with the next SEQUENCE and counts one that finds it full, at L4 too (the model's reading, log 59), and a clear empties a partition; a hold stops every domain and its release lets them run; the probe port, a capture and a debug write of the program store act where debug has opened their region (R9, R10, R92, R366 to R380). A parameter that the event table leaves blank is 0, the order of an eviction, and which beats 0x8B07 counts, are the model's choice (log 46, log 54, log 85). -/
def Obligations.RegistersAndObservation : Prop :=
  ∀ (f : Fur) (off : BitVec 26) (addr : BitVec 18) (bytes : Nat) (wide write : Bool) (v : W64) (s : State),
    (s.takesWrites →
      let reg := fun (a : Nat) (t : State) => exec (.registerWrite (BitVec.ofNat 26 a) true v) s = .next t
      (reg 0x1008 { s with dc := { s.dc with sticky := s.dc.sticky &&& ~~~(v &&& 0xFFFF003F00000000) } } ∧
       reg 0x1030 { s with dc := { s.dc with frHead := v.setWidth 32 } } ∧
       reg 0x2010 { s with rv := { s.rv with policy := v.setWidth 3 } } ∧
       reg 0x4020 { s with gl := { s.gl with sticky := s.gl.sticky &&& ~~~(v.setWidth 3) } } ∧
       reg 0x4028 { s with gl := { s.gl with imask := v.setWidth 16 &&& 0xFFFE } } ∧
       reg 0x40018 (s.setMs { s.ms with sticky := s.ms.sticky &&& ~~~(v.setWidth 5) }) ∧
       (∀ a : Nat, a < 0x1000 → a % 8 = 0 → reg a s) ∧
       (f.val < s.build.furrows →
        reg (0x1000010 + 0x100000 * f.val) (s.setFur f { s.fur f with sticky := (s.fur f).sticky &&& ~~~(v.setWidth 20 &&& 0xFFFFC) }) ∧
        reg (0x1000028 + 0x100000 * f.val) (s.setFur f { s.fur f with stallLimit := v.setWidth 32 }))) ∧
      (s.gl.intake = [] →
        (s.gl.lostF = 0 → exec .clearF s = .next { s with gl := { s.gl with store := tclear s.gl.store 0 12288, fillF := 0 } }) ∧
        (s.gl.lostI = 0 → exec .clearI s = .next { s with gl := { s.gl with store := tclear s.gl.store 12288 16384, fillI := 0 } }) ∧
        (s.gl.lostF ≠ 0 → ∃ t, exec .clearF s = .next t ∧ t.gl.fillF = 0 ∧ t.gl.lostF = 0 ∧
          ∃ r : GRec, t.gl.intake = [r] ∧ r.code = 0x0E02 ∧ r.p0 = 0 ∧ r.p1 = s.gl.lostF ∧ r.p2 = s.gl.lastF)) ∧
      (s.regionOpen 0 = true →
        (bitOf v 0 = false → exec (.probeCtrlWrite v) s = .next { s with gl := { s.gl with probeCtrl := w64 (fld v 8 2 * 2 ^ 8) } }) ∧
        (bitOf v 0 = true → probeSourceMhz (s.gl.probeSel.setWidth 16) ≤ 600 * 2 ^ fld v 8 2 →
          exec (.probeCtrlWrite v) s = .next { s with gl := { s.gl with probeCtrl := w64 (fld v 8 2 * 2 ^ 8 + 1) } })) ∧
      (s.regionOpen 1 = true →
        let all := fun (b : Bool) => s.furs.map (fun x => { x with doms := x.doms.map (fun d => { d with hold := b }) })
        (s.gl.held = false → exec .captureHold s = .next
          (State.offer { s with gl := { s.gl with held := true, heldBeats := 0 }, furs := all true } 0x8B06 0 s.movers 0 0)) ∧
        (s.gl.held = true → exec .captureHold s = .next s ∧ exec .captureRelease s = .next
          (State.offer { s with gl := { s.gl with held := false }, furs := all false } 0x8B07 0 1 s.gl.heldBeats.toNat 0)) ∧
        (s.gl.held = false → exec .captureRelease s = .next s) ∧
        (let g := furOf (fld v 0 4)
         let d := domOf (fld v 4 1)
         ∀ bs, g.val < s.build.furrows → (s.dom g d).still = true → s.capture g d (fld v 8 4) (fld v 16 12) = some bs →
          ∃ t, exec (.captureSelect v) s = .next t ∧ t.gl.capData = bs ∧ t.gl.capValid = true ∧ t.furs = s.furs)) ∧
      (let n := if wide then 8 else 4
       s.regionOpen 2 = true → addr.toNat % n = 0 → s.dc.debugFrozen = false → f.val < s.build.furrows →
        (bitOf (s.fur f).heldSegs (addr.toNat / 32768) = false → exec (.debugPstoreWrite f addr wide v) s = .next (s.setFur f
          { s.fur f with pstore := tputs 0 (s.fur f).pstore addr.toNat (toLe n v.toNat) })) ∧
        (bitOf (s.fur f).heldSegs (addr.toNat / 32768) = true → ∃ t, exec (.debugPstoreWrite f addr wide v) s = .next t ∧
          t.dc.debugFrozen = true ∧ bitOf t.dc.sticky 35 = true ∧ t.furs = s.furs))) ∧
    (s.release = 3 → s.dead = false →
      (goodAccess off.toNat bytes = false → exec (.badRegisterAccess off bytes write) s = .next
        (State.offer { s with hostRead := if write then s.hostRead else 0 } 0x0506 0 off.toNat bytes (b2n write))) ∧
      (∀ r, regionOf off.toNat = some r → s.regionOpen r = false → exec (.debugWindowRefused off false) s = .next
        (State.offer { s with hostRead := 0 } 0x0B06 srcDebug (off.toNat % 2 ^ 25) 0 s.debugScope.toNat))) ∧
    (s.release = 3 → s.bootWait = false → ∀ r rest, s.gl.intake = r :: rest →
      (bitOf r.code 15 = false → s.gl.fillF < 12288 → ∃ t, exec .gleanerStore s = .next t ∧ t.gl.intake = rest ∧ t.gl.fillF = s.gl.fillF + 1 ∧
        t.gl.store = tset emptyRec s.gl.store s.gl.fillF (r.words s.gl.seq) ∧ t.gl.seq = (if s.gl.seq = 0xFFFFFFFF then 1 else s.gl.seq + 1) ∧
        t.furs = s.furs) ∧
      (bitOf r.code 15 = true → s.gl.fillI < 4096 → ∃ t, exec .gleanerStore s = .next t ∧ t.gl.intake = rest ∧ t.gl.fillI = s.gl.fillI + 1 ∧
        t.gl.store = tset emptyRec s.gl.store (12288 + s.gl.fillI) (r.words s.gl.seq) ∧
        t.gl.seq = (if s.gl.seq = 0xFFFFFFFF then 1 else s.gl.seq + 1) ∧ t.furs = s.furs) ∧
      (bitOf r.code 15 = false → 12288 ≤ s.gl.fillF →
        exec .gleanerStore s = .next { s with gl := { s.gl with intake := rest, lostF := satInc s.gl.lostF } }))

/-- Block reset clears the block and keeps host memory and the flash; the release goes through its three stages, of which the third starts the timebase at 0 where the reference clock runs; start-up, whose third failed attempt at the firmware ends it (R394), takes the domains to IDLE and UNUSED, empties the segment table and the key slots, stores the boot record and sets READY, and a failure of it is an L4; SYNC_IN pulses give bits, and the marker after 48 of them slews or steps the timebase; SYNC_OUT gives one pulse a millisecond (R385 to R395). That block reset keeps host memory, the flash and the build, that the records of a hold's release and of debug's end (R361, R379) stand at the head of the cleared queue, and what the release of a block that runs does, are the model's choice (log 60, log 84, log 90), and that the 400 ms of start-up are measured by the powered time `uptime` and not by the timebase, which SYNC_IN can step (log 83). -/
def Obligations.ResetAndSync : Prop :=
  ∀ (gap high : Nat) (fails : BitVec 32) (bad reach : Bool) (lost : List (Fur × Nat)) (s : State),
    (∃ t, exec .blockReset s = .next t ∧ t.release = 0 ∧ t.furs = Vector.replicate 16 (Furrow.atReset s.build.audit) ∧
      t.queues = Vector.replicate 64 Queue.atReset ∧ t.segs = [] ∧ t.keys = [] ∧ t.gl.seq = 1 ∧ t.gl.store = [] ∧ t.ms = Mesh.atReset ∧
      t.dc = Dc.zero ∧ t.pins.outputs = false ∧ t.hostMem = s.hostMem ∧ t.flash = s.flash ∧ t.pending = s.pending ∧ t.build = s.build) ∧
    (s.release = 0 → exec .releaseStage1 s = .next { s with release := 1, pins := { s.pins with outputs := true } }) ∧
    (s.release = 1 → exec .releaseStage2 s = .next { s with release := 2 }) ∧
    (s.release = 2 → s.pins.refClock = true → exec .releaseStage3 s = .next { s with release := 3, time := 0, uptime := 0, slew := 0 }) ∧
    (s.release = 2 → s.pins.refClock = false → exec .releaseStage3 s = .next { s with pins := { s.pins with outputs := false } }) ∧
    (s.release = 3 → s.pins.outputs = true → ∃ t, exec .releaseStage1 s = .next t ∧ t.release = 1 ∧ t.dc = Dc.zero ∧ t.startKind = 3 ∧
      t.flash = s.flash ∧ t.pins.outputs = true) ∧
    (∃ t, exec .blockReset s = .next t ∧ t.startKind = 2 ∧
      (s.debugOn = false → s.rv.evicting = none → t.gl.intake = []) ∧
      (s.debugOn = true → ∃ r : GRec, r.code = 0x0B05 ∧ r.p0 = 4 ∧ (s.gl.held = false → t.gl.intake = [r]) ∧
        (s.gl.held = true → ∃ e : GRec, t.gl.intake = [e, r] ∧ e.code = 0x8B07 ∧ e.p0 = 2 ∧ e.p1 = s.gl.heldBeats))) ∧
    (s.starting = true → s.dc.l3 = false → s.rv.critical = false → s.uptime.toNat < 400000000 → s.rv.attempts < 3 → s.gl.fillI < 4096 →
      ∃ t, exec (.firmwareLoaded true fails reach lost) s = .next t ∧ t.dc.ready = true ∧ t.dc.started = true ∧ t.rv.booted = true ∧ t.segs = [] ∧ t.keys = [] ∧
        t.gl.fillI = s.gl.fillI + 1 ∧ (tget emptyRec t.gl.store (12288 + s.gl.fillI)).1 = w64 (fld s.time 0 32 * 2 ^ 32 + s.gl.seq.toNat) ∧
        ∀ f : Fur, f.val < s.build.furrows → ((t.fur f).dom 0).st = .idle ∧ ((t.fur f).dom 1).st = .unused ∧ (t.fur f).split = false) ∧
    (s.starting = true → s.dc.l3 = false → s.uptime.toNat < 400000000 →
      exec (.firmwareLoaded false fails reach lost) s = .next (if s.rv.attempts < 3
        then { s with rv := { s.rv with attempts := s.rv.attempts + 1 } } else s) ∧
      (3 ≤ s.rv.attempts → exec (.firmwareLoaded true fails reach lost) s = .next s)) ∧
    (s.starting = true → ((bad = true ∧ 3 ≤ s.rv.attempts) ∨ 400000000 ≤ s.uptime.toNat) → ∃ t, exec (.startupTimeout bad) s = .next t ∧ t.dc.l4 = true ∧
      t.dc.ready = false ∧ bitOf t.dc.sticky 34 = true ∧ t.rv.booted = false ∧ t.dc.l3 = false ∧ t.gl = s.gl) ∧
    (s.detects = true →
      let bits := fun (b : Option (List Bool)) => ({ s with pins := { s.pins with syncBits := b } } : State)
      ((gap < 900000 ∨ 1100000 < gap) → exec (.syncInEdge gap high) s = .next (bits none)) ∧
      (900000 ≤ gap → gap ≤ 1100000 →
        (∀ bs, s.pins.syncBits = some bs → bs.length < 48 →
          (100000 ≤ high → high ≤ 300000 → exec (.syncInEdge gap high) s = .next (bits (some (bs ++ [false])))) ∧
          (400000 ≤ high → high ≤ 600000 → exec (.syncInEdge gap high) s = .next (bits (some (bs ++ [true])))) ∧
          (700000 ≤ high → high ≤ 900000 → exec (.syncInEdge gap high) s = .next (bits (some [])))) ∧
        (∀ bs, s.pins.syncBits = some bs → bs.length = 48 → 700000 ≤ high → high ≤ 900000 →
          let target := BitVec.ofNat 64 (bitsNat bs * 1000000)
          let diff := (target - s.time).toInt
          (-10000 ≤ diff → diff ≤ 10000 → exec (.syncInEdge gap high) s = .next { bits (some []) with slew := diff }) ∧
          (diff < -10000 ∨ 10000 < diff → exec (.syncInEdge gap high) s = .next { bits (some []) with time := target, slew := 0 })) ∧
        (high < 100000 ∨ 900000 < high → exec (.syncInEdge gap high) s = .next (bits none))) ∧
      (s.pins.outputs = true → s.time.toNat % 1000000 ≤ 10 → s.pins.syncLast ≠ some (s.time.toNat / 1000000) →
        exec .syncOutPulse s = .next { s with pins := { s.pins with
          syncPulses := s.pins.syncPulses + 1, syncLast := some (s.time.toNat / 1000000)
          syncHigh := syncOutSymbol (s.time.toNat / 1000000) } }))

/-- MAINT_END acts on the entry with the given ticket: QUEUED or CLAIMING it becomes CANCELLED and its furrow's STARTs are held no longer; a RUNNING COMPACT becomes DONE; another RUNNING activity, and a finished one, are left as they are; the status is OK, BUSY for the RUNNING one, and BAD_PARAM where no entry has the ticket (R345). -/
def Obligations.MaintEnd : Prop :=
  ∀ (k : Fin 16) (s : State),
    let x := s.act k
    let found := allActs.find? (fun k => (s.act k).st != .free && (s.act k).ticket == BitVec.ofNat 16 (s.rv.w 1))
    let ends := fun (status : Nat) (good : State → Prop) => ∃ t, exec .maintEnd s = .next t ∧ t.rv.mbx = .done ∧
      fld (vat 0 t.rv.res 0) 32 16 = status ∧ (∀ j : Fin 16, j ≠ k → t.act j = s.act j) ∧ good t
    s.mbxHas 0x0F11 = true →
      (found = none → ends 0x0107 (fun t => t.act k = x)) ∧
      (found = some k →
        (x.st = .queued ∨ x.st = .claiming → ends 0 (fun t => (t.act k).st = .cancelled)) ∧
        (x.st = .claiming → x.takesFurrow = true → ends 0 (fun t => (t.fur (targetFur x)).claim = .none)) ∧
        (x.st = .running → x.kind = 6 → ends 0 (fun t => (t.act k).st = .done)) ∧
        (x.st = .running → x.kind ≠ 6 → ends 0x0109 (fun t => t.act k = x)) ∧
        (x.over' = true → ends 0 (fun t => t.act k = x)))

/-- The CRC of a gleaner record is CRC-32C over its bytes 0 to 27: from 0xFFFF_FFFF, each byte's least significant bit first through the reflected polynomial 0x82F6_3B78, and a final exclusive-or of 0xFFFF_FFFF; the check value of the nine bytes 123456789 is 0xE306_9283 (R365). -/
def Obligations.RecordChecksum : Prop :=
  (∀ bs : List Byte, crc32c bs =
    (bs.flatMap (fun b => (List.range 8).map (fun i => b.getLsbD i))).foldl
      (fun (c : W32) (b : Bool) => if (c.getLsbD 0 != b) then (c >>> 1) ^^^ 0x82F63B78 else c >>> 1) 0xFFFFFFFF ^^^ 0xFFFFFFFF) ∧
  crc32c [0x31, 0x32, 0x33, 0x34, 0x35, 0x36, 0x37, 0x38, 0x39] = 0xE3069283 ∧
  (∀ (r : GRec) (n : W32),
    let w := r.words n
    fld w.2.2.2 32 32 = (crc32c ((toLe 8 w.1.toNat ++ toLe 8 w.2.1.toNat ++ toLe 8 w.2.2.1.toNat ++ toLe 8 w.2.2.2.toNat).take 28)).toNat)

/-- A thaw takes a FAULTED domain whose L1 bits are clear to IDLE: its routine and its operations in flight are gone, its drills are stopped and disarmed, and every register, windrow entry and scratchpad row stands as it did; a thaw of any other domain has no effect and records event 0x0111 (R54). -/
def Obligations.DomainThaw : Prop :=
  ∀ (f : Fur) (d : Dom) (s : State),
    let z := s.fur f
    let x := s.dom f d
    let c : Instr := .fuThaw f (if d = 0 then 1 else 2)
    let clear := ∀ b ∈ [4, 6, 8, 12], bitOf z.sticky (b + d.val) = false
    s.takesWrites → f.val < s.build.furrows →
      (x.st = .faulted → clear → ∃ t, exec c s = .next t ∧
        (let y := t.dom f d
         y.st = .idle ∧ y.flights = [] ∧ y.course = none ∧ y.loops = [] ∧ y.stack = [] ∧ y.cmd = none ∧
         y.sregs = x.sregs ∧ y.aregs = x.aregs ∧ y.vregs = x.vregs ∧ y.flags = x.flags ∧ y.live = x.live ∧ y.next = x.next) ∧
        (∀ k ∈ domDrills z.split d, (t.drill f k).st = .idle) ∧ (t.fur f).windrow = z.windrow ∧ (t.fur f).data = z.data ∧
        (t.fur f).full = z.full ∧ (t.fur f).poison = z.poison ∧ (t.fur f).cells = z.cells ∧ ∀ d' : Dom, d' ≠ d → t.dom f d' = s.dom f d') ∧
      (x.st ≠ .faulted ∨ ¬ clear → ∃ p1, exec c s = .next (s.offer 0x0111 (srcDom f d) d.val p1 z.sticky.toNat))

/-- A fence signal reads, compares and writes its fence in one step: where its value has reached the fence it is stored and RESULT0 shows it; a regressive one leaves the memory, shows the fence and records event 0x0701; where the read fails the value is stored, the completion is OK_POISONED with RESULT1 8, and event 0x0703 is recorded (R276). -/
def Obligations.FenceSignal : Prop :=
  ∀ (q : QSlot) (seq : W32) (out : ReadOutcome) (s : State) (c : Cmd),
    let l := (s.locOf (c.w 2) (c.w 3)).checked c.since
    let v := c.w 4
    let cur := ofLe (s.memRead l 8).1
    let stored := fun (t : State) => (t.memWrite l (toLe 8 v) false (hIndex (c.w 2))).1
    s.atWork q seq 0x0300 = some c → s.stopped = false → s.fences.any (fun j => j.ref == ⟨q.val, seq⟩) = false →
      (l.host = true → s.build.atomicOp = true) →
      (out = .good → (s.memRead l 8).2 = .good →
        (reached (w64 v) (w64 cur) = true → exec (.fenceOperation q seq out) s = .next ((stored s).finish ⟨q.val, seq⟩ 0 v 0)) ∧
        (reached (w64 v) (w64 cur) = false → ∃ p2, exec (.fenceOperation q seq out) s =
          .next ((s.offer 0x0701 (srcQueue q) (c.w 2) v p2).finish ⟨q.val, seq⟩ 0 cur 0))) ∧
      (out ≠ .good ∨ (s.memRead l 8).2 ≠ .good → ∃ p2, exec (.fenceOperation q seq out) s =
        .next ((stored (s.offer 0x0703 (srcQueue q) (c.w 2) (c.w 3) p2)).finish ⟨q.val, seq⟩ 1 v 8))
end

