-- ==== Sys2Proof/Laws/State.lean ====
section
/-! SUPPORT. What each update of the state leaves as it was, one lemma per field per update, and what it puts where. -/

namespace Sys2Proof.Machine

variable (s : State)

/-! ### What an update puts in its place -/

@[simp] theorem State.fur_setFur (f : Fur) (x : Furrow) : (s.setFur f x).fur f = x := by simp [State.fur, State.setFur]
theorem State.fur_setFur_ne {f g : Fur} (h : g ≠ f) (x : Furrow) : (s.setFur f x).fur g = s.fur g := by
  simp [State.fur, State.setFur, Fin.val_ne_of_ne (Ne.symm h)]
@[simp] theorem Furrow.dom_setDom (z : Furrow) (d : Dom) (y : Domain) : (z.setDom d y).dom d = y := by simp [Furrow.dom, Furrow.setDom]
theorem Furrow.dom_setDom_ne (z : Furrow) {d e : Dom} (h : e ≠ d) (y : Domain) : (z.setDom d y).dom e = z.dom e := by
  simp [Furrow.dom, Furrow.setDom, Fin.val_ne_of_ne (Ne.symm h)]
@[simp] theorem Furrow.drill_setDrill (z : Furrow) (k : DrillNo) (y : Drill) : (z.setDrill k y).drill k = y := by
  simp [Furrow.drill, Furrow.setDrill]
theorem Furrow.drill_setDrill_ne (z : Furrow) {k j : DrillNo} (h : j ≠ k) (y : Drill) : (z.setDrill k y).drill j = z.drill j := by
  simp [Furrow.drill, Furrow.setDrill, Fin.val_ne_of_ne (Ne.symm h)]
@[simp] theorem State.dom_setDom (f : Fur) (d : Dom) (y : Domain) : (s.setDom f d y).dom f d = y := by simp [State.dom, State.setDom]
@[simp] theorem State.drill_setDrill (f : Fur) (k : DrillNo) (y : Drill) : (s.setDrill f k y).drill f k = y := by
  simp [State.drill, State.setDrill]
@[simp] theorem State.queue_setQueue (q : QSlot) (x : Queue) : (s.setQueue q x).queue q = x := by simp [State.queue, State.setQueue]
theorem State.queue_setQueue_ne {q r : QSlot} (h : r ≠ q) (x : Queue) : (s.setQueue q x).queue r = s.queue r := by
  simp [State.queue, State.setQueue, Fin.val_ne_of_ne (Ne.symm h)]
@[simp] theorem State.port_setPort (p : PortNo) (x : Port) : (s.setPort p x).port p = x := by simp [State.port, State.setPort]
theorem State.port_setPort_ne {p q : PortNo} (h : q ≠ p) (x : Port) : (s.setPort p x).port q = s.port q := by
  simp [State.port, State.setPort, Fin.val_ne_of_ne (Ne.symm h)]
@[simp] theorem State.setPort_setPort (p : PortNo) (x y : Port) : (s.setPort p x).setPort p y = s.setPort p y := by
  simp [State.setPort]
@[simp] theorem State.setQueue_setQueue (q : QSlot) (x y : Queue) : (s.setQueue q x).setQueue q y = s.setQueue q y := by
  simp [State.setQueue]
@[simp] theorem State.setFur_setFur (f : Fur) (x y : Furrow) : (s.setFur f x).setFur f y = s.setFur f y := by
  simp [State.setFur]
@[simp] theorem State.act_setAct (k : Fin 16) (x : Activity) : (s.setAct k x).act k = x := by simp [State.act, State.setAct]
theorem State.act_setAct_ne {k j : Fin 16} (h : j ≠ k) (x : Activity) : (s.setAct k x).act j = s.act j := by
  simp [State.act, State.setAct, Fin.val_ne_of_ne (Ne.symm h)]
@[simp] theorem State.watch_setWatch (k : Fin 256) (x : Watch) : (s.setWatch k x).watch k = x := by simp [State.watch, State.setWatch]
@[simp] theorem State.setMs_ms (m : Mesh) : (s.setMs m).ms = m := rfl
@[simp] theorem State.bumpFree_free : s.bumpFree.free = s.free + 1 := rfl

/-! ### What an update leaves -/

@[simp] theorem State.setFur_pending (f : Fur) (x : Furrow) : (s.setFur f x).pending = s.pending := rfl
@[simp] theorem State.setFur_free (f : Fur) (x : Furrow) : (s.setFur f x).free = s.free := rfl
@[simp] theorem State.setFur_build (f : Fur) (x : Furrow) : (s.setFur f x).build = s.build := rfl
@[simp] theorem State.setFur_time (f : Fur) (x : Furrow) : (s.setFur f x).time = s.time := rfl
@[simp] theorem State.setFur_slew (f : Fur) (x : Furrow) : (s.setFur f x).slew = s.slew := rfl
@[simp] theorem State.setFur_release (f : Fur) (x : Furrow) : (s.setFur f x).release = s.release := rfl
@[simp] theorem State.setFur_startKind (f : Fur) (x : Furrow) : (s.setFur f x).startKind = s.startKind := rfl
@[simp] theorem State.setFur_queues (f : Fur) (x : Furrow) : (s.setFur f x).queues = s.queues := rfl
@[simp] theorem State.setFur_ctxs (f : Fur) (x : Furrow) : (s.setFur f x).ctxs = s.ctxs := rfl
@[simp] theorem State.setFur_segs (f : Fur) (x : Furrow) : (s.setFur f x).segs = s.segs := rfl
@[simp] theorem State.setFur_stackPorts (f : Fur) (x : Furrow) : (s.setFur f x).stackPorts = s.stackPorts := rfl
@[simp] theorem State.setFur_copies (f : Fur) (x : Furrow) : (s.setFur f x).copies = s.copies := rfl
@[simp] theorem State.setFur_remotes (f : Fur) (x : Furrow) : (s.setFur f x).remotes = s.remotes := rfl
@[simp] theorem State.setFur_fences (f : Fur) (x : Furrow) : (s.setFur f x).fences = s.fences := rfl
@[simp] theorem State.setFur_watches (f : Fur) (x : Furrow) : (s.setFur f x).watches = s.watches := rfl
@[simp] theorem State.setFur_accepted (f : Fur) (x : Furrow) : (s.setFur f x).accepted = s.accepted := rfl
@[simp] theorem State.setFur_dispRR (f : Fur) (x : Furrow) : (s.setFur f x).dispRR = s.dispRR := rfl
@[simp] theorem State.setFur_dispG (f : Fur) (x : Furrow) : (s.setFur f x).dispG = s.dispG := rfl
@[simp] theorem State.setFur_dc (f : Fur) (x : Furrow) : (s.setFur f x).dc = s.dc := rfl
@[simp] theorem State.setFur_gl (f : Fur) (x : Furrow) : (s.setFur f x).gl = s.gl := rfl
@[simp] theorem State.setFur_ms (f : Fur) (x : Furrow) : (s.setFur f x).ms = s.ms := rfl
@[simp] theorem State.setFur_rv (f : Fur) (x : Furrow) : (s.setFur f x).rv = s.rv := rfl
@[simp] theorem State.setFur_pins (f : Fur) (x : Furrow) : (s.setFur f x).pins = s.pins := rfl
@[simp] theorem State.setFur_flash (f : Fur) (x : Furrow) : (s.setFur f x).flash = s.flash := rfl
@[simp] theorem State.setFur_image (f : Fur) (x : Furrow) : (s.setFur f x).image = s.image := rfl
@[simp] theorem State.setFur_imageWork (f : Fur) (x : Furrow) : (s.setFur f x).imageWork = s.imageWork := rfl
@[simp] theorem State.setFur_active (f : Fur) (x : Furrow) : (s.setFur f x).active = s.active := rfl
@[simp] theorem State.setFur_keys (f : Fur) (x : Furrow) : (s.setFur f x).keys = s.keys := rfl
@[simp] theorem State.setFur_debugOn (f : Fur) (x : Furrow) : (s.setFur f x).debugOn = s.debugOn := rfl
@[simp] theorem State.setFur_debugScope (f : Fur) (x : Furrow) : (s.setFur f x).debugScope = s.debugScope := rfl
@[simp] theorem State.setFur_hostRead (f : Fur) (x : Furrow) : (s.setFur f x).hostRead = s.hostRead := rfl
@[simp] theorem State.setFur_hostMem (f : Fur) (x : Furrow) : (s.setFur f x).hostMem = s.hostMem := rfl
@[simp] theorem State.setFur_hostBad (f : Fur) (x : Furrow) : (s.setFur f x).hostBad = s.hostBad := rfl
@[simp] theorem State.setFur_hbm (f : Fur) (x : Furrow) : (s.setFur f x).hbm = s.hbm := rfl
@[simp] theorem State.setFur_hbmBad (f : Fur) (x : Furrow) : (s.setFur f x).hbmBad = s.hbmBad := rfl

@[simp] theorem State.modFur_pending (f : Fur) (g : Furrow → Furrow) : (s.modFur f g).pending = s.pending := rfl
@[simp] theorem State.modFur_free (f : Fur) (g : Furrow → Furrow) : (s.modFur f g).free = s.free := rfl
@[simp] theorem State.modFur_build (f : Fur) (g : Furrow → Furrow) : (s.modFur f g).build = s.build := rfl
@[simp] theorem State.modFur_time (f : Fur) (g : Furrow → Furrow) : (s.modFur f g).time = s.time := rfl
@[simp] theorem State.modFur_slew (f : Fur) (g : Furrow → Furrow) : (s.modFur f g).slew = s.slew := rfl
@[simp] theorem State.modFur_release (f : Fur) (g : Furrow → Furrow) : (s.modFur f g).release = s.release := rfl
@[simp] theorem State.modFur_startKind (f : Fur) (g : Furrow → Furrow) : (s.modFur f g).startKind = s.startKind := rfl
@[simp] theorem State.modFur_queues (f : Fur) (g : Furrow → Furrow) : (s.modFur f g).queues = s.queues := rfl
@[simp] theorem State.modFur_ctxs (f : Fur) (g : Furrow → Furrow) : (s.modFur f g).ctxs = s.ctxs := rfl
@[simp] theorem State.modFur_segs (f : Fur) (g : Furrow → Furrow) : (s.modFur f g).segs = s.segs := rfl
@[simp] theorem State.modFur_stackPorts (f : Fur) (g : Furrow → Furrow) : (s.modFur f g).stackPorts = s.stackPorts := rfl
@[simp] theorem State.modFur_copies (f : Fur) (g : Furrow → Furrow) : (s.modFur f g).copies = s.copies := rfl
@[simp] theorem State.modFur_remotes (f : Fur) (g : Furrow → Furrow) : (s.modFur f g).remotes = s.remotes := rfl
@[simp] theorem State.modFur_fences (f : Fur) (g : Furrow → Furrow) : (s.modFur f g).fences = s.fences := rfl
@[simp] theorem State.modFur_watches (f : Fur) (g : Furrow → Furrow) : (s.modFur f g).watches = s.watches := rfl
@[simp] theorem State.modFur_accepted (f : Fur) (g : Furrow → Furrow) : (s.modFur f g).accepted = s.accepted := rfl
@[simp] theorem State.modFur_dispRR (f : Fur) (g : Furrow → Furrow) : (s.modFur f g).dispRR = s.dispRR := rfl
@[simp] theorem State.modFur_dispG (f : Fur) (g : Furrow → Furrow) : (s.modFur f g).dispG = s.dispG := rfl
@[simp] theorem State.modFur_dc (f : Fur) (g : Furrow → Furrow) : (s.modFur f g).dc = s.dc := rfl
@[simp] theorem State.modFur_gl (f : Fur) (g : Furrow → Furrow) : (s.modFur f g).gl = s.gl := rfl
@[simp] theorem State.modFur_ms (f : Fur) (g : Furrow → Furrow) : (s.modFur f g).ms = s.ms := rfl
@[simp] theorem State.modFur_rv (f : Fur) (g : Furrow → Furrow) : (s.modFur f g).rv = s.rv := rfl
@[simp] theorem State.modFur_pins (f : Fur) (g : Furrow → Furrow) : (s.modFur f g).pins = s.pins := rfl
@[simp] theorem State.modFur_flash (f : Fur) (g : Furrow → Furrow) : (s.modFur f g).flash = s.flash := rfl
@[simp] theorem State.modFur_image (f : Fur) (g : Furrow → Furrow) : (s.modFur f g).image = s.image := rfl
@[simp] theorem State.modFur_imageWork (f : Fur) (g : Furrow → Furrow) : (s.modFur f g).imageWork = s.imageWork := rfl
@[simp] theorem State.modFur_active (f : Fur) (g : Furrow → Furrow) : (s.modFur f g).active = s.active := rfl
@[simp] theorem State.modFur_keys (f : Fur) (g : Furrow → Furrow) : (s.modFur f g).keys = s.keys := rfl
@[simp] theorem State.modFur_debugOn (f : Fur) (g : Furrow → Furrow) : (s.modFur f g).debugOn = s.debugOn := rfl
@[simp] theorem State.modFur_debugScope (f : Fur) (g : Furrow → Furrow) : (s.modFur f g).debugScope = s.debugScope := rfl
@[simp] theorem State.modFur_hostRead (f : Fur) (g : Furrow → Furrow) : (s.modFur f g).hostRead = s.hostRead := rfl
@[simp] theorem State.modFur_hostMem (f : Fur) (g : Furrow → Furrow) : (s.modFur f g).hostMem = s.hostMem := rfl
@[simp] theorem State.modFur_hostBad (f : Fur) (g : Furrow → Furrow) : (s.modFur f g).hostBad = s.hostBad := rfl
@[simp] theorem State.modFur_hbm (f : Fur) (g : Furrow → Furrow) : (s.modFur f g).hbm = s.hbm := rfl
@[simp] theorem State.modFur_hbmBad (f : Fur) (g : Furrow → Furrow) : (s.modFur f g).hbmBad = s.hbmBad := rfl

@[simp] theorem State.setDom_pending (f : Fur) (d : Dom) (y : Domain) : (s.setDom f d y).pending = s.pending := rfl
@[simp] theorem State.setDom_free (f : Fur) (d : Dom) (y : Domain) : (s.setDom f d y).free = s.free := rfl
@[simp] theorem State.setDom_build (f : Fur) (d : Dom) (y : Domain) : (s.setDom f d y).build = s.build := rfl
@[simp] theorem State.setDom_time (f : Fur) (d : Dom) (y : Domain) : (s.setDom f d y).time = s.time := rfl
@[simp] theorem State.setDom_slew (f : Fur) (d : Dom) (y : Domain) : (s.setDom f d y).slew = s.slew := rfl
@[simp] theorem State.setDom_release (f : Fur) (d : Dom) (y : Domain) : (s.setDom f d y).release = s.release := rfl
@[simp] theorem State.setDom_startKind (f : Fur) (d : Dom) (y : Domain) : (s.setDom f d y).startKind = s.startKind := rfl
@[simp] theorem State.setDom_queues (f : Fur) (d : Dom) (y : Domain) : (s.setDom f d y).queues = s.queues := rfl
@[simp] theorem State.setDom_ctxs (f : Fur) (d : Dom) (y : Domain) : (s.setDom f d y).ctxs = s.ctxs := rfl
@[simp] theorem State.setDom_segs (f : Fur) (d : Dom) (y : Domain) : (s.setDom f d y).segs = s.segs := rfl
@[simp] theorem State.setDom_stackPorts (f : Fur) (d : Dom) (y : Domain) : (s.setDom f d y).stackPorts = s.stackPorts := rfl
@[simp] theorem State.setDom_copies (f : Fur) (d : Dom) (y : Domain) : (s.setDom f d y).copies = s.copies := rfl
@[simp] theorem State.setDom_remotes (f : Fur) (d : Dom) (y : Domain) : (s.setDom f d y).remotes = s.remotes := rfl
@[simp] theorem State.setDom_fences (f : Fur) (d : Dom) (y : Domain) : (s.setDom f d y).fences = s.fences := rfl
@[simp] theorem State.setDom_watches (f : Fur) (d : Dom) (y : Domain) : (s.setDom f d y).watches = s.watches := rfl
@[simp] theorem State.setDom_accepted (f : Fur) (d : Dom) (y : Domain) : (s.setDom f d y).accepted = s.accepted := rfl
@[simp] theorem State.setDom_dispRR (f : Fur) (d : Dom) (y : Domain) : (s.setDom f d y).dispRR = s.dispRR := rfl
@[simp] theorem State.setDom_dispG (f : Fur) (d : Dom) (y : Domain) : (s.setDom f d y).dispG = s.dispG := rfl
@[simp] theorem State.setDom_dc (f : Fur) (d : Dom) (y : Domain) : (s.setDom f d y).dc = s.dc := rfl
@[simp] theorem State.setDom_gl (f : Fur) (d : Dom) (y : Domain) : (s.setDom f d y).gl = s.gl := rfl
@[simp] theorem State.setDom_ms (f : Fur) (d : Dom) (y : Domain) : (s.setDom f d y).ms = s.ms := rfl
@[simp] theorem State.setDom_rv (f : Fur) (d : Dom) (y : Domain) : (s.setDom f d y).rv = s.rv := rfl
@[simp] theorem State.setDom_pins (f : Fur) (d : Dom) (y : Domain) : (s.setDom f d y).pins = s.pins := rfl
@[simp] theorem State.setDom_flash (f : Fur) (d : Dom) (y : Domain) : (s.setDom f d y).flash = s.flash := rfl
@[simp] theorem State.setDom_image (f : Fur) (d : Dom) (y : Domain) : (s.setDom f d y).image = s.image := rfl
@[simp] theorem State.setDom_imageWork (f : Fur) (d : Dom) (y : Domain) : (s.setDom f d y).imageWork = s.imageWork := rfl
@[simp] theorem State.setDom_active (f : Fur) (d : Dom) (y : Domain) : (s.setDom f d y).active = s.active := rfl
@[simp] theorem State.setDom_keys (f : Fur) (d : Dom) (y : Domain) : (s.setDom f d y).keys = s.keys := rfl
@[simp] theorem State.setDom_debugOn (f : Fur) (d : Dom) (y : Domain) : (s.setDom f d y).debugOn = s.debugOn := rfl
@[simp] theorem State.setDom_debugScope (f : Fur) (d : Dom) (y : Domain) : (s.setDom f d y).debugScope = s.debugScope := rfl
@[simp] theorem State.setDom_hostRead (f : Fur) (d : Dom) (y : Domain) : (s.setDom f d y).hostRead = s.hostRead := rfl
@[simp] theorem State.setDom_hostMem (f : Fur) (d : Dom) (y : Domain) : (s.setDom f d y).hostMem = s.hostMem := rfl
@[simp] theorem State.setDom_hostBad (f : Fur) (d : Dom) (y : Domain) : (s.setDom f d y).hostBad = s.hostBad := rfl
@[simp] theorem State.setDom_hbm (f : Fur) (d : Dom) (y : Domain) : (s.setDom f d y).hbm = s.hbm := rfl
@[simp] theorem State.setDom_hbmBad (f : Fur) (d : Dom) (y : Domain) : (s.setDom f d y).hbmBad = s.hbmBad := rfl

@[simp] theorem State.modDom_pending (f : Fur) (d : Dom) (g : Domain → Domain) : (s.modDom f d g).pending = s.pending := rfl
@[simp] theorem State.modDom_free (f : Fur) (d : Dom) (g : Domain → Domain) : (s.modDom f d g).free = s.free := rfl
@[simp] theorem State.modDom_build (f : Fur) (d : Dom) (g : Domain → Domain) : (s.modDom f d g).build = s.build := rfl
@[simp] theorem State.modDom_time (f : Fur) (d : Dom) (g : Domain → Domain) : (s.modDom f d g).time = s.time := rfl
@[simp] theorem State.modDom_slew (f : Fur) (d : Dom) (g : Domain → Domain) : (s.modDom f d g).slew = s.slew := rfl
@[simp] theorem State.modDom_release (f : Fur) (d : Dom) (g : Domain → Domain) : (s.modDom f d g).release = s.release := rfl
@[simp] theorem State.modDom_startKind (f : Fur) (d : Dom) (g : Domain → Domain) : (s.modDom f d g).startKind = s.startKind := rfl
@[simp] theorem State.modDom_queues (f : Fur) (d : Dom) (g : Domain → Domain) : (s.modDom f d g).queues = s.queues := rfl
@[simp] theorem State.modDom_ctxs (f : Fur) (d : Dom) (g : Domain → Domain) : (s.modDom f d g).ctxs = s.ctxs := rfl
@[simp] theorem State.modDom_segs (f : Fur) (d : Dom) (g : Domain → Domain) : (s.modDom f d g).segs = s.segs := rfl
@[simp] theorem State.modDom_stackPorts (f : Fur) (d : Dom) (g : Domain → Domain) : (s.modDom f d g).stackPorts = s.stackPorts := rfl
@[simp] theorem State.modDom_copies (f : Fur) (d : Dom) (g : Domain → Domain) : (s.modDom f d g).copies = s.copies := rfl
@[simp] theorem State.modDom_remotes (f : Fur) (d : Dom) (g : Domain → Domain) : (s.modDom f d g).remotes = s.remotes := rfl
@[simp] theorem State.modDom_fences (f : Fur) (d : Dom) (g : Domain → Domain) : (s.modDom f d g).fences = s.fences := rfl
@[simp] theorem State.modDom_watches (f : Fur) (d : Dom) (g : Domain → Domain) : (s.modDom f d g).watches = s.watches := rfl
@[simp] theorem State.modDom_accepted (f : Fur) (d : Dom) (g : Domain → Domain) : (s.modDom f d g).accepted = s.accepted := rfl
@[simp] theorem State.modDom_dispRR (f : Fur) (d : Dom) (g : Domain → Domain) : (s.modDom f d g).dispRR = s.dispRR := rfl
@[simp] theorem State.modDom_dispG (f : Fur) (d : Dom) (g : Domain → Domain) : (s.modDom f d g).dispG = s.dispG := rfl
@[simp] theorem State.modDom_dc (f : Fur) (d : Dom) (g : Domain → Domain) : (s.modDom f d g).dc = s.dc := rfl
@[simp] theorem State.modDom_gl (f : Fur) (d : Dom) (g : Domain → Domain) : (s.modDom f d g).gl = s.gl := rfl
@[simp] theorem State.modDom_ms (f : Fur) (d : Dom) (g : Domain → Domain) : (s.modDom f d g).ms = s.ms := rfl
@[simp] theorem State.modDom_rv (f : Fur) (d : Dom) (g : Domain → Domain) : (s.modDom f d g).rv = s.rv := rfl
@[simp] theorem State.modDom_pins (f : Fur) (d : Dom) (g : Domain → Domain) : (s.modDom f d g).pins = s.pins := rfl
@[simp] theorem State.modDom_flash (f : Fur) (d : Dom) (g : Domain → Domain) : (s.modDom f d g).flash = s.flash := rfl
@[simp] theorem State.modDom_image (f : Fur) (d : Dom) (g : Domain → Domain) : (s.modDom f d g).image = s.image := rfl
@[simp] theorem State.modDom_imageWork (f : Fur) (d : Dom) (g : Domain → Domain) : (s.modDom f d g).imageWork = s.imageWork := rfl
@[simp] theorem State.modDom_active (f : Fur) (d : Dom) (g : Domain → Domain) : (s.modDom f d g).active = s.active := rfl
@[simp] theorem State.modDom_keys (f : Fur) (d : Dom) (g : Domain → Domain) : (s.modDom f d g).keys = s.keys := rfl
@[simp] theorem State.modDom_debugOn (f : Fur) (d : Dom) (g : Domain → Domain) : (s.modDom f d g).debugOn = s.debugOn := rfl
@[simp] theorem State.modDom_debugScope (f : Fur) (d : Dom) (g : Domain → Domain) : (s.modDom f d g).debugScope = s.debugScope := rfl
@[simp] theorem State.modDom_hostRead (f : Fur) (d : Dom) (g : Domain → Domain) : (s.modDom f d g).hostRead = s.hostRead := rfl
@[simp] theorem State.modDom_hostMem (f : Fur) (d : Dom) (g : Domain → Domain) : (s.modDom f d g).hostMem = s.hostMem := rfl
@[simp] theorem State.modDom_hostBad (f : Fur) (d : Dom) (g : Domain → Domain) : (s.modDom f d g).hostBad = s.hostBad := rfl
@[simp] theorem State.modDom_hbm (f : Fur) (d : Dom) (g : Domain → Domain) : (s.modDom f d g).hbm = s.hbm := rfl
@[simp] theorem State.modDom_hbmBad (f : Fur) (d : Dom) (g : Domain → Domain) : (s.modDom f d g).hbmBad = s.hbmBad := rfl

@[simp] theorem State.setDrill_pending (f : Fur) (k : DrillNo) (y : Drill) : (s.setDrill f k y).pending = s.pending := rfl
@[simp] theorem State.setDrill_free (f : Fur) (k : DrillNo) (y : Drill) : (s.setDrill f k y).free = s.free := rfl
@[simp] theorem State.setDrill_build (f : Fur) (k : DrillNo) (y : Drill) : (s.setDrill f k y).build = s.build := rfl
@[simp] theorem State.setDrill_time (f : Fur) (k : DrillNo) (y : Drill) : (s.setDrill f k y).time = s.time := rfl
@[simp] theorem State.setDrill_slew (f : Fur) (k : DrillNo) (y : Drill) : (s.setDrill f k y).slew = s.slew := rfl
@[simp] theorem State.setDrill_release (f : Fur) (k : DrillNo) (y : Drill) : (s.setDrill f k y).release = s.release := rfl
@[simp] theorem State.setDrill_startKind (f : Fur) (k : DrillNo) (y : Drill) : (s.setDrill f k y).startKind = s.startKind := rfl
@[simp] theorem State.setDrill_queues (f : Fur) (k : DrillNo) (y : Drill) : (s.setDrill f k y).queues = s.queues := rfl
@[simp] theorem State.setDrill_ctxs (f : Fur) (k : DrillNo) (y : Drill) : (s.setDrill f k y).ctxs = s.ctxs := rfl
@[simp] theorem State.setDrill_segs (f : Fur) (k : DrillNo) (y : Drill) : (s.setDrill f k y).segs = s.segs := rfl
@[simp] theorem State.setDrill_stackPorts (f : Fur) (k : DrillNo) (y : Drill) : (s.setDrill f k y).stackPorts = s.stackPorts := rfl
@[simp] theorem State.setDrill_copies (f : Fur) (k : DrillNo) (y : Drill) : (s.setDrill f k y).copies = s.copies := rfl
@[simp] theorem State.setDrill_remotes (f : Fur) (k : DrillNo) (y : Drill) : (s.setDrill f k y).remotes = s.remotes := rfl
@[simp] theorem State.setDrill_fences (f : Fur) (k : DrillNo) (y : Drill) : (s.setDrill f k y).fences = s.fences := rfl
@[simp] theorem State.setDrill_watches (f : Fur) (k : DrillNo) (y : Drill) : (s.setDrill f k y).watches = s.watches := rfl
@[simp] theorem State.setDrill_accepted (f : Fur) (k : DrillNo) (y : Drill) : (s.setDrill f k y).accepted = s.accepted := rfl
@[simp] theorem State.setDrill_dispRR (f : Fur) (k : DrillNo) (y : Drill) : (s.setDrill f k y).dispRR = s.dispRR := rfl
@[simp] theorem State.setDrill_dispG (f : Fur) (k : DrillNo) (y : Drill) : (s.setDrill f k y).dispG = s.dispG := rfl
@[simp] theorem State.setDrill_dc (f : Fur) (k : DrillNo) (y : Drill) : (s.setDrill f k y).dc = s.dc := rfl
@[simp] theorem State.setDrill_gl (f : Fur) (k : DrillNo) (y : Drill) : (s.setDrill f k y).gl = s.gl := rfl
@[simp] theorem State.setDrill_ms (f : Fur) (k : DrillNo) (y : Drill) : (s.setDrill f k y).ms = s.ms := rfl
@[simp] theorem State.setDrill_rv (f : Fur) (k : DrillNo) (y : Drill) : (s.setDrill f k y).rv = s.rv := rfl
@[simp] theorem State.setDrill_pins (f : Fur) (k : DrillNo) (y : Drill) : (s.setDrill f k y).pins = s.pins := rfl
@[simp] theorem State.setDrill_flash (f : Fur) (k : DrillNo) (y : Drill) : (s.setDrill f k y).flash = s.flash := rfl
@[simp] theorem State.setDrill_image (f : Fur) (k : DrillNo) (y : Drill) : (s.setDrill f k y).image = s.image := rfl
@[simp] theorem State.setDrill_imageWork (f : Fur) (k : DrillNo) (y : Drill) : (s.setDrill f k y).imageWork = s.imageWork := rfl
@[simp] theorem State.setDrill_active (f : Fur) (k : DrillNo) (y : Drill) : (s.setDrill f k y).active = s.active := rfl
@[simp] theorem State.setDrill_keys (f : Fur) (k : DrillNo) (y : Drill) : (s.setDrill f k y).keys = s.keys := rfl
@[simp] theorem State.setDrill_debugOn (f : Fur) (k : DrillNo) (y : Drill) : (s.setDrill f k y).debugOn = s.debugOn := rfl
@[simp] theorem State.setDrill_debugScope (f : Fur) (k : DrillNo) (y : Drill) : (s.setDrill f k y).debugScope = s.debugScope := rfl
@[simp] theorem State.setDrill_hostRead (f : Fur) (k : DrillNo) (y : Drill) : (s.setDrill f k y).hostRead = s.hostRead := rfl
@[simp] theorem State.setDrill_hostMem (f : Fur) (k : DrillNo) (y : Drill) : (s.setDrill f k y).hostMem = s.hostMem := rfl
@[simp] theorem State.setDrill_hostBad (f : Fur) (k : DrillNo) (y : Drill) : (s.setDrill f k y).hostBad = s.hostBad := rfl
@[simp] theorem State.setDrill_hbm (f : Fur) (k : DrillNo) (y : Drill) : (s.setDrill f k y).hbm = s.hbm := rfl
@[simp] theorem State.setDrill_hbmBad (f : Fur) (k : DrillNo) (y : Drill) : (s.setDrill f k y).hbmBad = s.hbmBad := rfl

@[simp] theorem State.modDrill_pending (f : Fur) (k : DrillNo) (g : Drill → Drill) : (s.modDrill f k g).pending = s.pending := rfl
@[simp] theorem State.modDrill_free (f : Fur) (k : DrillNo) (g : Drill → Drill) : (s.modDrill f k g).free = s.free := rfl
@[simp] theorem State.modDrill_build (f : Fur) (k : DrillNo) (g : Drill → Drill) : (s.modDrill f k g).build = s.build := rfl
@[simp] theorem State.modDrill_time (f : Fur) (k : DrillNo) (g : Drill → Drill) : (s.modDrill f k g).time = s.time := rfl
@[simp] theorem State.modDrill_slew (f : Fur) (k : DrillNo) (g : Drill → Drill) : (s.modDrill f k g).slew = s.slew := rfl
@[simp] theorem State.modDrill_release (f : Fur) (k : DrillNo) (g : Drill → Drill) : (s.modDrill f k g).release = s.release := rfl
@[simp] theorem State.modDrill_startKind (f : Fur) (k : DrillNo) (g : Drill → Drill) : (s.modDrill f k g).startKind = s.startKind := rfl
@[simp] theorem State.modDrill_queues (f : Fur) (k : DrillNo) (g : Drill → Drill) : (s.modDrill f k g).queues = s.queues := rfl
@[simp] theorem State.modDrill_ctxs (f : Fur) (k : DrillNo) (g : Drill → Drill) : (s.modDrill f k g).ctxs = s.ctxs := rfl
@[simp] theorem State.modDrill_segs (f : Fur) (k : DrillNo) (g : Drill → Drill) : (s.modDrill f k g).segs = s.segs := rfl
@[simp] theorem State.modDrill_stackPorts (f : Fur) (k : DrillNo) (g : Drill → Drill) : (s.modDrill f k g).stackPorts = s.stackPorts := rfl
@[simp] theorem State.modDrill_copies (f : Fur) (k : DrillNo) (g : Drill → Drill) : (s.modDrill f k g).copies = s.copies := rfl
@[simp] theorem State.modDrill_remotes (f : Fur) (k : DrillNo) (g : Drill → Drill) : (s.modDrill f k g).remotes = s.remotes := rfl
@[simp] theorem State.modDrill_fences (f : Fur) (k : DrillNo) (g : Drill → Drill) : (s.modDrill f k g).fences = s.fences := rfl
@[simp] theorem State.modDrill_watches (f : Fur) (k : DrillNo) (g : Drill → Drill) : (s.modDrill f k g).watches = s.watches := rfl
@[simp] theorem State.modDrill_accepted (f : Fur) (k : DrillNo) (g : Drill → Drill) : (s.modDrill f k g).accepted = s.accepted := rfl
@[simp] theorem State.modDrill_dispRR (f : Fur) (k : DrillNo) (g : Drill → Drill) : (s.modDrill f k g).dispRR = s.dispRR := rfl
@[simp] theorem State.modDrill_dispG (f : Fur) (k : DrillNo) (g : Drill → Drill) : (s.modDrill f k g).dispG = s.dispG := rfl
@[simp] theorem State.modDrill_dc (f : Fur) (k : DrillNo) (g : Drill → Drill) : (s.modDrill f k g).dc = s.dc := rfl
@[simp] theorem State.modDrill_gl (f : Fur) (k : DrillNo) (g : Drill → Drill) : (s.modDrill f k g).gl = s.gl := rfl
@[simp] theorem State.modDrill_ms (f : Fur) (k : DrillNo) (g : Drill → Drill) : (s.modDrill f k g).ms = s.ms := rfl
@[simp] theorem State.modDrill_rv (f : Fur) (k : DrillNo) (g : Drill → Drill) : (s.modDrill f k g).rv = s.rv := rfl
@[simp] theorem State.modDrill_pins (f : Fur) (k : DrillNo) (g : Drill → Drill) : (s.modDrill f k g).pins = s.pins := rfl
@[simp] theorem State.modDrill_flash (f : Fur) (k : DrillNo) (g : Drill → Drill) : (s.modDrill f k g).flash = s.flash := rfl
@[simp] theorem State.modDrill_image (f : Fur) (k : DrillNo) (g : Drill → Drill) : (s.modDrill f k g).image = s.image := rfl
@[simp] theorem State.modDrill_imageWork (f : Fur) (k : DrillNo) (g : Drill → Drill) : (s.modDrill f k g).imageWork = s.imageWork := rfl
@[simp] theorem State.modDrill_active (f : Fur) (k : DrillNo) (g : Drill → Drill) : (s.modDrill f k g).active = s.active := rfl
@[simp] theorem State.modDrill_keys (f : Fur) (k : DrillNo) (g : Drill → Drill) : (s.modDrill f k g).keys = s.keys := rfl
@[simp] theorem State.modDrill_debugOn (f : Fur) (k : DrillNo) (g : Drill → Drill) : (s.modDrill f k g).debugOn = s.debugOn := rfl
@[simp] theorem State.modDrill_debugScope (f : Fur) (k : DrillNo) (g : Drill → Drill) : (s.modDrill f k g).debugScope = s.debugScope := rfl
@[simp] theorem State.modDrill_hostRead (f : Fur) (k : DrillNo) (g : Drill → Drill) : (s.modDrill f k g).hostRead = s.hostRead := rfl
@[simp] theorem State.modDrill_hostMem (f : Fur) (k : DrillNo) (g : Drill → Drill) : (s.modDrill f k g).hostMem = s.hostMem := rfl
@[simp] theorem State.modDrill_hostBad (f : Fur) (k : DrillNo) (g : Drill → Drill) : (s.modDrill f k g).hostBad = s.hostBad := rfl
@[simp] theorem State.modDrill_hbm (f : Fur) (k : DrillNo) (g : Drill → Drill) : (s.modDrill f k g).hbm = s.hbm := rfl
@[simp] theorem State.modDrill_hbmBad (f : Fur) (k : DrillNo) (g : Drill → Drill) : (s.modDrill f k g).hbmBad = s.hbmBad := rfl

@[simp] theorem State.setQueue_pending (q : QSlot) (x : Queue) : (s.setQueue q x).pending = s.pending := rfl
@[simp] theorem State.setQueue_free (q : QSlot) (x : Queue) : (s.setQueue q x).free = s.free := rfl
@[simp] theorem State.setQueue_build (q : QSlot) (x : Queue) : (s.setQueue q x).build = s.build := rfl
@[simp] theorem State.setQueue_time (q : QSlot) (x : Queue) : (s.setQueue q x).time = s.time := rfl
@[simp] theorem State.setQueue_slew (q : QSlot) (x : Queue) : (s.setQueue q x).slew = s.slew := rfl
@[simp] theorem State.setQueue_release (q : QSlot) (x : Queue) : (s.setQueue q x).release = s.release := rfl
@[simp] theorem State.setQueue_startKind (q : QSlot) (x : Queue) : (s.setQueue q x).startKind = s.startKind := rfl
@[simp] theorem State.setQueue_furs (q : QSlot) (x : Queue) : (s.setQueue q x).furs = s.furs := rfl
@[simp] theorem State.setQueue_ctxs (q : QSlot) (x : Queue) : (s.setQueue q x).ctxs = s.ctxs := rfl
@[simp] theorem State.setQueue_segs (q : QSlot) (x : Queue) : (s.setQueue q x).segs = s.segs := rfl
@[simp] theorem State.setQueue_stackPorts (q : QSlot) (x : Queue) : (s.setQueue q x).stackPorts = s.stackPorts := rfl
@[simp] theorem State.setQueue_copies (q : QSlot) (x : Queue) : (s.setQueue q x).copies = s.copies := rfl
@[simp] theorem State.setQueue_remotes (q : QSlot) (x : Queue) : (s.setQueue q x).remotes = s.remotes := rfl
@[simp] theorem State.setQueue_fences (q : QSlot) (x : Queue) : (s.setQueue q x).fences = s.fences := rfl
@[simp] theorem State.setQueue_watches (q : QSlot) (x : Queue) : (s.setQueue q x).watches = s.watches := rfl
@[simp] theorem State.setQueue_accepted (q : QSlot) (x : Queue) : (s.setQueue q x).accepted = s.accepted := rfl
@[simp] theorem State.setQueue_dispRR (q : QSlot) (x : Queue) : (s.setQueue q x).dispRR = s.dispRR := rfl
@[simp] theorem State.setQueue_dispG (q : QSlot) (x : Queue) : (s.setQueue q x).dispG = s.dispG := rfl
@[simp] theorem State.setQueue_dc (q : QSlot) (x : Queue) : (s.setQueue q x).dc = s.dc := rfl
@[simp] theorem State.setQueue_gl (q : QSlot) (x : Queue) : (s.setQueue q x).gl = s.gl := rfl
@[simp] theorem State.setQueue_ms (q : QSlot) (x : Queue) : (s.setQueue q x).ms = s.ms := rfl
@[simp] theorem State.setQueue_rv (q : QSlot) (x : Queue) : (s.setQueue q x).rv = s.rv := rfl
@[simp] theorem State.setQueue_pins (q : QSlot) (x : Queue) : (s.setQueue q x).pins = s.pins := rfl
@[simp] theorem State.setQueue_flash (q : QSlot) (x : Queue) : (s.setQueue q x).flash = s.flash := rfl
@[simp] theorem State.setQueue_image (q : QSlot) (x : Queue) : (s.setQueue q x).image = s.image := rfl
@[simp] theorem State.setQueue_imageWork (q : QSlot) (x : Queue) : (s.setQueue q x).imageWork = s.imageWork := rfl
@[simp] theorem State.setQueue_active (q : QSlot) (x : Queue) : (s.setQueue q x).active = s.active := rfl
@[simp] theorem State.setQueue_keys (q : QSlot) (x : Queue) : (s.setQueue q x).keys = s.keys := rfl
@[simp] theorem State.setQueue_debugOn (q : QSlot) (x : Queue) : (s.setQueue q x).debugOn = s.debugOn := rfl
@[simp] theorem State.setQueue_debugScope (q : QSlot) (x : Queue) : (s.setQueue q x).debugScope = s.debugScope := rfl
@[simp] theorem State.setQueue_hostRead (q : QSlot) (x : Queue) : (s.setQueue q x).hostRead = s.hostRead := rfl
@[simp] theorem State.setQueue_hostMem (q : QSlot) (x : Queue) : (s.setQueue q x).hostMem = s.hostMem := rfl
@[simp] theorem State.setQueue_hostBad (q : QSlot) (x : Queue) : (s.setQueue q x).hostBad = s.hostBad := rfl
@[simp] theorem State.setQueue_hbm (q : QSlot) (x : Queue) : (s.setQueue q x).hbm = s.hbm := rfl
@[simp] theorem State.setQueue_hbmBad (q : QSlot) (x : Queue) : (s.setQueue q x).hbmBad = s.hbmBad := rfl

@[simp] theorem State.modQueue_pending (q : QSlot) (g : Queue → Queue) : (s.modQueue q g).pending = s.pending := rfl
@[simp] theorem State.modQueue_free (q : QSlot) (g : Queue → Queue) : (s.modQueue q g).free = s.free := rfl
@[simp] theorem State.modQueue_build (q : QSlot) (g : Queue → Queue) : (s.modQueue q g).build = s.build := rfl
@[simp] theorem State.modQueue_time (q : QSlot) (g : Queue → Queue) : (s.modQueue q g).time = s.time := rfl
@[simp] theorem State.modQueue_slew (q : QSlot) (g : Queue → Queue) : (s.modQueue q g).slew = s.slew := rfl
@[simp] theorem State.modQueue_release (q : QSlot) (g : Queue → Queue) : (s.modQueue q g).release = s.release := rfl
@[simp] theorem State.modQueue_startKind (q : QSlot) (g : Queue → Queue) : (s.modQueue q g).startKind = s.startKind := rfl
@[simp] theorem State.modQueue_furs (q : QSlot) (g : Queue → Queue) : (s.modQueue q g).furs = s.furs := rfl
@[simp] theorem State.modQueue_ctxs (q : QSlot) (g : Queue → Queue) : (s.modQueue q g).ctxs = s.ctxs := rfl
@[simp] theorem State.modQueue_segs (q : QSlot) (g : Queue → Queue) : (s.modQueue q g).segs = s.segs := rfl
@[simp] theorem State.modQueue_stackPorts (q : QSlot) (g : Queue → Queue) : (s.modQueue q g).stackPorts = s.stackPorts := rfl
@[simp] theorem State.modQueue_copies (q : QSlot) (g : Queue → Queue) : (s.modQueue q g).copies = s.copies := rfl
@[simp] theorem State.modQueue_remotes (q : QSlot) (g : Queue → Queue) : (s.modQueue q g).remotes = s.remotes := rfl
@[simp] theorem State.modQueue_fences (q : QSlot) (g : Queue → Queue) : (s.modQueue q g).fences = s.fences := rfl
@[simp] theorem State.modQueue_watches (q : QSlot) (g : Queue → Queue) : (s.modQueue q g).watches = s.watches := rfl
@[simp] theorem State.modQueue_accepted (q : QSlot) (g : Queue → Queue) : (s.modQueue q g).accepted = s.accepted := rfl
@[simp] theorem State.modQueue_dispRR (q : QSlot) (g : Queue → Queue) : (s.modQueue q g).dispRR = s.dispRR := rfl
@[simp] theorem State.modQueue_dispG (q : QSlot) (g : Queue → Queue) : (s.modQueue q g).dispG = s.dispG := rfl
@[simp] theorem State.modQueue_dc (q : QSlot) (g : Queue → Queue) : (s.modQueue q g).dc = s.dc := rfl
@[simp] theorem State.modQueue_gl (q : QSlot) (g : Queue → Queue) : (s.modQueue q g).gl = s.gl := rfl
@[simp] theorem State.modQueue_ms (q : QSlot) (g : Queue → Queue) : (s.modQueue q g).ms = s.ms := rfl
@[simp] theorem State.modQueue_rv (q : QSlot) (g : Queue → Queue) : (s.modQueue q g).rv = s.rv := rfl
@[simp] theorem State.modQueue_pins (q : QSlot) (g : Queue → Queue) : (s.modQueue q g).pins = s.pins := rfl
@[simp] theorem State.modQueue_flash (q : QSlot) (g : Queue → Queue) : (s.modQueue q g).flash = s.flash := rfl
@[simp] theorem State.modQueue_image (q : QSlot) (g : Queue → Queue) : (s.modQueue q g).image = s.image := rfl
@[simp] theorem State.modQueue_imageWork (q : QSlot) (g : Queue → Queue) : (s.modQueue q g).imageWork = s.imageWork := rfl
@[simp] theorem State.modQueue_active (q : QSlot) (g : Queue → Queue) : (s.modQueue q g).active = s.active := rfl
@[simp] theorem State.modQueue_keys (q : QSlot) (g : Queue → Queue) : (s.modQueue q g).keys = s.keys := rfl
@[simp] theorem State.modQueue_debugOn (q : QSlot) (g : Queue → Queue) : (s.modQueue q g).debugOn = s.debugOn := rfl
@[simp] theorem State.modQueue_debugScope (q : QSlot) (g : Queue → Queue) : (s.modQueue q g).debugScope = s.debugScope := rfl
@[simp] theorem State.modQueue_hostRead (q : QSlot) (g : Queue → Queue) : (s.modQueue q g).hostRead = s.hostRead := rfl
@[simp] theorem State.modQueue_hostMem (q : QSlot) (g : Queue → Queue) : (s.modQueue q g).hostMem = s.hostMem := rfl
@[simp] theorem State.modQueue_hostBad (q : QSlot) (g : Queue → Queue) : (s.modQueue q g).hostBad = s.hostBad := rfl
@[simp] theorem State.modQueue_hbm (q : QSlot) (g : Queue → Queue) : (s.modQueue q g).hbm = s.hbm := rfl
@[simp] theorem State.modQueue_hbmBad (q : QSlot) (g : Queue → Queue) : (s.modQueue q g).hbmBad = s.hbmBad := rfl

@[simp] theorem State.modCmd_pending (r : CmdRef) (g : Cmd → Cmd) : (s.modCmd r g).pending = s.pending := rfl
@[simp] theorem State.modCmd_free (r : CmdRef) (g : Cmd → Cmd) : (s.modCmd r g).free = s.free := rfl
@[simp] theorem State.modCmd_build (r : CmdRef) (g : Cmd → Cmd) : (s.modCmd r g).build = s.build := rfl
@[simp] theorem State.modCmd_time (r : CmdRef) (g : Cmd → Cmd) : (s.modCmd r g).time = s.time := rfl
@[simp] theorem State.modCmd_slew (r : CmdRef) (g : Cmd → Cmd) : (s.modCmd r g).slew = s.slew := rfl
@[simp] theorem State.modCmd_release (r : CmdRef) (g : Cmd → Cmd) : (s.modCmd r g).release = s.release := rfl
@[simp] theorem State.modCmd_startKind (r : CmdRef) (g : Cmd → Cmd) : (s.modCmd r g).startKind = s.startKind := rfl
@[simp] theorem State.modCmd_furs (r : CmdRef) (g : Cmd → Cmd) : (s.modCmd r g).furs = s.furs := rfl
@[simp] theorem State.modCmd_ctxs (r : CmdRef) (g : Cmd → Cmd) : (s.modCmd r g).ctxs = s.ctxs := rfl
@[simp] theorem State.modCmd_segs (r : CmdRef) (g : Cmd → Cmd) : (s.modCmd r g).segs = s.segs := rfl
@[simp] theorem State.modCmd_stackPorts (r : CmdRef) (g : Cmd → Cmd) : (s.modCmd r g).stackPorts = s.stackPorts := rfl
@[simp] theorem State.modCmd_copies (r : CmdRef) (g : Cmd → Cmd) : (s.modCmd r g).copies = s.copies := rfl
@[simp] theorem State.modCmd_remotes (r : CmdRef) (g : Cmd → Cmd) : (s.modCmd r g).remotes = s.remotes := rfl
@[simp] theorem State.modCmd_fences (r : CmdRef) (g : Cmd → Cmd) : (s.modCmd r g).fences = s.fences := rfl
@[simp] theorem State.modCmd_watches (r : CmdRef) (g : Cmd → Cmd) : (s.modCmd r g).watches = s.watches := rfl
@[simp] theorem State.modCmd_accepted (r : CmdRef) (g : Cmd → Cmd) : (s.modCmd r g).accepted = s.accepted := rfl
@[simp] theorem State.modCmd_dispRR (r : CmdRef) (g : Cmd → Cmd) : (s.modCmd r g).dispRR = s.dispRR := rfl
@[simp] theorem State.modCmd_dispG (r : CmdRef) (g : Cmd → Cmd) : (s.modCmd r g).dispG = s.dispG := rfl
@[simp] theorem State.modCmd_dc (r : CmdRef) (g : Cmd → Cmd) : (s.modCmd r g).dc = s.dc := rfl
@[simp] theorem State.modCmd_gl (r : CmdRef) (g : Cmd → Cmd) : (s.modCmd r g).gl = s.gl := rfl
@[simp] theorem State.modCmd_ms (r : CmdRef) (g : Cmd → Cmd) : (s.modCmd r g).ms = s.ms := rfl
@[simp] theorem State.modCmd_rv (r : CmdRef) (g : Cmd → Cmd) : (s.modCmd r g).rv = s.rv := rfl
@[simp] theorem State.modCmd_pins (r : CmdRef) (g : Cmd → Cmd) : (s.modCmd r g).pins = s.pins := rfl
@[simp] theorem State.modCmd_flash (r : CmdRef) (g : Cmd → Cmd) : (s.modCmd r g).flash = s.flash := rfl
@[simp] theorem State.modCmd_image (r : CmdRef) (g : Cmd → Cmd) : (s.modCmd r g).image = s.image := rfl
@[simp] theorem State.modCmd_imageWork (r : CmdRef) (g : Cmd → Cmd) : (s.modCmd r g).imageWork = s.imageWork := rfl
@[simp] theorem State.modCmd_active (r : CmdRef) (g : Cmd → Cmd) : (s.modCmd r g).active = s.active := rfl
@[simp] theorem State.modCmd_keys (r : CmdRef) (g : Cmd → Cmd) : (s.modCmd r g).keys = s.keys := rfl
@[simp] theorem State.modCmd_debugOn (r : CmdRef) (g : Cmd → Cmd) : (s.modCmd r g).debugOn = s.debugOn := rfl
@[simp] theorem State.modCmd_debugScope (r : CmdRef) (g : Cmd → Cmd) : (s.modCmd r g).debugScope = s.debugScope := rfl
@[simp] theorem State.modCmd_hostRead (r : CmdRef) (g : Cmd → Cmd) : (s.modCmd r g).hostRead = s.hostRead := rfl
@[simp] theorem State.modCmd_hostMem (r : CmdRef) (g : Cmd → Cmd) : (s.modCmd r g).hostMem = s.hostMem := rfl
@[simp] theorem State.modCmd_hostBad (r : CmdRef) (g : Cmd → Cmd) : (s.modCmd r g).hostBad = s.hostBad := rfl
@[simp] theorem State.modCmd_hbm (r : CmdRef) (g : Cmd → Cmd) : (s.modCmd r g).hbm = s.hbm := rfl
@[simp] theorem State.modCmd_hbmBad (r : CmdRef) (g : Cmd → Cmd) : (s.modCmd r g).hbmBad = s.hbmBad := rfl

@[simp] theorem State.setCtx_pending (c : Nat) (x : Ctx) : (s.setCtx c x).pending = s.pending := rfl
@[simp] theorem State.setCtx_free (c : Nat) (x : Ctx) : (s.setCtx c x).free = s.free := rfl
@[simp] theorem State.setCtx_build (c : Nat) (x : Ctx) : (s.setCtx c x).build = s.build := rfl
@[simp] theorem State.setCtx_time (c : Nat) (x : Ctx) : (s.setCtx c x).time = s.time := rfl
@[simp] theorem State.setCtx_slew (c : Nat) (x : Ctx) : (s.setCtx c x).slew = s.slew := rfl
@[simp] theorem State.setCtx_release (c : Nat) (x : Ctx) : (s.setCtx c x).release = s.release := rfl
@[simp] theorem State.setCtx_startKind (c : Nat) (x : Ctx) : (s.setCtx c x).startKind = s.startKind := rfl
@[simp] theorem State.setCtx_furs (c : Nat) (x : Ctx) : (s.setCtx c x).furs = s.furs := rfl
@[simp] theorem State.setCtx_queues (c : Nat) (x : Ctx) : (s.setCtx c x).queues = s.queues := rfl
@[simp] theorem State.setCtx_segs (c : Nat) (x : Ctx) : (s.setCtx c x).segs = s.segs := rfl
@[simp] theorem State.setCtx_stackPorts (c : Nat) (x : Ctx) : (s.setCtx c x).stackPorts = s.stackPorts := rfl
@[simp] theorem State.setCtx_copies (c : Nat) (x : Ctx) : (s.setCtx c x).copies = s.copies := rfl
@[simp] theorem State.setCtx_remotes (c : Nat) (x : Ctx) : (s.setCtx c x).remotes = s.remotes := rfl
@[simp] theorem State.setCtx_fences (c : Nat) (x : Ctx) : (s.setCtx c x).fences = s.fences := rfl
@[simp] theorem State.setCtx_watches (c : Nat) (x : Ctx) : (s.setCtx c x).watches = s.watches := rfl
@[simp] theorem State.setCtx_accepted (c : Nat) (x : Ctx) : (s.setCtx c x).accepted = s.accepted := rfl
@[simp] theorem State.setCtx_dispRR (c : Nat) (x : Ctx) : (s.setCtx c x).dispRR = s.dispRR := rfl
@[simp] theorem State.setCtx_dispG (c : Nat) (x : Ctx) : (s.setCtx c x).dispG = s.dispG := rfl
@[simp] theorem State.setCtx_dc (c : Nat) (x : Ctx) : (s.setCtx c x).dc = s.dc := rfl
@[simp] theorem State.setCtx_gl (c : Nat) (x : Ctx) : (s.setCtx c x).gl = s.gl := rfl
@[simp] theorem State.setCtx_ms (c : Nat) (x : Ctx) : (s.setCtx c x).ms = s.ms := rfl
@[simp] theorem State.setCtx_rv (c : Nat) (x : Ctx) : (s.setCtx c x).rv = s.rv := rfl
@[simp] theorem State.setCtx_pins (c : Nat) (x : Ctx) : (s.setCtx c x).pins = s.pins := rfl
@[simp] theorem State.setCtx_flash (c : Nat) (x : Ctx) : (s.setCtx c x).flash = s.flash := rfl
@[simp] theorem State.setCtx_image (c : Nat) (x : Ctx) : (s.setCtx c x).image = s.image := rfl
@[simp] theorem State.setCtx_imageWork (c : Nat) (x : Ctx) : (s.setCtx c x).imageWork = s.imageWork := rfl
@[simp] theorem State.setCtx_active (c : Nat) (x : Ctx) : (s.setCtx c x).active = s.active := rfl
@[simp] theorem State.setCtx_keys (c : Nat) (x : Ctx) : (s.setCtx c x).keys = s.keys := rfl
@[simp] theorem State.setCtx_debugOn (c : Nat) (x : Ctx) : (s.setCtx c x).debugOn = s.debugOn := rfl
@[simp] theorem State.setCtx_debugScope (c : Nat) (x : Ctx) : (s.setCtx c x).debugScope = s.debugScope := rfl
@[simp] theorem State.setCtx_hostRead (c : Nat) (x : Ctx) : (s.setCtx c x).hostRead = s.hostRead := rfl
@[simp] theorem State.setCtx_hostMem (c : Nat) (x : Ctx) : (s.setCtx c x).hostMem = s.hostMem := rfl
@[simp] theorem State.setCtx_hostBad (c : Nat) (x : Ctx) : (s.setCtx c x).hostBad = s.hostBad := rfl
@[simp] theorem State.setCtx_hbm (c : Nat) (x : Ctx) : (s.setCtx c x).hbm = s.hbm := rfl
@[simp] theorem State.setCtx_hbmBad (c : Nat) (x : Ctx) : (s.setCtx c x).hbmBad = s.hbmBad := rfl

@[simp] theorem State.setSeg_pending (i : Nat) (x : Seg) : (s.setSeg i x).pending = s.pending := rfl
@[simp] theorem State.setSeg_free (i : Nat) (x : Seg) : (s.setSeg i x).free = s.free := rfl
@[simp] theorem State.setSeg_build (i : Nat) (x : Seg) : (s.setSeg i x).build = s.build := rfl
@[simp] theorem State.setSeg_time (i : Nat) (x : Seg) : (s.setSeg i x).time = s.time := rfl
@[simp] theorem State.setSeg_slew (i : Nat) (x : Seg) : (s.setSeg i x).slew = s.slew := rfl
@[simp] theorem State.setSeg_release (i : Nat) (x : Seg) : (s.setSeg i x).release = s.release := rfl
@[simp] theorem State.setSeg_startKind (i : Nat) (x : Seg) : (s.setSeg i x).startKind = s.startKind := rfl
@[simp] theorem State.setSeg_furs (i : Nat) (x : Seg) : (s.setSeg i x).furs = s.furs := rfl
@[simp] theorem State.setSeg_queues (i : Nat) (x : Seg) : (s.setSeg i x).queues = s.queues := rfl
@[simp] theorem State.setSeg_ctxs (i : Nat) (x : Seg) : (s.setSeg i x).ctxs = s.ctxs := rfl
@[simp] theorem State.setSeg_stackPorts (i : Nat) (x : Seg) : (s.setSeg i x).stackPorts = s.stackPorts := rfl
@[simp] theorem State.setSeg_copies (i : Nat) (x : Seg) : (s.setSeg i x).copies = s.copies := rfl
@[simp] theorem State.setSeg_remotes (i : Nat) (x : Seg) : (s.setSeg i x).remotes = s.remotes := rfl
@[simp] theorem State.setSeg_fences (i : Nat) (x : Seg) : (s.setSeg i x).fences = s.fences := rfl
@[simp] theorem State.setSeg_watches (i : Nat) (x : Seg) : (s.setSeg i x).watches = s.watches := rfl
@[simp] theorem State.setSeg_accepted (i : Nat) (x : Seg) : (s.setSeg i x).accepted = s.accepted := rfl
@[simp] theorem State.setSeg_dispRR (i : Nat) (x : Seg) : (s.setSeg i x).dispRR = s.dispRR := rfl
@[simp] theorem State.setSeg_dispG (i : Nat) (x : Seg) : (s.setSeg i x).dispG = s.dispG := rfl
@[simp] theorem State.setSeg_dc (i : Nat) (x : Seg) : (s.setSeg i x).dc = s.dc := rfl
@[simp] theorem State.setSeg_gl (i : Nat) (x : Seg) : (s.setSeg i x).gl = s.gl := rfl
@[simp] theorem State.setSeg_ms (i : Nat) (x : Seg) : (s.setSeg i x).ms = s.ms := rfl
@[simp] theorem State.setSeg_rv (i : Nat) (x : Seg) : (s.setSeg i x).rv = s.rv := rfl
@[simp] theorem State.setSeg_pins (i : Nat) (x : Seg) : (s.setSeg i x).pins = s.pins := rfl
@[simp] theorem State.setSeg_flash (i : Nat) (x : Seg) : (s.setSeg i x).flash = s.flash := rfl
@[simp] theorem State.setSeg_image (i : Nat) (x : Seg) : (s.setSeg i x).image = s.image := rfl
@[simp] theorem State.setSeg_imageWork (i : Nat) (x : Seg) : (s.setSeg i x).imageWork = s.imageWork := rfl
@[simp] theorem State.setSeg_active (i : Nat) (x : Seg) : (s.setSeg i x).active = s.active := rfl
@[simp] theorem State.setSeg_keys (i : Nat) (x : Seg) : (s.setSeg i x).keys = s.keys := rfl
@[simp] theorem State.setSeg_debugOn (i : Nat) (x : Seg) : (s.setSeg i x).debugOn = s.debugOn := rfl
@[simp] theorem State.setSeg_debugScope (i : Nat) (x : Seg) : (s.setSeg i x).debugScope = s.debugScope := rfl
@[simp] theorem State.setSeg_hostRead (i : Nat) (x : Seg) : (s.setSeg i x).hostRead = s.hostRead := rfl
@[simp] theorem State.setSeg_hostMem (i : Nat) (x : Seg) : (s.setSeg i x).hostMem = s.hostMem := rfl
@[simp] theorem State.setSeg_hostBad (i : Nat) (x : Seg) : (s.setSeg i x).hostBad = s.hostBad := rfl
@[simp] theorem State.setSeg_hbm (i : Nat) (x : Seg) : (s.setSeg i x).hbm = s.hbm := rfl
@[simp] theorem State.setSeg_hbmBad (i : Nat) (x : Seg) : (s.setSeg i x).hbmBad = s.hbmBad := rfl

@[simp] theorem State.setMs_pending (m : Mesh) : (s.setMs m).pending = s.pending := rfl
@[simp] theorem State.setMs_free (m : Mesh) : (s.setMs m).free = s.free := rfl
@[simp] theorem State.setMs_build (m : Mesh) : (s.setMs m).build = s.build := rfl
@[simp] theorem State.setMs_time (m : Mesh) : (s.setMs m).time = s.time := rfl
@[simp] theorem State.setMs_slew (m : Mesh) : (s.setMs m).slew = s.slew := rfl
@[simp] theorem State.setMs_release (m : Mesh) : (s.setMs m).release = s.release := rfl
@[simp] theorem State.setMs_startKind (m : Mesh) : (s.setMs m).startKind = s.startKind := rfl
@[simp] theorem State.setMs_furs (m : Mesh) : (s.setMs m).furs = s.furs := rfl
@[simp] theorem State.setMs_queues (m : Mesh) : (s.setMs m).queues = s.queues := rfl
@[simp] theorem State.setMs_ctxs (m : Mesh) : (s.setMs m).ctxs = s.ctxs := rfl
@[simp] theorem State.setMs_segs (m : Mesh) : (s.setMs m).segs = s.segs := rfl
@[simp] theorem State.setMs_stackPorts (m : Mesh) : (s.setMs m).stackPorts = s.stackPorts := rfl
@[simp] theorem State.setMs_copies (m : Mesh) : (s.setMs m).copies = s.copies := rfl
@[simp] theorem State.setMs_remotes (m : Mesh) : (s.setMs m).remotes = s.remotes := rfl
@[simp] theorem State.setMs_fences (m : Mesh) : (s.setMs m).fences = s.fences := rfl
@[simp] theorem State.setMs_watches (m : Mesh) : (s.setMs m).watches = s.watches := rfl
@[simp] theorem State.setMs_accepted (m : Mesh) : (s.setMs m).accepted = s.accepted := rfl
@[simp] theorem State.setMs_dispRR (m : Mesh) : (s.setMs m).dispRR = s.dispRR := rfl
@[simp] theorem State.setMs_dispG (m : Mesh) : (s.setMs m).dispG = s.dispG := rfl
@[simp] theorem State.setMs_dc (m : Mesh) : (s.setMs m).dc = s.dc := rfl
@[simp] theorem State.setMs_gl (m : Mesh) : (s.setMs m).gl = s.gl := rfl
@[simp] theorem State.setMs_rv (m : Mesh) : (s.setMs m).rv = s.rv := rfl
@[simp] theorem State.setMs_pins (m : Mesh) : (s.setMs m).pins = s.pins := rfl
@[simp] theorem State.setMs_flash (m : Mesh) : (s.setMs m).flash = s.flash := rfl
@[simp] theorem State.setMs_image (m : Mesh) : (s.setMs m).image = s.image := rfl
@[simp] theorem State.setMs_imageWork (m : Mesh) : (s.setMs m).imageWork = s.imageWork := rfl
@[simp] theorem State.setMs_active (m : Mesh) : (s.setMs m).active = s.active := rfl
@[simp] theorem State.setMs_keys (m : Mesh) : (s.setMs m).keys = s.keys := rfl
@[simp] theorem State.setMs_debugOn (m : Mesh) : (s.setMs m).debugOn = s.debugOn := rfl
@[simp] theorem State.setMs_debugScope (m : Mesh) : (s.setMs m).debugScope = s.debugScope := rfl
@[simp] theorem State.setMs_hostRead (m : Mesh) : (s.setMs m).hostRead = s.hostRead := rfl
@[simp] theorem State.setMs_hostMem (m : Mesh) : (s.setMs m).hostMem = s.hostMem := rfl
@[simp] theorem State.setMs_hostBad (m : Mesh) : (s.setMs m).hostBad = s.hostBad := rfl
@[simp] theorem State.setMs_hbm (m : Mesh) : (s.setMs m).hbm = s.hbm := rfl
@[simp] theorem State.setMs_hbmBad (m : Mesh) : (s.setMs m).hbmBad = s.hbmBad := rfl

@[simp] theorem State.setPort_pending (p : PortNo) (x : Port) : (s.setPort p x).pending = s.pending := rfl
@[simp] theorem State.setPort_free (p : PortNo) (x : Port) : (s.setPort p x).free = s.free := rfl
@[simp] theorem State.setPort_build (p : PortNo) (x : Port) : (s.setPort p x).build = s.build := rfl
@[simp] theorem State.setPort_time (p : PortNo) (x : Port) : (s.setPort p x).time = s.time := rfl
@[simp] theorem State.setPort_slew (p : PortNo) (x : Port) : (s.setPort p x).slew = s.slew := rfl
@[simp] theorem State.setPort_release (p : PortNo) (x : Port) : (s.setPort p x).release = s.release := rfl
@[simp] theorem State.setPort_startKind (p : PortNo) (x : Port) : (s.setPort p x).startKind = s.startKind := rfl
@[simp] theorem State.setPort_furs (p : PortNo) (x : Port) : (s.setPort p x).furs = s.furs := rfl
@[simp] theorem State.setPort_queues (p : PortNo) (x : Port) : (s.setPort p x).queues = s.queues := rfl
@[simp] theorem State.setPort_ctxs (p : PortNo) (x : Port) : (s.setPort p x).ctxs = s.ctxs := rfl
@[simp] theorem State.setPort_segs (p : PortNo) (x : Port) : (s.setPort p x).segs = s.segs := rfl
@[simp] theorem State.setPort_stackPorts (p : PortNo) (x : Port) : (s.setPort p x).stackPorts = s.stackPorts := rfl
@[simp] theorem State.setPort_copies (p : PortNo) (x : Port) : (s.setPort p x).copies = s.copies := rfl
@[simp] theorem State.setPort_remotes (p : PortNo) (x : Port) : (s.setPort p x).remotes = s.remotes := rfl
@[simp] theorem State.setPort_fences (p : PortNo) (x : Port) : (s.setPort p x).fences = s.fences := rfl
@[simp] theorem State.setPort_watches (p : PortNo) (x : Port) : (s.setPort p x).watches = s.watches := rfl
@[simp] theorem State.setPort_accepted (p : PortNo) (x : Port) : (s.setPort p x).accepted = s.accepted := rfl
@[simp] theorem State.setPort_dispRR (p : PortNo) (x : Port) : (s.setPort p x).dispRR = s.dispRR := rfl
@[simp] theorem State.setPort_dispG (p : PortNo) (x : Port) : (s.setPort p x).dispG = s.dispG := rfl
@[simp] theorem State.setPort_dc (p : PortNo) (x : Port) : (s.setPort p x).dc = s.dc := rfl
@[simp] theorem State.setPort_gl (p : PortNo) (x : Port) : (s.setPort p x).gl = s.gl := rfl
@[simp] theorem State.setPort_rv (p : PortNo) (x : Port) : (s.setPort p x).rv = s.rv := rfl
@[simp] theorem State.setPort_pins (p : PortNo) (x : Port) : (s.setPort p x).pins = s.pins := rfl
@[simp] theorem State.setPort_flash (p : PortNo) (x : Port) : (s.setPort p x).flash = s.flash := rfl
@[simp] theorem State.setPort_image (p : PortNo) (x : Port) : (s.setPort p x).image = s.image := rfl
@[simp] theorem State.setPort_imageWork (p : PortNo) (x : Port) : (s.setPort p x).imageWork = s.imageWork := rfl
@[simp] theorem State.setPort_active (p : PortNo) (x : Port) : (s.setPort p x).active = s.active := rfl
@[simp] theorem State.setPort_keys (p : PortNo) (x : Port) : (s.setPort p x).keys = s.keys := rfl
@[simp] theorem State.setPort_debugOn (p : PortNo) (x : Port) : (s.setPort p x).debugOn = s.debugOn := rfl
@[simp] theorem State.setPort_debugScope (p : PortNo) (x : Port) : (s.setPort p x).debugScope = s.debugScope := rfl
@[simp] theorem State.setPort_hostRead (p : PortNo) (x : Port) : (s.setPort p x).hostRead = s.hostRead := rfl
@[simp] theorem State.setPort_hostMem (p : PortNo) (x : Port) : (s.setPort p x).hostMem = s.hostMem := rfl
@[simp] theorem State.setPort_hostBad (p : PortNo) (x : Port) : (s.setPort p x).hostBad = s.hostBad := rfl
@[simp] theorem State.setPort_hbm (p : PortNo) (x : Port) : (s.setPort p x).hbm = s.hbm := rfl
@[simp] theorem State.setPort_hbmBad (p : PortNo) (x : Port) : (s.setPort p x).hbmBad = s.hbmBad := rfl

@[simp] theorem State.setAct_pending (k : Fin 16) (x : Activity) : (s.setAct k x).pending = s.pending := rfl
@[simp] theorem State.setAct_free (k : Fin 16) (x : Activity) : (s.setAct k x).free = s.free := rfl
@[simp] theorem State.setAct_build (k : Fin 16) (x : Activity) : (s.setAct k x).build = s.build := rfl
@[simp] theorem State.setAct_time (k : Fin 16) (x : Activity) : (s.setAct k x).time = s.time := rfl
@[simp] theorem State.setAct_slew (k : Fin 16) (x : Activity) : (s.setAct k x).slew = s.slew := rfl
@[simp] theorem State.setAct_release (k : Fin 16) (x : Activity) : (s.setAct k x).release = s.release := rfl
@[simp] theorem State.setAct_startKind (k : Fin 16) (x : Activity) : (s.setAct k x).startKind = s.startKind := rfl
@[simp] theorem State.setAct_furs (k : Fin 16) (x : Activity) : (s.setAct k x).furs = s.furs := rfl
@[simp] theorem State.setAct_queues (k : Fin 16) (x : Activity) : (s.setAct k x).queues = s.queues := rfl
@[simp] theorem State.setAct_ctxs (k : Fin 16) (x : Activity) : (s.setAct k x).ctxs = s.ctxs := rfl
@[simp] theorem State.setAct_segs (k : Fin 16) (x : Activity) : (s.setAct k x).segs = s.segs := rfl
@[simp] theorem State.setAct_stackPorts (k : Fin 16) (x : Activity) : (s.setAct k x).stackPorts = s.stackPorts := rfl
@[simp] theorem State.setAct_copies (k : Fin 16) (x : Activity) : (s.setAct k x).copies = s.copies := rfl
@[simp] theorem State.setAct_remotes (k : Fin 16) (x : Activity) : (s.setAct k x).remotes = s.remotes := rfl
@[simp] theorem State.setAct_fences (k : Fin 16) (x : Activity) : (s.setAct k x).fences = s.fences := rfl
@[simp] theorem State.setAct_watches (k : Fin 16) (x : Activity) : (s.setAct k x).watches = s.watches := rfl
@[simp] theorem State.setAct_accepted (k : Fin 16) (x : Activity) : (s.setAct k x).accepted = s.accepted := rfl
@[simp] theorem State.setAct_dispRR (k : Fin 16) (x : Activity) : (s.setAct k x).dispRR = s.dispRR := rfl
@[simp] theorem State.setAct_dispG (k : Fin 16) (x : Activity) : (s.setAct k x).dispG = s.dispG := rfl
@[simp] theorem State.setAct_dc (k : Fin 16) (x : Activity) : (s.setAct k x).dc = s.dc := rfl
@[simp] theorem State.setAct_gl (k : Fin 16) (x : Activity) : (s.setAct k x).gl = s.gl := rfl
@[simp] theorem State.setAct_ms (k : Fin 16) (x : Activity) : (s.setAct k x).ms = s.ms := rfl
@[simp] theorem State.setAct_pins (k : Fin 16) (x : Activity) : (s.setAct k x).pins = s.pins := rfl
@[simp] theorem State.setAct_flash (k : Fin 16) (x : Activity) : (s.setAct k x).flash = s.flash := rfl
@[simp] theorem State.setAct_image (k : Fin 16) (x : Activity) : (s.setAct k x).image = s.image := rfl
@[simp] theorem State.setAct_imageWork (k : Fin 16) (x : Activity) : (s.setAct k x).imageWork = s.imageWork := rfl
@[simp] theorem State.setAct_active (k : Fin 16) (x : Activity) : (s.setAct k x).active = s.active := rfl
@[simp] theorem State.setAct_keys (k : Fin 16) (x : Activity) : (s.setAct k x).keys = s.keys := rfl
@[simp] theorem State.setAct_debugOn (k : Fin 16) (x : Activity) : (s.setAct k x).debugOn = s.debugOn := rfl
@[simp] theorem State.setAct_debugScope (k : Fin 16) (x : Activity) : (s.setAct k x).debugScope = s.debugScope := rfl
@[simp] theorem State.setAct_hostRead (k : Fin 16) (x : Activity) : (s.setAct k x).hostRead = s.hostRead := rfl
@[simp] theorem State.setAct_hostMem (k : Fin 16) (x : Activity) : (s.setAct k x).hostMem = s.hostMem := rfl
@[simp] theorem State.setAct_hostBad (k : Fin 16) (x : Activity) : (s.setAct k x).hostBad = s.hostBad := rfl
@[simp] theorem State.setAct_hbm (k : Fin 16) (x : Activity) : (s.setAct k x).hbm = s.hbm := rfl
@[simp] theorem State.setAct_hbmBad (k : Fin 16) (x : Activity) : (s.setAct k x).hbmBad = s.hbmBad := rfl

@[simp] theorem State.setWatch_pending (k : Fin 256) (x : Watch) : (s.setWatch k x).pending = s.pending := rfl
@[simp] theorem State.setWatch_free (k : Fin 256) (x : Watch) : (s.setWatch k x).free = s.free := rfl
@[simp] theorem State.setWatch_build (k : Fin 256) (x : Watch) : (s.setWatch k x).build = s.build := rfl
@[simp] theorem State.setWatch_time (k : Fin 256) (x : Watch) : (s.setWatch k x).time = s.time := rfl
@[simp] theorem State.setWatch_slew (k : Fin 256) (x : Watch) : (s.setWatch k x).slew = s.slew := rfl
@[simp] theorem State.setWatch_release (k : Fin 256) (x : Watch) : (s.setWatch k x).release = s.release := rfl
@[simp] theorem State.setWatch_startKind (k : Fin 256) (x : Watch) : (s.setWatch k x).startKind = s.startKind := rfl
@[simp] theorem State.setWatch_furs (k : Fin 256) (x : Watch) : (s.setWatch k x).furs = s.furs := rfl
@[simp] theorem State.setWatch_queues (k : Fin 256) (x : Watch) : (s.setWatch k x).queues = s.queues := rfl
@[simp] theorem State.setWatch_ctxs (k : Fin 256) (x : Watch) : (s.setWatch k x).ctxs = s.ctxs := rfl
@[simp] theorem State.setWatch_segs (k : Fin 256) (x : Watch) : (s.setWatch k x).segs = s.segs := rfl
@[simp] theorem State.setWatch_stackPorts (k : Fin 256) (x : Watch) : (s.setWatch k x).stackPorts = s.stackPorts := rfl
@[simp] theorem State.setWatch_copies (k : Fin 256) (x : Watch) : (s.setWatch k x).copies = s.copies := rfl
@[simp] theorem State.setWatch_remotes (k : Fin 256) (x : Watch) : (s.setWatch k x).remotes = s.remotes := rfl
@[simp] theorem State.setWatch_fences (k : Fin 256) (x : Watch) : (s.setWatch k x).fences = s.fences := rfl
@[simp] theorem State.setWatch_accepted (k : Fin 256) (x : Watch) : (s.setWatch k x).accepted = s.accepted := rfl
@[simp] theorem State.setWatch_dispRR (k : Fin 256) (x : Watch) : (s.setWatch k x).dispRR = s.dispRR := rfl
@[simp] theorem State.setWatch_dispG (k : Fin 256) (x : Watch) : (s.setWatch k x).dispG = s.dispG := rfl
@[simp] theorem State.setWatch_dc (k : Fin 256) (x : Watch) : (s.setWatch k x).dc = s.dc := rfl
@[simp] theorem State.setWatch_gl (k : Fin 256) (x : Watch) : (s.setWatch k x).gl = s.gl := rfl
@[simp] theorem State.setWatch_ms (k : Fin 256) (x : Watch) : (s.setWatch k x).ms = s.ms := rfl
@[simp] theorem State.setWatch_rv (k : Fin 256) (x : Watch) : (s.setWatch k x).rv = s.rv := rfl
@[simp] theorem State.setWatch_pins (k : Fin 256) (x : Watch) : (s.setWatch k x).pins = s.pins := rfl
@[simp] theorem State.setWatch_flash (k : Fin 256) (x : Watch) : (s.setWatch k x).flash = s.flash := rfl
@[simp] theorem State.setWatch_image (k : Fin 256) (x : Watch) : (s.setWatch k x).image = s.image := rfl
@[simp] theorem State.setWatch_imageWork (k : Fin 256) (x : Watch) : (s.setWatch k x).imageWork = s.imageWork := rfl
@[simp] theorem State.setWatch_active (k : Fin 256) (x : Watch) : (s.setWatch k x).active = s.active := rfl
@[simp] theorem State.setWatch_keys (k : Fin 256) (x : Watch) : (s.setWatch k x).keys = s.keys := rfl
@[simp] theorem State.setWatch_debugOn (k : Fin 256) (x : Watch) : (s.setWatch k x).debugOn = s.debugOn := rfl
@[simp] theorem State.setWatch_debugScope (k : Fin 256) (x : Watch) : (s.setWatch k x).debugScope = s.debugScope := rfl
@[simp] theorem State.setWatch_hostRead (k : Fin 256) (x : Watch) : (s.setWatch k x).hostRead = s.hostRead := rfl
@[simp] theorem State.setWatch_hostMem (k : Fin 256) (x : Watch) : (s.setWatch k x).hostMem = s.hostMem := rfl
@[simp] theorem State.setWatch_hostBad (k : Fin 256) (x : Watch) : (s.setWatch k x).hostBad = s.hostBad := rfl
@[simp] theorem State.setWatch_hbm (k : Fin 256) (x : Watch) : (s.setWatch k x).hbm = s.hbm := rfl
@[simp] theorem State.setWatch_hbmBad (k : Fin 256) (x : Watch) : (s.setWatch k x).hbmBad = s.hbmBad := rfl

@[simp] theorem State.hostWr_pending (a : Nat) (bs : List Byte) : (s.hostWr a bs).pending = s.pending := rfl
@[simp] theorem State.hostWr_free (a : Nat) (bs : List Byte) : (s.hostWr a bs).free = s.free := rfl
@[simp] theorem State.hostWr_build (a : Nat) (bs : List Byte) : (s.hostWr a bs).build = s.build := rfl
@[simp] theorem State.hostWr_time (a : Nat) (bs : List Byte) : (s.hostWr a bs).time = s.time := rfl
@[simp] theorem State.hostWr_slew (a : Nat) (bs : List Byte) : (s.hostWr a bs).slew = s.slew := rfl
@[simp] theorem State.hostWr_release (a : Nat) (bs : List Byte) : (s.hostWr a bs).release = s.release := rfl
@[simp] theorem State.hostWr_startKind (a : Nat) (bs : List Byte) : (s.hostWr a bs).startKind = s.startKind := rfl
@[simp] theorem State.hostWr_furs (a : Nat) (bs : List Byte) : (s.hostWr a bs).furs = s.furs := rfl
@[simp] theorem State.hostWr_queues (a : Nat) (bs : List Byte) : (s.hostWr a bs).queues = s.queues := rfl
@[simp] theorem State.hostWr_ctxs (a : Nat) (bs : List Byte) : (s.hostWr a bs).ctxs = s.ctxs := rfl
@[simp] theorem State.hostWr_segs (a : Nat) (bs : List Byte) : (s.hostWr a bs).segs = s.segs := rfl
@[simp] theorem State.hostWr_stackPorts (a : Nat) (bs : List Byte) : (s.hostWr a bs).stackPorts = s.stackPorts := rfl
@[simp] theorem State.hostWr_copies (a : Nat) (bs : List Byte) : (s.hostWr a bs).copies = s.copies := rfl
@[simp] theorem State.hostWr_remotes (a : Nat) (bs : List Byte) : (s.hostWr a bs).remotes = s.remotes := rfl
@[simp] theorem State.hostWr_fences (a : Nat) (bs : List Byte) : (s.hostWr a bs).fences = s.fences := rfl
@[simp] theorem State.hostWr_watches (a : Nat) (bs : List Byte) : (s.hostWr a bs).watches = s.watches := rfl
@[simp] theorem State.hostWr_accepted (a : Nat) (bs : List Byte) : (s.hostWr a bs).accepted = s.accepted := rfl
@[simp] theorem State.hostWr_dispRR (a : Nat) (bs : List Byte) : (s.hostWr a bs).dispRR = s.dispRR := rfl
@[simp] theorem State.hostWr_dispG (a : Nat) (bs : List Byte) : (s.hostWr a bs).dispG = s.dispG := rfl
@[simp] theorem State.hostWr_dc (a : Nat) (bs : List Byte) : (s.hostWr a bs).dc = s.dc := rfl
@[simp] theorem State.hostWr_gl (a : Nat) (bs : List Byte) : (s.hostWr a bs).gl = s.gl := rfl
@[simp] theorem State.hostWr_ms (a : Nat) (bs : List Byte) : (s.hostWr a bs).ms = s.ms := rfl
@[simp] theorem State.hostWr_rv (a : Nat) (bs : List Byte) : (s.hostWr a bs).rv = s.rv := rfl
@[simp] theorem State.hostWr_pins (a : Nat) (bs : List Byte) : (s.hostWr a bs).pins = s.pins := rfl
@[simp] theorem State.hostWr_flash (a : Nat) (bs : List Byte) : (s.hostWr a bs).flash = s.flash := rfl
@[simp] theorem State.hostWr_image (a : Nat) (bs : List Byte) : (s.hostWr a bs).image = s.image := rfl
@[simp] theorem State.hostWr_imageWork (a : Nat) (bs : List Byte) : (s.hostWr a bs).imageWork = s.imageWork := rfl
@[simp] theorem State.hostWr_active (a : Nat) (bs : List Byte) : (s.hostWr a bs).active = s.active := rfl
@[simp] theorem State.hostWr_keys (a : Nat) (bs : List Byte) : (s.hostWr a bs).keys = s.keys := rfl
@[simp] theorem State.hostWr_debugOn (a : Nat) (bs : List Byte) : (s.hostWr a bs).debugOn = s.debugOn := rfl
@[simp] theorem State.hostWr_debugScope (a : Nat) (bs : List Byte) : (s.hostWr a bs).debugScope = s.debugScope := rfl
@[simp] theorem State.hostWr_hostRead (a : Nat) (bs : List Byte) : (s.hostWr a bs).hostRead = s.hostRead := rfl
@[simp] theorem State.hostWr_hbm (a : Nat) (bs : List Byte) : (s.hostWr a bs).hbm = s.hbm := rfl
@[simp] theorem State.hostWr_hbmBad (a : Nat) (bs : List Byte) : (s.hostWr a bs).hbmBad = s.hbmBad := rfl

@[simp] theorem State.hbmWr_pending (a : Nat) (bs : List Byte) (bad : Bool) : (s.hbmWr a bs bad).pending = s.pending := rfl
@[simp] theorem State.hbmWr_free (a : Nat) (bs : List Byte) (bad : Bool) : (s.hbmWr a bs bad).free = s.free := rfl
@[simp] theorem State.hbmWr_build (a : Nat) (bs : List Byte) (bad : Bool) : (s.hbmWr a bs bad).build = s.build := rfl
@[simp] theorem State.hbmWr_time (a : Nat) (bs : List Byte) (bad : Bool) : (s.hbmWr a bs bad).time = s.time := rfl
@[simp] theorem State.hbmWr_slew (a : Nat) (bs : List Byte) (bad : Bool) : (s.hbmWr a bs bad).slew = s.slew := rfl
@[simp] theorem State.hbmWr_release (a : Nat) (bs : List Byte) (bad : Bool) : (s.hbmWr a bs bad).release = s.release := rfl
@[simp] theorem State.hbmWr_startKind (a : Nat) (bs : List Byte) (bad : Bool) : (s.hbmWr a bs bad).startKind = s.startKind := rfl
@[simp] theorem State.hbmWr_furs (a : Nat) (bs : List Byte) (bad : Bool) : (s.hbmWr a bs bad).furs = s.furs := rfl
@[simp] theorem State.hbmWr_queues (a : Nat) (bs : List Byte) (bad : Bool) : (s.hbmWr a bs bad).queues = s.queues := rfl
@[simp] theorem State.hbmWr_ctxs (a : Nat) (bs : List Byte) (bad : Bool) : (s.hbmWr a bs bad).ctxs = s.ctxs := rfl
@[simp] theorem State.hbmWr_segs (a : Nat) (bs : List Byte) (bad : Bool) : (s.hbmWr a bs bad).segs = s.segs := rfl
@[simp] theorem State.hbmWr_stackPorts (a : Nat) (bs : List Byte) (bad : Bool) : (s.hbmWr a bs bad).stackPorts = s.stackPorts := rfl
@[simp] theorem State.hbmWr_copies (a : Nat) (bs : List Byte) (bad : Bool) : (s.hbmWr a bs bad).copies = s.copies := rfl
@[simp] theorem State.hbmWr_remotes (a : Nat) (bs : List Byte) (bad : Bool) : (s.hbmWr a bs bad).remotes = s.remotes := rfl
@[simp] theorem State.hbmWr_fences (a : Nat) (bs : List Byte) (bad : Bool) : (s.hbmWr a bs bad).fences = s.fences := rfl
@[simp] theorem State.hbmWr_watches (a : Nat) (bs : List Byte) (bad : Bool) : (s.hbmWr a bs bad).watches = s.watches := rfl
@[simp] theorem State.hbmWr_accepted (a : Nat) (bs : List Byte) (bad : Bool) : (s.hbmWr a bs bad).accepted = s.accepted := rfl
@[simp] theorem State.hbmWr_dispRR (a : Nat) (bs : List Byte) (bad : Bool) : (s.hbmWr a bs bad).dispRR = s.dispRR := rfl
@[simp] theorem State.hbmWr_dispG (a : Nat) (bs : List Byte) (bad : Bool) : (s.hbmWr a bs bad).dispG = s.dispG := rfl
@[simp] theorem State.hbmWr_dc (a : Nat) (bs : List Byte) (bad : Bool) : (s.hbmWr a bs bad).dc = s.dc := rfl
@[simp] theorem State.hbmWr_gl (a : Nat) (bs : List Byte) (bad : Bool) : (s.hbmWr a bs bad).gl = s.gl := rfl
@[simp] theorem State.hbmWr_ms (a : Nat) (bs : List Byte) (bad : Bool) : (s.hbmWr a bs bad).ms = s.ms := rfl
@[simp] theorem State.hbmWr_rv (a : Nat) (bs : List Byte) (bad : Bool) : (s.hbmWr a bs bad).rv = s.rv := rfl
@[simp] theorem State.hbmWr_pins (a : Nat) (bs : List Byte) (bad : Bool) : (s.hbmWr a bs bad).pins = s.pins := rfl
@[simp] theorem State.hbmWr_flash (a : Nat) (bs : List Byte) (bad : Bool) : (s.hbmWr a bs bad).flash = s.flash := rfl
@[simp] theorem State.hbmWr_image (a : Nat) (bs : List Byte) (bad : Bool) : (s.hbmWr a bs bad).image = s.image := rfl
@[simp] theorem State.hbmWr_imageWork (a : Nat) (bs : List Byte) (bad : Bool) : (s.hbmWr a bs bad).imageWork = s.imageWork := rfl
@[simp] theorem State.hbmWr_active (a : Nat) (bs : List Byte) (bad : Bool) : (s.hbmWr a bs bad).active = s.active := rfl
@[simp] theorem State.hbmWr_keys (a : Nat) (bs : List Byte) (bad : Bool) : (s.hbmWr a bs bad).keys = s.keys := rfl
@[simp] theorem State.hbmWr_debugOn (a : Nat) (bs : List Byte) (bad : Bool) : (s.hbmWr a bs bad).debugOn = s.debugOn := rfl
@[simp] theorem State.hbmWr_debugScope (a : Nat) (bs : List Byte) (bad : Bool) : (s.hbmWr a bs bad).debugScope = s.debugScope := rfl
@[simp] theorem State.hbmWr_hostRead (a : Nat) (bs : List Byte) (bad : Bool) : (s.hbmWr a bs bad).hostRead = s.hostRead := rfl
@[simp] theorem State.hbmWr_hostMem (a : Nat) (bs : List Byte) (bad : Bool) : (s.hbmWr a bs bad).hostMem = s.hostMem := rfl
@[simp] theorem State.hbmWr_hostBad (a : Nat) (bs : List Byte) (bad : Bool) : (s.hbmWr a bs bad).hostBad = s.hostBad := rfl

@[simp] theorem State.bumpFree_pending : (s.bumpFree).pending = s.pending := rfl
@[simp] theorem State.bumpFree_build : (s.bumpFree).build = s.build := rfl
@[simp] theorem State.bumpFree_time : (s.bumpFree).time = s.time := rfl
@[simp] theorem State.bumpFree_slew : (s.bumpFree).slew = s.slew := rfl
@[simp] theorem State.bumpFree_release : (s.bumpFree).release = s.release := rfl
@[simp] theorem State.bumpFree_startKind : (s.bumpFree).startKind = s.startKind := rfl
@[simp] theorem State.bumpFree_furs : (s.bumpFree).furs = s.furs := rfl
@[simp] theorem State.bumpFree_queues : (s.bumpFree).queues = s.queues := rfl
@[simp] theorem State.bumpFree_ctxs : (s.bumpFree).ctxs = s.ctxs := rfl
@[simp] theorem State.bumpFree_segs : (s.bumpFree).segs = s.segs := rfl
@[simp] theorem State.bumpFree_stackPorts : (s.bumpFree).stackPorts = s.stackPorts := rfl
@[simp] theorem State.bumpFree_copies : (s.bumpFree).copies = s.copies := rfl
@[simp] theorem State.bumpFree_remotes : (s.bumpFree).remotes = s.remotes := rfl
@[simp] theorem State.bumpFree_fences : (s.bumpFree).fences = s.fences := rfl
@[simp] theorem State.bumpFree_watches : (s.bumpFree).watches = s.watches := rfl
@[simp] theorem State.bumpFree_accepted : (s.bumpFree).accepted = s.accepted := rfl
@[simp] theorem State.bumpFree_dispRR : (s.bumpFree).dispRR = s.dispRR := rfl
@[simp] theorem State.bumpFree_dispG : (s.bumpFree).dispG = s.dispG := rfl
@[simp] theorem State.bumpFree_dc : (s.bumpFree).dc = s.dc := rfl
@[simp] theorem State.bumpFree_gl : (s.bumpFree).gl = s.gl := rfl
@[simp] theorem State.bumpFree_ms : (s.bumpFree).ms = s.ms := rfl
@[simp] theorem State.bumpFree_rv : (s.bumpFree).rv = s.rv := rfl
@[simp] theorem State.bumpFree_pins : (s.bumpFree).pins = s.pins := rfl
@[simp] theorem State.bumpFree_flash : (s.bumpFree).flash = s.flash := rfl
@[simp] theorem State.bumpFree_image : (s.bumpFree).image = s.image := rfl
@[simp] theorem State.bumpFree_imageWork : (s.bumpFree).imageWork = s.imageWork := rfl
@[simp] theorem State.bumpFree_active : (s.bumpFree).active = s.active := rfl
@[simp] theorem State.bumpFree_keys : (s.bumpFree).keys = s.keys := rfl
@[simp] theorem State.bumpFree_debugOn : (s.bumpFree).debugOn = s.debugOn := rfl
@[simp] theorem State.bumpFree_debugScope : (s.bumpFree).debugScope = s.debugScope := rfl
@[simp] theorem State.bumpFree_hostRead : (s.bumpFree).hostRead = s.hostRead := rfl
@[simp] theorem State.bumpFree_hostMem : (s.bumpFree).hostMem = s.hostMem := rfl
@[simp] theorem State.bumpFree_hostBad : (s.bumpFree).hostBad = s.hostBad := rfl
@[simp] theorem State.bumpFree_hbm : (s.bumpFree).hbm = s.hbm := rfl
@[simp] theorem State.bumpFree_hbmBad : (s.bumpFree).hbmBad = s.hbmBad := rfl

@[simp] theorem State.setRead_pending (v : W64) : (s.setRead v).pending = s.pending := rfl
@[simp] theorem State.setRead_free (v : W64) : (s.setRead v).free = s.free := rfl
@[simp] theorem State.setRead_build (v : W64) : (s.setRead v).build = s.build := rfl
@[simp] theorem State.setRead_time (v : W64) : (s.setRead v).time = s.time := rfl
@[simp] theorem State.setRead_slew (v : W64) : (s.setRead v).slew = s.slew := rfl
@[simp] theorem State.setRead_release (v : W64) : (s.setRead v).release = s.release := rfl
@[simp] theorem State.setRead_startKind (v : W64) : (s.setRead v).startKind = s.startKind := rfl
@[simp] theorem State.setRead_furs (v : W64) : (s.setRead v).furs = s.furs := rfl
@[simp] theorem State.setRead_queues (v : W64) : (s.setRead v).queues = s.queues := rfl
@[simp] theorem State.setRead_ctxs (v : W64) : (s.setRead v).ctxs = s.ctxs := rfl
@[simp] theorem State.setRead_segs (v : W64) : (s.setRead v).segs = s.segs := rfl
@[simp] theorem State.setRead_stackPorts (v : W64) : (s.setRead v).stackPorts = s.stackPorts := rfl
@[simp] theorem State.setRead_copies (v : W64) : (s.setRead v).copies = s.copies := rfl
@[simp] theorem State.setRead_remotes (v : W64) : (s.setRead v).remotes = s.remotes := rfl
@[simp] theorem State.setRead_fences (v : W64) : (s.setRead v).fences = s.fences := rfl
@[simp] theorem State.setRead_watches (v : W64) : (s.setRead v).watches = s.watches := rfl
@[simp] theorem State.setRead_accepted (v : W64) : (s.setRead v).accepted = s.accepted := rfl
@[simp] theorem State.setRead_dispRR (v : W64) : (s.setRead v).dispRR = s.dispRR := rfl
@[simp] theorem State.setRead_dispG (v : W64) : (s.setRead v).dispG = s.dispG := rfl
@[simp] theorem State.setRead_dc (v : W64) : (s.setRead v).dc = s.dc := rfl
@[simp] theorem State.setRead_gl (v : W64) : (s.setRead v).gl = s.gl := rfl
@[simp] theorem State.setRead_ms (v : W64) : (s.setRead v).ms = s.ms := rfl
@[simp] theorem State.setRead_rv (v : W64) : (s.setRead v).rv = s.rv := rfl
@[simp] theorem State.setRead_pins (v : W64) : (s.setRead v).pins = s.pins := rfl
@[simp] theorem State.setRead_flash (v : W64) : (s.setRead v).flash = s.flash := rfl
@[simp] theorem State.setRead_image (v : W64) : (s.setRead v).image = s.image := rfl
@[simp] theorem State.setRead_imageWork (v : W64) : (s.setRead v).imageWork = s.imageWork := rfl
@[simp] theorem State.setRead_active (v : W64) : (s.setRead v).active = s.active := rfl
@[simp] theorem State.setRead_keys (v : W64) : (s.setRead v).keys = s.keys := rfl
@[simp] theorem State.setRead_debugOn (v : W64) : (s.setRead v).debugOn = s.debugOn := rfl
@[simp] theorem State.setRead_debugScope (v : W64) : (s.setRead v).debugScope = s.debugScope := rfl
@[simp] theorem State.setRead_hostMem (v : W64) : (s.setRead v).hostMem = s.hostMem := rfl
@[simp] theorem State.setRead_hostBad (v : W64) : (s.setRead v).hostBad = s.hostBad := rfl
@[simp] theorem State.setRead_hbm (v : W64) : (s.setRead v).hbm = s.hbm := rfl
@[simp] theorem State.setRead_hbmBad (v : W64) : (s.setRead v).hbmBad = s.hbmBad := rfl

@[simp] theorem State.addRec_pending (x : Recov) : (s.addRec x).pending = s.pending := rfl
@[simp] theorem State.addRec_free (x : Recov) : (s.addRec x).free = s.free := rfl
@[simp] theorem State.addRec_build (x : Recov) : (s.addRec x).build = s.build := rfl
@[simp] theorem State.addRec_time (x : Recov) : (s.addRec x).time = s.time := rfl
@[simp] theorem State.addRec_slew (x : Recov) : (s.addRec x).slew = s.slew := rfl
@[simp] theorem State.addRec_release (x : Recov) : (s.addRec x).release = s.release := rfl
@[simp] theorem State.addRec_startKind (x : Recov) : (s.addRec x).startKind = s.startKind := rfl
@[simp] theorem State.addRec_furs (x : Recov) : (s.addRec x).furs = s.furs := rfl
@[simp] theorem State.addRec_queues (x : Recov) : (s.addRec x).queues = s.queues := rfl
@[simp] theorem State.addRec_ctxs (x : Recov) : (s.addRec x).ctxs = s.ctxs := rfl
@[simp] theorem State.addRec_segs (x : Recov) : (s.addRec x).segs = s.segs := rfl
@[simp] theorem State.addRec_stackPorts (x : Recov) : (s.addRec x).stackPorts = s.stackPorts := rfl
@[simp] theorem State.addRec_copies (x : Recov) : (s.addRec x).copies = s.copies := rfl
@[simp] theorem State.addRec_remotes (x : Recov) : (s.addRec x).remotes = s.remotes := rfl
@[simp] theorem State.addRec_fences (x : Recov) : (s.addRec x).fences = s.fences := rfl
@[simp] theorem State.addRec_watches (x : Recov) : (s.addRec x).watches = s.watches := rfl
@[simp] theorem State.addRec_accepted (x : Recov) : (s.addRec x).accepted = s.accepted := rfl
@[simp] theorem State.addRec_dispRR (x : Recov) : (s.addRec x).dispRR = s.dispRR := rfl
@[simp] theorem State.addRec_dispG (x : Recov) : (s.addRec x).dispG = s.dispG := rfl
@[simp] theorem State.addRec_gl (x : Recov) : (s.addRec x).gl = s.gl := rfl
@[simp] theorem State.addRec_ms (x : Recov) : (s.addRec x).ms = s.ms := rfl
@[simp] theorem State.addRec_rv (x : Recov) : (s.addRec x).rv = s.rv := rfl
@[simp] theorem State.addRec_pins (x : Recov) : (s.addRec x).pins = s.pins := rfl
@[simp] theorem State.addRec_flash (x : Recov) : (s.addRec x).flash = s.flash := rfl
@[simp] theorem State.addRec_image (x : Recov) : (s.addRec x).image = s.image := rfl
@[simp] theorem State.addRec_imageWork (x : Recov) : (s.addRec x).imageWork = s.imageWork := rfl
@[simp] theorem State.addRec_active (x : Recov) : (s.addRec x).active = s.active := rfl
@[simp] theorem State.addRec_keys (x : Recov) : (s.addRec x).keys = s.keys := rfl
@[simp] theorem State.addRec_debugOn (x : Recov) : (s.addRec x).debugOn = s.debugOn := rfl
@[simp] theorem State.addRec_debugScope (x : Recov) : (s.addRec x).debugScope = s.debugScope := rfl
@[simp] theorem State.addRec_hostRead (x : Recov) : (s.addRec x).hostRead = s.hostRead := rfl
@[simp] theorem State.addRec_hostMem (x : Recov) : (s.addRec x).hostMem = s.hostMem := rfl
@[simp] theorem State.addRec_hostBad (x : Recov) : (s.addRec x).hostBad = s.hostBad := rfl
@[simp] theorem State.addRec_hbm (x : Recov) : (s.addRec x).hbm = s.hbm := rfl
@[simp] theorem State.addRec_hbmBad (x : Recov) : (s.addRec x).hbmBad = s.hbmBad := rfl

@[simp] theorem State.dropRec_pending (r : RecDomain) : (s.dropRec r).pending = s.pending := rfl
@[simp] theorem State.dropRec_free (r : RecDomain) : (s.dropRec r).free = s.free := rfl
@[simp] theorem State.dropRec_build (r : RecDomain) : (s.dropRec r).build = s.build := rfl
@[simp] theorem State.dropRec_time (r : RecDomain) : (s.dropRec r).time = s.time := rfl
@[simp] theorem State.dropRec_slew (r : RecDomain) : (s.dropRec r).slew = s.slew := rfl
@[simp] theorem State.dropRec_release (r : RecDomain) : (s.dropRec r).release = s.release := rfl
@[simp] theorem State.dropRec_startKind (r : RecDomain) : (s.dropRec r).startKind = s.startKind := rfl
@[simp] theorem State.dropRec_furs (r : RecDomain) : (s.dropRec r).furs = s.furs := rfl
@[simp] theorem State.dropRec_queues (r : RecDomain) : (s.dropRec r).queues = s.queues := rfl
@[simp] theorem State.dropRec_ctxs (r : RecDomain) : (s.dropRec r).ctxs = s.ctxs := rfl
@[simp] theorem State.dropRec_segs (r : RecDomain) : (s.dropRec r).segs = s.segs := rfl
@[simp] theorem State.dropRec_stackPorts (r : RecDomain) : (s.dropRec r).stackPorts = s.stackPorts := rfl
@[simp] theorem State.dropRec_copies (r : RecDomain) : (s.dropRec r).copies = s.copies := rfl
@[simp] theorem State.dropRec_remotes (r : RecDomain) : (s.dropRec r).remotes = s.remotes := rfl
@[simp] theorem State.dropRec_fences (r : RecDomain) : (s.dropRec r).fences = s.fences := rfl
@[simp] theorem State.dropRec_watches (r : RecDomain) : (s.dropRec r).watches = s.watches := rfl
@[simp] theorem State.dropRec_accepted (r : RecDomain) : (s.dropRec r).accepted = s.accepted := rfl
@[simp] theorem State.dropRec_dispRR (r : RecDomain) : (s.dropRec r).dispRR = s.dispRR := rfl
@[simp] theorem State.dropRec_dispG (r : RecDomain) : (s.dropRec r).dispG = s.dispG := rfl
@[simp] theorem State.dropRec_gl (r : RecDomain) : (s.dropRec r).gl = s.gl := rfl
@[simp] theorem State.dropRec_ms (r : RecDomain) : (s.dropRec r).ms = s.ms := rfl
@[simp] theorem State.dropRec_rv (r : RecDomain) : (s.dropRec r).rv = s.rv := rfl
@[simp] theorem State.dropRec_pins (r : RecDomain) : (s.dropRec r).pins = s.pins := rfl
@[simp] theorem State.dropRec_flash (r : RecDomain) : (s.dropRec r).flash = s.flash := rfl
@[simp] theorem State.dropRec_image (r : RecDomain) : (s.dropRec r).image = s.image := rfl
@[simp] theorem State.dropRec_imageWork (r : RecDomain) : (s.dropRec r).imageWork = s.imageWork := rfl
@[simp] theorem State.dropRec_active (r : RecDomain) : (s.dropRec r).active = s.active := rfl
@[simp] theorem State.dropRec_keys (r : RecDomain) : (s.dropRec r).keys = s.keys := rfl
@[simp] theorem State.dropRec_debugOn (r : RecDomain) : (s.dropRec r).debugOn = s.debugOn := rfl
@[simp] theorem State.dropRec_debugScope (r : RecDomain) : (s.dropRec r).debugScope = s.debugScope := rfl
@[simp] theorem State.dropRec_hostRead (r : RecDomain) : (s.dropRec r).hostRead = s.hostRead := rfl
@[simp] theorem State.dropRec_hostMem (r : RecDomain) : (s.dropRec r).hostMem = s.hostMem := rfl
@[simp] theorem State.dropRec_hostBad (r : RecDomain) : (s.dropRec r).hostBad = s.hostBad := rfl
@[simp] theorem State.dropRec_hbm (r : RecDomain) : (s.dropRec r).hbm = s.hbm := rfl
@[simp] theorem State.dropRec_hbmBad (r : RecDomain) : (s.dropRec r).hbmBad = s.hbmBad := rfl

@[simp] theorem State.noteRecovery_pending (level code : Nat) (scope : Scope) (fur : Nat) (esc req : Bool) : (s.noteRecovery level code scope fur esc req).pending = s.pending := rfl
@[simp] theorem State.noteRecovery_free (level code : Nat) (scope : Scope) (fur : Nat) (esc req : Bool) : (s.noteRecovery level code scope fur esc req).free = s.free := rfl
@[simp] theorem State.noteRecovery_build (level code : Nat) (scope : Scope) (fur : Nat) (esc req : Bool) : (s.noteRecovery level code scope fur esc req).build = s.build := rfl
@[simp] theorem State.noteRecovery_time (level code : Nat) (scope : Scope) (fur : Nat) (esc req : Bool) : (s.noteRecovery level code scope fur esc req).time = s.time := rfl
@[simp] theorem State.noteRecovery_slew (level code : Nat) (scope : Scope) (fur : Nat) (esc req : Bool) : (s.noteRecovery level code scope fur esc req).slew = s.slew := rfl
@[simp] theorem State.noteRecovery_release (level code : Nat) (scope : Scope) (fur : Nat) (esc req : Bool) : (s.noteRecovery level code scope fur esc req).release = s.release := rfl
@[simp] theorem State.noteRecovery_startKind (level code : Nat) (scope : Scope) (fur : Nat) (esc req : Bool) : (s.noteRecovery level code scope fur esc req).startKind = s.startKind := rfl
@[simp] theorem State.noteRecovery_furs (level code : Nat) (scope : Scope) (fur : Nat) (esc req : Bool) : (s.noteRecovery level code scope fur esc req).furs = s.furs := rfl
@[simp] theorem State.noteRecovery_queues (level code : Nat) (scope : Scope) (fur : Nat) (esc req : Bool) : (s.noteRecovery level code scope fur esc req).queues = s.queues := rfl
@[simp] theorem State.noteRecovery_ctxs (level code : Nat) (scope : Scope) (fur : Nat) (esc req : Bool) : (s.noteRecovery level code scope fur esc req).ctxs = s.ctxs := rfl
@[simp] theorem State.noteRecovery_segs (level code : Nat) (scope : Scope) (fur : Nat) (esc req : Bool) : (s.noteRecovery level code scope fur esc req).segs = s.segs := rfl
@[simp] theorem State.noteRecovery_stackPorts (level code : Nat) (scope : Scope) (fur : Nat) (esc req : Bool) : (s.noteRecovery level code scope fur esc req).stackPorts = s.stackPorts := rfl
@[simp] theorem State.noteRecovery_copies (level code : Nat) (scope : Scope) (fur : Nat) (esc req : Bool) : (s.noteRecovery level code scope fur esc req).copies = s.copies := rfl
@[simp] theorem State.noteRecovery_remotes (level code : Nat) (scope : Scope) (fur : Nat) (esc req : Bool) : (s.noteRecovery level code scope fur esc req).remotes = s.remotes := rfl
@[simp] theorem State.noteRecovery_fences (level code : Nat) (scope : Scope) (fur : Nat) (esc req : Bool) : (s.noteRecovery level code scope fur esc req).fences = s.fences := rfl
@[simp] theorem State.noteRecovery_watches (level code : Nat) (scope : Scope) (fur : Nat) (esc req : Bool) : (s.noteRecovery level code scope fur esc req).watches = s.watches := rfl
@[simp] theorem State.noteRecovery_accepted (level code : Nat) (scope : Scope) (fur : Nat) (esc req : Bool) : (s.noteRecovery level code scope fur esc req).accepted = s.accepted := rfl
@[simp] theorem State.noteRecovery_dispRR (level code : Nat) (scope : Scope) (fur : Nat) (esc req : Bool) : (s.noteRecovery level code scope fur esc req).dispRR = s.dispRR := rfl
@[simp] theorem State.noteRecovery_dispG (level code : Nat) (scope : Scope) (fur : Nat) (esc req : Bool) : (s.noteRecovery level code scope fur esc req).dispG = s.dispG := rfl
@[simp] theorem State.noteRecovery_gl (level code : Nat) (scope : Scope) (fur : Nat) (esc req : Bool) : (s.noteRecovery level code scope fur esc req).gl = s.gl := rfl
@[simp] theorem State.noteRecovery_ms (level code : Nat) (scope : Scope) (fur : Nat) (esc req : Bool) : (s.noteRecovery level code scope fur esc req).ms = s.ms := rfl
@[simp] theorem State.noteRecovery_rv (level code : Nat) (scope : Scope) (fur : Nat) (esc req : Bool) : (s.noteRecovery level code scope fur esc req).rv = s.rv := rfl
@[simp] theorem State.noteRecovery_pins (level code : Nat) (scope : Scope) (fur : Nat) (esc req : Bool) : (s.noteRecovery level code scope fur esc req).pins = s.pins := rfl
@[simp] theorem State.noteRecovery_flash (level code : Nat) (scope : Scope) (fur : Nat) (esc req : Bool) : (s.noteRecovery level code scope fur esc req).flash = s.flash := rfl
@[simp] theorem State.noteRecovery_image (level code : Nat) (scope : Scope) (fur : Nat) (esc req : Bool) : (s.noteRecovery level code scope fur esc req).image = s.image := rfl
@[simp] theorem State.noteRecovery_imageWork (level code : Nat) (scope : Scope) (fur : Nat) (esc req : Bool) : (s.noteRecovery level code scope fur esc req).imageWork = s.imageWork := rfl
@[simp] theorem State.noteRecovery_active (level code : Nat) (scope : Scope) (fur : Nat) (esc req : Bool) : (s.noteRecovery level code scope fur esc req).active = s.active := rfl
@[simp] theorem State.noteRecovery_keys (level code : Nat) (scope : Scope) (fur : Nat) (esc req : Bool) : (s.noteRecovery level code scope fur esc req).keys = s.keys := rfl
@[simp] theorem State.noteRecovery_debugOn (level code : Nat) (scope : Scope) (fur : Nat) (esc req : Bool) : (s.noteRecovery level code scope fur esc req).debugOn = s.debugOn := rfl
@[simp] theorem State.noteRecovery_debugScope (level code : Nat) (scope : Scope) (fur : Nat) (esc req : Bool) : (s.noteRecovery level code scope fur esc req).debugScope = s.debugScope := rfl
@[simp] theorem State.noteRecovery_hostRead (level code : Nat) (scope : Scope) (fur : Nat) (esc req : Bool) : (s.noteRecovery level code scope fur esc req).hostRead = s.hostRead := rfl
@[simp] theorem State.noteRecovery_hostMem (level code : Nat) (scope : Scope) (fur : Nat) (esc req : Bool) : (s.noteRecovery level code scope fur esc req).hostMem = s.hostMem := rfl
@[simp] theorem State.noteRecovery_hostBad (level code : Nat) (scope : Scope) (fur : Nat) (esc req : Bool) : (s.noteRecovery level code scope fur esc req).hostBad = s.hostBad := rfl
@[simp] theorem State.noteRecovery_hbm (level code : Nat) (scope : Scope) (fur : Nat) (esc req : Bool) : (s.noteRecovery level code scope fur esc req).hbm = s.hbm := rfl
@[simp] theorem State.noteRecovery_hbmBad (level code : Nat) (scope : Scope) (fur : Nat) (esc req : Bool) : (s.noteRecovery level code scope fur esc req).hbmBad = s.hbmBad := rfl

@[simp] theorem State.masterThawed_pending (m : Nat) : (s.masterThawed m).pending = s.pending := rfl
@[simp] theorem State.masterThawed_free (m : Nat) : (s.masterThawed m).free = s.free := rfl
@[simp] theorem State.masterThawed_build (m : Nat) : (s.masterThawed m).build = s.build := rfl
@[simp] theorem State.masterThawed_time (m : Nat) : (s.masterThawed m).time = s.time := rfl
@[simp] theorem State.masterThawed_slew (m : Nat) : (s.masterThawed m).slew = s.slew := rfl
@[simp] theorem State.masterThawed_release (m : Nat) : (s.masterThawed m).release = s.release := rfl
@[simp] theorem State.masterThawed_startKind (m : Nat) : (s.masterThawed m).startKind = s.startKind := rfl
@[simp] theorem State.masterThawed_furs (m : Nat) : (s.masterThawed m).furs = s.furs := rfl
@[simp] theorem State.masterThawed_queues (m : Nat) : (s.masterThawed m).queues = s.queues := rfl
@[simp] theorem State.masterThawed_ctxs (m : Nat) : (s.masterThawed m).ctxs = s.ctxs := rfl
@[simp] theorem State.masterThawed_segs (m : Nat) : (s.masterThawed m).segs = s.segs := rfl
@[simp] theorem State.masterThawed_stackPorts (m : Nat) : (s.masterThawed m).stackPorts = s.stackPorts := rfl
@[simp] theorem State.masterThawed_copies (m : Nat) : (s.masterThawed m).copies = s.copies := rfl
@[simp] theorem State.masterThawed_remotes (m : Nat) : (s.masterThawed m).remotes = s.remotes := rfl
@[simp] theorem State.masterThawed_fences (m : Nat) : (s.masterThawed m).fences = s.fences := rfl
@[simp] theorem State.masterThawed_watches (m : Nat) : (s.masterThawed m).watches = s.watches := rfl
@[simp] theorem State.masterThawed_accepted (m : Nat) : (s.masterThawed m).accepted = s.accepted := rfl
@[simp] theorem State.masterThawed_dispRR (m : Nat) : (s.masterThawed m).dispRR = s.dispRR := rfl
@[simp] theorem State.masterThawed_dispG (m : Nat) : (s.masterThawed m).dispG = s.dispG := rfl
@[simp] theorem State.masterThawed_gl (m : Nat) : (s.masterThawed m).gl = s.gl := rfl
@[simp] theorem State.masterThawed_ms (m : Nat) : (s.masterThawed m).ms = s.ms := rfl
@[simp] theorem State.masterThawed_rv (m : Nat) : (s.masterThawed m).rv = s.rv := rfl
@[simp] theorem State.masterThawed_pins (m : Nat) : (s.masterThawed m).pins = s.pins := rfl
@[simp] theorem State.masterThawed_flash (m : Nat) : (s.masterThawed m).flash = s.flash := rfl
@[simp] theorem State.masterThawed_image (m : Nat) : (s.masterThawed m).image = s.image := rfl
@[simp] theorem State.masterThawed_imageWork (m : Nat) : (s.masterThawed m).imageWork = s.imageWork := rfl
@[simp] theorem State.masterThawed_active (m : Nat) : (s.masterThawed m).active = s.active := rfl
@[simp] theorem State.masterThawed_keys (m : Nat) : (s.masterThawed m).keys = s.keys := rfl
@[simp] theorem State.masterThawed_debugOn (m : Nat) : (s.masterThawed m).debugOn = s.debugOn := rfl
@[simp] theorem State.masterThawed_debugScope (m : Nat) : (s.masterThawed m).debugScope = s.debugScope := rfl
@[simp] theorem State.masterThawed_hostRead (m : Nat) : (s.masterThawed m).hostRead = s.hostRead := rfl
@[simp] theorem State.masterThawed_hostMem (m : Nat) : (s.masterThawed m).hostMem = s.hostMem := rfl
@[simp] theorem State.masterThawed_hostBad (m : Nat) : (s.masterThawed m).hostBad = s.hostBad := rfl
@[simp] theorem State.masterThawed_hbm (m : Nat) : (s.masterThawed m).hbm = s.hbm := rfl
@[simp] theorem State.masterThawed_hbmBad (m : Nat) : (s.masterThawed m).hbmBad = s.hbmBad := rfl

end Sys2Proof.Machine
end

