-- ==== Sys2Proof/Laws/Beat.lean ====
section
/-! SUPPORT. What one beat does: the word with one operation, when nothing stops it, and the fields of a slot operation as bits. -/

namespace Sys2Proof.Machine

/-- Short of the end of the routine a beat that issues a word is that word's attempt (R405). -/
theorem issueAttempt_before_end (s : State) (f : Fur) (d : Dom) (w : Word) (next : Nat) (mask : BitVec 4)
    (h : (s.dom f d).pos < (s.dom f d).stop) : s.issueAttempt f d w next mask = s.attempt f d (some w) next mask := by
  unfold State.issueAttempt
  rw [if_neg (Nat.not_le.mpr h)]

/-- A beat that issues the word with one operation and that nothing stops retires, with the operation's acts (R38, R39, R405). -/
theorem opBeat_retires (s : State) (f : Fur) (d : Dom) (o : SlotOp) (acts : List Act)
    (hb : s.atBeat f d) (he : encFault o = none)
    (hq : o.slot = 0 → seqFault (s.env f d) false (s.dom f d).pos o.code o.op = none)
    (ha : slotActs (s.env f d) (s.dom f d).rid (s.dom f d).pos none o = .ok acts)
    (hh : actsHalf (s.env f d) acts = none) (hu : s.unblocked f d acts) :
    s.opBeat f d o = s.issued f d o acts := by
  obtain ⟨h1, h2, h3, h4, h5⟩ := hb
  obtain ⟨hp, hc⟩ := hu
  have hx : (s.env f d).x = s.dom f d := rfl
  have hw : wordActs (s.env f d) (s.dom f d).rid (s.dom f d).pos true (s.dom f d).pos ⟨0, [o], 0⟩ = .ok acts := by
    unfold wordActs
    simp only [nfld, encFaults, he, Word.endBit]
    simp only [gather]
    by_cases h0 : o.slot = 0
    · have := hq h0
      simp [h0, this, ha, hh]
    · simp [h0, ha, hh]
  unfold State.opBeat
  simp only [h1, h2, h3, h4, Bool.not_false, Bool.and_self, beq_self_eq_true, if_true]
  rw [issueAttempt_before_end s f d _ _ 0 h5]
  unfold State.attempt
  simp only [hx, h4, Word.extra, Nat.zero_mod, Nat.le_refl, decide_true, hw]
  simp only [State.servedNow, State.courseNow] at hp hc
  split
  · next h => exact absurd (h.symm.trans hp) (by simp)
  · erw [hc]
    simp [State.issued, oneOp]

/-- A row of a slot operation that begins such a beat `issues` the acts of its operation. -/
theorem issues_of (c : Instr) (s : State) (f : Fur) (d : Dom) (o : SlotOp) (acts : List Act)
    (hc : exec c s = .next (s.opBeat f d o))
    (hq : o.slot = 0 → seqFault (s.env f d) false (s.dom f d).pos o.code o.op = none)
    (ha : slotActs (s.env f d) (s.dom f d).rid (s.dom f d).pos none o = .ok acts)
    (hh : actsHalf (s.env f d) acts = none) : issues c s f d o acts := by
  intro hb he hu
  rw [hc, opBeat_retires s f d o acts hb he hq ha hh hu]

/-- The two ways of taking a field of a word agree. -/
theorem extractLsb'_toNat_fld {n : Nat} (w : BitVec n) (lo len : Nat) : (w.extractLsb' lo len).toNat = fld w lo len := by
  simp [BitVec.extractLsb'_toNat, fld, nfld, Nat.shiftRight_eq_div_pow]

/-- A field of a 40-bit operation, as a number and as bits. -/
theorem nfld_toNat (op : BitVec 40) (lo len : Nat) : nfld op.toNat lo len = (op.extractLsb' lo len).toNat := by
  simp [BitVec.extractLsb'_toNat, nfld, Nat.shiftRight_eq_div_pow]

/-- Bit I of format S. -/
theorem opI_eq (op : BitVec 40) : opI op.toNat = op.getLsbD 29 := by
  simp only [opI, nfld, BitVec.getLsbD, Nat.testBit_eq_decide_div_mod_eq]
  rfl

/-- The immediate of format S, as a number and as bits. -/
theorem ofInt_sint29 (x : Nat) (hx : x < 2^29) : BitVec.ofInt 64 (sint 29 x) = (BitVec.ofNat 29 x).signExtend 64 := by
  have : (BitVec.ofNat 29 x).toInt = sint 29 x := by
    simp only [sint, BitVec.toInt, BitVec.toNat_ofNat]
    rw [Nat.mod_eq_of_lt hx]
    split <;> split <;> omega
  rw [BitVec.signExtend, this]

/-- Operand B of format S (R61). -/
theorem scaB_eq (s : State) (f d) (op : BitVec 40) : scaB (s.dom f d) op.toNat = s.opB64 f d op := by
  unfold scaB State.opB64
  rw [opI_eq]
  split
  · rw [opImm, nfld_toNat, ofInt_sint29 _ (by exact (op.extractLsb' 0 29).isLt), BitVec.ofNat_toNat, BitVec.setWidth_eq]
  · rw [nfld_toNat]

/-- A scalar operation whose only act writes D its result does that when its row's beat retires (R66). -/
theorem issues_scalar (s : State) (f : Fur) (d : Dom) (sl : Fin 2) (code : Nat) (op : BitVec 40) (c : Instr) (w : W64)
    (hc : exec c s = .next (s.opBeat f d ⟨1 + sl.val, code, op.toNat⟩)) (h0 : code ≠ 0)
    (h : scaActs (s.env f d) code op.toNat = .ok [.eff (s.build.latOf 19) (.sreg (opD op.toNat) w)]) :
    issues c s f d ⟨1 + sl.val, code, op.toNat⟩ (s.scalarTo op w) := by
  have e : s.scalarTo op w = [.eff (s.build.latOf 19) (.sreg (opD op.toNat) w)] := by
    simp [State.scalarTo, opD, nfld_toNat]
  rw [e]
  apply issues_of _ _ _ _ _ _ hc
  · intro h; simp at h
  · unfold slotActs
    rcases sl with ⟨n, hn⟩
    have : n = 0 ∨ n = 1 := by omega
    rcases this with rfl | rfl <;> simp [h0, h]
  · simp [actsHalf]

end Sys2Proof.Machine
end

