-- ==== Sys2Proof/Laws/Tables.lean ====
section
/-! SUPPORT. Sparse arrays: what a read finds after each write, and that every write keeps the canonical form. -/

namespace Sys2Proof.Machine

variable {α : Type}

/-! ### Reading after writing -/

theorem tget_nil (d : α) (k : Nat) : tget d [] k = d := rfl

/-- Another key reads as before, whatever the array. -/
theorem tget_tset_of_ne [DecidableEq α] (d v : α) (t : Tab α) {k j : Nat} (h : j ≠ k) (hr : keysRise none t = true) :
    tget d (tset d t k v) j = tget d t j := by
  have key : ∀ (t : Tab α) (lo : Option Nat), keysRise lo t = true → tget d (tset d t k v) j = tget d t j := by
    intro t
    induction t with
    | nil =>
      intro _ _
      unfold tset
      split
      · rfl
      · simp only [tget]
        rw [if_neg (Ne.symm h)]
        split <;> rfl
    | cons p r ih =>
      obtain ⟨k', v'⟩ := p
      intro lo hr
      simp only [keysRise, Bool.and_eq_true] at hr
      have hnext := hr.2
      -- a key below every listed key reads as the default
      have below : ∀ (r : Tab α) (lo : Nat), keysRise (some lo) r = true → j ≤ lo → tget d r j = d := by
        intro r lo hr hj
        cases r with
        | nil => rfl
        | cons q r =>
          obtain ⟨q1, q2⟩ := q
          simp only [keysRise, Bool.and_eq_true, decide_eq_true_eq] at hr
          have : j < q1 := by omega
          simp only [tget]
          rw [if_neg (by omega), if_pos this]
      unfold tset
      by_cases h1 : k' = k
      · rw [if_pos h1]
        subst h1
        by_cases h2 : v = d
        · rw [if_pos h2]
          simp only [tget]
          rw [if_neg (Ne.symm h)]
          by_cases h3 : j < k'
          · rw [if_pos h3]
            exact below r k' hnext (by omega)
          · rw [if_neg h3]
        · rw [if_neg h2]
          simp only [tget]
          rw [if_neg (Ne.symm h), if_neg (Ne.symm h)]
      · rw [if_neg h1]
        by_cases h2 : k < k'
        · rw [if_pos h2]
          by_cases h3 : v = d
          · rw [if_pos h3]
          · rw [if_neg h3]
            simp only [tget]
            rw [if_neg (Ne.symm h)]
            by_cases h4 : j < k
            · rw [if_pos h4, if_neg (by omega), if_pos (by omega)]
            · rw [if_neg h4]
        · rw [if_neg h2]
          simp only [tget]
          split
          · rfl
          · split
            · rfl
            · exact ih _ hnext
  exact key t none hr

/-- The key written reads as the value written. -/
theorem tget_tset_self [DecidableEq α] (d v : α) (t : Tab α) (k : Nat) (hr : keysRise none t = true) : tget d (tset d t k v) k = v := by
  have key : ∀ (t : Tab α) (lo : Option Nat), keysRise lo t = true → tget d (tset d t k v) k = v := by
    intro t
    induction t with
    | nil =>
      intro _ _
      unfold tset
      by_cases h : v = d
      · rw [if_pos h, h]; rfl
      · rw [if_neg h]; simp [tget]
    | cons p r ih =>
      obtain ⟨k', v'⟩ := p
      intro lo hr
      simp only [keysRise, Bool.and_eq_true] at hr
      unfold tset
      by_cases h1 : k' = k
      · rw [if_pos h1]
        by_cases h2 : v = d
        · rw [if_pos h2]
          cases r with
          | nil => exact h2.symm
          | cons q r =>
            obtain ⟨q1, q2⟩ := q
            have := hr.2
            simp only [keysRise, Bool.and_eq_true, decide_eq_true_eq] at this
            simp only [tget]
            rw [if_neg (by omega), if_pos (by omega), h2]
        · rw [if_neg h2]; simp [tget]
      · rw [if_neg h1]
        by_cases h2 : k < k'
        · rw [if_pos h2]
          by_cases h3 : v = d
          · rw [if_pos h3]
            simp only [tget]
            rw [if_neg h1, if_pos h2, h3]
          · rw [if_neg h3]; simp [tget]
        · rw [if_neg h2]
          simp only [tget]
          rw [if_neg h1, if_neg h2]
          exact ih _ hr.2
  exact key t none hr

/-! ### The canonical form -/

/-- Lower bounds of the keys may fall. -/
theorem keysRise_mono {lo lo' : Option Nat} {t : Tab α} (h : keysRise lo t = true)
    (hl : ∀ l', lo' = some l' → ∃ l, lo = some l ∧ l' ≤ l) : keysRise lo' t = true := by
  cases t with
  | nil => rfl
  | cons p r =>
    obtain ⟨k, v⟩ := p
    simp only [keysRise, Bool.and_eq_true] at h ⊢
    refine ⟨?_, h.2⟩
    cases lo' with
    | none => rfl
    | some l' =>
      obtain ⟨l, rfl, hle⟩ := hl l' rfl
      simp only [decide_eq_true_eq] at h ⊢
      omega

theorem keysRise_tail {lo : Option Nat} {k : Nat} {v : α} {t : Tab α} (h : keysRise lo ((k, v) :: t) = true) : keysRise (some k) t = true := by
  simp only [keysRise, Bool.and_eq_true] at h
  exact h.2

/-- A sublist of rising keys rises. -/
theorem keysRise_filter (p : Nat × α → Bool) : ∀ (t : Tab α) (lo : Option Nat), keysRise lo t = true → keysRise lo (t.filter p) = true := by
  intro t
  induction t with
  | nil => intro _ _; rfl
  | cons q r ih =>
    obtain ⟨k, v⟩ := q
    intro lo h
    have ht := keysRise_tail h
    rw [List.filter_cons]
    split
    · simp only [keysRise, Bool.and_eq_true] at h ⊢
      exact ⟨h.1, ih _ ht⟩
    · refine ih _ (keysRise_mono ht ?_)
      intro l' hl
      subst hl
      simp only [keysRise, Bool.and_eq_true, decide_eq_true_eq] at h
      exact ⟨k, rfl, by omega⟩

theorem keysRise_tset [DecidableEq α] (d v : α) (k : Nat) :
    ∀ (t : Tab α) (lo : Option Nat), keysRise lo t = true → (∀ l, lo = some l → l < k) → keysRise lo (tset d t k v) = true := by
  intro t
  induction t with
  | nil =>
    intro lo _ hk
    unfold tset
    split
    · rfl
    · cases lo with
      | none => rfl
      | some l => simp [keysRise, hk l rfl]
  | cons q r ih =>
    obtain ⟨k', v'⟩ := q
    intro lo h hk
    have ht := keysRise_tail h
    have hlo : ∀ l, lo = some l → l < k' := by
      intro l hl; subst hl
      simp only [keysRise, Bool.and_eq_true, decide_eq_true_eq] at h; exact h.1
    unfold tset
    by_cases h1 : k' = k
    · rw [if_pos h1]; subst h1
      split
      · refine keysRise_mono ht ?_
        intro l hl; subst hl
        exact ⟨k', rfl, by have := hlo l rfl; omega⟩
      · simp only [keysRise, Bool.and_eq_true]
        refine ⟨?_, ht⟩
        cases lo with
        | none => rfl
        | some l => simp [hk l rfl]
    · rw [if_neg h1]
      by_cases h2 : k < k'
      · rw [if_pos h2]
        split
        · exact h
        · simp only [keysRise, Bool.and_eq_true]
          refine ⟨?_, by simp [h2], ht⟩
          cases lo with
          | none => rfl
          | some l => simp [hk l rfl]
      · rw [if_neg h2]
        simp only [keysRise, Bool.and_eq_true]
        refine ⟨?_, ih _ ht (by intro l hl; cases hl; omega)⟩
        cases lo with
        | none => rfl
        | some l => simp [hlo l rfl]

theorem mem_tset [DecidableEq α] (d v : α) (t : Tab α) (k : Nat) (p : Nat × α) (h : p ∈ tset d t k v) : p ∈ t ∨ (p = (k, v) ∧ v ≠ d) := by
  induction t with
  | nil =>
    unfold tset at h
    split at h
    · cases h
    · next hv => simp at h; exact .inr ⟨h, hv⟩
  | cons q r ih =>
    obtain ⟨k', v'⟩ := q
    unfold tset at h
    split at h
    · split at h
      · exact .inl (List.mem_cons_of_mem _ h)
      · next hv =>
        rcases List.mem_cons.1 h with rfl | h
        · exact .inr ⟨rfl, hv⟩
        · exact .inl (List.mem_cons_of_mem _ h)
    · split at h
      · split at h
        · exact .inl h
        · next hv =>
          rcases List.mem_cons.1 h with rfl | h
          · exact .inr ⟨rfl, hv⟩
          · exact .inl h
      · rcases List.mem_cons.1 h with rfl | h
        · exact .inl List.mem_cons_self
        · rcases ih h with h | h
          · exact .inl (List.mem_cons_of_mem _ h)
          · exact .inr h

theorem twf_iff [DecidableEq α] (d : α) (t : Tab α) : twf d t = true ↔ keysRise none t = true ∧ ∀ p ∈ t, p.2 ≠ d := by
  simp [twf, List.all_eq_true]

/-- A write keeps the canonical form. -/
theorem twf_tset [DecidableEq α] (d v : α) (t : Tab α) (k : Nat) (h : twf d t = true) : twf d (tset d t k v) = true := by
  rw [twf_iff] at h ⊢
  refine ⟨keysRise_tset d v k t none h.1 (by simp), ?_⟩
  intro p hp
  rcases mem_tset d v t k p hp with hp | ⟨rfl, hv⟩
  · exact h.2 p hp
  · exact hv

theorem twf_filter [DecidableEq α] (d : α) (p : Nat × α → Bool) (t : Tab α) (h : twf d t = true) : twf d (t.filter p) = true := by
  rw [twf_iff] at h ⊢
  exact ⟨keysRise_filter p t none h.1, fun q hq => h.2 q (List.mem_of_mem_filter hq)⟩

/-- Clearing a range keeps the canonical form. -/
theorem twf_tclear [DecidableEq α] (d : α) (t : Tab α) (lo hi : Nat) (h : twf d t = true) : twf d (tclear t lo hi) = true :=
  twf_filter d _ t h

/-- Writing a run keeps the canonical form. -/
theorem twf_tputs [DecidableEq α] (d : α) (vs : List α) : ∀ (t : Tab α) (k : Nat), twf d t = true → twf d (tputs d t k vs) = true := by
  induction vs with
  | nil => intro t k h; exact h
  | cons v r ih => intro t k h; exact ih _ _ (twf_tset d v t k h)

theorem twf_tputAll [DecidableEq α] (d : α) (ps : List (Nat × α)) : ∀ (t : Tab α), twf d t = true → twf d (tputAll d t ps) = true := by
  induction ps with
  | nil => intro t h; exact h
  | cons p r ih => intro t h; exact ih _ (twf_tset d p.2 t p.1 h)

theorem keysRise_tmap [DecidableEq α] (d : α) (f : α → α) (lo hi : Nat) :
    ∀ (t : Tab α) (l : Option Nat), keysRise l t = true → keysRise l (tmap d f t lo hi) = true := by
  intro t
  induction t with
  | nil => intro _ _; rfl
  | cons q r ih =>
    obtain ⟨k, v⟩ := q
    intro l h
    have ht := keysRise_tail h
    have hl : ∀ b, l = some b → b < k := by
      intro b hb; subst hb
      simp only [keysRise, Bool.and_eq_true, decide_eq_true_eq] at h; exact h.1
    have drop : keysRise l (tmap d f r lo hi) = true := by
      refine ih _ (keysRise_mono ht ?_)
      intro b hb
      exact ⟨k, rfl, by have := hl b hb; omega⟩
    have keep : ∀ w, keysRise l ((k, w) :: tmap d f r lo hi) = true := by
      intro w
      simp only [keysRise, Bool.and_eq_true]
      refine ⟨?_, ih _ ht⟩
      cases l with
      | none => rfl
      | some b => simp [hl b rfl]
    unfold tmap at drop keep ⊢
    rw [List.filterMap_cons]
    split
    · exact drop
    · next w hw =>
      split at hw
      · split at hw
        · cases hw
        · cases hw; exact keep _
      · cases hw; exact keep _

/-- Changing the elements of a range keeps the canonical form. -/
theorem twf_tmap [DecidableEq α] (d : α) (f : α → α) (t : Tab α) (lo hi : Nat) (h : twf d t = true) : twf d (tmap d f t lo hi) = true := by
  rw [twf_iff] at h ⊢
  refine ⟨keysRise_tmap d f lo hi t none h.1, ?_⟩
  intro p hp
  unfold tmap at hp
  obtain ⟨q, hq, hp⟩ := List.mem_filterMap.1 hp
  split at hp
  · split at hp
    · cases hp
    · next hne => cases hp; exact hne
  · injection hp with hp; subst hp; exact h.2 _ hq

/-! ### Ranges -/

/-- A key inside a cleared range reads as the default. -/
theorem tget_tclear_in (d : α) (t : Tab α) {lo hi k : Nat} (h : lo ≤ k ∧ k < hi) : tget d (tclear t lo hi) k = d := by
  induction t with
  | nil => rfl
  | cons q r ih =>
    obtain ⟨k', v⟩ := q
    unfold tclear at ih ⊢
    rw [List.filter_cons]
    split
    · next hk =>
      simp only [tget]
      rw [if_neg (by rintro rfl; simp [h.1, h.2] at hk)]
      split
      · rfl
      · exact ih
    · exact ih

/-- Writing a run leaves every key outside it as it was. -/
theorem tget_tputs_out [DecidableEq α] (d : α) (vs : List α) :
    ∀ (t : Tab α) (k j : Nat), twf d t = true → (j < k ∨ k + vs.length ≤ j) → tget d (tputs d t k vs) j = tget d t j := by
  induction vs with
  | nil => intro t k j _ _; rfl
  | cons v r ih =>
    intro t k j h hj
    simp only [List.length_cons] at hj
    have hne : j ≠ k := by omega
    unfold tputs
    rw [ih _ _ _ (twf_tset d v t k h) (by omega), tget_tset_of_ne d v t hne ((twf_iff d t).1 h).1]

/-- A key of a written run reads as the value written there. -/
theorem tget_tputs_in [DecidableEq α] (d : α) (vs : List α) :
    ∀ (t : Tab α) (k i : Nat), twf d t = true → i < vs.length → tget d (tputs d t k vs) (k + i) = vs.getD i d := by
  induction vs with
  | nil => intro t k i _ hi; simp at hi
  | cons v r ih =>
    intro t k i h hi
    unfold tputs
    cases i with
    | zero =>
      rw [tget_tputs_out d r _ _ _ (twf_tset d v t k h) (by omega)]
      simpa using tget_tset_self d v t k ((twf_iff d t).1 h).1
    | succ n =>
      have := ih (tset d t k v) (k + 1) n (twf_tset d v t k h) (by simpa using hi)
      simpa [Nat.add_assoc, Nat.add_comm, Nat.add_left_comm] using this

end Sys2Proof.Machine
end

