-- ==== Sys2Proof/Laws/Ops.lean ====
section
/-! SUPPORT. What the shared operations can do: the one field or few fields that each changes, the equation of each under its conditions, and
the canonical form of the memories that each keeps. -/

namespace Sys2Proof.Machine

variable (s : State)

/-! ### What an operation can change at all

Each lemma gives the state after the operation as a record update of the state before it: every field that the update does not name is as it
was, and `rw` with the lemma's equation followed by `rfl` says so of any one of them. -/

theorem State.offer_changes (code : Nat) (source : W16) (p0 p1 p2 : Nat) : ∃ g, s.offer code source p0 p1 p2 = { s with gl := g } := by
  unfold State.offer; dsimp only; split
  · exact ⟨s.gl, rfl⟩
  · split
    · exact ⟨_, rfl⟩
    · exact ⟨_, rfl⟩

/-- The fault ring takes a record as a host write and a move of its index, or only the recovery registers change (R332). -/
theorem State.ringRecord_cases (code : Nat) (source : W16) (p0 p1 p2 lev : Nat) :
    (∃ c, s.ringRecord code source p0 p1 p2 lev = { s with dc := c }) ∨
      ∃ a bs c, s.ringRecord code source p0 p1 p2 lev = { s.hostWr a bs with dc := c } := by
  unfold State.ringRecord; dsimp only; split
  · split
    · exact .inr ⟨_, _, _, rfl⟩
    · exact .inl ⟨_, rfl⟩
  · exact .inl ⟨s.dc, rfl⟩

theorem State.ringRecord_changes (code : Nat) (source : W16) (p0 p1 p2 lev : Nat) :
    ∃ m b c, s.ringRecord code source p0 p1 p2 lev = { s with hostMem := m, hostBad := b, dc := c } := by
  rcases s.ringRecord_cases code source p0 p1 p2 lev with ⟨c, h⟩ | ⟨a, bs, c, h⟩
  · exact ⟨s.hostMem, s.hostBad, c, h⟩
  · exact ⟨_, _, c, h⟩

theorem State.faultRecord_changes (code : Nat) (source : W16) (p0 p1 p2 lev : Nat) :
    ∃ m b c g, s.faultRecord code source p0 p1 p2 lev = { s with hostMem := m, hostBad := b, dc := c, gl := g } := by
  obtain ⟨m, b, c, h⟩ := s.ringRecord_changes code source p0 p1 p2 lev
  obtain ⟨g, h'⟩ := (s.ringRecord code source p0 p1 p2 lev).offer_changes code source p0 p1 p2
  exact ⟨m, b, c, g, by unfold State.faultRecord; rw [h', h]⟩

theorem State.noteRecovery_changes (level code : Nat) (sc : Scope) (fur : Nat) (esc req : Bool) :
    ∃ c, s.noteRecovery level code sc fur esc req = { s with dc := c } := ⟨_, rfl⟩

theorem State.startL4_changes (i : FaultInfo) (esc req : Bool) :
    ∃ m b c g x, s.startL4 i esc req = { s with hostMem := m, hostBad := b, dc := c, gl := g, furs := x } := by
  obtain ⟨m, b, c, g, h⟩ := s.faultRecord_changes i.code i.source i.p0 i.p1 i.p2 (levByte 4 esc req)
  obtain ⟨c', h'⟩ := (s.faultRecord i.code i.source i.p0 i.p1 i.p2 (levByte 4 esc req)).noteRecovery_changes 4 i.code .block 0 esc req
  exact ⟨m, b, _, g, _, by unfold State.startL4; dsimp only; rw [h', h]; rfl⟩

theorem State.startL3_changes (i : FaultInfo) (esc conc req : Bool) :
    ∃ m b c g x, s.startL3 i esc conc req = { s with hostMem := m, hostBad := b, dc := c, gl := g, furs := x } := by
  unfold State.startL3; split
  · exact s.startL4_changes i true req
  · obtain ⟨m, b, c, g, h⟩ := s.faultRecord_changes i.code i.source i.p0 i.p1 i.p2 (levByte 3 (esc || conc) req)
    obtain ⟨c', h'⟩ := (s.faultRecord i.code i.source i.p0 i.p1 i.p2 (levByte 3 (esc || conc) req)).noteRecovery_changes 3 i.code .block 0 esc req
    exact ⟨m, b, _, g, _, by dsimp only; rw [h', h]⟩

theorem State.startL2_changes (r : RecDomain) (i : FaultInfo) (esc req byDebug : Bool) :
    ∃ m b c g x, s.startL2 r i esc req byDebug = { s with hostMem := m, hostBad := b, dc := c, gl := g, furs := x } := by
  unfold State.startL2; split
  · obtain ⟨m, b, c, g, x, h⟩ := (s.dropRec r).startL3_changes i esc true req
    exact ⟨m, b, c, g, x, h⟩
  · obtain ⟨m, b, c, g, h⟩ := s.faultRecord_changes i.code i.source i.p0 i.p1 i.p2 (levByte 2 esc req)
    obtain ⟨c', h'⟩ := (s.faultRecord i.code i.source i.p0 i.p1 i.p2 (levByte 2 esc req)).noteRecovery_changes 2 i.code (s.scopeOf r).1 (s.scopeOf r).2 esc req
    exact ⟨m, b, _, g, _, by dsimp only; rw [h', h]; rfl⟩

/-- Raising a fault changes the fault ring, the recovery state, the gleaner and the furrows, and nothing else (R321 to R334). -/
theorem State.raise_changes (level : Nat) (r : RecDomain) (i : FaultInfo) (master : Nat) :
    ∃ m b c g x, s.raise level r i master = { s with hostMem := m, hostBad := b, dc := c, gl := g, furs := x } := by
  unfold State.raise; split
  · dsimp only; split
    · exact s.startL2_changes r i true false false
    · split
      · obtain ⟨m, b, c, g, x, h⟩ := (s.dropRec r).startL3_changes i true false false
        exact ⟨m, b, c, g, x, h⟩
      · exact s.startL4_changes i true false
  · split
    · obtain ⟨m, b, c, g, h⟩ := s.faultRecord_changes i.code i.source i.p0 i.p1 i.p2 (levByte 1 false false)
      exact ⟨m, b, _, g, s.furs, by rw [h]; rfl⟩
    · split
      · exact s.startL2_changes r i false false false
      · exact s.startL3_changes i false false false

theorem State.freezeDomain_changes (f : Fur) (d : Dom) (i : FaultInfo) :
    ∃ m b c g x, s.freezeDomain f d i = { s with hostMem := m, hostBad := b, dc := c, gl := g, furs := x } := by
  unfold State.freezeDomain
  obtain ⟨m, b, c, g, x, h⟩ := (s.modDom f d (fun x => { x with st := .faulted, causes := 0, frozenSince := none })).raise_changes 1
    (s.recDom f d) i (masterDom f d)
  exact ⟨m, b, c, g, x, h⟩

theorem State.unrefSegs_changes (is : List Nat) : ∀ s : State, ∃ t, s.unrefSegs is = { s with segs := t } := by
  induction is with
  | nil => exact fun s => ⟨s.segs, rfl⟩
  | cons i r ih => exact fun s => by obtain ⟨t, h⟩ := ih (s.unrefSeg i); exact ⟨t, h⟩

/-- The end of a host command frees its scoreboard entries, and a command of another kind leaves the furrows as they are (R116, R118). -/
theorem State.leaveBoards_changes (r : CmdRef) : ∃ x, s.leaveBoards r = { s with furs := x } := by
  unfold State.leaveBoards; split
  · split <;> exact ⟨_, rfl⟩
  · exact ⟨s.furs, rfl⟩
theorem State.leaveBoards_of_other {r : CmdRef} (h : ∀ c, s.cmd? r = some c → c.holdsBoard = false) : s.leaveBoards r = s := by
  unfold State.leaveBoards; split
  · next c hc => simp [h c hc]
  · rfl

theorem State.completed_changes (r : CmdRef) : ∃ x q t, s.completed r = { s with furs := x, queues := q, segs := t } := by
  obtain ⟨x, hx⟩ := s.leaveBoards_changes r
  obtain ⟨t, h⟩ := State.unrefSegs_changes (match s.cmd? r with | some c => c.segs | none => [])
    ((s.leaveBoards r).modCmd r (fun c => { c with done := true }))
  rw [hx] at h
  exact ⟨x, _, t, (congrArg (fun z : State => State.modQueue (z.unrefSegs (match s.cmd? r with | some c => c.segs | none => [])) (slotOf r.q)
    (fun x => { x with cmds := (retire x.cmds x.retired).1, retired := (retire x.cmds x.retired).2 })) (congrArg (fun z : State => z.modCmd r
      (fun c => { c with done := true })) hx)).trans (congrArg (fun z : State => z.modQueue (slotOf r.q)
    (fun x => { x with cmds := (retire x.cmds x.retired).1, retired := (retire x.cmds x.retired).2 })) h)⟩

/-- QUIET commands whose records would have been written complete: queues, the segments and scoreboard entries they held and their fence-watch
slots. -/
theorem State.completeAll_changes (q : QSlot) (l : List Rec) : ∀ s : State, ∃ u x t w,
    l.foldl (fun s k => (s.completed ⟨q.val, k.key⟩).freeWatch ⟨q.val, k.key⟩) s = { s with furs := u, queues := x, segs := t, watches := w } := by
  induction l with
  | nil => exact fun s => ⟨s.furs, s.queues, s.segs, s.watches, rfl⟩
  | cons k r ih =>
    intro s
    obtain ⟨u, x, t, h⟩ := s.completed_changes ⟨q.val, k.key⟩
    obtain ⟨u', x', t', w', h'⟩ := ih ((s.completed ⟨q.val, k.key⟩).freeWatch ⟨q.val, k.key⟩)
    exact ⟨u', x', t', w', by rw [List.foldl_cons, h', h]; rfl⟩

/-- Giving the records of a queue their room changes queues, segments, scoreboards and fence-watch slots, and nothing else (R248). -/
theorem State.giveRoom_changes (q : QSlot) : ∃ u x t w, s.giveRoom q = { s with furs := u, queues := x, segs := t, watches := w } := by
  let y := s.queue q
  let l := readyInOrder (y.ready.takeWhile (fun k => k.time.isSome)).length (stampRecs s.time y.room y.ready)
  obtain ⟨u, x, t, w, h⟩ := State.completeAll_changes q (l.filter Rec.gone) (s.setQueue q { y with ready := l.filter (fun k => !k.gone) })
  exact ⟨u, x, t, w, h⟩

/-- Finishing a command changes its queue, the segments and scoreboard entries it held and its fence-watch slot, and nothing else (R118, R247, R248,
R266). -/
theorem State.finish_changes (r : CmdRef) (status r0 r1 : Nat) :
    ∃ u q t w, s.finish r status r0 r1 = { s with furs := u, queues := q, segs := t, watches := w } := by
  unfold State.finish; split
  · exact ⟨s.furs, s.queues, s.segs, s.watches, rfl⟩
  · split
    · exact ⟨s.furs, s.queues, s.segs, s.watches, rfl⟩
    · exact State.giveRoom_changes _ _

theorem State.finishOpt_changes (r : Option CmdRef) (status r0 r1 : Nat) :
    ∃ u q t w, s.finishOpt r status r0 r1 = { s with furs := u, queues := q, segs := t, watches := w } := by
  unfold State.finishOpt; split
  · exact ⟨s.furs, s.queues, s.segs, s.watches, rfl⟩
  · exact s.finish_changes _ _ _ _

theorem State.abandonDom_changes (f : Fur) (d : Dom) :
    ∃ x q t w, s.abandonDom f d = { s with furs := x, queues := q, segs := t, watches := w } := by
  obtain ⟨u, q, t, w, h⟩ := (((s.leaveBoardOpt f (s.dom f d).cmd).modDom f d Domain.abandon).modFur f
    (fun x => x.abandonMortars s.build d)).finishOpt_changes (s.dom f d).cmd stBusy 0 0
  unfold State.abandonDom; dsimp only; rw [h]
  unfold State.leaveBoardOpt; split <;> exact ⟨_, q, t, w, rfl⟩

/-- A write to memory changes that memory, and the gleaner where the key is gone (R399). -/
theorem State.memWrite_changes (l : Loc) (bs : List Byte) (poison : Bool) (seg : Nat) :
    ∃ m b h k g, (s.memWrite l bs poison seg).1 = { s with hostMem := m, hostBad := b, hbm := h, hbmBad := k, gl := g } := by
  unfold State.memWrite; split
  · exact ⟨_, _, s.hbm, s.hbmBad, s.gl, rfl⟩
  · split
    · exact ⟨s.hostMem, s.hostBad, _, _, s.gl, rfl⟩
    · split
      · obtain ⟨g, h⟩ := s.offer_changes 0x0603 srcBlock seg _ bs.length
        exact ⟨s.hostMem, s.hostBad, s.hbm, s.hbmBad, g, h⟩
      · exact ⟨s.hostMem, s.hostBad, _, _, s.gl, rfl⟩

theorem State.endRemote_changes (r : CmdRef) (status : Nat) :
    ∃ u q t w m, s.endRemote r status = { s with furs := u, queues := q, segs := t, watches := w, remotes := m } := by
  obtain ⟨u, q, t, w, h⟩ := ({ s with remotes := s.remotes.filter (fun j => j.ref != r) } : State).finish_changes r status (s.ackedBytes r) 0
  exact ⟨u, q, t, w, _, h⟩

/-- A host write to a built furrow that the block takes has its effect (R237). -/
theorem State.furrowWrite_of_takes (h : s.takesWrites) (f : Fur) (hf : f.val < s.build.furrows) (r : Nat) (body : State → State) :
    s.furrowWrite f r body = body s := by
  obtain ⟨h1, h2, h3⟩ := h
  unfold State.furrowWrite State.hostWrite
  simp [h1, h2, h3, hf]

/-! ### Equations -/

/-- A host write reaches its register while the block takes writes. -/
theorem State.hostWrite_of_takes (h : s.takesWrites) (off bytes : Nat) (body : State → State) : s.hostWrite off bytes body = body s := by
  obtain ⟨h1, h2, h3⟩ := h
  unfold State.hostWrite
  simp [h1, h2, h3]

/-- A host write is discarded in block reset and at L4. -/
theorem State.hostWrite_of_reset (h : s.release ≠ 3 ∨ s.dead = true) (off bytes : Nat) (body : State → State) :
    s.hostWrite off bytes body = s := by
  unfold State.hostWrite
  rcases h with h | h <;> simp [h]

/-- A head that passes the checks of R243 is accepted, and its command's effect follows. -/
theorem State.accept_of_takes {q : QSlot} {op : Nat} {p : Packet} (h : s.takesHead q op p) (body : State → Packet → CmdRef → State) :
    s.accept q op body = body (s.admitted q op p) p ⟨q.val, p.seq⟩ := by
  obtain ⟨h1, h2, h3, h4, h5, h6, h7, h8⟩ := h
  unfold State.accept
  cases hf : (s.queue q).fetched with
  | nil => rw [hf] at h1; cases h1
  | cons a r =>
    rw [hf] at h1
    simp only [List.head?_cons, Option.some.injEq] at h1
    subst h1
    simp [hf, h2, h3, h4, h5, h6, h7, h8, State.admitted]

/-- A head that the dispatcher does not pick stays. -/
theorem State.accept_of_not_picked {q : QSlot} (h : s.dispatchPick ≠ some q) (op : Nat) (body : State → Packet → CmdRef → State) :
    s.accept q op body = s := by
  unfold State.accept
  dsimp only
  cases (s.queue q).fetched with
  | nil => rfl
  | cons p r => exact if_pos h

/-- A command that is not among those accepted finishes nothing. -/
theorem State.finish_of_none {r : CmdRef} (h : s.cmd? r = none) (status r0 r1 : Nat) : s.finish r status r0 r1 = s := by
  unfold State.finish; rw [h]

/-- A command at work finishes: its record joins those of its queue, which take the room that the ring has. -/
theorem State.finish_record {r : CmdRef} {c : Cmd} (h : s.cmd? r = some c) (hs : c.stage ≠ 3) (status r0 r1 : Nat) :
    s.finish r status r0 r1 = ((s.modCmd r (fun c => { c with stage := 3 })).modQueue (slotOf r.q) (fun x => { x with
      ready := x.ready ++ [c.record status r0 r1] })).giveRoom (slotOf r.q) := by
  unfold State.finish
  rw [h]
  exact if_neg hs

/-- A record put among others of its cycle is there, and so are they. -/
@[simp] theorem mem_insertRec (r x : GRec) (l : List GRec) : x ∈ insertRec r l ↔ x = r ∨ x ∈ l := by
  induction l with
  | nil => simp [insertRec]
  | cons y t ih =>
    unfold insertRec
    split
    · simp only [List.mem_cons, ih]; tauto
    · simp

/-- Ordering the records of a cycle loses none and adds none. -/
theorem mem_sortedRecs (x : GRec) (l : List GRec) : x ∈ l.foldr insertRec [] ↔ x ∈ l := by
  induction l with
  | nil => simp
  | cons y t ih => simp [ih]

/-- Ordering the records of a command changes nothing but their order in the intake queue (R369). -/
theorem State.ordered_rest (s t : State) :
    (s.ordered t).furs = t.furs ∧ (s.ordered t).queues = t.queues ∧ (s.ordered t).dc = t.dc ∧
    (s.ordered t).gl.store = t.gl.store ∧ (s.ordered t).hostMem = t.hostMem ∧ (s.ordered t).hbm = t.hbm := by
  unfold State.ordered; dsimp only; split <;> simp

@[simp] theorem length_insertRec (r : GRec) (l : List GRec) : (insertRec r l).length = l.length + 1 := by
  induction l with
  | nil => rfl
  | cons y t ih => unfold insertRec; split <;> simp [ih]

theorem length_sortedRecs (l : List GRec) : (l.foldr insertRec []).length = l.length := by
  induction l with
  | nil => rfl
  | cons y t ih => simp [ih]

/-- Where the intake queue refused no record of the cycle, those in it are the same, whatever their order. -/
theorem State.mem_ordered (s t : State) (h : t.gl.refused.drop s.gl.refused.length = []) (x : GRec) :
    x ∈ (s.ordered t).gl.intake ↔ x ∈ t.gl.intake := by
  unfold State.ordered; dsimp only
  split
  · rfl
  · dsimp only
    have e : ((t.gl.intake.drop s.gl.intake.length).foldr insertRec []).take (t.gl.intake.length - s.gl.intake.length)
        = (t.gl.intake.drop s.gl.intake.length).foldr insertRec [] :=
      List.take_of_length_le (by rw [length_sortedRecs, List.length_drop])
    rw [h, List.append_nil, e]
    simp only [List.mem_append, mem_sortedRecs]
    rw [← List.mem_append, List.take_append_drop]

/-- Ordering the records of a cycle keeps their number in the intake queue. -/
theorem State.length_ordered (s t : State) (h : s.gl.intake.length ≤ t.gl.intake.length) :
    (s.ordered t).gl.intake.length = t.gl.intake.length := by
  unfold State.ordered; dsimp only
  split
  · rfl
  · dsimp only
    rw [List.length_append, List.length_take, List.length_take, length_sortedRecs, List.length_append, List.length_drop]
    omega

/-- A fault or warning offered while the intake queue has room is in it (R369). -/
theorem State.offer_room (code : Nat) (source : W16) (p0 p1 p2 : Nat) (h : s.gl.intake.length < 256) (hc : code < 0x8000) :
    s.offer code source p0 p1 p2 = { s with gl := { s.gl with intake := s.gl.intake ++ [⟨s.time, BitVec.ofNat 16 code, source, BitVec.ofNat 32 p0, BitVec.ofNat 32 p1, BitVec.ofNat 32 p2⟩] } } := by
  have : ¬ (0x8000 ≤ code) := by omega
  simp [State.offer, this, h]

/-- The store, its fills and its SEQUENCE change only when a record is stored. -/
theorem State.offer_store (code : Nat) (source : W16) (p0 p1 p2 : Nat) :
    (s.offer code source p0 p1 p2).gl.store = s.gl.store ∧ (s.offer code source p0 p1 p2).gl.seq = s.gl.seq ∧
    (s.offer code source p0 p1 p2).gl.fillF = s.gl.fillF ∧ (s.offer code source p0 p1 p2).gl.fillI = s.gl.fillI ∧
    (s.offer code source p0 p1 p2).gl.held = s.gl.held := by
  unfold State.offer; dsimp only; split
  · simp
  · split <;> simp

/-- An L1 fault outside every window of its recovery domain is recorded, and opens the recovery of its master (R323 to R325). -/
theorem State.raise_l1 {r : RecDomain} (h : s.openRec r = none) (i : FaultInfo) (master : Nat) :
    s.raise 1 r i master = (s.faultRecord i.code i.source i.p0 i.p1 i.p2 (levByte 1 false false)).addRec
      ⟨r, 1, BitVec.ofNat 16 i.code, i.source, (s.scopeOf r).1, (s.scopeOf r).2, master, 0, s.time, 0, false⟩ := by
  unfold State.raise; rw [h]; simp

/-- An L2 fault outside every window starts an L2 (R325, R327). -/
theorem State.raise_l2 {r : RecDomain} (h : s.openRec r = none) (i : FaultInfo) (master : Nat) :
    s.raise 2 r i master = s.startL2 r i false false false := by
  unfold State.raise; rw [h]; simp

/-- An L3 fault outside the block's window starts an L3 (R325, R328). -/
theorem State.raise_l3 {r : RecDomain} (h : s.openRec r = none) (i : FaultInfo) (master : Nat) :
    s.raise 3 r i master = s.startL3 i false false false := by
  unfold State.raise; rw [h]; simp

/-! ### The canonical form of the memories -/

/-- States with the same memories and segment table agree on their form. -/
theorem State.tablesOk_congr {s t : State} (h : s.tablesOk) (h1 : t.hostMem = s.hostMem) (h2 : t.hostBad = s.hostBad) (h3 : t.hbm = s.hbm)
    (h4 : t.hbmBad = s.hbmBad) (h5 : t.segs = s.segs) : t.tablesOk := by
  unfold State.tablesOk at h ⊢
  rw [h1, h2, h3, h4, h5]; exact h

theorem State.tablesOk_hostWr (h : s.tablesOk) (a : Nat) (bs : List Byte) : (s.hostWr a bs).tablesOk := by
  obtain ⟨h1, h2, h3, h4, h5⟩ := h
  exact ⟨twf_tputs 0 bs _ _ h1, twf_tclear false _ _ _ h2, h3, h4, h5⟩

theorem State.tablesOk_hbmWr (h : s.tablesOk) (a : Nat) (bs : List Byte) (bad : Bool) : (s.hbmWr a bs bad).tablesOk := by
  obtain ⟨h1, h2, h3, h4, h5⟩ := h
  refine ⟨h1, h2, twf_tputs 0 bs _ _ h3, ?_, h5⟩
  cases bad
  · exact twf_tclear false _ _ _ h4
  · exact twf_tputs false _ _ _ h4

theorem State.tablesOk_setSeg (h : s.tablesOk) (i : Nat) (x : Seg) : (s.setSeg i x).tablesOk := by
  obtain ⟨h1, h2, h3, h4, h5⟩ := h
  exact ⟨h1, h2, h3, h4, twf_tset Seg.zero x _ i h5⟩

theorem State.tablesOk_offer (h : s.tablesOk) (code : Nat) (source : W16) (p0 p1 p2 : Nat) : (s.offer code source p0 p1 p2).tablesOk := by
  obtain ⟨g, e⟩ := s.offer_changes code source p0 p1 p2
  rw [e]; exact h

theorem State.tablesOk_memWrite (h : s.tablesOk) (l : Loc) (bs : List Byte) (poison : Bool) (seg : Nat) :
    (s.memWrite l bs poison seg).1.tablesOk := by
  unfold State.memWrite
  split
  · exact s.tablesOk_hostWr h _ _
  · split
    · exact s.tablesOk_hbmWr h _ _ _
    · split
      · exact s.tablesOk_offer h _ _ _ _ _
      · obtain ⟨h1, h2, h3, h4, h5⟩ := h
        refine ⟨h1, h2, twf_tputs 0 _ _ _ h3, ?_, h5⟩
        cases poison
        · exact twf_tclear false _ _ _ h4
        · exact twf_tputs false _ _ _ h4

theorem State.tablesOk_ringRecord (h : s.tablesOk) (code : Nat) (source : W16) (p0 p1 p2 lev : Nat) :
    (s.ringRecord code source p0 p1 p2 lev).tablesOk := by
  rcases s.ringRecord_cases code source p0 p1 p2 lev with ⟨c, e⟩ | ⟨a, bs, c, e⟩
  · rw [e]; exact h
  · rw [e]; exact s.tablesOk_hostWr h a bs

theorem State.tablesOk_faultRecord (h : s.tablesOk) (code : Nat) (source : W16) (p0 p1 p2 lev : Nat) :
    (s.faultRecord code source p0 p1 p2 lev).tablesOk :=
  State.tablesOk_offer _ (s.tablesOk_ringRecord h code source p0 p1 p2 lev) _ _ _ _ _

theorem State.tablesOk_unrefSegs (is : List Nat) : ∀ s : State, s.tablesOk → (s.unrefSegs is).tablesOk := by
  induction is with
  | nil => intro s h; exact h
  | cons i r ih => intro s h; exact ih _ (s.tablesOk_setSeg h _ _)

theorem State.tablesOk_completed (h : s.tablesOk) (r : CmdRef) : (s.completed r).tablesOk := by
  have b : (s.leaveBoards r).tablesOk := by
    obtain ⟨x, e⟩ := s.leaveBoards_changes r; rw [e]; exact State.tablesOk_congr h rfl rfl rfl rfl rfl
  have k := State.tablesOk_unrefSegs (match s.cmd? r with | some c => c.segs | none => [])
    ((s.leaveBoards r).modCmd r (fun c => { c with done := true })) (State.tablesOk_congr b rfl rfl rfl rfl rfl)
  exact State.tablesOk_congr k rfl rfl rfl rfl rfl

theorem State.tablesOk_giveRoom (h : s.tablesOk) (q : QSlot) : (s.giveRoom q).tablesOk := by
  have k : ∀ (l : List Rec) (s : State), s.tablesOk →
      (l.foldl (fun s k => (s.completed ⟨q.val, k.key⟩).freeWatch ⟨q.val, k.key⟩) s).tablesOk := by
    intro l
    induction l with
    | nil => exact fun s h => h
    | cons a r ih => exact fun s h => ih _ (State.tablesOk_congr (s.tablesOk_completed h _) rfl rfl rfl rfl rfl)
  exact k _ _ (State.tablesOk_congr h rfl rfl rfl rfl rfl)

theorem State.tablesOk_finish (h : s.tablesOk) (r : CmdRef) (status r0 r1 : Nat) : (s.finish r status r0 r1).tablesOk := by
  unfold State.finish
  split
  · exact h
  · split
    · exact h
    · refine State.tablesOk_giveRoom _ ?_ _
      exact State.tablesOk_congr h rfl rfl rfl rfl rfl

theorem State.tablesOk_finishOpt (h : s.tablesOk) (r : Option CmdRef) (status r0 r1 : Nat) : (s.finishOpt r status r0 r1).tablesOk := by
  unfold State.finishOpt
  split
  · exact h
  · exact s.tablesOk_finish h _ _ _ _

/-! ### Additions in issue order, and the note of a lost pair -/

/-- No addition that was issued later has committed: the value is added to the lane as it stands (R202). -/
theorem addInOrder_of_none_later {log : LaneLog} {issue : Nat} (h : log.after issue = []) (old : W32) (sat flush : Bool) (v : W32) : addInOrder log old issue sat flush v = (⟨old.toNat, false, false⟩ : CVal).plus sat flush v := by
  simp only [addInOrder, h, if_true, CVal.sum, List.foldl_nil]

/-- Nothing is noted of a course write before which no other is still to be put (R186). -/
theorem Furrow.lateWin_of_none_earlier (x x0 : Furrow) (d : Dom) (issue b e : Nat) (mode : WinMode) (lo : Nat) (vals : List W32) (sat flush : Bool)
    (ht : (x.dom d).lateAdds = []) (h : addsEarlier (x.dom d).flights b e issue = false) :
    x.lateWin x0 d 4 issue b e mode lo vals sat flush = [] := by
  simp [Furrow.lateWin, ht, h]

/-- Where nothing was noted, a write that does not add leaves its own lanes (R202). -/
theorem winLane_of_no_log (x x0 : Furrow) (d : Dom) (slot issue b e : Nat) (mode : WinMode) (sat flush : Bool) (lane : Nat) (v : W32)
    (hm : mode ≠ .accum) (h : x.laneLog d slot b e lane = LaneLog.none) :
    winLane x x0 d slot issue b e mode sat flush lane v = winStart x0 b mode sat flush lane v := by
  cases mode <;> simp_all [winLane, LaneLog.after, LaneLog.none, CVal.sum]

@[simp] theorem Furrow.setPair_doms (x : Furrow) (pair : Nat) (on : Bool) : (x.setPair pair on).doms = x.doms := rfl
@[simp] theorem Furrow.setPair_inService (x : Furrow) (pair : Nat) (on : Bool) : (x.setPair pair on).inService = setBit x.inService pair on := rfl

/-- Before a write of MS_ID or of a route only the verdicts on remote heads are noted (R242, R243). -/
theorem State.judgeHeads_queue (q : QSlot) : s.judgeHeads.queue q = { s.queue q with headJudged := s.verdict (s.queue q) } := by
  simp [State.judgeHeads, State.queue]

end Sys2Proof.Machine
end

