-- ==== Sys2Proof/Tests/Slice0.lean ====
section
/-! SUPPORT. Tests: the checks of well-formedness, one step of each family against values worked out from the spec, and for each statement with
hypotheses a state and operands that meet them. Values in the comments' rules are computed by hand from the rule named. -/

set_option Elab.async false

open Sys2Proof Sys2Proof.Machine

namespace Sys2Proof.Tests

/-! ### Well-formedness: each check refuses one term -/

theorem smoke_registerWrite : (Instr.registerWrite 0x1004 true 0).wellFormed = false := by decide
theorem smoke_badRegisterAccess : (Instr.badRegisterAccess 0x1008 8 false).wellFormed = false := by decide
theorem smoke_debugWindowRefused : (Instr.debugWindowRefused 0x1008 false).wellFormed = false := by decide
theorem smoke_counterWrap : (Instr.counterWrap 0 0 9).wellFormed = false ∧ (Instr.counterWrap 0 0 21).wellFormed = false ∧
    (Instr.counterWrap 0 0 80).wellFormed = false := by decide
theorem smoke_l2Reset : (Instr.l2Reset 0 .block).wellFormed = false := by decide
theorem smoke_l2Complete : (Instr.l2Complete 0 .block 0).wellFormed = false := by decide
theorem smoke_autoActivity : (Instr.autoActivity 3 0).wellFormed = false := by decide
theorem smoke_thermalHoldStep : (Instr.thermalHoldStep 0 []).wellFormed = false := by decide
theorem smoke_thermalRecoveryStep : (Instr.thermalRecoveryStep 0 []).wellFormed = false := by decide
theorem smoke_thermalRelease : (Instr.thermalRelease []).wellFormed = false := by decide
theorem smoke_throttleAssert : (Instr.throttleAssert 99).wellFormed = false := by decide
theorem smoke_debugPstoreWrite : (Instr.debugPstoreWrite 0 4 true 0).wellFormed = false := by decide
theorem smoke_meshFrameReceive : (Instr.meshFrameReceive 0 true ⟨0, 0, 0, 0, List.replicate 4097 0⟩).wellFormed = false := by decide +kernel
theorem smoke_syncInEdge : (Instr.syncInEdge 5 5).wellFormed = false := by decide
theorem smoke_accepted : (Instr.registerWrite 0x1008 true 0).wellFormed = true ∧ (Instr.badRegisterAccess 0x1008 2 false).wellFormed = true ∧
    (Instr.counterWrap 0 0 20).wellFormed = true ∧ (Instr.throttleAssert 100).wellFormed = true := by decide

/-! ### States -/

/-- The reference build, started and READY, with both pairs of furrow 0 in service. -/
def up : State :=
  let s : State := { State.reset with release := 3, dc := { Dc.zero with ready := true, started := true }, rv := { Reeve.atReset with booted := true }, active := 2 }
  s.modFur 0 (fun x => { x with inService := 3 })

/-- Furrow 0 changed. -/
def withFur (g : Furrow → Furrow) : State := up.modFur 0 g

/-- Domain 0 of furrow 0 in a state, with S1 = 7 and S2 all ones. -/
def domain (st : DomState) (g : Domain → Domain) : State :=
  withFur (fun x => x.setDom 0 (g { Domain.atReset st with sregs := ((Vector.replicate 32 0).set 1 7).set 2 0xFFFFFFFFFFFFFFFF }))

/-- Domain 0 of furrow 0 RUNNING at the first word of a routine. -/
def running (g : Domain → Domain) : State := domain .running (fun x => g { x with stop := 0x40 })

/-- A 40-bit operation from its fields: position and value. -/
def fields (l : List (Nat × Nat)) : BitVec 40 := BitVec.ofNat 40 (l.foldl (fun (a : Nat) (p : Nat × Nat) => a + p.2 * 2 ^ p.1) 0)

/-- What `g` says of the state after a command, or `e` where there is none. -/
def after {α : Type} (c : Instr) (s : State) (g : State → α) (e : α) : α := match exec c s with | .next t => g t | _ => e

/-- The decidable form of what `issues` asks of a state. -/
def stands (s : State) (o : SlotOp) (acts : List Act) : Bool :=
  s.canAttempt 0 0 && !(s.dom 0 0).pairLost && (s.dom 0 0).idle == 0 && (s.dom 0 0).done == 0 && decide ((s.dom 0 0).pos < (s.dom 0 0).stop) && encFault o == none &&
    (portFaults (s.env 0 0) (s.servedNow 0 0 acts)).isEmpty && beatCauses (s.env 0 0) (s.servedNow 0 0 acts) acts == 0

theorem stands_spec {s : State} {o : SlotOp} {acts : List Act} (h : stands s o acts = true) :
    s.atBeat 0 0 ∧ encFault o = none ∧ s.unblocked 0 0 acts := by
  simp only [stands, Bool.and_eq_true, Bool.not_eq_true', beq_iff_eq, decide_eq_true_eq, List.isEmpty_iff] at h
  obtain ⟨⟨⟨⟨⟨⟨⟨h1, h2⟩, h3⟩, h4⟩, h0⟩, h5⟩, h6⟩, h7⟩ := h
  exact ⟨⟨h1, h2, h3, h4, h0⟩, h5, h6, h7⟩

/-! ### Slot operations -/

/-- R66: D = 2, A = S1, immediate −1, I = 1. -/
def opS : BitVec 40 := fields [(35, 2), (30, 1), (29, 1), (0, 0x1FFFFFFF)]
/-- R66: D = 2, A = S1, B = S2. -/
def opR : BitVec 40 := fields [(35, 2), (30, 1), (24, 2)]

/-- Register D of domain 0 when the operation has committed: after the beat of latency 1. -/
def wrote (c : Instr) (i : Nat) : W64 := after c (running id) (fun t => (t.dom 0 0).sreg i) 0x0BAD
theorem test_add : wrote (.add 0 0 0 opS) 2 = 6 ∧ wrote (.add 0 0 1 opR) 2 = 6 := by decide +kernel
theorem test_sub : wrote (.sub 0 0 0 opS) 2 = 8 := by decide +kernel
theorem test_mul : wrote (.mul 0 0 0 opR) 2 = 0xFFFFFFFFFFFFFFF9 := by decide +kernel
theorem test_logic : wrote (.andOp 0 0 0 opR) 2 = 7 ∧ wrote (.orOp 0 0 0 opR) 2 = 0xFFFFFFFFFFFFFFFF ∧
    wrote (.xorOp 0 0 0 opR) 2 = 0xFFFFFFFFFFFFFFF8 := by decide +kernel
/-- Shifts take B modulo 64: B = 65 shifts by one (R66). -/
theorem test_shifts : wrote (.shl 0 0 0 (fields [(35, 2), (30, 2), (29, 1), (0, 65)])) 2 = 0xFFFFFFFFFFFFFFFE ∧
    wrote (.shr 0 0 0 (fields [(35, 2), (30, 2), (29, 1), (0, 65)])) 2 = 0x7FFFFFFFFFFFFFFF ∧
    wrote (.sar 0 0 0 (fields [(35, 2), (30, 2), (29, 1), (0, 65)])) 2 = 0xFFFFFFFFFFFFFFFF := by decide +kernel
/-- MIN and MAX are signed: S2 is −1 (R66). -/
theorem test_min_max : wrote (.minOp 0 0 0 opR) 2 = 0xFFFFFFFFFFFFFFFF ∧ wrote (.maxOp 0 0 0 opR) 2 = 7 := by decide +kernel
theorem test_ldi_shor : wrote (.ldi 0 0 0 (fields [(35, 2), (29, 1), (0, 0x10000000)])) 2 = 0xFFFFFFFFF0000000 ∧
    wrote (.shor 0 0 0 (fields [(35, 2), (30, 1), (29, 1), (0, 5)])) 2 = 0xE0000005 := by decide +kernel
/-- D = 0b01010 is flag 1, condition 2 LT: −1 < 7 (R66). -/
theorem test_cmp : after (.cmp 0 0 0 (fields [(35, 0x0A), (30, 2), (24, 1)])) (running id) (fun t => (t.dom 0 0).flags) 0 = 2 := by decide +kernel
theorem test_reads : after (.rda 0 0 0 (fields [(35, 2), (30, 3)])) (running (fun x => { x with aregs := x.aregs.set 3 0x0123456780000040 }))
      (fun t => (t.dom 0 0).sreg 2) 0 = 0x0123456780000040 ∧
    after (.rdl 0 0 0 (fields [(35, 2), (30, 4)])) (running (fun x => { x with loops := [⟨4, 0, 0, 64, 9⟩], rid := 0 }))
      (fun t => (t.dom 0 0).sreg 2) 0 = 9 ∧
    after (.rdly 0 0 0 (fields [(35, 2), (29, 1), (0, 6)])) (running (fun x => { x with live := tset 0 [] 6 0x55 }))
      (fun t => (t.dom 0 0).sreg 2) 0 = 0x55 := by decide +kernel

theorem witness_ScalarOperations :
    (∀ c ∈ [0x10, 0x11, 0x12, 0x13, 0x14, 0x15, 0x16, 0x17, 0x18, 0x19, 0x1A],
      stands (running id) ⟨1, c, opS.toNat⟩ ((running id).scalarTo opS 0) = true) ∧
    stands (running id) ⟨2, 0x1B, (fields [(29, 1), (0, 5)]).toNat⟩ ((running id).scalarTo (fields [(29, 1), (0, 5)]) 5) = true ∧
    stands (running id) ⟨1, 0x1C, opS.toNat⟩ ((running id).scalarTo opS 0) = true ∧
    (∀ v : Bool, stands (running id) ⟨1, 0x1D, opR.toNat⟩ [.eff 1 (.flag 0 v)] = true) ∧
    stands (running id) ⟨1, 0x1E, 7 * 2 ^ 30⟩ ((running id).scalarTo 0 0) = true ∧
    stands (running id) ⟨1, 0x1F, 2 ^ 29 + 255⟩ ((running id).scalarTo 0 0) = true ∧
    stands (running id) ⟨1, 0x20, 15 * 2 ^ 30⟩ ((running id).scalarTo 0 0) = true := by decide +kernel

/-- The stride −1 of A1 steps BASE 0 to 0x1FFFFFF; TWO with one register steps twice (R67). -/
def strided : State := running (fun x => { x with aregs := (x.aregs.set 1 0xFFFFFFFF80000000).set 2 0x0000000200000010 })
def areg (c : Instr) (i : Nat) : W64 := after c strided (fun t => (t.dom 0 0).areg i) 0x0BAD
theorem test_astep : areg (.astep 0 0 (fields [(36, 1)])) 1 = 0xFFFFFFFF81FFFFFF ∧
    areg (.astep 0 0 (fields [(36, 2), (32, 2), (31, 1)])) 2 = 0x0000000200000014 := by decide +kernel
theorem test_address : areg (.aset 0 0 (fields [(36, 2), (31, 1), (0, 0x1FFFFFF)])) 2 = 0x0000000281FFFFFF ∧
    areg (.astr 0 0 (fields [(36, 2), (0, 0xFFFFFFFE)])) 2 = 0xFFFFFFFE00000010 ∧
    areg (.aadd 0 0 (fields [(36, 1), (31, 2)])) 1 = 0xFFFFFFFF81FFFFFF ∧
    areg (.amov 0 0 (fields [(36, 5), (32, 2)])) 5 = 0x0000000200000010 ∧ areg (.aly 0 0 (fields [(36, 2), (0, 9)])) 2 = 0 := by decide +kernel
theorem witness_AddressOperations :
    stands strided ⟨3, 0x30, 2 ^ 40 - 1 - 0x3F * 2 ^ 25 - 15 * 2 ^ 32⟩ [strided.addressTo 15 0] = true ∧
    stands strided ⟨3, 0x31, 2 ^ 32 - 1⟩ [strided.addressTo 0 0] = true ∧ stands strided ⟨3, 0x32, 2 ^ 36⟩ [strided.addressTo 1 0] = true ∧
    stands strided ⟨3, 0x32, 2 ^ 36 + 2 ^ 33 + 2 ^ 31⟩ [strided.addressTo 1 0, strided.addressTo 2 0] = true ∧
    stands strided ⟨3, 0x33, 255⟩ [strided.addressTo 0 0] = true ∧ stands strided ⟨3, 0x34, 31 * 2 ^ 31⟩ [strided.addressTo 0 0] = true ∧
    stands strided ⟨3, 0x35, 255 * 2 ^ 32⟩ [strided.addressTo 15 0] = true ∧
    (fields [(25, 1)]).extractLsb' 25 6 ≠ 0 := by decide +kernel

/-- A0 names the last row of the scratchpad. -/
def atRow : State := running (fun x => { x with aregs := x.aregs.set 0 0x1FFFE00 })
def vldAcc : Acc := ⟨9, 0x90, 3, 0x1FFFE00, true, 0, .vld 0 0 3⟩
def vstAcc : Acc := ⟨9, 0x91, 3, 0x1FFFE00, true, 3, .store 0 (List.replicate 512 0) false⟩
def stnAcc : Acc := ⟨1, 0x22, 4, 0x1FFFE00, false, 4, .store 0 (List.replicate 8 0) false⟩
def ldnAcc : Acc := ⟨1, 0x21, 4, 0x1FFFE00, false, 0, .ldn 0⟩
theorem witness_MemoryOperations :
    (match (atRow.env 0 0).resolve 0 with | .ok a => a == 0x1FFFE00 | _ => false) = true ∧ rowLanes (atRow.env 0 0).h 0 3 = some (384, 128) ∧
    accFault (atRow.env 0 0) ldnAcc = none ∧ accFault (atRow.env 0 0) stnAcc = none ∧ accFault (atRow.env 0 0) vldAcc = none ∧
    accFault (atRow.env 0 0) vstAcc = none ∧
    stands atRow ⟨1, 0x21, 0⟩ [.acc ldnAcc] = true ∧ stands atRow ⟨1, 0x22, 4 * 2 ^ 23⟩ [.acc stnAcc] = true ∧
    stands atRow ⟨9, 0x90, 3 * 2 ^ 24⟩ [.acc vldAcc] = true ∧ stands atRow ⟨9, 0x91, 3 * 2 ^ 28⟩ [.acc vstAcc] = true := by decide +kernel

theorem witness_WindrowOperations :
    (running id).build.depth = 1024 ∧ ((running id).env 0 0).act = 4 ∧ 512 / ((running id).env 0 0).h - 1 = 0 ∧
    stands (running id) ⟨6, 0x48, 3 * 2 ^ 33 + 1024 * 2 ^ 7⟩ [.eff 2 (.winClear 3 0 1024)] = true ∧
    stands (running id) ⟨6, 0x48, 2 ^ 28 + 1023 * 2 ^ 18⟩ [] = true ∧
    stands (running id) ⟨6, 0x49, 0⟩ [.eff 3 (.vreg 0 0 [] 0 0)] = true ∧
    stands (running id) ⟨6, 0x4A, 3 * 2 ^ 33⟩ [.eff 2 (.win 3 0 .replace 0 [] false 0 false false)] = true := by decide +kernel

/-- MOD of format V, with TYPE, and the registers. -/
def hv (l : List (Nat × Nat)) : Nat := (fields l).toNat
theorem witness_HarrowArithmetic : tyOf 0 ≤ 1 ∧ tyOf (hv [(12, 1)]) ≤ 1 ∧
    (∀ c ∈ [0x50, 0x51, 0x52, 0x53, 0x54, 0x55], stands (running id) ⟨7, c, 0⟩ [.hrw 4 (.vreg 0 0 [] 0xFF 0) 0] = true) := by decide +kernel
theorem witness_HarrowCompareAndSelect : tyOf (hv [(12, 1)]) ≤ 1 ∧
    (∀ c ∈ [0x56, 0x57, 0x58, 0x59, 0x5A, 0x5B, 0x5C], stands (running id) ⟨8, c, 0⟩ [.hrw 2 (.vreg 0 0 [] 0xFF 0) 0] = true) := by decide +kernel
theorem witness_HarrowLanesAndIntegers : tyOf (hv [(12, 2)]) ≤ 2 ∧
    (∀ c ∈ [0x5D, 0x5E, 0x60, 0x61, 0x62, 0x63, 0x64, 0x65, 0x66, 0x67, 0x68, 0x69],
      stands (running id) ⟨7, c, hv [(12, 2)]⟩ [.hrw 2 (.vreg 0 0 [] 0xFF 0) 0] = true) ∧
    (2047 : Nat) < 512 * (32 / iwOf (hv [(12, 2)])) := by decide +kernel
theorem witness_HarrowConversions :
    (∀ f ∈ [0, 1, 5, 9, 10, 11], fmtPresent (running id).build.formats f = true ∧ stands (running id) ⟨7, 0x70, f * 2 ^ 10⟩ [] = true ∧
      stands (running id) ⟨7, 0x71, f * 2 ^ 10⟩ [] = true) ∧
    (∀ f ∈ [2, 3, 4], fmtMx f = true → fmtPresent (running id).build.formats f = true ∧ stands (running id) ⟨7, 0x72, f * 2 ^ 10⟩ [] = true ∧
      stands (running id) ⟨7, 0x72, 2 ^ 29 + f * 2 ^ 10⟩ [] = true ∧ stands (running id) ⟨7, 0x73, 2 ^ 28 + f * 2 ^ 10⟩ [] = true) ∧
    (List.range 12).any fmtMx = true ∧ fmtMx 11 = false ∧ fmtMx 0 = false ∧ fmtPresent (running id).build.formats 11 = true ∧
    stands (running id) ⟨7, 0x73, 11 * 2 ^ 10⟩ [] = true := by decide +kernel
theorem witness_HarrowTranscendentalsAndReductions : tyOf (hv [(12, 1)]) ≤ 1 ∧
    (∀ c ∈ [0x78, 0x79, 0x7A, 0x7B, 0x7C, 0x7D, 0x7E, 0x7F], stands (running id) ⟨8, c, 0⟩ [.hrw 12 (.vreg 0 0 [] 0xFF 0) 0] = true) := by
  decide +kernel

/-- Lanes of a harrow operation on V1 = a in lane 0 and V2 = b in lane 0. -/
def lane0 (code op : Nat) (a b : W32) : W32 :=
  (hrwLanes 64 code op (opMod op) (a :: List.replicate 63 0) (b :: List.replicate 63 0) (List.replicate 64 0) 0 0).1.getD 0 0
/-- 1.5 + 2.25 = 3.75; 1.5 × 2.25 = 3.375; 1.5 − 2.25 = −0.75 (R210). -/
theorem test_harrow_arithmetic : lane0 0x53 0 0x3FC00000 0x40100000 = 0x40700000 ∧ lane0 0x55 0 0x3FC00000 0x40100000 = 0x40580000 ∧
    lane0 0x54 0 0x3FC00000 0x40100000 = 0xBF400000 := by decide +kernel
/-- MIN and MAX of 1.5 and 2.25; ABS and NEG of −1.5 (R211). -/
theorem test_harrow_compare : lane0 0x56 0 0x3FC00000 0x40100000 = 0x3FC00000 ∧ lane0 0x57 0 0x3FC00000 0x40100000 = 0x40100000 ∧
    lane0 0x5A 0 0xBFC00000 0 = 0x3FC00000 ∧ lane0 0x5B 0 0xBFC00000 0 = 0x3FC00000 := by decide +kernel
/-- Bytes: 0xFF + 1 wraps in each byte; ISAR of 0x80 by 1 is 0xC0 (R212). -/
theorem test_harrow_integers : lane0 0x60 (hv [(12, 2)]) 0x01FF807F 0x01010101 = 0x02008180 ∧
    lane0 0x67 (hv [(12, 2)]) 0x80807F80 0x09010101 = 0xC0C03FC0 ∧ lane0 0x65 0 1 33 = 2 := by decide +kernel
/-- 1.0 to BF16 is 0x3F80, to E4M3 0x38; 2^1 is 2 and the logarithm of 8 is 3 (R213, R216). -/
theorem test_harrow_convert : lane0 0x78 0 0x3F800000 0 = 0x40000000 ∧ lane0 0x79 0 0x41000000 0 = 0x40400000 := by decide +kernel

/-! ### Drills, signals, courses, the schedule -/

/-- Drill 7 of furrow 0, the last. -/
def withDrill (s : State) (g : Drill → Drill) : State := s.setDrill 0 7 (g Drill.atReset)
def ownFur (s : State) : State := s.modFur 0 (fun x => { x with owned := true })
theorem witness_DrillAndSignalOperations :
    stands (running id) ⟨10, 0xA0, 7 * 2 ^ 37⟩ [.dgo 7 false] = true ∧ stands (running id) ⟨10, 0xA1, 7 * 2 ^ 37⟩ [.dtile 7] = true ∧
    stands (running id) ⟨10, 0xA2, 7 * 2 ^ 37⟩ [.dstop 7] = true ∧ stands (running id) ⟨11, 0xA9, 7 * 2 ^ 37⟩ [.dtend 7] = true ∧
    stands (running id) ⟨11, 0xAA, 7 * 2 ^ 37⟩ [.dgo 7 true] = true ∧
    (withDrill (running id) (fun x => { x with st := .running, out := true })).drill 0 7 = { Drill.atReset with st := .running, out := true } ∧
    stands (withDrill (running id) (fun x => { x with st := .running, out := true })) ⟨11, 0xA8, 7 * 2 ^ 37 + 3 * 2 ^ 28⟩ [.put 7 [] false] = true ∧
    rowLanes ((running id).env 0 0).h 0 3 = some (384, 128) ∧ ((running id).fur 0).split = false ∧
    bitOf ((ownFur (running id)).mine 0) 0 = true ∧
    (∀ c ∈ [0xB0, 0xB1, 0xB2], stands (ownFur (running id)) ⟨12, c, 255 * 2 ^ 28 + 0xFFFF⟩ [.sig 0 255 1 0xFFFF] = true) ∧
    stands (ownFur (running id)) ⟨12, 0xB3, 255 * 2 ^ 28⟩ [.wait 255 0] = true := by decide +kernel
/-- SADD of furrow 0 to itself changes its counter at the end of the beat; SWAIT for 1 freezes with cause 6 (R74, R40). -/
theorem test_signals : after (.sadd 0 0 (fields [(28, 9), (0, 5)])) (ownFur (running id)) (fun t => tget 0 (t.fur 0).counters 9) 0 = 5 ∧
     after (.swait 0 0 (fields [(28, 9), (0, 1)])) (ownFur (running id)) (fun t => ((t.dom 0 0).causes, (t.dom 0 0).beats, (t.dom 0 0).ticks)) (0, 9, 9) =
      (0x40, 0, 1) := by decide +kernel
/-- A DGO of an IDLE drill latches; a DTILE gives one credit (R134, R137). -/
theorem test_drill_ops : after (.driDgo 0 0 (fields [(37, 7)])) (running id) (fun t => (t.drill 0 7).latched) none = some false ∧
    after (.dtile 0 0 (fields [(37, 7)])) (running id) (fun t => (t.drill 0 7).credit) 0 = 1 := by decide +kernel

/-- A routine that may use four bricks, and the descriptor of a TWS with M = N = K = 1 in LY0 to LY2. -/
def tiled (l0 : W64) : State := (running (fun x => { x with live := tset 0 [] 0 l0, bricks := 4 })).modFur 0
  (fun x => { x with routines := [(0, ⟨0x80002FF000100000, 0, 0⟩)] })
def tileOk (s : State) (k : Nat) : Bool :=
  let t := tileCourse (s.env 0 0) k 0 0 0 0 0
  (match (s.env 0 0).resolve 0 with | .ok a => a == t.faBase && a == t.fbBase | _ => false) &&
  (actsHalf (s.env 0 0) [.tile { t with cost := t.beatCost s.build }]).isNone &&
  (s.dom 0 0).course.isNone && (tileFault (s.env 0 0) k 0 0 t).isNone && fmtPresent s.build.formats t.fmtA && fmtPresent s.build.formats t.fmtB &&
    stands s ⟨4, 0x38 + k, 0⟩ [.tile { t with cost := t.beatCost s.build }]
theorem witness_BrickOperations :
    tileOk (tiled 0x0000000100010001) 0 = true ∧ tileOk (tiled 0) 1 = true ∧ tileOk (tiled 0x0400000000000000) 2 = true ∧ tileOk (tiled 0) 3 = true ∧
    ((running id).env 0 0).act = 4 ∧ stands (running id) ⟨4, 0x3C, 3 * 2 ^ 38⟩ [.swapOp 3 3] = true ∧
    (match (atRow.env 0 0).resolve 1 with | .ok a => a == 0 | _ => false) = true ∧
    accFault ((running id).env 0 0) ⟨5, 0x40, 2, 0, true, 0, .sld 0 127⟩ = none ∧
    accFault ((running id).env 0 0) ⟨5, 0x40, 2, 0x180000, true, 0, .sld 3 127⟩ = none ∧
    stands (running id) ⟨5, 0x40, 9 * 2 ^ 36 + 127 * 2 ^ 25⟩
      [.acc ⟨5, 0x40, 2, 0, true, 0, .sld 0 127⟩, .acc ⟨5, 0x40, 2, 0x180000, true, 0, .sld 3 127⟩] = true := by decide +kernel
/-- SWAP of both pairs exchanges their live sets (R69). -/
theorem test_swap : after (.swap 0 0 (fields [(38, 3)])) (running id) (fun t => (t.fur 0).liveSet) 0 = 3 := by decide +kernel

/-- A build with one mortar unit: II = 2, latency in bits [15:8], two operands. -/
def withMortar : State := { running id with build := { Build.reference with mortar := 1, mortars := Vector.replicate 4 0x0000000100020502 } }
theorem witness_MortarIssue : (0 : Nat) < withMortar.build.mortar ∧ vat none (withMortar.dom 0 0).lastMiss 0 = none ∧ (withMortar.fur 0).split = false ∧
    stands withMortar ⟨13, 0xC0, 0⟩ [] = true ∧
    vat none ({ (withMortar.dom 0 0) with lastMiss := Vector.replicate 4 (some 0), beats := 2 } : Domain).lastMiss 0 = some 0 ∧
    fld (withMortar.build.mortars.toList.getD 0 0) 0 8 ≤ ((2 : W64) - 0).toNat := by decide +kernel

/-- Routine 0 runs at address 0, routine 255 stands at 0x100; both valid with REACH of every segment. -/
def inCode (g : Domain → Domain) : State := (running (fun x => g { x with stop := 0x40, bricks := 4, held := 0xFF })).modFur 0 (fun x => { x with routines := [(0, ⟨0x80000FF000400000, 0, 0⟩), (255, ⟨0x80000FF000400100, 0, 0⟩)] })
def seqStands (s : State) (code op : Nat) : Bool :=
  stands s ⟨0, code, op⟩ [.seqOp code op] && (seqFault (s.env 0 0) false (s.dom 0 0).pos code op).isNone
theorem witness_ControlFlow :
    seqStands (inCode id) 1 (7 * 2 ^ 37 + 1 * 2 ^ 20 + 0xFFFFF) = true ∧ seqStands (inCode id) 1 (1 * 2 ^ 20) = true ∧ seqStands (inCode id) 1 1 = true ∧
    seqStands (inCode id) 2 (255 * 2 ^ 32) = true ∧ seqStands (inCode id) 3 (255 * 2 ^ 32) = true ∧
    (bitOf ((inCode id).dom 0 0).flags 0 == decide (nfld (255 * 2 ^ 32) 29 1 = 1)) = true ∧
    seqStands (inCode id) 3 (255 * 2 ^ 32 + 2 ^ 29) = true ∧ (bitOf ((inCode id).dom 0 0).flags 0 == decide (nfld (255 * 2 ^ 32 + 2 ^ 29) 29 1 = 1)) = false ∧
    seqStands (inCode (fun x => { x with stack := [⟨1, 0x20, 0x60, 4, false⟩] })) 4 0 = true := by decide +kernel
/-- CALL pushes the caller, and RET takes it back, each followed by two beats without issue (R79, R80). -/
theorem test_call_ret : after (.call 0 0 (fields [(32, 255)])) (inCode id) (fun t => ((t.dom 0 0).rid, (t.dom 0 0).pos, (t.dom 0 0).idle, (t.dom 0 0).stack.length))
      (0, 0, 0, 0) = (255, 0x100, 2, 1) ∧
    after (.ret 0 0 0) (inCode (fun x => { x with rid := 255, stack := [⟨1, 0x20, 0x60, 4, false⟩] }))
      (fun t => ((t.dom 0 0).rid, (t.dom 0 0).pos, (t.dom 0 0).stop, (t.dom 0 0).bricks, (t.dom 0 0).idle)) (0, 0, 0, 0, 0) = (1, 0x20, 0x60, 4, 2) := by decide +kernel

def emptyBeatOk (s : State) : Bool := stands s ⟨0, 0, 0⟩ []
theorem witness_RoutineEnds : emptyBeatOk (running id) = true ∧ ((running id).dom 0 0).stack = [] := by decide +kernel
/-- HALT ends a routine at any depth (R82). -/
theorem test_halt : after (.halt 0 0 0) (inCode (fun x => { x with stack := [⟨1, 0x20, 0x60, 4, false⟩] })) (fun t => (t.dom 0 0).st) .reset = .draining := by
  decide +kernel

def actsAre (s : State) (o : SlotOp) (a : List Act) : Bool :=
  match slotActs (s.env 0 0) (s.dom 0 0).rid (s.dom 0 0).pos none o with | .ok b => decide (b = a) | _ => false
theorem witness_IssuedFlies : (2 : Nat) ≤ 2 ∧ actsAre (running id) ⟨6, 0x48, 2 ^ 28 + 3 * 2 ^ 7⟩ [.eff 2 (.winClear 0 0 3)] = true ∧
    (match slotActs ((running id).env 0 0) 0 0 none ⟨7, 0x5C, 0⟩ with | .ok [.hrw 2 (.vreg 0 0 _ _ _) 0] => true | _ => false) = true := by decide +kernel

def draining (e : Effect) : State := domain .draining (fun x => { x with beat := 5, flights := [⟨5, 4, 1, 0x10, 0, 0, 0, false, e⟩] })
theorem witness_DrainCommits : ∀ e ∈ [Effect.sreg 31 9, .areg 15 9, .flag 3 true],
    let s := draining e
    (s.dom 0 0).st = .draining ∧ s.stopped = false ∧ (s.dom 0 0).hold = false ∧ (s.dom 0 0).flights = [⟨5, 4, 1, 0x10, 0, 0, 0, false, e⟩] ∧ 5 ≤ (s.dom 0 0).beat := by
  decide +kernel
theorem witness_ScalarFrame : ((running id).dom 0 0).flights = [] ∧ ((running id).dom 0 0).course = none ∧
    actsAre (running id) ⟨1, 0x10, opS.toNat⟩ [.eff 1 (.sreg 2 6)] = true ∧ actsAre strided ⟨3, 0x32, 2 ^ 36⟩ [.eff 1 (.areg 1 0xFFFFFFFF81FFFFFF)] = true := by
  decide +kernel
theorem witness_FrozenBeat : (stands (running id) ⟨12, 0xB3, 2 ^ 28 * 255⟩ [] = true) ∧
    (let s := running id
     let acts := [Act.wait 255 0x7FFF]
     portFaults (s.env 0 0) (s.servedNow 0 0 acts) = [] ∧ beatCauses (s.env 0 0) (s.servedNow 0 0 acts) acts ≠ 0) := by decide +kernel
theorem witness_SequencerFault : emptyBeatOk (running id) = true ∧ encFault ⟨1, 0x10, 2 ^ 23⟩ = some 2 ∧ (running id).openRec ((running id).recDom 0 0) = none ∧
    (running id).gl.intake.length < 256 := by decide +kernel
/-- Fault 0x0105: reason 2, slot 1, code 0x10 (R98). -/
theorem test_sequencer_fault : after (.add 0 0 0 (fields [(23, 1)])) (running id) (fun t => ((t.dom 0 0).st, t.gl.intake.map (fun r => (r.code, r.p1, r.p2)))) (.idle, [])
    = (.faulted, [(0x0105, 0x01100000, 2)]) := by decide +kernel

/-- An OS course in its first drain beat, and a TWS course at the end of its chunk. -/
def courseOf (op t : Nat) (auto : Bool) : Course := ⟨op, 1, 1, 1, 0, 0, 0, auto, false, false, 0, 0, 0, 0, 0, 0, 0, 0, 0, 0, 4, t, 9999, 0, 0, ⟨[], false⟩, []⟩
def onCourse (op t : Nat) (auto : Bool) : State := running (fun x => { x with course := some (courseOf op t auto) })
theorem witness_ScheduleBeats :
    (let s := inCode id
     s.canAttempt 0 0 = true ∧ (s.dom 0 0).pairLost = false ∧ (s.dom 0 0).idle = 0 ∧ (s.dom 0 0).pos < (s.dom 0 0).stop ∧
      (match wordActs (s.env 0 0) 0 0 true 4 (readWord (s.fur 0).pstore 0) with | .ok a => decide (a = []) | _ => false) = true) ∧
    emptyBeatOk (inCode id) = true ∧ ((running (fun x => { x with idle := 1 })).dom 0 0).idle = 1 ∧
    (let s := domain .starting (fun x => { x with startLeft := 1 })
     (s.dom 0 0).st = .starting ∧ 0 < (s.dom 0 0).startLeft ∧ (s.fur 0).gated = false ∧ (s.dom 0 0).hold = false ∧ s.stopped = false) ∧
    (courseOf 0 127 true).chunkEnds Build.reference = true ∧ emptyBeatOk (onCourse 0 127 true) = true ∧ ((onCourse 0 127 true).dom 0 0).flights = [] ∧
    ((courseOf 2 131 true).drainAt Build.reference 131).isSome = true ∧ emptyBeatOk (onCourse 2 131 true) = true ∧
    (let s := running (fun x => { x with pairLost := true })
     s.canAttempt 0 0 = true ∧ (s.dom 0 0).pairLost = true) ∧
    (let s := domain .draining id
     (s.dom 0 0).st = .draining ∧ (s.dom 0 0).flights = [] ∧ (s.dom 0 0).hold = false ∧ s.stopped = false) := by decide +kernel
/-- The chunk's end exchanges the sets of both pairs of a course of four bricks (R164). -/
theorem test_chunk_swap : after (.tileChunkSwap 0 0) (onCourse 0 127 true) (fun t => (t.fur 0).liveSet) 0 = 3 := by decide +kernel

theorem witness_FurrowEvents :
    (0 : Nat) < withMortar.build.mortar ∧ (withMortar.dom 0 0).st = .running ∧
    (let s := { running (fun x => { x with frozenSince := some 0, causes := 0x40 }) with time := 1000000001 }
     (s.dom 0 0).frozenSince = some 0 ∧ (s.dom 0 0).st = .running ∧ (s.dom 0 0).longReported = false ∧ (s.fur 0).stallLimit ≠ 0 ∧
      (s.fur 0).stallLimit.toNat * 1000 < s.since 0 ∧ s.gl.intake.length < 256) ∧
    ((running (fun x => { x with keeper := BitVec.allOnes 48 })).dom 0 0).keeper = BitVec.allOnes 48 ∧
    (let s := { running (fun x => { x with lastBrick := some 0, keeperPhase := 8 }) with time := 4000 }
     (s.dom 0 0).lastBrick = some 0 ∧ 0 < (s.dom 0 0).keeperPhase ∧ 4000 + 125 * (8 - (s.dom 0 0).keeperPhase) ≤ s.since 0) ∧
    (let s := { (domain .idle id).modFur 0 (fun x => { x.setDom 1 (Domain.atReset .unused) with gateSince := some 0 }) with time := 20000 }
     (s.fur 0).gateSince = some 0 ∧ (s.fur 0).gated = false ∧ s.mayGate 0 = true ∧ 20000 ≤ s.since 0) ∧
    (let s := (domain .running id).modFur 0 (fun x => { x with gated := true })
     (s.fur 0).gated = true ∧ s.mayGate 0 = false) ∧
    (let s := domain .faulted id
     s.release = 3 ∧ s.dead = false ∧ s.dc.ready = true ∧ (0 : Nat) < s.build.furrows ∧ (s.dom 0 0).st = .faulted ∧
      (∀ b ∈ [4, 6, 8, 12], bitOf (s.fur 0).sticky (b + 0) = false)) := by decide +kernel
theorem test_thaw : after (.fuThaw 0 1) (domain .faulted id) (fun t => (t.dom 0 0).st) .reset = .idle ∧
    after (.fuThaw 0 1) ((domain .faulted id).modFur 0 (fun x => { x with sticky := 0x100 })) (fun t => ((t.dom 0 0).st, t.gl.intake.map (fun r => r.code))) (.reset, [])
      = (.faulted, [0x0111]) := by decide +kernel
/-- The witness of FurrowEvents' thaw serves DomainThaw: a FAULTED domain with clear bits, and one with a bit set. -/
theorem witness_DomainThaw : ((domain .faulted id).dom 0 0).st = .faulted ∧ bitOf ((domain .faulted id).modFur 0 (fun x => { x with sticky := 0x100 }) |>.fur 0).sticky 8 = true ∧
    (running id).release = 3 ∧ (running id).dead = false ∧ (running id).dc.ready = true := by decide +kernel

/-! ### Queue commands -/

/-- Slot 63 ACTIVE and bound to context slot 0, CONTEXT_ID 5, which owns furrow 0 with its domain 0 IDLE; segments 1 and 2 are the context's, in HBM
and in host memory at 0, with four granules; the transport has MESH_ID 1. Rings of 64 packets and 16 records. -/
def bound (g : Queue → Queue) : State :=
  let s := (domain .idle id).modFur 0 (fun x => { x.setDom 1 (Domain.atReset .unused) with owned := true, routines := [(0, ⟨0x80001FF000400000, 0, 0⟩)] })
  { s with
    ctxs := s.ctxs.set 0 ⟨0x8000000000000005, false, []⟩
    segs := [(1, ⟨1, false, 0, 4, 0, 5, true, true, true, true, false, 0, 0⟩), (2, ⟨1, true, 0, 4, 0, 5, true, true, true, true, false, 0, 0⟩)]
    ms := { s.ms with id := 1, valid := true }
    queues := s.queues.set 63 (g { Queue.atReset with st := .active, cfg := 0x0000000000040006 }) }

/-- A packet of the given words after word 0, as `n` units. -/
def packet (op n : Nat) (ws : List Nat) : Packet := ⟨w64 (op + n * 2 ^ 24) :: ws.map w64, n, 0⟩
def headOf (p : Packet) : State := bound (fun x => { x with fetched := [p] })
def takesOk (s : State) (op : Nat) (p : Packet) : Bool :=
  (s.queue 63).fetched.head? == some p && s.dispatchPick == some 63 && p.op == op && (s.headCheck (s.queue 63) p).isNone && !s.notOwned (s.queue 63) p &&
    (s.badHandle (s.ctx (s.queue 63).ctxSlot).id (handleUses op p.w)).isNone && !s.badRange p && (s.domainState p).isNone
theorem takes_spec {s : State} {op : Nat} {p : Packet} (h : takesOk s op p = true) : s.takesHead 63 op p := by
  simp only [takesOk, Bool.and_eq_true, beq_iff_eq, Bool.not_eq_true', Option.isNone_iff_eq_none] at h
  obtain ⟨⟨⟨⟨⟨⟨⟨h1, h2⟩, h3⟩, h4⟩, h5⟩, h6⟩, h7⟩, h8⟩ := h
  exact ⟨h1, h2, h3, h4, h5, h6, h7, h8⟩
def taken (op n : Nat) (ws : List Nat) : Bool := takesOk (headOf (packet op n ws)) op (packet op n ws)
/-- The state in which the command is accepted. -/
def adm (op n : Nat) (ws : List Nat) : State := (headOf (packet op n ws)).admitted 63 op (packet op n ws)

/-- A load image of one empty routine, in HBM at 0. -/
def imaged (s : State) : State := { s with hbm := tputs 0 [] 0 (toLe 8 1 ++ toLe 8 0x8000100000000000 ++ toLe 8 Build.reference.signature.toNat ++ toLe 16 0) }
theorem witness_ImmediateCommands :
    taken 0 1 [] = true ∧ taken 1 1 [] = true ∧ taken 2 1 [] = true ∧ taken 0x0100 1 [0, 1, 0] = true ∧
    (let s := imaged (headOf (packet 0x0100 1 [0, 1, 0]))
     takesOk s 0x0100 (packet 0x0100 1 [0, 1, 0]) = true ∧
      (let a := s.admitted 63 0x0100 (packet 0x0100 1 [0, 1, 0])
       !a.imageHeld 1 0 a.erasures && (match a.checkImage 1 0 a.erasures with | .ok img => imageCount img == 1 | _ => false)) = true) ∧
    taken 0x0101 1 [0, 0xFF + 2 ^ 8, 7] = true ∧ taken 0x0101 1 [0, 0] = true ∧
    (∀ op ∈ [0x0102, 0x0103], taken op 1 [0, 0] = true ∧
      (let a := adm op 1 [0, 0]
       (a.configs 0 0).isEmpty = true ∧ ((a.fur 0).routine 0).valid = true ∧ ((a.fur 0).routine 0).placement = 0 ∧ ((a.fur 0).routine 0).bricks ≤ (a.env 0 0).shown ∧
        (footRegions ((a.fur 0).routine 0).foot []).any (badRegion a.build (a.fur 0) 0) = false ∧ a.ringCheck 0 0 [] = none)) ∧
    taken 0x0104 1 [0, 1] = true ∧
    (let a := adm 0x0104 1 [0, 1]
     a.build.bricksOf 0 = 4 ∧ 8 ≤ a.build.scratchMib ∧ (a.fur 0).split ≠ true ∧ (a.fur 0).inService = 3) ∧
    taken 0x0105 1 [0, 0x8000] = true ∧ (adm 0x0105 1 [0, 0x8000] |>.fur 0).usedGroups = 0 ∧ (adm 0x0105 1 [0, 0x8000] |>.fur 0).boardGroups = 0 := by
  decide +kernel
/-- NOP ends with status OK and zero results; TIMESTAMP's RESULT0 is the timebase (R244). -/
theorem test_timestamp : after (.timestamp 63) { headOf (packet 2 1 []) with time := 77 } (fun t => (t.queue 63).ready.map (fun r => (r.status, r.r0, r.r1))) [] = [(0, 77, 0)] ∧
    after (.nop 63) (headOf (packet 0 1 [])) (fun t => (t.queue 63).ready.map (fun r => (r.status, r.r0, r.r1))) [] = [(0, 0, 0)] := by decide +kernel
/-- A nonzero reserved bit gives BAD_PARAM without a freeze, an opcode of the table's gaps BAD_OPCODE with one (R243). -/
theorem test_bad_packet : after (.nop 63) (headOf (packet 0 1 [1])) (fun t => ((t.queue 63).st, (t.queue 63).ready.map (fun r => r.status))) (.free, []) =
      (.active, [0x0107]) ∧
    after (.nop 63) (headOf (packet 3 1 [])) (fun t => ((t.queue 63).st, (t.queue 63).ready.map (fun r => r.status))) (.free, []) = (.frozen, [0x0106]) := by
  decide +kernel

/-- A command of slot 63 at work. -/
def working (op stage : Nat) (ws : List Nat) (s : State) : State := s.modQueue 63 (fun x => { x with cmds := x.cmds ++
  [⟨0, BitVec.ofNat 16 op, 1, (packet op 1 ws).words, false, [], 1, stage, false, 0, 0, [], false, 0⟩] })
def ref63 : CmdRef := ⟨63, 0⟩
theorem witness_CommandEvents :
    (let s := (working 0x0100 2 [0, 1, 0] (bound id)).modFur 0 (fun x => { x with loads := [(0, ref63)] })
     s.stopped = false ∧ ((s.atWork 63 0 0x0100).any (fun c => (s.fur c.fur).loads.any (fun l => l.2 == ref63) && imageMask c.buf &&& (s.fur c.fur).heldSegs == 0)) = true) ∧
    (let s := working 0x0101 2 [0, 0xFF + 2 ^ 8, 7] (bound id)
     ((s.atWork 63 0 0x0101).any (fun c => (s.configs c.fur c.dom).head? == some ref63 && !s.afterStart c && (s.dom c.fur c.dom).st != .starting)) = true) ∧
    (let e : Entrant := ⟨1, 1, ref63, [(0, 512, true)]⟩
     let x := { (bound id).fur 0 with waiting := [e] }
     x.admits e = true ∧ e.regions.any (fun g => (groupsOf g.1 g.2.1 &&& (x.fallow ||| x.waking)) != 0) = false) ∧
    ({ (bound id).fur 0 with modeChange := some (true, ref63) } : Furrow).modeReady = true ∧
    (let x : Furrow := { (bound id).fur 0 with fallowWait := [(0x8000, ref63)] }
     (0x8000 : BitVec 16) &&& ~~~x.fallow &&& x.boardGroups = 0) := by decide +kernel
/-- START enters the scoreboard: STARTING with the fetch ticks (R94, R95). -/
theorem test_start : after (.start 63) (headOf (packet 0x0102 1 [0, 0])) (fun t => ((t.dom 0 0).st, (t.fur 0).waiting.length, (t.dom 0 0).held)) (.reset, 0, 0) =
    (.starting, 1, 0xFF) := by decide +kernel

theorem witness_FetchAndRecord :
    (let s := bound (fun x => { x with tail := 1 })
     s.mayFetch (s.queue 63) = true ∧ headerUnits (unitWords (s.hostRd ((s.queue 63).ringAddr 0) 64)) ≤ ((s.queue 63).tail - (s.queue 63).head).toNat) ∧
    (let s := bound (fun x => { x with cqTail := 15, ready := [⟨0, 0, 0, 0, 0, 0, false, some 9⟩] })
     (s.queue 63).ready.map Rec.time = [some 9] ∧ s.stopped = false) ∧
    (∀ quiet : Bool, let s := working 0 3 [] (bound (fun x => { x with cqTail := 16, ready := [⟨0, 0, 0, 0, 0, 0, quiet, none⟩] }))
     s.release = 3 ∧ s.dead = false ∧ s.dc.started = true ∧ (s.queue 63).ready = [⟨0, 0, 0, 0, 0, 0, quiet, none⟩] ∧
      ((s.queue 63).cqTail - (1 : W64).setWidth 32).toNat < 2 ^ fld (s.queue 63).cfg 16 5 ∧
      ¬ ((s.queue 63).cqTail - (0 : W64).setWidth 32).toNat < 2 ^ fld (s.queue 63).cfg 16 5 ∧ (s.queue 63).cmds.map (fun c => (c.seq, c.done)) = [(0, false)]) := by
  decide +kernel
/-- A ring of 16 that is full gives one place when QS_CQ_HEAD moves to 1: a QUIET record goes without one and its command has ended; another has
the time at which the room came, and is written with it (R242, R247, R248). -/
theorem test_room : (∀ quiet : Bool, after (.qsCqHeadWrite 63 1)
      { working 0 3 [] (bound (fun x => { x with cqTail := 16, ready := [⟨0, 0, 0, 0, 0, 0, quiet, none⟩] })) with time := 77 }
      (fun t => ((t.queue 63).ready.map Rec.time, (t.queue 63).cmds.length)) ([none], 9) = if quiet then ([], 0) else ([some 77], 1)) ∧
    after (.completionRecordWrite 63) (working 0 3 [] (bound (fun x => { x with cqTail := 16, ready := [⟨0, 0, 0, 0, 0, 0, false, none⟩] })))
      (fun t => (t.queue 63).cqTail) 0 = 16 := by decide +kernel
theorem witness_QueueControl :
    (let s := bound id
     s.release = 3 ∧ s.dead = false ∧ s.dc.started = true ∧ (s.queue 63).ready = [] ∧ (s.queue 63).tailOk 64 = true ∧ (s.queue 63).tailOk 65 = false ∧ (s.queue 63).st = .active) ∧
    (∀ st ∈ [QState.free, .stopped], let s := bound (fun x => { x with st := st })
      (s.queue 63).st = st ∧ s.cfgOk (s.queue 63) = true ∧ (s.queue 63).tailOk (s.queue 63).tail = true) ∧
    ((bound (fun x => { x with st := .frozen })).queue 63).st = .frozen ∧
    ((bound (fun x => { x with st := .draining })).queue 63).cmds = [] := by decide +kernel
theorem test_enable : after (.qsEnable 63) (bound (fun x => { x with st := .stopped })) (fun t => (t.queue 63).st) .free = .active ∧
    after (.qsTailWrite 63 65) (bound id) (fun t => ((t.queue 63).st, (t.queue 63).tail, (t.queue 63).fault)) (.free, 9, 0) = (.frozen, 0, 0x000000000107FFFF) := by
  decide +kernel
theorem witness_ContextControl :
    (let s := bound id
     s.boundQueues 47 = [] ∧ s.ownsFurrow 47 = false ∧ s.debugOn = false ∧ s.idTaken 47 6 = false ∧ (s.ctx 0).valid = true ∧ s.release = 3 ∧ s.dead = false) ∧
    bitOf (0x40 : W64) 6 = true ∧ bitOf (0 : W64) 6 = false ∧
    (let s := (bound id).modFur 0 (fun x => { x with pendingAssign := true, release := true })
     (s.fur 0).pendingAssign = true ∧ s.mayReassign 0 = true ∧ s.stopped = false) := by decide +kernel
theorem witness_SegmentTable :
    (let s := bound id
     (s.seg 3).st = 0 ∧ (s.seg 3).createOk = true ∧ (s.seg 1).st = 1 ∧ (s.seg 1).refs = 0 ∧
      ({ s.seg 1 with base := 0xBFFFC } : Seg).createOk = true ∧ ({ s.seg 1 with base := 0xBFFFD } : Seg).createOk = false) ∧
    (let g : Seg := ⟨2, false, 0, 4, 0xFFFF, 5, true, true, true, true, false, 0, 0⟩
     g.st = 2 ∧ g.refs = 0 ∧ g.gen = 0xFFFF ∧ ({ g with st := 1, refs := 1 } : Seg).refs ≠ 0) := by decide +kernel
/-- FREE of a VALID entry without references makes it FREE at GEN + 1 (R259). -/
theorem test_segment_free : after (.segmentFree 1) (bound id) (fun t => ((t.seg 1).st, (t.seg 1).gen)) (3, 9) = (0, 1) := by decide +kernel

/-- A COPY or FILL of slot 63 on an engine. -/
def copying (op : Nat) (ws : List Nat) (g : CopyJob → CopyJob) : State :=
  { working op 2 ws (bound id) with copies := [g ⟨ref63, 0, none, 0, 0, false, []⟩] }
def copyAt (s : State) (p : Cmd → Bool) : Bool :=
  ((s.copies.take 8).find? (fun j => j.ref == ref63)).isSome && (match s.cmd? ref63 with | some c => c.stage == 2 && p c | none => false)
/-- The dispatcher's piece of the job at stack port 0 is the one to be granted, and its move is as told. -/
def moveAt (s : State) (p : CopyJob → Move → Side → Side → Bool) : Bool :=
  !s.stackPorts[0].retraining && !s.stackPorts[0].failed && !s.stopped &&
    (match pickCand s.stackPorts[0] (s.cands 0) with
      | some x => x.rq == 128 && x.ref == ref63 &&
          (match s.copies.find? (fun j => j.ref == ref63) with
            | some j => (match s.jobMove j with | some (_, a, b, m) => p j m a b | none => false)
            | none => false)
      | none => false)
theorem witness_CopyCommands :
    taken 0x0200 1 [0, 1, 0, 1, 0x1000, 8] = true ∧ taken 0x0200 1 [3 * 2 ^ 8, 0, 0, 0, 0x1000, 8] = true ∧
    (let a := adm 0x0200 1 [3 * 2 ^ 8, 0, 0, 0, 0x1000, 8]
     let p := packet 0x0200 1 [3 * 2 ^ 8, 0, 0, 0, 0x1000, 8]
     sidesOverlap (a.copySrc p.w) (a.copyDst p.w) 8 = false) ∧
    taken 0x0201 1 [0, 1, 0, 8] = true ∧ taken 0x0204 2 [0, 96 * 2 ^ 32] = true ∧ taken 0x0205 1 [0, 512 * 2 ^ 32, 1, 0] = true ∧
    (let s := copying 0x0200 [0, 1, 0, 1, 0x800, 8] (fun j => { j with wr := 8 })
     copyAt s (fun c => (s.copyWork c).2.2 == 8 && !((s.copyWork c).1.isNow && (s.copyWork c).2.1.isNow)) = true) ∧
    (let s := copying 0x0200 [0, 2, 0, 2, 0x1000, 8] id
     s.stopped = false ∧ twf 0 s.hostMem = true ∧ tany s.hostBad 0 8 = false ∧
      copyAt s (fun c => match s.copyWork c with | (.mem a _, .mem b _, n) => a.host && b.host && n == 8 | _ => false) = true) ∧
    (let s := copying 0x0201 [0, 2, 0, 8, 0x0807060504030201] id
     copyAt s (fun c => match s.copyWork c with | (.fill _, .mem b _, n) => b.host && n == 8 | _ => false) = true) ∧
    (let s := copying 0x0200 [0, 1, 0, 1, 0x800, 8] (fun j => { j with ask := some 0 })
     moveAt s (fun j m a b => match m, a, b with
      | .read off n, .mem l _, .mem _ _ => off == 0 && n == 8 && !l.host && l.key.isNone && !tany s.hbmBad l.addr (l.addr + 8) && !b.isNow && j.buf.isEmpty
      | _, _, _ => false) = true ∧ twf 0 s.hbm = true ∧ twf false s.hbmBad = true ∧ s.fences = []) ∧
    (let s := copying 0x0200 [0, 1, 0, 1, 0x800, 8] (fun j => { j with ask := some 0, buf := List.replicate 8 (7, false) })
     moveAt s (fun j m a b => match m, b with
      | .write off n, .mem l _ => off == 0 && n == 8 && !a.isNow && !l.host && l.key.isNone && decide (n ≤ j.buf.length) && !needsExtra b 8 off
      | _, _ => false) = true) := by decide +kernel
/-- FILL of eight bytes writes the pattern, and COPY moves it (R245). -/
theorem test_fill : after (.copyDone 63 0) (copying 0x0201 [0, 2, 16, 8, 0x0807060504030201] id) (fun t => t.hostRd 16 8) [] = [1, 2, 3, 4, 5, 6, 7, 8] ∧
    after (.stackSlotGrant 0) (copying 0x0201 [0, 1, 16, 8, 0x0807060504030201] (fun j => { j with ask := some 0 })) (fun t => t.hbmRd 16 8) [] =
      [1, 2, 3, 4, 5, 6, 7, 8] := by decide +kernel
/-- A COPY within HBM reads with one slot and writes with the next (R245). -/
theorem test_copy :
    let s := { copying 0x0200 [0, 1, 0, 1, 0x800, 3] (fun j => { j with ask := some 0 }) with hbm := tputs 0 [] 0 [9, 8, 7] }
    after (.stackSlotGrant 0) s (fun t => (t.copies.map (fun j => j.buf.map Prod.fst), t.hbmRd 0x800 3)) ([], []) = ([[9, 8, 7]], [0, 0, 0]) ∧
    after (.stackSlotGrant 0) { s with copies := [⟨ref63, 0, some 0, 0, 0, false, [(9, false), (8, false), (7, true)]⟩] }
      (fun t => (t.copies.map (fun j => (j.wr, j.pois)), t.hbmRd 0x800 4)) ([], []) = ([(3, 1)], [9, 8, 7, 0]) := by decide +kernel

def fenced (v : Nat) : State := { working 0x0300 2 [0, 1, 8, v] (bound id) with hbm := tputs 0 [] 8 (toLe 8 5) }
def watching : State := (fenced 0).setWatch 255 { Watch.free with st := 1, ref := ref63, handle := 1, offset := 8, target := 5, deadline := 1 }
theorem witness_FenceCommands :
    taken 0x0300 1 [0, 1, 8, 6] = true ∧ ((fenced 6).atWork 63 0 0x0300).isSome = true ∧ (fenced 6).stopped = false ∧
    ((fenced 6).memRead ((fenced 6).locOf 1 8) 8).2 = .good ∧ ((fenced 6).locOf 1 8).host = false ∧ (fenced 6).fences = [] ∧
    taken 0x0301 1 [0, 1, 8, 6, 0xFFFFFFFF] = true ∧ (adm 0x0301 1 [0, 1, 8, 6, 0xFFFFFFFF]).freeSlot = some 0 ∧
    (watching.watch 255).st = 1 ∧ watching.stopped = false ∧ (watching.memRead (watching.locOf 1 8) 8).2 = .good ∧
    reached (w64 (ofLe (watching.memRead (watching.locOf 1 8) 8).1)) (watching.watch 255).target = true ∧
    (let s := watching.setWatch 255 { watching.watch 255 with target := 6 }
     reached (w64 (ofLe (s.memRead (s.locOf 1 8) 8).1)) (s.watch 255).target = false ∧ ((s.watch 255).ending = false ∧ ({ s.watch 255 with ending := true } : Watch).ending = true)) ∧
    (let s := { watching with time := 1 }
     (s.watch 255).deadline ≠ 0 ∧ reached s.time (s.watch 255).deadline = true) ∧
    taken 0x0302 1 [0, 255 + 2 ^ 8 + 0xFFFF * 2 ^ 16] = true := by decide +kernel
theorem witness_FenceSignal : ((fenced 6).atWork 63 0 0x0300).isSome = true ∧ (fenced 6).stopped = false ∧
    ((fenced 6).memRead ((fenced 6).locOf 1 8) 8).2 = .good ∧ reached (6 : W64) 5 = true ∧ reached (4 : W64) 5 = false ∧
    ((fenced 4).atWork 63 0 0x0300).isSome = true ∧ (fenced 6).fences = [] ∧ (ReadOutcome.uncorrectable ≠ .good) := by decide +kernel
/-- 6 is later than 5 and is stored; 4 is regressive and leaves 5 (R276). -/
theorem test_fence : after (.fenceOperation 63 0 .good) (fenced 6) (fun t => (t.hbmRd 8 1, (t.queue 63).ready.map (fun r => r.r0))) ([], []) = ([6], [6]) ∧
    after (.fenceOperation 63 0 .good) (fenced 4) (fun t => (t.hbmRd 8 1, (t.queue 63).ready.map (fun r => r.r0), t.gl.intake.map (fun r => r.code))) ([], [], []) =
      ([5], [5], [0x0701]) := by decide +kernel
/-- A fence in HBM waits for its two slots (R277). -/
theorem test_fence_slots : (let s := { fenced 6 with fences := [⟨ref63, 0, 0, [⟨8, 16, 0, false⟩, ⟨8, 16, 0, false⟩]⟩] }
    after (.fenceOperation 63 0 .good) s (fun t => t.hbmRd 8 1) [] = [5] ∧
    after (.stackSlotGrant 0) s (fun t => t.fences.map (fun j => j.pieces.length)) [] = [1]) := by decide +kernel

/-- Furrow 0 two nanoseconds after changes of furrows 1 and 2 left them; a fourth has not left, and holds a fifth of its domain and counter. -/
def changing : State := { (bound id).modFur 0 (fun x => { x with changes :=
  [⟨4, 255, 1, 1, none, some 0⟩, ⟨2, 255, 0, 9, none, some 0⟩, ⟨5, 255, 2, 2, none, some 0⟩, ⟨3, 7, 1, 1, some 6, none⟩, ⟨3, 7, 1, 1, none, some 0⟩] }) with time := 2 }
theorem witness_CounterChanges :
    changing.stopped = false ∧ (changing.fur 0).changes.all (fun c => decide (c.src < 32) && c.src / 2 != 0) = true ∧ twf 0 (changing.fur 0).counters = true := by
  decide +kernel
/-- The set of furrow 1, the sum of furrow 2's domain 0 and the difference of its domain 1 act in that order, though the set came later; a change
that has not left keeps the later one of its domain behind it (R285, R286). A subtraction wraps modulo 2^16 (R283). -/
theorem test_counter : after (.signalArrive 0) changing (fun t => (tget 0 (t.fur 0).counters 255, (t.fur 0).changes.map (fun c => c.src))) (0, []) = (8, [3, 3]) ∧
    after (.signalArrive 0) { (bound id).modFur 0 (fun x => { x with changes := [⟨2, 255, 2, 1, none, some 0⟩] }) with time := 2 }
      (fun t => tget 0 (t.fur 0).counters 255) 0 = 0xFFFF := by decide +kernel

theorem witness_DrillArming :
    taken 0x0202 2 [7 * 2 ^ 8 + 1 * 2 ^ 32, 1, 0] = true ∧ (adm 0x0202 2 [7 * 2 ^ 8 + 1 * 2 ^ 32, 1, 0]).armRefused 0 7 false 0 = none ∧
    taken 0x0203 2 [7 * 2 ^ 8] = true ∧ taken 0x0206 1 [7 * 2 ^ 8] = true ∧
    (∀ st ∈ [DrillState.idle, .armed, .parked, .running, .stopping], ((withDrill (headOf (packet 0x0206 1 [7 * 2 ^ 8])) (fun x => { x with st := st })).drill 0 7).st = st ∧
      takesOk (withDrill (headOf (packet 0x0206 1 [7 * 2 ^ 8])) (fun x => { x with st := st })) 0x0206 (packet 0x0206 1 [7 * 2 ^ 8]) = true) ∧
    takesOk (withDrill (headOf (packet 0x0203 2 [7 * 2 ^ 8])) (fun x => { x with st := .parked, persist := true })) 0x0203 (packet 0x0203 2 [7 * 2 ^ 8]) = true := by
  decide +kernel
theorem test_arm : after (.armDrill 63) (headOf (packet 0x0202 2 [7 * 2 ^ 8 + 1 * 2 ^ 32, 1, 0])) (fun t => ((t.drill 0 7).st, (t.drill 0 7).count)) (.idle, 0) =
    (.armed, 1) := by decide +kernel

/-! ### Drill lists, port S, relay, stack ports -/

/-- One row of 512 bytes from handle 1, offset 0, to the last scratchpad row; the last descriptor, of a whole tile. -/
def lastRow : Desc := ⟨0, 1 + 512 * 2 ^ 32, 1 + 512 * 2 ^ 16 + 0x1FFFE00 * 2 ^ 32, 3 * 2 ^ 16⟩
def block7 : Block := ⟨lastRow, 0, 0, some 1, false, none, 0, 0, 0, [], [], 0, 0, 0, 0, [], []⟩
/-- Drill 7 of the bound context's furrow with a list of one descriptor, in HBM at 64. -/
def listed (st : DrillState) (g : Drill → Drill) : State := withDrill (bound id) (fun x => g { x with
  st := st, count := 1, listHandle := 1, listOffset := 64, depth := 1 })
def rowBytes : List Byte := List.replicate 512 7
/-- A drill whose list stands in the scratchpad at row 1, and the port-S read of its first descriptor. -/
def scratchList (g : Drill → Drill) : State := listed .armed (fun x => g { x with listScratch := true, listOffset := 512 })
def descRead : Xfer := ⟨.drill 7, 512, 32, false, 0, none, [], false, 0, 0, true⟩
theorem witness_DrillLists :
    (∀ st ∈ [DrillState.armed, .running], let s := listed st id
      let x := s.drill 0 7
      x.st = st ∧ x.persist = false ∧ x.lastSeen = false ∧ x.fetched = [] ∧ x.fetchIdx < x.count ∧ x.listScratch = false ∧
        s.stackHeld (s.descLoc x x.fetchIdx) 32 = false) ∧
    (let s := scratchList id
     let x := s.drill 0 7
     let z := s.fur 0
     x.fetches = true ∧ x.listScratch = true ∧ z.xfers = [] ∧ x.listOffset + 32 * x.fetchIdx = 512 ∧ s.bankHeld 0 512 = false ∧ z.asleep 1 = false ∧
      z.isPending 1 = false ∧ (s.noteAsks 0).turn 0 descRead = true) ∧
    (let z := { (scratchList id).fur 0 with xfers := [descRead] }
     z.xferOf (.drill 7) = some descRead ∧ descRead.write = false ∧ descRead.desc = true ∧ (z.drill 7).persist = false) ∧
    (let x := (listed .running (fun x => { x with fetched := [lastRow], fetchIdx := 1, out := true, ended := [(0, 0)] })).drill 0 7
     x.nextDesc = some lastRow ∧ x.lastSeen = false ∧ x.mayBegin = true ∧ x.hasCredit = true ∧ x.endedRows = some 0) ∧
    (let s := listed .running (fun x => { x with fetched := [lastRow], fetchIdx := 1 })
     let x := s.drill 0 7
     s.stopped = false ∧ x.nextDesc = some lastRow ∧ x.lastSeen = false ∧ x.mayBegin = true ∧ x.hasCredit = true ∧ x.endedRows = none ∧
      descBad x lastRow = false ∧ movesNothing x lastRow = false ∧ s.memRefused 0 x lastRow = none ∧
      spRefused s.build (s.fur 0) x 7 lastRow = none) ∧
    (let x := (listed .running (fun x => { x with lastSeen := true, next := 1 })).drill 0 7
     x.lastSeen = true ∧ x.count ≤ x.next ∧ x.blocks = [] ∧ x.landing = []) ∧
    ((listed .stopping id).drill 0 7).blocks = [] ∧ ((listed .stopping id).drill 0 7).landing = [] ∧
    (let s := listed .frozen id
     s.release = 3 ∧ s.dead = false ∧ s.dc.started = true ∧ (s.drill 0 7).st = .frozen ∧ (0x80 : BitVec 8) = BitVec.twoPow 8 (7 : DrillNo).val ∧
      (∀ b ∈ [0, 8, 24], bitOf (s.fur 0).dlSticky (b + 7) = false)) := by decide +kernel
/-- The block begins with one piece per 4 KiB of its run (R140); a list that has ended leaves the drill IDLE (R136). -/
theorem test_block_begin : after (.drillBlockBegin 0 7) (listed .running (fun x => { x with fetched := [lastRow], fetchIdx := 1 }))
      (fun t => ((t.drill 0 7).blocks.map (fun b => b.pieces), (t.seg 1).refs)) ([], 9) = ([[⟨0, 512, 0, false⟩]], 1) ∧
    after (.drillListEnd 0 7) (listed .running (fun x => { x with lastSeen := true, next := 1 })) (fun t => (t.drill 0 7).st) .armed = .idle := by
  decide +kernel

def landing : State := listed .running (fun x => { x with blocks := [block7], landing := [⟨0, 0, rowBytes, false, false, false⟩] })
def moving : Xfer := ⟨.drill 7, 0x1FFFE00, 512, true, 0, none, rowBytes, false, 0, 0, false⟩
/-- Whether an agent's transfer is the first to be served by its bank. -/
def firstOk (s : State) (t : Xfer) : Bool := ((s.noteAsks 0).turn 0 t)
def asksOk (s : State) (t : Xfer) : Bool :=
  let z := s.fur 0
  !z.asleep (t.addr / 512) && !z.bankBusy t.addr && !s.bankHeld 0 t.addr && decide ((z.xfers.filter (fun u => u.agent == t.agent)).length < 2) &&
    z.sCheck (t.addr / 512) t.write t.tag t.ring
def hostMove (a n : Nat) (write : Bool) (bs : List Byte) : Xfer := ⟨.host 63 0, a, n, write, 0, none, bs, false, 0, 0, false⟩
def scratching (op v : Nat) (g : Cmd → Cmd) : State :=
  (working op 2 [0, v, 2, 0x1000] (bound id)).modQueue 63 (fun x => { x with cmds := x.cmds.map g })
/-- A SCRATCH_READ of two bytes to offset 8 of a segment in HBM, at the end of its transfer. -/
def readOut : State := (working 0x0205 2 [0, 2 * 2 ^ 32, 1, 8] (bound id)).modFur 0 (fun z =>
  { z with xfers := [hostMove 0 2 false []], data := [(0, 7), (1, 8)] })
/-- An OUT drill with one row taken from the scratchpad. -/
def outgoing : State := listed .running (fun x => { x with out := true, blocks := [{ block7 with begun := 1, outRows := [(0, rowBytes, true)] }] })
theorem witness_PortSTransfers :
    (let s := landing
     let z := s.fur 0
     let x := s.drill 0 7
     s.stopped = false ∧ x.moving = true ∧ x.out = false ∧ z.nextWrite 7 = some ⟨0, 0, rowBytes, false, false, false⟩ ∧
      x.blocks.find? (fun b => b.idx == 0) = some block7 ∧ z.spRow lastRow 0 true = (0xFFFF, none) ∧ asksOk s moving = true ∧ firstOk s moving = true) ∧
    (let s := landing.modFur 0 (fun z => { z with asks := [.relay, .drill 7], relayIn := [⟨rowBytes, false⟩] }.setDrill 6
      { Drill.atReset with st := .running, mode := 2, blocks := [{ block7 with seg := none }], relayBase := 0xFFFF, relayRows := 1 })
     (s.drill 0 7).moving = true ∧ (s.fur 0).nextWrite 7 = some ⟨0, 0, rowBytes, false, false, false⟩ ∧ asksOk s moving = true ∧ firstOk s moving = false) ∧
    (({ landing.fur 0 with xfers := [moving] } : Furrow).xferOf (.drill 7) = some moving ∧ moving.write = true) ∧
    (∀ p ∈ [((0x0204 : Nat), 96 * 2 ^ 32, hostMove 0 96 true []), (0x0205, 512 * 2 ^ 32, hostMove 0 512 false [])], let s := scratching p.1 p.2.1 id
      s.copyXfer 63 0 = none ∧ ((s.cmd? ⟨63, 0⟩).any (fun c => c.fur == 0 && c.stage == 2 && c.opcode == BitVec.ofNat 16 p.1 && c.buf.isEmpty)) = true ∧
        (s.fur 0).xferOf (.host 63 0) = none ∧ asksOk s p.2.2 = true ∧ firstOk s p.2.2 = true) ∧
    (let s := (scratching 0x0204 (96 * 2 ^ 32) id).modFur 0 (fun z => { z with xfers := [hostMove 0 96 true []] })
     (s.fur 0).xferOf (.host 63 0) = some (hostMove 0 96 true []) ∧ ((s.cmd? ⟨63, 0⟩).any (fun c => c.opcode == 0x0204)) = true) ∧
    (let s := (scratching 0x0205 (512 * 2 ^ 32) id).modFur 0 (fun z => { z with xfers := [hostMove 0 512 false []] })
     (s.fur 0).xferOf (.host 63 0) = some (hostMove 0 512 false []) ∧
      ((s.cmd? ⟨63, 0⟩).any (fun c => c.opcode == 0x0205 && c.stage == 2 && (s.locOf (c.w 3) (c.w 4)).host)) = true ∧
      (s.fur 0).xferBytes (hostMove 0 512 false []) ≠ [] ∧ twf 0 s.hostMem = true ∧ s.fences.any (fun j => j.ref == ⟨(63 : QSlot).val, 0⟩) = false) ∧
    (let s := listed .running (fun x => { x with blocks := [block7] })
     let x := s.drill 0 7
     x.moving = true ∧ x.out = false ∧ x.mode.toNat < 2 ∧ x.nextLanding = some (block7, 0) ∧ block7.rowWaits 0 = false ∧ block7.host = false ∧
      block7.enc = none ∧ block7.failed = [] ∧ (block7.requests 0).all (fun r => !tany s.hbmBad r.1 (r.1 + (r.2 - r.1))) = true ∧
      (block7.requests 0).any (fun r => tany [(7, true)] r.1 (r.1 + (r.2 - r.1))) = true) ∧
    (let s := outgoing
     let x := s.drill 0 7
     let b : Block := { block7 with begun := 1, outRows := [(0, rowBytes, true)] }
     x.moving = true ∧ x.out = true ∧ x.blocks = [b] ∧ b.outRows = [(b.moved, rowBytes, true)] ∧ b.rowWaits b.moved = false ∧ b.host = false ∧
      b.enc = none ∧ twf 0 s.hbm = true ∧ twf false s.hbmBad = true ∧ b.desc.bytes ≤ rowBytes.length) := by decide +kernel
/-- A row whose request meets a bad byte lands poisoned; an acknowledged row is in memory, and its poison is the error pattern (R137, R144, R145). -/
theorem test_memory_rows :
    after (.rowsLand 0 7 .good) { listed .running (fun x => { x with blocks := [block7] }) with hbm := [(511, 9)] }
      (fun t => (t.drill 0 7).landing.map (fun r => (r.bytes.getD 511 0, r.poison))) [] = [(9, false)] ∧
    after (.rowsLand 0 7 .good) { listed .running (fun x => { x with blocks := [block7] }) with hbmBad := [(7, true)] }
      (fun t => ((t.drill 0 7).landing.map (fun r => r.poison), bitOf (t.fur 0).dlSticky 23)) ([], false) = ([true], true) ∧
    after (.writeAcknowledge 0 7) (listed .running (fun x => { x with out := true, blocks := [{ block7 with begun := 1, outRows := [(0, [7, 8], true)] }] }))
      (fun t => (t.hbm, tany t.hbmBad 0 1)) ([], false) = ([(0, 7), (1, 8)], true) := by decide +kernel
/-- A SCRATCH_READ's bytes go to its segment, in host memory at 0x1000 (R245). -/
theorem test_scratch_read : after (.portSCommit 0 (.host 63 0))
      ((scratching 0x0205 (8 * 2 ^ 32) id).modFur 0 (fun z => { z with xfers := [hostMove 0 2 false []], data := [(0, 7), (1, 8)] }))
      (fun t => t.hostRd 0x1000 3) [] = [7, 8, 0] := by decide +kernel
theorem witness_PortSTransfers_out :
    readOut.stopped = false ∧ (readOut.fur 0).xferOf (.host 63 0) = some (hostMove 0 2 false []) ∧ ((readOut.fur 0).xferBytes (hostMove 0 2 false [])).length ≠ 0 ∧
      ((readOut.cmd? ⟨63, 0⟩).any (fun c => c.opcode == 0x0205 && c.stage == 2 && !(readOut.locOf (c.w 3) (c.w 4)).host)) = true := by decide +kernel
/-- One to HBM asks for a slot, writes its bytes when the slot is granted, and completes (R140, R245). -/
theorem test_read_out :
    after (.portSCommit 0 (.host 63 0)) readOut (fun t => (t.fences.map (fun j => j.pieces), t.hbm,
        after (.stackSlotGrant 0) t (fun u => (u.fences.length, u.hbm, (u.queue 63).ready.map Rec.status)) (9, [], []))) ([], [(0, 9)], (9, [], [])) =
      ([[⟨8, 10, 0, false⟩]], [], (0, [(8, 7), (9, 8)], [0])) := by decide +kernel
/-- The bytes are in the scratchpad at the end of the transfer, and none beside them (R106, R137). -/
theorem test_port_s : after (.portSCommit 0 (.drill 7)) (landing.modFur 0 (fun z => { z with xfers := [{ moving with bytes := [7, 8] }] }))
      (fun t => ((t.fur 0).data, (t.fur 0).xfers)) ([], []) = ([(0x1FFFE00, 7), (0x1FFFE01, 8)], []) := by decide +kernel
theorem witness_ScratchWriteLands : twf 0 (landing.fur 0).data = true ∧ twf false (landing.fur 0).full = true ∧ moving.ring = none ∧
    (landing.fur 0).asleep (moving.addr / 512) = false ∧
    moving.addr % 512 + moving.bytes.length ≤ 512 ∧ ({ moving with addr := 0x1FFFE01, bytes := [1] } : Xfer).addr % 512 + 1 ≤ 512 := by decide +kernel

/-- Drill 7 of furrow 0 takes relay rows into the last row of the scratchpad. -/
def receiving (mode : BitVec 2) : State := (listed .running (fun x => { x with mode := mode, blocks := [block7], relayBase := 0xFFFF, relayRows := 1 })).modFur 0
  (fun z => { z with relayIn := [⟨rowBytes, false⟩] })
theorem witness_RelayRows :
    (let s := (listed .running (fun x => { x with mode := 1, blocks := [block7], landing := [⟨0, 0, rowBytes, false, false, false⟩] })).modFur 0
      (fun z => { z with relayOut := List.replicate 15 (⟨[], false⟩, 0) })
     let x := s.drill 0 7
     s.stopped = false ∧ x.landing.find? (fun r => !r.relayed) = some ⟨0, 0, rowBytes, false, false, false⟩ ∧ (s.fur 0).gated = false ∧ x.moving = true ∧ x.mode.toNat % 2 = 1 ∧
      (0 : Fur).val + 1 < s.build.furrows ∧ (s.fur 0).portTook 7 ⟨0, 0, rowBytes, false, false, false⟩ = true ∧
      (s.fur 0).relayOut.length + (s.fur (furOf ((0 : Fur).val + 1))).relayIn.length < 16) ∧
    (let s : State := { (bound id).modFur 0 (fun z => { z with relayOut := [(⟨rowBytes, false⟩, 0)] }) with uptime := 9 }
     (1 : Fur).val ≠ 0 ∧ (s.fur (furOf ((1 : Fur).val - 1))).relayOut = [(⟨rowBytes, false⟩, 0)] ∧
      80 * s.build.latOf 22 ≤ (s.fur (furOf ((1 : Fur).val - 1))).current.toNat * s.powered 0 ∧ ¬ 80 * s.build.latOf 22 ≤ (s.fur 0).current.toNat * s.powered s.uptime) ∧
    (∀ mode ∈ [(2 : BitVec 2), 3], let s := receiving mode
     let z := s.fur 0
     let x := s.drill 0 7
     let p := z.spRow block7.desc block7.begun true
     let t : Xfer := ⟨.relay, p.1 * 512, 512, true, block7.desc.tag, p.2, rowBytes, false, 0, 0, false⟩
     z.relayIn = [⟨rowBytes, false⟩] ∧ z.recvDrill = some (7, block7) ∧ z.xfers = [] ∧ (∀ j : DrillNo, j ≠ 7 → (s.drill 0 j).isRecv = false) ∧
      x.mode = mode ∧ x.landing = [] ∧ twf 0 z.data = true ∧ s.bankHeld 0 (p.1 * 512) = false ∧ z.asleep p.1 = false ∧
      z.sCheck p.1 true block7.desc.tag p.2 = true ∧ (s.noteAsks 0).turn 0 t = true) := by decide +kernel
/-- A RECV row counts when it is written; a RECV_TEE row waits for the relay output as well (R146, R147, R151). -/
theorem test_relay :
    let row (mode : BitVec 2) := after (.relayWrite 0) ((receiving mode).modFur 0 (fun z => { z with relayIn := [⟨[7, 8], false⟩] }))
      (fun t => ((t.fur 0).data, (t.drill 0 7).rows, (t.drill 0 7).landing.length)) ([], 9, 9)
    row 2 = ([(0x1FFFE00, 7), (0x1FFFE01, 8)], 1, 0) ∧ row 3 = ([(0x1FFFE00, 7), (0x1FFFE01, 8)], 0, 1) := by decide +kernel

/-- Two drills wait at stack port 0, of priorities 5 and 2. -/
def waiting2 (g : Nat) : State :=
  let s := (up.setDrill 0 7 { Drill.atReset with st := .running, blocks := [{ block7 with prio := 5, pieces := [⟨0, 512, 0, false⟩] }] }).setDrill 0 6
    { Drill.atReset with st := .running, blocks := [{ block7 with prio := 2, pieces := [⟨0, 512, 0, false⟩] }] }
  { s with stackPorts := s.stackPorts.set 0 { StackPort.zero with g := g } }
/-- A dispatcher's FILL at stack port 0, and the piece of a REMOTE_COPY. -/
def engines : State := { working 0x0201 2 [0, 1, 0, 8] (bound id) with copies := [⟨ref63, 3, some 0, 0, 0, false, []⟩] }
/-- The highest priority while the guard count is below 15, then the lowest (R141, R142). -/
theorem witness_StackSlots :
    (∀ p ∈ [((14 : Nat), (7 : Nat)), (15, 6)], (waiting2 p.1).stackPorts[0].retraining = false ∧ (waiting2 p.1).stackPorts[0].failed = false ∧
      (waiting2 p.1).stopped = false ∧ ((pickCand (waiting2 p.1).stackPorts[0] ((waiting2 p.1).cands 0)).any (fun c => c.rq == p.2)) = true) ∧
    ((pickCand engines.stackPorts[0] (engines.cands 0)).any (fun c => c.rq == 128 && !engines.fences.any (fun j => j.ref == c.ref))) = true ∧
    (let s := { engines with copies := [], fences := [⟨ref63, 0, 0, [⟨8, 16, 0, false⟩]⟩] }
     ((pickCand s.stackPorts[0] (s.cands 0)).any (fun c => c.rq == 128 && s.fences.any (fun j => j.ref == c.ref) && (s.cmd? c.ref).any (fun k => k.opcode != 0x0205))) = true) ∧
    (∀ n ∈ [1, 2], let s : State := { readOut with fences := [⟨ref63, 0, 0, List.replicate n ⟨8, 10, 0, false⟩⟩] }
     ((pickCand s.stackPorts[0] (s.cands 0)).any (fun c => c.rq == 128 && s.fences.any (fun j => j.ref == c.ref) &&
      (((dropPiece c s.fences).filter (fun j => j.pieces != [])).any (fun j => j.ref == c.ref) == decide (n = 2)))) = true) ∧
    (let s := { engines with copies := [], remotes := [⟨ref63, 0, 0, [⟨8, 16, 0, false⟩]⟩] }
     ((pickCand s.stackPorts[0] (s.cands 0)).any (fun c => c.rq == 129)) = true) := by decide +kernel
/-- At a guard count of 15 the dispatcher's first piece, of priority 5, is granted for the piece of priority 0 behind it (R141, log 79). -/
theorem test_slots : let s := { engines with
      copies := [⟨ref63, 5, some 0, 0, 0, false, []⟩], fences := [⟨⟨62, 0⟩, 0, 1, [⟨8, 16, 0, false⟩]⟩]
      stackPorts := engines.stackPorts.set 0 { StackPort.zero with g := 15 } }
    ((pickCand s.stackPorts[0] (s.cands 0)).map (fun c => (c.rq, c.prio))) = some (128, 5) ∧
    after (.stackSlotGrant 0) (waiting2 14) (fun t => (t.stackPorts[0].g, vat 0 (t.fur 0).homeSlots 0)) (0, 0) = (15, 1) := by decide +kernel

/-! ### Mesh -/

/-- Port 15 in a state; MESH_ID 1; a route to 2 through port 15. -/
def meshed (st : PortState) (g : Port → Port) : State :=
  let s := bound id
  ({ s with ms := { s.ms with routes := [(2, 0x1F)] } } : State).setPort 15 (g { Port.atReset with st := st, en := true, credits := 1 })
/-- A CSIG from 2 on lane 63 to 1: counter 255 of furrow 0, ADD 1. -/
def csig (lseq : Nat) : Frame := ⟨mkH0 3 8 2 1 0, mkH1 0 63 0 0 lseq 0, w64 (255 * 2 ^ 8 + 1 * 2 ^ 16 + 1 * 2 ^ 32), 0, []⟩
def write1 : Frame := ⟨mkH0 1 8 2 1 512, mkH1 0 63 0 0 0 0, 0, 0, rowBytes⟩
def fsig1 (v : Nat) : Frame := ⟨mkH0 2 8 2 1 24, mkH1 0 63 0 0 0 0, 0, 0, toLe 4 1 ++ toLe 4 0 ++ toLe 8 8 ++ toLe 8 v⟩
def helloF (serial : Nat) : Frame := ⟨mkH0 9 0 0 0 16, 0, 3, 0, toLe 8 serial ++ toLe 8 0x10002⟩
def linkF (replay : Nat) : Frame := ⟨mkH0 8 0 0 0 0, 0, 0, w64 (replay * 2 ^ 32 + 32 * 2 ^ 16 + 1), []⟩
theorem witness_MeshPorts :
    (meshed .disabled id).release = 3 ∧ (meshed .disabled id).dead = false ∧ (meshed .disabled id).dc.started = true ∧ (meshed .up id).meshRuns = true ∧
    (∀ st ∈ [PortState.disabled, .training, .hello, .up, .down], ((meshed st id).port 15).st = st) ∧
    (meshed .up id).downHolds 15 .pcsLock = true ∧
    (meshed .up (fun x => { x with replay := [⟨csig 0, 16⟩] })).downHolds 15 .replayLimit = true ∧
    ({ meshed .up (fun x => { x with replay := [⟨csig 0, 0⟩], lastLink := some 0 }) with time := 100000 } : State).downHolds 15 .linkSilence = true ∧
    ({ meshed .down id with time := 1000000 } : State).since ((meshed .down id).port 15).since = 1000000 ∧
    ((meshed .hello id).port 15).lastHello = none ∧ (helloF 9).type = 9 ∧ ((meshed .hello (fun x => { x with ctl := [helloF 9] })).port 15).ctl = [helloF 9] ∧
    ((meshed .up id).port 15).nbrSerial ≠ w64 (ofLe ((helloF 9).payload.take 8)) := by decide +kernel
theorem test_mesh_ports : after (.helloFrame 15) (meshed .hello (fun x => { x with ctl := [helloF 9] })) (fun t => ((t.port 15).st, (t.port 15).nbrId, (t.port 15).nbrPort))
      (.down, 0, 0) = (.up, 2, 3) ∧
    after (.linkDown 15 .replayLimit) (meshed .up (fun x => { x with replay := [⟨csig 0, 15⟩] })) (fun t => (t.port 15).st) .down = .up := by decide +kernel
theorem witness_MeshLinks :
    (meshed .up id).meshRuns = true ∧ ((meshed .up (fun x => { x with askDue := true })).port 15).askDue = true ∧
    ((meshed .up (fun x => { x with credits := 0 })).port 15).credits = 0 ∧
    (let x := (meshed .up (fun x => { x with replay := [⟨csig 0, 0⟩], resend := 1 })).port 15
     x.askDue = false ∧ x.credits ≠ 0 ∧ x.resend ≠ 0 ∧ x.replay[x.replay.length - x.resend]? = some ⟨csig 0, 0⟩) ∧
    (let x := (meshed .up (fun x => { x with mgmtOut := [csig 0], replay := List.replicate 127 ⟨csig 0, 0⟩ })).port 15
     x.resend = 0 ∧ x.replay.length < 128 ∧ x.mgmtOut = [csig 0]) ∧
    (let s := meshed .up id
     let out : Frame := { csig 0 with h0 := mkH0 3 8 1 2 0 }
     let t : State := { s with ms := { s.ms with transit := [⟨out, 0, none, none⟩] } }
     (t.transitFor 15).isSome = true ∧ s.transitFor 15 = none ∧
      (({ s with ms := { s.ms with answers := [(out, none)] } } : State).ownFrame 15 0).isSome = true) ∧
    (csig 0).headerOk = true ∧ (csig 0).isSeq = true ∧ (helloF 9).headerOk = true ∧ (linkF 1).headerOk = true ∧ (csig 0).linkSeq = ((meshed .up id).port 15).rxSeq ∧
    (meshed .up id).occupancy 15 < 32 ∧ 32 ≤ (meshed .up (fun x => { x with ingress := List.replicate 32 (csig 0) })).occupancy 15 ∧
    (linkF 0).type = 8 ∧ bitOf (linkF 1).h3 32 = true ∧ bitOf (linkF 0).h3 32 = false ∧
    (let bad : Frame := { helloF 9 with h0 := mkH0 9 1 0 0 16 }
     bad.type = 9 ∧ bad.headerOk = false ∧ ((meshed .hello id).port 15).st = .hello ∧ (meshed .hello id).meshRuns = true) := by decide +kernel
/-- A HELLO with HOPS 1 is dropped with reason 4, in HELLO state too (R294, R304); a LINK frame takes 72 octets on the wire (R293). -/
theorem test_bad_hello : after (.meshFrameReceive 15 true { helloF 9 with h0 := mkH0 9 1 0 0 16 }) (meshed .hello id)
      (fun t => (t.ms.drops, t.gl.intake.map (fun r => (r.code, r.p1)))) (0, []) = (1, [(0x0805, 4)]) ∧ (linkF 0).onWire.length = 72 := by decide +kernel
/-- A LINK with EXPECT 1 frees the frame of LINKSEQ 0 and sets 32 credits; a frame out of order asks for a replay once (R296). -/
theorem test_mesh_link : after (.linkFrame 15) (meshed .up (fun x => { x with ctl := [linkF 0], replay := [⟨csig 0, 0⟩] })) (fun t => ((t.port 15).replay.length, (t.port 15).credits))
      (9, 0) = (0, 32) ∧
    after (.meshFrameReceive 15 true ((csig 0).withLinkSeq 1)) (meshed .up id) (fun t => ((t.port 15).asked, (t.port 15).ingress.length)) (false, 9) = (true, 0) := by
  decide +kernel
/-- A frame in transit, 1 ms after start, with the credits of port 15. -/
def transiting (credits : Nat) (w : Transit) : State :=
  let s : State := { meshed .up (fun x => { x with credits := credits }) with time := 1000000 }
  s.setMs { s.ms with transit := [w] }
theorem witness_FrameForwarding :
    (let x := (meshed .up (fun x => { x with ingress := [csig 0] })).port 15
     x.ingress = [csig 0] ∧ (csig 0).isLane = true ∧ (csig 0).dest = (meshed .up id).ms.id.toNat ∧ (meshed .up id).ms.valid = true) ∧
    (let f : Frame := { csig 0 with h0 := mkH0 3 0 1 2 0 }
     f.dest ≠ (meshed .up id).ms.id.toNat ∧ f.hops = 0 ∧ ({ csig 0 with h0 := mkH0 3 1 1 2 0 } : Frame).hops ≠ 0) ∧
    (let s := meshed .up id
     (({ s with ms := { s.ms with answers := [(csig 0, none)] } } : State).ownFrame 16 0).isSome = true) ∧
    (let f : Frame := { csig 0 with h0 := mkH0 3 1 2 3 0 }
     let s := transiting 0 ⟨f, 15, some 0, none⟩
     s.ms.transit = [⟨f, 15, some 0, none⟩] ∧ 1000000 ≤ s.since 0 ∧ s.routeOf f.dest = none ∧ s.routeOf 2 = some 15 ∧ (s.port (portOf 15)).credits = 0 ∧
      (transiting 1 ⟨f, 15, none, none⟩).routeOf 2 = some 15 ∧ ((transiting 1 ⟨f, 15, none, none⟩).port (portOf 15)).credits ≠ 0) ∧
    (let s := transiting 0 ⟨csig 0, 15, none, none⟩
     s.meshRuns = true ∧ (csig 0).dest = s.ms.id.toNat) ∧
    (let s : State := { meshed .up id with time := 1000000 }
     let t := s.setMs { s.ms with answers := [({ csig 0 with h0 := mkH0 4 0 1 3 0 }, some 0)] }
     t.ms.answers = [({ csig 0 with h0 := mkH0 4 0 1 3 0 }, some 0)] ∧ t.routeOf 3 = none ∧ 1000000 ≤ t.since 0) := by decide +kernel
/-- A frame in transit for an ID that the device has taken goes round the loopback; one that has waited 1 ms for a credit is dropped with reason 3,
and one that has lacked it for less is not (R303, R304, log 82). -/
theorem test_transit : after (.frameForward 16) (transiting 0 ⟨csig 0, 15, none, none⟩) (fun t => (t.ms.transit.length, t.ms.arrivals.map Prod.snd)) (9, []) =
      (0, [15]) ∧
    after (.frameDrop 15) (transiting 0 ⟨{ csig 0 with h0 := mkH0 3 1 1 2 0 }, 15, none, some 0⟩) (fun t => t.ms.drops) 9 = 1 ∧
    after (.frameDrop 15) (transiting 0 ⟨{ csig 0 with h0 := mkH0 3 1 1 2 0 }, 15, none, some 1⟩) (fun t => t.ms.drops) 9 = 0 := by decide +kernel
/-- A frame for another device loses a hop; one with no hop left is dropped (R303). -/
theorem test_forward : after (.frameForward 15) (meshed .up (fun x => { x with ingress := [{ csig 0 with h0 := mkH0 3 1 1 2 0 }] })) (fun t => t.ms.transit.map (fun w => w.frame.hops)) [9]
      = [0] ∧
    after (.frameForward 15) (meshed .up (fun x => { x with ingress := [{ csig 0 with h0 := mkH0 3 0 1 2 0 }] })) (fun t => (t.ms.drops, t.gl.intake.map (fun r => r.p1))) (0, []) =
      (1, [1]) := by decide +kernel

/-- The pair of source 2 and lane 63, with the window 0 of furrow 0 open for it. -/
def paired (g : RecvLane → RecvLane) : State :=
  let s := (meshed .up id).setWindow 0 0 { Window.closed with isOpen := true, length := 512, lanes := 0x8000000000000000 }
  s.setMs (s.ms.setRecv (laneKey 2 63) (g { RecvLane.clear with valid := true }))
def arrived (fr : Frame) (s : State) : State := s.setMs { s.ms with arrivals := [(fr, 15)] }
theorem witness_LaneReceiver :
    (let s := arrived (csig 0) (paired id)
     s.ms.arrivals = [(csig 0, 15)] ∧ (csig 0).isData = true ∧ s.meshRuns = true ∧ s.ms.valid = true ∧ s.stopped = false ∧ (csig 0).key = laneKey 2 63 ∧
      tget false s.ms.frozenSrcs (csig 0).src = false ∧ (s.ms.recvLane (csig 0).key).frozen = false ∧ (csig 0).syn = false ∧
      (s.ms.recvLane (csig 0).key).valid = true ∧ (csig 0).lseq = (s.ms.recvLane (csig 0).key).expect ∧ (s.ms.recvLane (csig 0).key).cur = none ∧
      twf RecvLane.clear s.ms.recv = true) ∧
    ((arrived (csig 0) (paired (fun x => { x with frozen := true }))).ms.recvLane (csig 0).key).frozen = true ∧
    ((arrived (csig 0) (paired (fun x => { x with valid := false }))).ms.recvLane (csig 0).key).valid = false ∧
    (paired id).writeCheck write1 = none ∧ write1.type = 1 ∧ (paired id).writeCheck { write1 with h1 := mkH1 0 62 0 0 0 0 } ≠ none ∧
    ((csig 63).lseq - 0).toNat = 63 ∧ 64 ≤ ((csig 0xFFFF).lseq - 0).toNat ∧ reached 0 (csig 0xFFFF).lseq = true ∧ (paired id).ms.heldCount < 64 ∧
    64 ≤ (paired (fun x => { x with held := List.replicate 64 (csig 5) })).ms.heldCount ∧
    ({ csig 0 with h1 := mkH1 0 63 1 0 0 0 } : Frame).syn = true ∧
    (let s := paired (fun x => { x with cur := some write1 })
     let y := s.ms.recvLane (laneKey 2 63)
     let t := rowXfer write1 0 0 0
     y.cur = some write1 ∧ write1.key = laneKey 2 63 ∧ y.held = [] ∧ y.rows + 1 = write1.len / 512 ∧ (s.window 0 0).isOpen = true ∧
      s.bankHeld 0 0 = false ∧ (s.fur 0).xfers = [] ∧ (s.fur 0).asleep 0 = false ∧
      (s.noteAsks 0).turn 0 t = true ∧ (s.fur 0).sCheck 0 true 3 none = true ∧ twf 0 (s.fur 0).data = true) ∧
    (let syn : Frame := { csig 5 with h1 := mkH1 0 63 1 0 5 0 }
     let s := arrived syn (paired (fun x => { x with cur := some write1 }))
     syn.syn = true ∧ syn.key = laneKey 2 63 ∧ (s.ms.recvLane syn.key).cur = some write1 ∧ write1.lseq ≠ syn.lseq ∧ syn.type ≠ 1 ∧
      tget false s.ms.frozenSrcs syn.src = false ∧ (s.ms.recvLane syn.key).frozen = false) ∧
    write1.len / 512 ≤ ((paired (fun x => { x with cur := some write1, rows := 1 })).ms.recvLane (laneKey 2 63)).rows ∧
    (let s := paired (fun x => { x with cur := some (fsig1 6) })
     (fsig1 6).type = 2 ∧ s.segCheck 0 1 8 8 3 = none ∧ (s.ms.recvLane (laneKey 2 63)).slots = none ∧ ((s.locOf 1 8).checked s.erasures).host = false ∧
      (s.memRead ((s.locOf 1 8).checked s.erasures) 8).2 = .good ∧
      reached (w64 6) (w64 (ofLe (s.memRead ((s.locOf 1 8).checked s.erasures) 8).1)) = true) ∧
    (let s := paired (fun x => { x with cur := some (csig 0) })
     (csig 0).type = 3 ∧ frameFur (csig 0) < s.build.furrows ∧ (s.fur 0).windows.toList.any (fun w => w.admits (csig 0)) = true) := by decide +kernel
/-- A WRITE of one row reaches the window and is acknowledged; a CSIG adds to its counter; a frame 63 ahead is held (R307, R312, R316). -/
theorem test_receiver : after (.writeFrameCommit 2 63) (paired (fun x => { x with cur := some { write1 with payload := [6, 7] } }))
      (fun t => (tget 0 (t.fur 0).data 1, (t.window 0 0).bytes, t.ms.answers.map (fun a => a.1.type))) (0, 0, []) = (7, 512, [4]) ∧
    after (.csigFrame 2 63) (paired (fun x => { x with cur := some (csig 0) })) (fun t => tget 0 (t.fur 0).counters 255) 0 = 1 ∧
    after .laneFrameDeliver (arrived (csig 63) (paired id)) (fun t => (t.ms.recvLane (laneKey 2 63)).held.length) 9 = 1 := by decide +kernel

def sentFrame (n : Nat) : LaneFrame := ⟨{ csig n with h0 := mkH0 3 8 1 2 0 }, ref63, 512, true, false, 0, 0, none⟩
/-- Lane 63 to device 2 with frame 0 unacknowledged, of command 0 of slot 63. -/
def sending (g : SendLane → SendLane) : State :=
  let s := working 0x0402 2 [] (meshed .up id)
  s.setMs (s.ms.setSend (laneKey 2 63) (g { SendLane.clear with next := 1, unacked := [sentFrame 0] }))
def answer (type control : Nat) : Frame := ⟨mkH0 type 8 2 1 0, mkH1 0 63 0 0 0 0, 0, w64 control, []⟩
theorem witness_LaneSender :
    (let a := sentFrame 0
     let b := { sentFrame 1 with last := false }
     let s := arrived { answer 4 0 with h1 := mkH1 0 63 0 0 1 0 } (sending (fun x => { x with next := 3, unacked := [b, a, sentFrame 2] }))
     (s.ms.sendLane (laneKey 2 63)).unacked = [b, a] ++ [sentFrame 2] ∧ (∀ f ∈ [b, a], reached (1 : W16) f.frame.lseq = true) ∧
      reached (1 : W16) (sentFrame 2).frame.lseq = false ∧ b.last = false ∧ a.last = true ∧ (s.cmd? a.ref).isSome = true) ∧
    (let s := arrived (answer 4 0) (sending id)
     tget false (s.setMs { s.ms with frozenSrcs := tset false [] 2 true }).ms.frozenSrcs (answer 4 0).src = true ∧ tget false s.ms.frozenSrcs (answer 4 0).src = false) ∧
    (let s := arrived (answer 4 0) (sending id)
     s.ms.arrivals = [(answer 4 0, 15)] ∧ s.meshRuns = true ∧ (answer 4 0).key = laneKey 2 63 ∧ (answer 4 0).type = 4 ∧
      (s.ms.sendLane (laneKey 2 63)).unacked = [sentFrame 0] ∧ reached (answer 4 0).lseq (sentFrame 0).frame.lseq = true ∧ (sentFrame 0).last = true ∧
      (s.cmd? ref63).isSome = true ∧ twf SendLane.clear s.ms.send = true) ∧
    (∀ r ∈ [1, 2, 3], (answer 5 (r * 2 ^ 16)).type = 5 ∧ fld (answer 5 (r * 2 ^ 16)).h3 16 8 = r) ∧
    (let s := { sending (fun x => { x with unacked := [{ sentFrame 0 with busyAt := some 0 }] }) with time := 2000 }
     (s.ms.sendLane (laneKey 2 63)).unacked.any s.busyOver = true) ∧
    (let s := { sending id with time := 20000 }
     1000 * s.ms.rto.toNat ≤ s.since (sentFrame 0).sentAt ∧ 1000 * s.ms.rto.toNat ≤ s.since (s.ms.sendLane (laneKey 2 63)).moved ∧
      (sentFrame 0).retries < s.ms.retries.toNat ∧ s.ms.retries.toNat ≤ ({ sentFrame 0 with retries := 6 } : LaneFrame).retries) ∧
    ((sending (fun x => { x with failed := some 0x0105 })).ms.sendLane (laneKey 2 63)).failed.isSome = true ∧
    (sending id).release = 3 ∧ (sending id).dead = false ∧ (sending id).dc.started = true := by decide +kernel
/-- One ACK frees two frames; of a frozen source it frees none (R306, R317, log 80). -/
theorem test_ack_run : (∀ frozen : Bool,
    let s := arrived { answer 4 0 with h1 := mkH1 0 63 0 0 1 0 } (sending (fun x => { x with next := 3, unacked := [sentFrame 0, sentFrame 1, sentFrame 2] }))
    after .ackFrame (s.setMs { s.ms with frozenSrcs := tset false [] 2 frozen }) (fun t => ((t.ms.sendLane (laneKey 2 63)).unacked.length, t.ms.arrivals.length)) (9, 9) =
      (if frozen then 3 else 1, 0)) := by decide +kernel
/-- The ACK of the last frame completes the command with the bytes counted; the seventh timeout fails the lane (R306, R308). -/
theorem test_sender : after .ackFrame (arrived (answer 4 0) (sending id)) (fun t => (t.queue 63).ready.map (fun r => (r.status, r.r0))) [] = [(0, 512)] ∧
    after (.laneRetransmit 2 63) { sending (fun x => { x with unacked := [{ sentFrame 0 with retries := 6 }] }) with time := 20000 }
      (fun t => (t.ms.sendLane (laneKey 2 63)).failed) none = some 0x0105 := by decide +kernel

/-- The mailbox holds a packet that the reeve has taken. -/
def posted (op : Nat) (ws : List Nat) (s : State) : State :=
  { s with rv := { s.rv with mbx := .busy, taken := true, cmd := Vector.ofFn (fun i => ((w64 (op + 2 ^ 24) :: ws.map w64).getD i.val 0)) } }
def mgmt (h3 : Nat) : Frame := ⟨mkH0 10 0 0 0 8, 0, w64 (2 ^ 60 + 15), w64 h3, List.replicate 8 1⟩
theorem witness_DirectedRoutes :
    (∀ op ∈ [0x0F40, 0x0F41], let s := posted op [0, 0xFFFFF, 0] (meshed .up id)
      s.mbxHas op = true ∧ s.ms.mgmt = none ∧ 0x40000 ≤ s.rv.w 2 ∧ s.rv.w 2 ≤ 0xFFFFF ∧ fld (w64 (s.rv.w 1)) 60 4 = 0) ∧
    (let s := posted 0x0F40 [2 ^ 60 + 15, 0x40000] (meshed .up id)
     fld (w64 (s.rv.w 1)) 60 4 ≠ 0 ∧ (s.port (portOf (fld (w64 (s.rv.w 1)) 0 4))).st = .up ∧ ((meshed .down id).port 15).st ≠ .up) ∧
    (let s : State := { (meshed .up id) with ms := { (meshed .up id).ms with mgmt := some (0x0F40, 0) }, time := 1000000 }
     s.ms.mgmt = some (0x0F40, 0) ∧ s.meshRuns = true ∧ 1000000 ≤ s.since 0) ∧
    (∀ op ∈ [0x0F40, 0x0F41], (posted op [0, 0x100000, 0] (meshed .up id)).mbxHas op = true ∧
      0xFFFFF < (posted op [0, 0x100000, 0] (meshed .up id)).rv.w 2 ∧ (posted op [0, 0x3FFF8, 0] (meshed .up id)).rv.w 2 < 0x40000) ∧
    (mgmt 0).type = 10 ∧ (mgmt 0).headerOk = true ∧ (meshed .up id).reeveRuns = true ∧ bitOf (mgmt (2 ^ 32)).h3 32 = true ∧ fld (mgmt (2 ^ 32)).h3 36 4 = 0 ∧
    fld (mgmt (2 ^ 32 + 2 ^ 36)).h3 36 4 ≠ 0 ∧ ({ (meshed .up id).ms with mgmt := some (0x0F41, 0) } : Mesh).mgmt = some (0x0F41, 0) ∧
    (∀ st ∈ [0, 0x0F41], let f := mgmt (st * 2 ^ 48 + 2 ^ 36 + 0xFFFFF)
      bitOf f.h3 32 = false ∧ fld f.h3 36 4 = 1 ∧ fld f.h2 60 4 = 1 ∧ fld f.h3 0 24 ≤ 0xFFFFF ∧ fld f.h3 48 16 = st) ∧
    (meshed .up id).ms.lock = false ∧ 0xFFFFF < fld (mgmt (2 ^ 36 + 0x100000)).h3 0 24 ∧
    (let f : Frame := { mgmt (2 ^ 36) with h2 := w64 (2 * 2 ^ 60 + 15 * 2 ^ 4) }
     fld f.h3 36 4 < fld f.h2 60 4 ∧ ((meshed .up id).port (portOf (fld f.h2 (4 * fld f.h3 36 4) 4))).st = .up) := by decide +kernel

/-- Packets of the mesh commands: window 15 of furrow 0; device 1 on lane 63. -/
def remote (op : Nat) (ws : List Nat) : Bool := taken op 1 ws
theorem witness_RemoteCommands :
    remote 0x0400 [15 * 2 ^ 16, 0x1FFFE00, 512, 1, 0] = true ∧ ((adm 0x0400 1 [15 * 2 ^ 16, 0x1FFFE00, 512, 1, 0]).window 0 15).isOpen = false ∧
    takesOk ((headOf (packet 0x0400 1 [15 * 2 ^ 16, 0, 512, 1, 0])).setWindow 0 15 { Window.closed with isOpen := true, base := 512, length := 512 }) 0x0400
      (packet 0x0400 1 [15 * 2 ^ 16, 0, 512, 1, 0]) = true ∧
    remote 0x0401 [15 * 2 ^ 16] = true ∧ ((adm 0x0401 1 [15 * 2 ^ 16]).window 0 15).isOpen = false ∧ (adm 0x0401 1 [15 * 2 ^ 16]).windowBusy 0 15 = false ∧
    (paired (fun x => { x with cur := some write1 })).windowBusy 0 0 = true ∧
    (let s := (paired id).setWindow 0 15 { Window.closed with isOpen := true, closing := [ref63] }
     (s.window 0 15).closing ≠ [] ∧ s.windowBusy 0 15 = false ∧ s.stopped = false) ∧
    remote 0x0403 [1 + 63 * 2 ^ 16, 0, 1, 8, 6] = true ∧ remote 0x0403 [1 + 63 * 2 ^ 16, 1, 255 * 2 ^ 8] = true ∧
    (adm 0x0403 1 [1 + 63 * 2 ^ 16, 1, 255 * 2 ^ 8]).laneFailed (packet 0x0403 1 [1 + 63 * 2 ^ 16]).w = none ∧
    remote 0x0402 [1 + 63 * 2 ^ 16, 1, 0, 0, 0, 0] = true ∧ remote 0x0402 [1 + 63 * 2 ^ 16, 1, 0, 0, 0, 512] = true ∧
    (let s := (adm 0x0402 1 [1 + 63 * 2 ^ 16, 1, 0, 0, 0, 512])
     (s.setMs (s.ms.setSend (laneKey 1 63) { SendLane.clear with failed := some 0x0105 })).laneFailed (packet 0x0402 1 [1 + 63 * 2 ^ 16]).w = some 0x0105) ∧
    (let ws := [1 + 63 * 2 ^ 16, 2, 0, 0, 0, 4096]
     let s := headOf (packet 0x0402 1 ws)
     let a := adm 0x0402 1 ws
     remote 0x0402 ws = true ∧ ((a.locOf 2 0).checked s.erasures).host = true ∧ a.laneFailed (packet 0x0402 1 ws).w = none ∧ s.cmd? ⟨63, 0⟩ = none ∧
      twf SendLane.clear s.ms.send = true ∧ (a.ms.sendLane (laneKey 1 63)).jobs = []) := by decide +kernel
/-- A REMOTE_COPY of one frame from host memory: LEN 1,024; its rows are poisoned where the read fails in translation (R144, R314). -/
theorem test_remote_copy :
    let s (bad : Tab Bool) : State := { headOf (packet 0x0402 1 [1 + 63 * 2 ^ 16, 2, 0, 0, 0, 1024]) with hostMem := [(0, 7)], hostBad := bad }
    let formed (bad : Tab Bool) := after (.remoteCopy 63) (s bad) (fun t => (t.ms.sendLane (laneKey 1 63)).jobs.map (fun j => (j.whole, j.ready.map
      (fun f => (f.1.len, f.1.poison, f.2))))) []
    formed [] = [(true, [(1024, 0, 1024)])] ∧ formed [(512, true)] = [(true, [(1024, 3, 1024)])] := by decide +kernel

/-! ### Recovery, the reeve, clocks, the boundary -/

def recov (dom : RecDomain) (level : Nat) (code : W16) (sc : Scope) (phase : Nat) : Recov := ⟨dom, level, code, 0, sc, 0, 0, phase, 0, 0, false⟩
def recovering1 (r : Recov) (s : State) : State := { s with dc := { s.dc with recovs := [r], ready := decide (r.level < 3), l3 := r.level == 3 } }
/-- Whether `k` of furrow `g` is the only drill armed OUT. -/
def onlyOut (s : State) (g k : Nat) : Bool :=
  (List.range 16).all (fun f => (List.range 8).all (fun j => (f == g && j == k) == (s.drill (furOf f) (drillOf j)).out))
theorem witness_Recoveries_block :
    (let s := recovering1 (recov .block 3 0x0604 .block 0) (bound id)
     s.dead = false ∧ (s.l3Of 0).isSome = true ∧ onlyOut s 16 0 = true) ∧
    (let s := recovering1 (recov .block 3 0x0604 .block 0) outgoing
     let b : Block := { block7 with begun := 1, outRows := [(0, rowBytes, true)] }
     (s.l3Of 0).isSome = true ∧ onlyOut s 0 7 = true ∧ (s.drill 0 7).blocks = [b] ∧ b.outRows = [(0, rowBytes, true)] ∧ b.rowWaits 0 = false) := by
  decide +kernel
/-- An L3 in its second phase, `n` ns after its detection. -/
def midL3 (code : W16) (n : W64) : State := { recovering1 (recov .block 3 code .block 1) (bound id) with time := n }
def l3Age (s : State) : Option (Nat × Nat) := (s.l3Of 1).map (fun r => (if r.code = 0x0509 then 400000000 else 100000000, s.since r.detect))
theorem witness_Recoveries_times :
    (midL3 0x0604 0).dead = false ∧ (midL3 0x0604 0).rv.critical = false ∧ (midL3 0x0604 0).dc.started = true ∧
    l3Age (midL3 0x0604 99999999) = some (100000000, 99999999) ∧ l3Age (midL3 0x0604 100000000) = some (100000000, 100000000) ∧
    l3Age (midL3 0x0509 399999999) = some (400000000, 399999999) ∧ l3Age (midL3 0x0509 400000000) = some (400000000, 400000000) := by decide +kernel
theorem witness_Recoveries :
    (∀ sc ∈ [Scope.furrow, .half0, .half1],
      (let s := recovering1 (recov (.furrow 0) 2 0x0108 sc 0) (bound id)
       s.stopped = false ∧ (s.l2Of 0 sc 0).isSome = true) ∧
      (let s := recovering1 (recov (.furrow 0) 2 0x0108 sc 1) (bound id)
       s.stopped = false ∧ ((s.l2Of 0 sc 1).any (fun r => !r.byDebug)) = true ∧ s.rv.evicting = none ∧ s.rv.critical = false)) ∧
    (let s := { recovering1 (recov .block 3 0x0604 .block 1) (bound id) with time := 100000000 }
     s.dead = false ∧ ((s.dc.recovs.find? (fun x => x.level == 3 && x.phase != 2)).any (fun r => r.code != 0x0509 && decide (100000000 ≤ s.since r.detect))) = true) ∧
    (let s := { recovering1 (recov (.half 0 1) 1 0x0101 .half1 2) (bound id) with time := 1000000 }
     s.dead = false ∧ ((s.openRec (.half 0 1)).any (fun r => r.phase == 2 && decide (1000000 ≤ s.since r.finished))) = true) ∧
    (let s := recovering1 (recov .block 4 0x0520 .block 0) (bound id)
     (s.dc.recovs.find? (fun x => x.level == 4 && x.phase == 0)).isSome = true) ∧
    (let s : State := { bound id with time := 10000, dc := { (bound id).dc with faultN := some 0 } }
     s.dc.faultN = some 0 ∧ s.recovering = false ∧ fld s.dc.sticky 48 16 = 0 ∧ bitOf s.dc.sticky 33 = false ∧ bitOf s.dc.sticky 34 = false ∧ 10000 ≤ s.since 0) := by
  decide +kernel
/-- An L2 of furrow 0 clears a register of its scope and leaves the domain OFFLINE; its completion takes it to IDLE (R327). An L3 lets the row
that memory has granted be written, and one of 100 ms is too late to complete (R328; log 77). -/
theorem test_l2 : after (.l2Reset 0 .furrow) (recovering1 (recov (.furrow 0) 2 0x0108 .furrow 0) (domain .reset id)) (fun t => ((t.dom 0 0).st, (t.dom 0 0).sreg 1)) (.idle, 9) =
      (.offline, 0) ∧
    after .l3Reset (recovering1 (recov .block 3 0x0604 .block 0) (listed .running (fun x => { x with out := true, blocks := [{ block7 with
      begun := 1, outRows := [(0, [7, 8], false)] }] }))) (fun t => (t.hbm, (t.drill 0 7).st)) ([], .frozen) = ([(0, 7), (1, 8)], .idle) ∧
    after (.l3Complete 0) { recovering1 (recov .block 3 0x0604 .block 1) (bound id) with time := 100000000 } (fun t => t.dc.ready) true = false ∧
    after (.l2Complete 0 .furrow 2) (recovering1 (recov (.furrow 0) 2 0x0108 .furrow 1) (domain .offline id)) (fun t => ((t.dom 0 0).st, (t.fur 0).inService)) (.reset, 0) =
      (.idle, 1) := by decide +kernel
theorem witness_BlockFaults :
    (let s := running id
     s.detects = true ∧ s.stopped = false ∧ s.openRec (.furrow 15) = none ∧ s.openRec (.furrow 0) = none ∧ s.l2Running < 2 ∧ (s.fur 0).fetching ≠ 0 ∧
      15 < s.build.furrows ∧ s.inL2 15 = false ∧ s.openRec .block = none ∧ s.release = 3 ∧ s.dead = false ∧ s.dc.started = true ∧ bitOf s.dc.sticky 35 = false) ∧
    bitOf ({ up with dc := { up.dc with sticky := 0x800000000 } } : State).dc.sticky 35 = true := by decide +kernel
/-- A fault in an open window of level 2 is raised to level 3 (R325). -/
theorem test_escalation : after (.furrowControlFault 0 0) (recovering1 (recov (.furrow 0) 2 0x0108 .furrow 2) (running id)) (fun t => (t.dc.l3, bitOf t.dc.last 33)) (false, false) =
    (true, true) := by decide +kernel

/-- Key slot 47, the last. -/
def keyed : State := { bound id with keys := [(47, toLe 8 5 ++ List.replicate 64 1)] }
theorem witness_ReeveMailbox :
    (∀ m ∈ [Mbx.idle, .busy, .done], ({ up with rv := { up.rv with mbx := m } } : State).rv.mbx = m ∧ up.release = 3 ∧ up.dead = false ∧ up.dc.started = true) ∧
    (let s : State := { posted 0x0F00 [] up with rv := { (posted 0x0F00 [] up).rv with taken := false } }
     s.rv.mbx = .busy ∧ s.rv.taken = false ∧ s.reeveRuns = true ∧ s.rv.check = none ∧ ({ s.rv with seq := 1 } : Reeve).check = some 0x0107 ∧
      s.rv.op ≠ 0x0F38 ∧ ({ (posted 0x0F38 [0, 1, 0] up).rv with seq := 1 } : Reeve).op = 0x0F38 ∧
      ({ (posted 0x0F38 [0, 1, 0] up).rv with seq := 1 } : Reeve).check = some 0x0107) ∧
    (posted 0x0F00 [] up).mbxHas 0x0F00 = true ∧
    (let s := posted 0x0F30 [47] (bound id)
     nfld (s.rv.w 1) 0 6 = 47 ∧ s.mbxHas 0x0F30 = true ∧ s.keyLoaded 47 = false ∧ s.debugOn = false) ∧
    (posted 0x0F30 [47] keyed).keyLoaded 47 = true ∧ (posted 0x0F31 [47] keyed).mbxHas 0x0F31 = true ∧
    (let s : State := { posted 0x0F39 [] up with debugOn := true, debugScope := 7 }
     s.mbxHas 0x0F39 = true ∧ s.debugOn = true ∧ reached s.time s.rv.debugEnd = true ∧ s.dead = false) ∧
    (let s := posted 0x0F38 [0, 1, 0] (bound id)
     s.mbxHas 0x0F38 = true ∧ s.rv.evicting = none ∧ s.tokenHeld = false ∧ s.stopped = false ∧ s.ctxs.toList.all (fun c => !c.isProtected) = true) ∧
    (posted 0x0F38 [0, 3, 0] (bound id)).tokenFault 3 0 = some 5 := by decide +kernel
/-- Whatever the root-key interface answers, one of KEY_LOAD's two outcomes is met. -/
theorem witness_keyLoad : Config.kwUnwrap (posted 0x0F30 [47] (bound id)).rv.wrapped = none ∨
    ∃ bs, Config.kwUnwrap (posted 0x0F30 [47] (bound id)).rv.wrapped = some bs := by
  cases Config.kwUnwrap (posted 0x0F30 [47] (bound id)).rv.wrapped with
  | none => exact .inl rfl
  | some bs => exact .inr ⟨bs, rfl⟩

/-- Bytes as a memory table, every one of them listed. -/
def listBytes (k : Nat) (bs : List Byte) : Tab Byte := match bs with | [] => [] | b :: r => (k, b) :: listBytes (k + 1) r
theorem tget_below (k j : Nat) (bs : List Byte) (h : j < k) : tget 0 (listBytes k bs) j = 0 := by
  cases bs with
  | nil => rfl
  | cons b r => unfold listBytes tget; rw [if_neg (by omega), if_pos h]
theorem tget_list (k j : Nat) (bs : List Byte) : tget 0 (listBytes k bs) (k + j) = bs.getD j 0 := by
  induction bs generalizing k j with
  | nil => simp [listBytes, tget]
  | cons b r ih =>
    cases j with
    | zero => simp [listBytes, tget]
    | succ j =>
      unfold listBytes tget
      rw [if_neg (by omega), if_neg (by omega), show k + (j + 1) = k + 1 + j by omega, ih (k + 1) j]
      simp
theorem tgets_list (bs : List Byte) : ∀ (n k j : Nat), n + j = bs.length → tgets 0 (listBytes k bs) (k + j) n = bs.drop j := by
  intro n
  induction n with
  | zero => intro k j h; simp [tgets, List.drop_eq_nil_of_le (by omega : bs.length ≤ j)]
  | succ n ih =>
    intro k j h
    unfold tgets
    rw [tget_list, show k + j + 1 = k + (j + 1) by omega, ih k (j + 1) (by omega)]
    rw [List.drop_eq_getElem_cons (by omega : j < bs.length)]
    simp [List.getD_eq_getElem?_getD, List.getElem?_eq_getElem (by omega : j < bs.length)]
theorem ofLe_toLe (n : Nat) : ∀ x, x < 256 ^ n → ofLe (toLe n x) = x := by
  induction n with
  | zero => intro x h; simp only [Nat.pow_zero, Nat.lt_one_iff] at h; subst h; rfl
  | succ n ih =>
    intro x h
    unfold toLe ofLe
    rw [ih (x / 256) (by rw [Nat.pow_succ] at h; exact Nat.div_lt_of_lt_mul (by omega))]
    simp only [BitVec.toNat_ofNat]
    omega
theorem toLe_length (n x : Nat) : (toLe n x).length = n := by
  induction n generalizing x with
  | zero => rfl
  | succ n ih => simp [toLe, ih]

/-- The token of DEBUG_ENABLE for this device and its present nonce: SCOPE 7, one second. -/
def token : List Byte := toLe 8 Config.serial.toNat ++ (toLe 8 (Config.nonce 0).toNat ++ (toLe 4 7 ++ (toLe 4 1 ++ (toLe 8 0 ++ List.replicate 96 0))))
def tokened : State := { posted 0x0F38 [0, 1, 0] (bound id) with hbm := listBytes 0 token }
theorem token_read : (tokened.memRead (tokened.locOf 1 0) 128) = (token, .good) := by
  have h : tgets 0 (listBytes 0 token) (0 + 0) 128 = token.drop 0 := tgets_list token 128 0 0 (by simp [token, toLe_length])
  have e : tokened.locOf 1 0 = ⟨false, 0, none, 0⟩ := by decide +kernel
  rw [e]
  unfold State.memRead
  rw [if_neg (by decide)]
  show (if tany tokened.hbmBad 0 (0 + 128) = true then _ else _) = _
  rw [if_neg (by decide +kernel)]
  exact congrArg (fun b => (b, ReadOutcome.good)) h
/-- With a signature that verifies, whatever the serial number and the nonce are, the token passes. -/
theorem witness_debugEnable (hv : Config.tokenVerifies token = true) : tokened.tokenFault 1 0 = none ∧ tokened.mbxHas 0x0F38 = true := by
  have hs : ofLe (token.take 8) = Config.serial.toNat := by
    simp [token, toLe_length]
    exact ofLe_toLe 8 _ Config.serial.isLt
  have hn : ofLe ((token.drop 8).take 8) = (Config.nonce tokened.rv.nonces).toNat := by
    have : tokened.rv.nonces = 0 := by decide +kernel
    rw [this]
    simp [token, toLe_length]
    exact ofLe_toLe 8 _ (Config.nonce 0).isLt
  have hc : (token.drop 16) = toLe 4 7 ++ (toLe 4 1 ++ (toLe 8 0 ++ List.replicate 96 0)) := by
    simp [token, List.drop_append, toLe_length]
  have hd : (token.drop 20) = (token.drop 16).drop 4 := by simp
  have he : (token.drop 24) = (token.drop 16).drop 8 := by simp
  have hg : ((tokened.segCheck (tokened.seg (hIndex 1)).owner.toNat 1 0 128 0).isSome) = false := by decide +kernel
  refine ⟨?_, by decide +kernel⟩
  unfold State.tokenFault
  simp only [token_read, hv, hs, hn, hd, he, hc, hg]
  rw [if_neg (by decide), if_neg (by decide), if_neg (fun h => h rfl), if_neg (fun h => h rfl), if_neg (by decide +kernel)]

/-- Furrow 0 RUNNING, its canary 15 low in the last `n` samples. -/
def lowOnce (n : Nat) : State := (domain .running (fun x => x)).modFur 0 (fun z => { z with lowSamples := (Vector.replicate 16 0).set 15 n })
/-- An entry RV_ACT15 in a state. -/
def acting (kind : BitVec 4) (target : Byte) (st : ActState) (g : Activity → Activity) (s : State) : State :=
  s.setAct 15 (g { Activity.free with ticket := 1, kind := kind, target := target, st := st })
theorem witness_MaintenanceActivities :
    (let s := posted 0x0F10 [3 + 15 * 2 ^ 8] up
     s.mbxHas 0x0F10 = true ∧ s.targetOk 3 15 = true ∧ s.targetOk 3 16 = false ∧ s.targetOk 1 31 = true ∧ s.targetOk 1 32 = false ∧ s.actSlot = some 0) ∧
    (let s := posted 0x0F11 [1] (acting 3 0 .queued id up)
     s.mbxHas 0x0F11 = true ∧ allActs.find? (fun k => (s.act k).st != .free && (s.act k).ticket == BitVec.ofNat 16 (s.rv.w 1)) = some 15 ∧ (s.act 15).kind ≠ 6) ∧
    (let s := acting 3 0 .queued id (bound id)
     s.reeveRuns = true ∧ s.stopped = false ∧ s.queuedActs = [15] ∧ s.mayBegin (s.act 15) = true ∧ (s.act 15).takesFurrow = true) ∧
    (let s := acting 3 0 .claiming id (bound id)
     (s.act 15).st = .claiming ∧ (s.fur (targetFur (s.act 15))).claimReady = true) ∧
    (let s : State := { up with uptime := 86400000000000 }
     s.mbxHas 0x0F10 = false ∧ s.autoDue 1 31 = true ∧
      ({ s with rv := { s.rv with temps := s.rv.temps.set 15 101, tempAt := s.rv.tempAt.set 15 (some s.uptime) } } : State).autoDue 2 31 = true ∧ s.actPending 1 31 = false ∧ s.autoDue 4 0 = false ∧
      (s.modFur 0 (fun z => { z with plan := setBit z.plan 37 true })).autoDue 4 0 = true ∧ s.actSlot = some 0) ∧
    (let s : State := { acting 3 0 .running id (bound id) with time := 40000000 }
     (s.act 15).kind = 3 ∧ 40000000 ≤ s.since (s.act 15).started) ∧
    (∀ rewrite : Bool, let s : State := { acting 1 31 .running (fun x => { x with rewrite := rewrite }) up with uptime := 1000 }
     (s.act 15).step < patrolUnits ∧ s.patrolSlot 15 = true ∧ (s.act 15).rewrite = rewrite ∧
      tany s.hbmBad (unitAddr 31 0) (unitAddr 31 0 + 4096) = false ∧ (s.act 15).result ≠ 255) ∧
    ({ acting 1 31 .running id up with uptime := 999 } : State).patrolSlot 15 = false ∧
    ((acting 1 31 .running (fun x => { x with step := patrolUnits }) up).act 15).step = patrolUnits ∧
    (let s := posted 0x0F10 [3] up
     s.mbxHas 0x0F10 = true ∧ s.targetOk 3 0 = true ∧ s.actSlot = some 0 ∧ ∀ i : Fin 16, (s.act i).over' = true) ∧
    (let s := posted 0x0F10 [3] (acting 3 0 .running id up)
     s.actSlot = some 0 ∧ (s.act 15).st = .running ∧ actsClash 3 0 (s.act 15).kind.toNat (s.act 15).target.toNat = true) ∧
    ((acting 5 0 .running id up).act 15).kind = 5 ∧
    (let s := acting 2 31 .running (fun x => { x with step := 3 }) up
     (s.act 15).kind = 2 ∧ 3 ≤ (s.act 15).step ∧ s.openRec .block = none) ∧
    (let s := acting 4 0 .running (fun x => { x with step := 57 }) up
     (s.act 15).kind = 4 ∧ (s.act 15).pausedAt = none ∧ (s.act 15).step < 98 ∧ 56 < (s.act 15).step) ∧
    (let s : State := { lowOnce 15 with time := 62500 }
     vat none s.rv.lastCanary 0 = none ∧ (s.fur 0).doms.toList.any (fun d => d.st == .running) = true ∧ bitOf (0x8000 : BitVec 16) 15 = true ∧
      15 ≤ (s.fur 0).lowSamples[15] ∧ ∀ i : Fin 16, bitOf (0x7FFF : BitVec 16) i.val = true → (s.fur 0).lowSamples[i] < 15) ∧
    (let s : State := { up.modFur 0 (fun z => { z with planAt := some 0 }) with uptime := 86400000000000 }
     (s.fur 0).planAt = some 0 ∧ s.reeveRuns = true ∧ 86400000000000 ≤ s.powered 0) := by decide +kernel
/-- MAINT_START of a BRICK_TEST claims its furrow and answers the ticket; the sixteenth low sample lowers nothing below 56 (R340, R343, R351). -/
theorem test_maint : after .maintStart (posted 0x0F10 [3] up) (fun t => ((t.act 0).st, (t.act 0).ticket, (t.fur 0).claim, t.rv.ticket)) (.free, 0, .none, 0) = (.claiming, 1, .claiming, 2) ∧
    after (.canarySample 0 0x8000) (lowOnce 15) (fun t => ((t.fur 0).ceiling, bitOf (t.fur 0).plan 37)) (0, false) = (56, true) ∧
    after (.canarySample 0 0x4000) (lowOnce 15) (fun t => (bitOf (t.fur 0).plan 37, (t.fur 0).lowSamples[14], (t.fur 0).lowSamples[15])) (true, 9, 9) =
      (false, 1, 0) := by decide +kernel
/-- A PATROL that meets a corrected unit writes it back in a further slot before it goes on (R348). -/
theorem test_patrol : let s (r : Bool) : State := { acting 1 31 .running (fun x => { x with rewrite := r }) up with uptime := 1000 }
    after (.patrolRead 15 .corrected) (s false) (fun t => ((t.act 15).step, (t.act 15).rewrite)) (9, false) = (1, true) ∧
    after (.patrolRead 15 .corrected) (s true) (fun t => ((t.act 15).step, (t.act 15).rewrite)) (9, true) = (0, false) := by decide +kernel
/-- A MARGIN that stops at step 60 measures 59, and its CEILING is not below FMIN; one that stops at 91 has a CEILING of 90 less 6 per cent; a plan whose history write fails is not counted and records 0x0A07 (R351, R353). -/
theorem test_margin :
    let s := acting 4 0 .running (fun x => { x with step := 60 }) up
    after (.marginStep 15 false true) s (fun t => (fld (t.fur 0).plan 56 8, fld (t.fur 0).plan 40 8, (t.gl.intake.map (fun r => r.code)))) (0, 0, []) = (59, 1, [0x8A11]) ∧
    after (.marginStep 15 false false) s (fun t => (fld (t.fur 0).plan 56 8, fld (t.fur 0).plan 40 8, (t.gl.intake.map (fun r => r.code)))) (0, 0, []) = (59, 0, [0x0A07, 0x8A11]) ∧
    after (.marginStep 15 false true) s (fun t => (t.fur 0).ceiling.toNat) 0 = 56 ∧
    after (.marginStep 15 false true) (acting 4 0 .running (fun x => { x with step := 91 }) up) (fun t => (t.fur 0).ceiling.toNat) 0 = 90 * 94 / 100 := by decide +kernel
/-- An EXPORT takes its image when it begins and leaves it when it ends; a failure loses the one before (R381). -/
theorem test_export :
    after .activityBegin (acting 5 0 .queued id (bound id)) (fun t => ((t.act 15).st, t.imageWork.isSome)) (.free, false) = (.running, true) ∧
    (let s : State := { acting 5 0 .running id up with imageWork := some ⟨0, 7, 1, 0, 0, 0, 5, []⟩ }
     after (.activityEnd 15 true 0) s (fun t => (t.image.isSome, t.imageWork.isSome)) (false, false) = (true, false) ∧
     after (.activityEnd 15 false 0) { s with image := s.imageWork } (fun t => t.image.isSome) true = false) := by decide +kernel
theorem witness_MaintEnd :
    (let s := posted 0x0F11 [2] (acting 3 0 .queued id up)
     s.mbxHas 0x0F11 = true ∧ allActs.find? (fun k => (s.act k).st != .free && (s.act k).ticket == BitVec.ofNat 16 (s.rv.w 1)) = none) ∧
    (∀ st ∈ [ActState.queued, .claiming, .running, .done], let s := posted 0x0F11 [1] (acting 3 0 st id up)
      s.mbxHas 0x0F11 = true ∧ allActs.find? (fun k => (s.act k).st != .free && (s.act k).ticket == BitVec.ofNat 16 (s.rv.w 1)) = some 15 ∧ (s.act 15).st = st ∧
        (s.act 15).takesFurrow = true) ∧
    ((acting 6 0 .running id up).act 15).kind = 6 ∧ ((acting 3 0 .done id up).act 15).over' = true := by decide +kernel
theorem test_maint_end : after .maintEnd (posted 0x0F11 [1] (acting 6 0 .running id up)) (fun t => (t.act 15).st) .free = .done ∧
    after .maintEnd (posted 0x0F11 [1] (acting 3 0 .running id up)) (fun t => ((t.act 15).st, fld (vat 0 t.rv.res 0) 32 16)) (.free, 0) = (.running, 0x0109) := by decide +kernel

theorem witness_ClockAndHeat :
    up.reeveRuns = true ∧ up.stopped = false ∧ up.rv.lastPlan = none ∧ up.pins.throttle = false ∧ (up.fur 15).gated = false ∧
    (let s : State := { up with time := 10000, rv := { up.rv with lastPlan := some 0 } }
     s.since 0 = 10000) ∧
    ({ up with time := 9, rv := { up.rv with lastPlan := some 0, woke := true } } : State).rv.woke = true ∧
    (dieSensors 3).find? (fun i => decide (up.hotLimit ≤ tempAt (List.replicate 20 950) i)) = some 12 ∧ bitOf up.rv.holding 3 = false ∧
    up.dieDue 3 1000000 = true ∧ (∀ i ∈ dieSensors 3, tempAt (List.replicate 20 929) i < up.hotLimit - 20) ∧
    ({ up with rv := { up.rv with critical := true } } : State).rv.critical = true ∧ (∀ i : Nat, i < 20 → tempAt (List.replicate 20 849) i < up.hotLimit - 100) ∧
    up.rv.critical = false ∧ (1150 : W16).toInt = 1150 ∧ up.openRec .block = none ∧ up.release = 3 ∧ up.dead = false ∧ up.dc.started = true ∧
    800 ≤ fld (800 : W64) 0 16 ∧ fld (2400 : W64) 0 16 ≤ 2400 ∧ fld (799 : W64) 0 16 < 800 ∧ 2400 < fld (2401 : W64) 0 16 ∧ up.detects = true ∧
    ({ up with pins := { up.pins with throttle := true } } : State).pins.throttle = true := by decide +kernel
/-- RV_BUDGET takes 800 and not 799; 115.0 degrees start an L3 and 114.9 do not (R355, R356). -/
theorem test_heat : after (.rvBudgetWrite 800) up (fun t => t.rv.budget) 0 = 800 ∧ after (.rvBudgetWrite 799) up (fun t => t.rv.budget) 0 = 2400 ∧
    after (.criticalTemperature 19 1150) up (fun t => t.dc.l3) false = true ∧ after (.criticalTemperature 19 1149) up (fun t => t.dc.l3) true = false := by decide +kernel

def debugging : State := { running (fun x => { x with hold := true }) with debugOn := true, debugScope := 7 }
def anEvent (code : W16) : GRec := ⟨0, code, 0, 0, 0, 0⟩
theorem witness_RegistersAndObservation :
    up.release = 3 ∧ up.dead = false ∧ up.dc.started = true ∧ up.gl.intake = [] ∧ up.gl.lostF = 0 ∧ up.gl.lostI = 0 ∧ 15 < up.build.furrows ∧
    ({ up with gl := { up.gl with lostF := 1 } } : State).gl.lostF ≠ 0 ∧
    debugging.regionOpen 0 = true ∧ debugging.regionOpen 1 = true ∧ debugging.regionOpen 2 = true ∧ bitOf (0x301 : W64) 0 = true ∧
    probeSourceMhz (debugging.gl.probeSel.setWidth 16) ≤ 600 * 2 ^ fld (0x301 : W64) 8 2 ∧ debugging.gl.held = false ∧
    ({ debugging with gl := { debugging.gl with held := true } } : State).gl.held = true ∧
    (debugging.dom 0 0).still = true ∧ (debugging.capture 0 0 0 0).isSome = true ∧ debugging.dc.debugFrozen = false ∧
    bitOf (debugging.fur 0).heldSegs (0x3FFF8 / 32768) = false ∧
    bitOf ((running (fun x => { x with held := 0x80 })).fur 0).heldSegs (0x3FFF8 / 32768) = true ∧
    goodAccess 0x1004 8 = false ∧ goodAccess 0x1008 2 = false ∧ regionOf 0x2000000 = some 0 ∧ regionOf 0x24FFFF8 = some 2 ∧ up.regionOpen 0 = false ∧ up.regionOpen 2 = false ∧
    (let s : State := { up with gl := { up.gl with intake := [anEvent 0x0101] } }
     s.release = 3 ∧ s.bootWait = false ∧ bitOf (anEvent 0x0101).code 15 = false ∧ s.gl.fillF < 12288) ∧
    bitOf (anEvent 0x8101).code 15 = true ∧ ({ up with gl := { up.gl with fillF := 12288 } } : State).gl.fillF = 12288 := by decide +kernel
/-- The gleaner stores a fault under index 0 and an informational record under 12,288, and counts what finds its partition full (R366, R369). -/
theorem test_gleaner : after .gleanerStore { up with gl := { up.gl with intake := [anEvent 0x8101], seq := 0xFFFFFFFF } } (fun t => (t.gl.store.map (fun p => p.1), t.gl.seq)) ([], 0) =
      ([12288], 1) ∧
    after .gleanerStore { up with gl := { up.gl with intake := [anEvent 0x0101], fillF := 12288 } } (fun t => (t.gl.store.length, t.gl.lostF)) (9, 0) = (0, 1) := by decide +kernel
/-- Write-one-to-clear: only the bits written fall (R10). -/
theorem test_registers : after (.registerWrite 0x1008 true 0x100000000) { up with dc := { up.dc with sticky := 0x300000000 } } (fun t => t.dc.sticky) 0 = 0x200000000 ∧
    after (.badRegisterAccess 0x1004 8 false) up (fun t => t.gl.intake.map (fun r => (r.code, r.p0, r.p1, r.p2))) [] = [(0x0506, 0x1004, 8, 0)] := by decide +kernel

theorem witness_ResetAndSync :
    State.reset.release = 0 ∧ ({ State.reset with release := 1 } : State).release = 1 ∧ ({ State.reset with release := 2 } : State).release = 2 ∧
    (let s : State := { State.reset with release := 3 }
     s.starting = true ∧ s.dc.l3 = false ∧ s.rv.critical = false ∧ s.uptime.toNat < 400000000 ∧ s.gl.fillI < 4096 ∧ s.detects = true) ∧
    ({ State.reset with release := 3, uptime := 400000000 } : State).starting = true ∧ up.debugOn = false ∧ up.rv.evicting = none ∧
    debugging.debugOn = true ∧ ({ up with pins := { up.pins with outputs := true } } : State).release = 3 ∧
    (let s : State := { up with pins := { up.pins with syncBits := some (List.replicate 47 false), outputs := true } }
     s.detects = true ∧ s.pins.syncBits = some (List.replicate 47 false) ∧ (List.replicate 47 false).length < 48 ∧ s.pins.outputs = true ∧
      s.time.toNat % 1000000 ≤ 10 ∧ ({ s with time := 1000010 } : State).time.toNat % 1000000 ≤ 10 ∧ s.pins.syncLast ≠ some (s.time.toNat / 1000000)) ∧
    (let diff := (BitVec.ofNat 64 (bitsNat (List.replicate 48 false) * 1000000) - (10000 : W64)).toInt
     (-10000 : Int) ≤ diff ∧ diff ≤ 10000) ∧
    (BitVec.ofNat 64 (bitsNat (List.replicate 48 false) * 1000000) - (10001 : W64)).toInt < -10000 := by decide +kernel
/-- A marker after 48 zero bits, 10,000 ns ahead: the timebase slews; 10,001 ns: it steps (R386). -/
theorem test_sync : after (.syncInEdge 1000000 800000) { up with time := 10000, pins := { up.pins with syncBits := some (List.replicate 48 false) } } (fun t => (t.time, t.slew)) (0, 0) =
      (10000, -10000) ∧
    after (.syncInEdge 1000000 800000) { up with time := 10001, pins := { up.pins with syncBits := some (List.replicate 48 false) } } (fun t => (t.time, t.slew)) (9, 9) =
      (0, 0) := by decide +kernel
theorem test_release : after .releaseStage1 State.reset (fun t => t.release) 0 = 1 ∧
    after .releaseStage3 { State.reset with release := 2, time := 7 } (fun t => (t.release, t.time)) (9, 9) = (3, 0) ∧
    after .releaseStage3 { State.reset with release := 2, time := 7, pins := { State.reset.pins with refClock := false } } (fun t => (t.release, t.time)) (9, 9) = (2, 7) := by decide +kernel
/-- A block reset under debug leaves its record, with reason 4, at the head of the gleaner's queue (R361, log 90). -/
theorem test_reset_record : after .blockReset debugging (fun t => t.gl.intake.map (fun r => (r.code, r.p0))) [] = [(0x0B05, 4)] ∧
    after .blockReset up (fun t => (t.gl.intake.length, t.startKind)) (9, 9) = (0, 2) ∧
    after .releaseStage1 { up with pins := { up.pins with outputs := true } } (fun t => (t.release, t.startKind)) (9, 9) = (1, 3) := by decide +kernel

/-- The idle step is a cycle of 10 ns; the first command of the queue runs and leaves it (log 1). -/
theorem test_step : (match step up with | .next t => t.time | _ => 0) = 10 ∧
    (match step { up with pending := [.releaseStage1, .releaseStage2] } with | .next t => t.pending.length | _ => 9) = 1 := by decide +kernel
theorem witness_ReferenceCycle : up.pending = [] ∧ up.release = 3 ∧ State.reset.release ≠ 3 := by decide +kernel
theorem witness_StepKeepsTables : State.reset.tablesOk := by unfold State.tablesOk; decide +kernel
theorem witness_StepKeepsFurrowTables : ∀ f : Fur, (State.reset.fur f).tablesOk := by unfold Furrow.tablesOk; decide +kernel
/-- The check value of CRC-32C (R365). -/
theorem test_crc : crc32c [0x31, 0x32, 0x33, 0x34, 0x35, 0x36, 0x37, 0x38, 0x39] = 0xE3069283 := by decide +kernel

/-! ### More witnesses: acts that take effect, accesses, courses, commits, freezes and faults -/

/-- A put-queue block of three rows of which two have been received, in drill 7. -/
def putDesc : Desc := ⟨0, 1 + 512 * 2 ^ 32, 3 + 512 * 2 ^ 16 + 2 * 2 ^ 57, 0⟩
def putting (st : DrillState) (moved : Nat) : State := withDrill (running id) (fun x => { x with
  st := st, out := true, tilePut := some 0, blocks := [{ block7 with desc := putDesc, begun := 2, moved := moved }] })
theorem witness_DrillActs :
    (∀ st ∈ [DrillState.idle, .parked, .armed, .running, .stopping, .frozen], ((withDrill (running id) (fun x => { x with st := st, count := 1 })).drill 0 7).st = st ∧
      ((withDrill (running id) (fun x => { x with st := st, count := 1 })).drill 0 7).count ≠ 0) ∧
    (∀ moved ∈ [1, 2], ∀ st ∈ [DrillState.running, .stopping], let y := (putting st moved).drill 0 7
      let b : Block := { block7 with desc := putDesc, begun := 2, moved := moved }
      y.st = st ∧ y.blocks = [b] ∧ b.isPut = true ∧ 0 < b.begun ∧ b.begun < b.rows ∧ y.putq = [] ∧ y.tilePut = some b.tile ∧ b.moved = moved) := by decide +kernel
/-- DTEND cuts the block to the two rows that it has received, or ends it where both are with memory; DSTOP drops a block that has begun nothing
(R135, R139). -/
theorem test_drill_acts :
    after (.dtend 0 0 (fields [(37, 7)])) (putting .running 1) (fun t => (t.drill 0 7).blocks.map (fun b => (b.rows, b.moved))) [] = [(2, 1)] ∧
    after (.dtend 0 0 (fields [(37, 7)])) (putting .running 2) (fun t => (t.drill 0 7).blocks.length) 9 = 0 ∧
    after (.dstop 0 0 (fields [(37, 7)])) (withDrill (running id) (fun x => { x with st := .running, out := false, mode := 2, blocks := [block7] }))
      (fun t => ((t.drill 0 7).st, (t.drill 0 7).blocks.length)) (.idle, 9) = (.stopping, 0) ∧
    after (.driDgo 0 0 (fields [(37, 7)])) (withDrill (running id) (fun x => { x with st := .armed, count := 1 })) (fun t => (t.drill 0 7).st) .idle = .running := by
  decide +kernel
def twoOwned : State := (ownFur (running id)).modFur 1 (fun x => { x with owned := true })
def sigIs (fn : Nat) : Bool := actsAre twoOwned ⟨12, 0xB0, fn * 2 ^ 36 + 9 * 2 ^ 28 + 5⟩ [.sig fn 9 1 5]
theorem witness_SignalActs : (twoOwned.dom 0 0).flights = [] ∧ (twoOwned.dom 0 0).course = none ∧ (twoOwned.dom 0 0).lastPut = none ∧ sigIs 0 = true ∧
    bitOf (twoOwned.mine 0) 1 = true ∧ sigIs 1 = true ∧ (1 : Fur) ≠ 0 ∧ twf 0 (twoOwned.fur 0).counters = true := by decide +kernel
theorem witness_SignalTables : (twoOwned.fur 0).tablesOk := by unfold Furrow.tablesOk; decide +kernel
/-- A signal to another furrow waits there for 2 ns after it has left (R285). -/
theorem test_signal_leaves : after (.sadd 0 0 (fields [(36, 1), (28, 9), (0, 5)])) twoOwned (fun t => (t.fur 1).changes) [] = [⟨0, 9, 1, 5, none, some 0⟩] := by
  decide +kernel

/-- A DGO of an ARMED drill whose list has COUNT 0 ends the list in the same beat (R136). -/
theorem test_empty_list : after (.driDgo 0 0 (fields [(37, 7)])) (withDrill (running id) (fun x => { x with st := .armed })) (fun t => (t.drill 0 7).st) .armed = .idle := by
  decide +kernel

def accIs (s : State) (o : SlotOp) (a : Acc) : Bool :=
  match slotActs (s.env 0 0) (s.dom 0 0).rid (s.dom 0 0).pos none o with | .ok b => b.contains (.acc a) && (s.servedNow 0 0 b).contains a | _ => false
theorem witness_IssuedAccesses :
    accIs atRow ⟨1, 0x21, 0⟩ ldnAcc = true ∧ accIs atRow ⟨1, 0x22, 4 * 2 ^ 23⟩ stnAcc = true ∧ accIs atRow ⟨9, 0x90, 3 * 2 ^ 24⟩ vldAcc = true ∧
    accIs (running id) ⟨5, 0x40, 9 * 2 ^ 36 + 127 * 2 ^ 25⟩ ⟨5, 0x40, 2, 0x180000, true, 0, .sld 3 127⟩ = true ∧
    rowLanes (atRow.env 0 0).h 0 3 = some (384, 128) ∧ 2 ≤ (atRow.env 0 0).readLat 0x1FFFE00 ∧ 2 ≤ (atRow.env 0 0).writeLat 0x1FFFE00 := by decide +kernel
theorem witness_CourseResults :
    (let s := onCourse 0 0 false
     let c := courseOf 0 0 false
     let rows := (courseAccs s.build (some c)).map (fun a => if a ∈ s.servedNow 0 0 [] then (s.env 0 0).readRow a else ⟨[], false⟩)
     (s.dom 0 0).course = some c ∧ (match c.at s.build c.t with | .feed p j m => p == 0 && j == 0 && m == 0 | _ => false) = true ∧ 0 < c.nb ∧ 0 < c.cols 0 0 ∧
      2 ≤ c.lat s.build ∧ (rows.getD 0 ⟨[], false⟩).mark = false ∧ c.scaleMark 0 0 0 = false ∧ ((s.fur 0).cell 0 ((s.fur 0).liveOf 0) 0).mark = false) ∧
    (let s := onCourse 2 131 false
     let c := courseOf 2 131 false
     (s.dom 0 0).course = some c ∧ c.drainAt s.build c.t = some (0, 0) ∧ 2 ≤ s.build.latOf 12 ∧ 0 % c.chunks * 128 + 0 < c.k ∧ 0 < c.cols (0 / c.chunks) 0 ∧
      ((s.fur 0).cell 0 (1 - (s.fur 0).liveOf 0) 0).mark = false) ∧
    (courseOf 2 130 false).drainAt Build.reference 130 = none ∧ (courseOf 2 258 false).drainAt Build.reference 258 = some (0, 127) := by decide +kernel

theorem witness_DrainCommits_memory : ∀ e ∈ [Effect.vreg 31 448 (List.replicate 64 1) 0x80 0x80, .row 0x1FFFE00 [7, 8] 3 true, .standby 3 127 rowBytes true,
      .swap 3 3 false, .win 3 1023 .replace 448 (List.replicate 64 1) true 0 false false, .win 3 1023 .accum 448 (List.replicate 64 1) false 0 false false,
      .winClear 3 1023 1024, .counter 255 2 1],
    let s := draining e
    (s.dom 0 0).flights = [⟨5, 4, 1, 0x10, 0, 0, 0, false, e⟩] ∧ (s.dom 0 0).st = .draining ∧ (s.fur 0).asleep 0xFFFF = false ∧ ((s.fur 0).went 3 1023).mark = false ∧
      s.build.depth ≤ 1024 := by decide +kernel
theorem witness_DrainTables : ((draining (.counter 255 2 1)).fur 0).tablesOk := by unfold Furrow.tablesOk; decide +kernel
/-- A clear of two entries from the last wraps to entry 0 (R201); a store fills the tag of its row (R108). -/
theorem test_drain_commits :
    after (.operationCommit 0 0 0) ((draining (.winClear 3 1023 2)).modFur 0 (fun z => { z with windrow := [(3072, ⟨[(0, 9)], false⟩), (3073, ⟨[(0, 8)], false⟩)] }))
      (fun t => (t.fur 0).windrow.map Prod.fst) [] = [3073] ∧
    after (.operationCommit 0 0 0) (draining (.row 0x1FFFE00 [7, 8] 3 true)) (fun t => ((t.fur 0).data, (t.fur 0).isFull 0xFFFF, (t.fur 0).isPoison 0xFFFF)) ([], false, false) =
      ([(0x1FFFE00, 7), (0x1FFFE01, 8)], true, true) := by decide +kernel

/-- The word with slot `i`, code and operands, stored at address 0. -/
def stored (i code op : Nat) : Tab Byte := tputs 0 [] 0 (toLe 4 (2 ^ i) ++ toLe 6 (code * 2 ^ 40 + op))
def withWord (i code op : Nat) (g : Domain → Domain) : State := (inCode g).modFur 0 (fun z => { z with pstore := stored i code op, owned := true })
def frozenOn (s : State) (acts : List Act) (m : Nat) : Bool :=
  (portFaults (s.env 0 0) (s.servedNow 0 0 acts)).isEmpty && beatCauses (s.env 0 0) (s.servedNow 0 0 acts) acts == BitVec.ofNat 8 m
def storedActs (s : State) (acts : List Act) : Bool :=
  let x := s.dom 0 0
  let w := readWord (s.fur 0).pstore x.pos
  s.canAttempt 0 0 && !x.pairLost && x.idle == 0 && decide (x.pos < x.stop) &&
    (match wordActs (s.env 0 0) x.rid x.pos (decide (w.extra ≤ x.done)) (x.pos + w.size) w with | .ok b => decide (b = acts) | _ => false)
def aloneActs (s : State) (o : SlotOp) (acts : List Act) : Bool :=
  let x := s.dom 0 0
  s.canAttempt 0 0 && !x.pairLost && x.idle == 0 && x.done == 0 &&
    (match wordActs (s.env 0 0) x.rid x.pos true x.pos (oneOp o) with | .ok b => decide (b = acts) | _ => false)
/-- A stored LDN whose row is empty waits by its tag mode, a stored DPUT for room in the put queue, a beat without issue for a hold; and each of the
operations given alone. -/
theorem witness_FrozenBeat_causes :
    (let s := withWord 1 0x21 (1 * 2 ^ 23) id
     let a : Acc := ⟨1, 0x21, 4, 0, false, 1, .ldn 0⟩
     storedActs s [.acc a] = true ∧ frozenOn s [.acc a] 1 = true ∧ aloneActs s ⟨1, 0x21, 1 * 2 ^ 23⟩ [.acc a] = true) ∧
    (let s := withDrill (withWord 11 0xA8 (7 * 2 ^ 37 + 3 * 2 ^ 28) id) (fun x => { x with st := .running, out := true, putq := List.replicate 8 ⟨0, [], false⟩ })
     let a := Act.put 7 (List.replicate 512 0) false
     storedActs s [a] = true ∧ frozenOn s [a] 8 = true ∧ aloneActs s ⟨11, 0xA8, 7 * 2 ^ 37 + 3 * 2 ^ 28⟩ [a] = true) ∧
    (let s := withWord 12 0xB3 (9 * 2 ^ 28 + 1) id
     storedActs s [.wait 9 1] = true ∧ frozenOn s [.wait 9 1] 64 = true ∧ aloneActs s ⟨12, 0xB3, 9 * 2 ^ 28 + 1⟩ [.wait 9 1] = true) ∧
    (let s := running (fun x => { x with idle := 1, hold := true })
     s.canAttempt 0 0 = true ∧ (s.dom 0 0).pairLost = false ∧ 0 < (s.dom 0 0).idle ∧ frozenOn s [] 0x80 = true) ∧
    frozenOn ((running id).modFur 0 (fun z => { z with gated := true })) [] 0x40 = true := by decide +kernel
/-- A frozen attempt of the stored word counts cause 0 and leaves the word to be tried again (R38, R41). -/
theorem test_frozen : after (.beatAttempt 0 ⟨0, 0⟩) (withWord 1 0x21 (1 * 2 ^ 23) id) (fun t => ((t.dom 0 0).causes, (t.dom 0 0).pos, vat 0 (t.dom 0 0).frozen 0)) (0, 9, 0) =
    (1, 0, 1) := by decide +kernel

def faultIs (s : State) (o : SlotOp) (r : Nat) : Bool :=
  let x := s.dom 0 0
  s.canAttempt 0 0 && !x.pairLost && x.idle == 0 && x.done == 0 && encFault o == none && (s.openRec (s.recDom 0 0)).isNone && s.gl.intake.isEmpty &&
    ((o.slot == 0 && seqFault (s.env 0 0) false x.pos o.code o.op == some r) ||
      (match slotActs (s.env 0 0) x.rid x.pos none o with | .error (.seq n) => n == r | _ => false))
theorem witness_SequencerFault_reasons :
    faultIs (inCode (fun x => { x with loops := [⟨7, 0, 0, 64, 9⟩] })) ⟨0, 1, 7 * 2 ^ 37 + 2 ^ 20 + 1⟩ 4 = true ∧
    faultIs (inCode (fun x => { x with stack := List.replicate 8 ⟨1, 0x20, 0x60, 4, false⟩ })) ⟨0, 2, 255 * 2 ^ 32⟩ 5 = true ∧
    faultIs (inCode id) ⟨0, 2, 254 * 2 ^ 32⟩ 6 = true ∧ ((inCode id).fur 0 |>.routine 254).valid = false ∧
    faultIs (onCourse 0 0 false) ⟨4, 0x38, 0⟩ 8 = true ∧ ((onCourse 0 0 false).dom 0 0).course ≠ none ∧
    faultIs (running id) ⟨13, 0xC0, 3 * 2 ^ 38⟩ 9 = true ∧
    (let s := withMortar.modDom 0 0 (fun x => { x with lastMiss := Vector.replicate 4 (some 0), beats := 1 })
     faultIs s ⟨14, 0xC0, 0⟩ 9 = true ∧ vat none (s.dom 0 0).lastMiss 0 = some 0 ∧ ((s.dom 0 0).beats - 0).toNat < fld (s.build.mortars.toList.getD 0 0) 0 8) ∧
    faultIs (running id) ⟨12, 0xB0, 15 * 2 ^ 36⟩ 10 = true ∧ bitOf ((running id).env 0 0).mine 15 = false ∧
    (let s := { running id with build := { Build.reference with depth := 512 } }
     faultIs s ⟨6, 0x49, 2 ^ 28 + 512 * 2 ^ 18⟩ 10 = true ∧ s.build.depth ≤ nfld (2 ^ 28 + 512 * 2 ^ 18) 18 10) := by decide +kernel

theorem witness_ScheduleBeats_stored :
    (let s := withWord 1 0x10 opS.toNat id
     storedActs s [.eff 1 (.sreg 2 6)] = true ∧ frozenOn s [.eff 1 (.sreg 2 6)] 0 = true) ∧
    (let s := onCourse 0 127 true
     ((s.dom 0 0).course.any (fun c => c.chunkEnds s.build && c.op != 2 && c.nb == 4)) = true ∧ (s.dom 0 0).flights = []) := by decide +kernel
/-- BEAT_ATTEMPT runs the stored ADD and goes to the next word (R38, R57). -/
theorem test_beat_attempt : after (.beatAttempt 0 ⟨0, 0⟩) (withWord 1 0x10 opS.toNat id) (fun t => ((t.dom 0 0).sreg 2, (t.dom 0 0).pos, (t.dom 0 0).beats)) (0, 0, 0) =
    (6, 10, 1) := by decide +kernel

/-- Drill 7, every counter of which stands at its maximum. -/
def fullDrill (st : DrillState) : State := withDrill (running id) (fun x => { x with st := st, waits := Vector.replicate 5 (BitVec.allOnes 48) })
theorem witness_FurrowEvents_counters :
    (let s := withMortar.modDom 0 0 (fun x => { x with tick := { x.tick with adv := true } })
     (0 : Nat) < s.build.mortar ∧ (s.dom 0 0).st = .running ∧ (s.dom 0 0).tick.adv = true ∧ (s.fur 0).gated = false ∧ s.stopped = false) ∧
    (∀ st ∈ [DrillState.running, .stopping], vat 0 ((fullDrill st).drill 0 7).waits 0 = BitVec.allOnes 48 ∧ (fullDrill st).drillWaits 0 7 0 = true ∧
      (fullDrill st).stopped = false) ∧
    (∀ j ∈ [0, 4], (fullDrill .idle).drillWaits 0 7 j = false) ∧
    (let s := domain .idle (fun x => { x with keeper := BitVec.allOnes 48, keeperPhase := 3, keeperAcc := 5 })
     s.stopped = false ∧ (s.dom 0 0).keeper = BitVec.allOnes 48 ∧ (s.dom 0 0).st = .idle ∧ (s.fur 0).gated = false ∧ (s.dom 0 0).keeperPhase ≠ 0 ∧
      8 ≤ (s.dom 0 0).keeperAcc + (s.dom 0 0).keeperPhase) ∧
    (let s := withWord 12 0xB3 (9 * 2 ^ 28 + 1) (fun x => { x with frozen := Vector.replicate 8 (BitVec.allOnes 48) })
     storedActs s [.wait 9 1] = true ∧ frozenOn s [.wait 9 1] 64 = true ∧ vat 0 (s.dom 0 0).frozen 6 = BitVec.allOnes 48) ∧
    (let s := domain .faulted id
     s.release = 3 ∧ s.dead = false ∧ s.dc.started = true) := by decide +kernel
/-- The wrap of a drill counter sets its bit of DL_OVF, that of FROZEN6 its bit of FU_OVF (R41, R151); an IDLE drill's BUSY does not count (R150). -/
theorem test_wraps :
    after (.counterWrap 0 0 72) (fullDrill .running) (fun t => (vat 9 (t.drill 0 7).waits 0, bitOf (t.fur 0).dlOvf 35)) (9, false) = (0, true) ∧
    after (.counterWrap 0 0 72) (fullDrill .idle) (fun t => (vat 9 (t.drill 0 7).waits 0, bitOf (t.fur 0).dlOvf 35)) (9, true) = (BitVec.allOnes 48, false) ∧
    after (.counterWrap 0 0 6) (withWord 12 0xB3 (9 * 2 ^ 28 + 1) (fun x => { x with frozen := Vector.replicate 8 (BitVec.allOnes 48) }))
      (fun t => (vat 9 (t.dom 0 0).frozen 6, bitOf (t.fur 0).ovf 6)) (9, false) = (0, true) := by decide +kernel

/-! ### More witnesses: queue commands and their events -/

/-- A load image of one routine, ID 255, of segment 0. -/
def image1 : List Byte := toLe 8 1 ++ toLe 8 0x80FF000FF0400000 ++ toLe 8 1 ++ toLe 8 0 ++ toLe 8 0 ++ List.replicate 8 7
theorem witness_CommandEvents_start :
    (let y := (headOf (packet 0x0102 1 [0, 0]) |>.modFur 0 (fun x => x.setDom 0 ((x.dom 0).begin 0 (x.routine 0) ref63 false))).dom 0 0
     y.st = .starting ∧ y.pos < y.stop ∧ y.isCall = false) ∧
    (let s := working 0x0101 2 [0, 0xFF + 2 ^ 8, 7] (bound id)
     (s.atWork 63 0 0x0101).any (fun c => !s.configHeld c) = true) ∧
    (let x := (bound id).fur 0
     let w : Furrow := { x with fallowWait := [(0x8000, ref63)], waking := 1, wakeEnd := [(0, 5)] }
     w.fallowWait = [(0x8000, ref63)] ∧ (0x8000 : BitVec 16) &&& ~~~w.fallow &&& w.usedGroups = 0 ∧ (0x8000 : BitVec 16) &&& ~~~w.fallow &&& w.boardGroups = 0 ∧
      bitOf w.waking 0 = true ∧ reached 5 (tget 0 w.wakeEnd 0) = true ∧ reached 4 (tget 0 w.wakeEnd 0) = false) ∧
    (let x := ((bound id).setWindow 0 0 { Window.closed with isOpen := true, base := 0x1E00000, length := 512 }).fur 0
     (0x8000 : BitVec 16) &&& ~~~x.fallow &&& x.usedGroups ≠ 0) := by decide +kernel
theorem witness_CommandTables : ((bound id).fur 0).tablesOk := by unfold Furrow.tablesOk; decide +kernel
/-- The entry of START swaps the banks and begins three fetch ticks (R95); a change to split mode clears the registers (R48); a FALLOW whose group a
window has come to use ends with BUSY (log 78). -/
theorem test_command_events :
    (let s := headOf (packet 0x0102 1 [0, 0])
     after (.start 63) s (fun t => after (.scoreboardEntry 0) (t.modDom 0 0 (fun y => { y with next := [(7, 9)] })) (fun u => ((u.dom 0 0).startLeft, (u.dom 0 0).live))
        (9, [])) (9, []) = (3, [(7, 9)])) ∧
    after (.splitChange 0) ((bound id).modFur 0 (fun x => { x.setDom 0 { Domain.atReset .idle with flags := 3 } with modeChange := some (true, ref63) }))
      (fun t => ((t.fur 0).split, (t.dom 0 0).flags, (t.dom 0 1).st)) (false, 9, .reset) = (true, 0, .idle) ∧
    after (.fallowSleep 0) ((working 0x0105 2 [] ((bound id).setWindow 0 0 { Window.closed with isOpen := true, base := 0x1E00000, length := 512 })).modFur 0 (fun x =>
      { x with fallowWait := [(0x8000, ref63)] })) (fun t => ((t.fur 0).fallow, (t.queue 63).ready.map Rec.status)) (9, []) = (0, [0x0109]) := by decide +kernel

theorem witness_ContextControl_steps :
    (let s := (bound id).modFur 0 (fun x => { x with pendingAssign := true, target := 0 })
     s.stopped = false ∧ s.assignBarred 0 = false ∧ (s.fur 0).assignZeroing = false ∧ (s.fur 0).owned = true ∧ s.mayReassign 0 = true) ∧
    (let s := (bound id).modFur 0 (fun x => { x with owned := false, assignZeroing := true, zeroing := true, pendingAssign := true })
     s.assignBarred 0 = false ∧ (s.fur 0).assignZeroing = true) ∧
    (let s := { (bound id).modFur 0 (fun x => { x with pendingAssign := true, owned := false }) with debugOn := true, ctxs := (bound id).ctxs.set 0 ⟨0xC000000000000005, false, []⟩ }
     s.stopped = false ∧ (s.fur 0).release = false ∧ bitOf (s.ctx (s.fur 0).target.toNat).cfg 62 = true ∧ (s.fur 0).assignZeroing = false) := by decide +kernel
/-- The furrow is cleared with ZEROING shown, and the next event hands it to its new owner; a request that debug has come to bar is dropped
(R256, R360; log 17). -/
theorem test_reassign :
    (let s := (bound id).modFur 0 (fun x => { x with pendingAssign := true, target := 0, data := [(0, 7)] })
     after (.furrowOwnershipChange 0) s (fun t => ((t.fur 0).zeroing, (t.fur 0).owned, (t.fur 0).data.length,
      after (.furrowOwnershipChange 0) t (fun u => ((u.fur 0).zeroing, (u.fur 0).owned, (u.fur 0).pendingAssign)) (true, false, true))) (false, true, 9, (true, false, true))
      = (true, false, 0, (false, true, false))) ∧
    after (.furrowOwnershipChange 0) { (bound id).modFur 0 (fun x => { x with pendingAssign := true, owned := false }) with
      debugOn := true, ctxs := (bound id).ctxs.set 0 ⟨0xC000000000000005, false, []⟩ } (fun t => ((t.fur 0).pendingAssign, (t.fur 0).owned)) (true, true) = (false, false) := by
  decide +kernel
theorem witness_FenceCommands_checked : ((fenced 6).memRead (((fenced 6).locOf 1 8).checked 0) 8).2 = .good ∧ (((fenced 6).locOf 1 8).checked 0).host = false ∧
    ((fenced 6).atWork 63 0 0x0300).any (fun c => c.since == 0) = true ∧ watching.stackHeld ((watching.locOf 1 8).checked 0) 8 = false ∧
    (watching.memRead ((watching.locOf 1 8).checked 0) 8).2 = .good ∧ (watching.watch 255).since = 0 ∧
    (let s := watching.setWatch 255 { watching.watch 255 with target := 6, ending := true }
     reached (w64 (ofLe (s.memRead ((s.locOf 1 8).checked 0) 8).1)) (s.watch 255).target = false ∧ (s.watch 255).ending = true) := by decide +kernel
/-- A wait whose queue has been FROZEN and thawed again ends at its next read (R280). -/
theorem test_watch_ends : after (.fenceWatchRead 255 .good) (watching.setWatch 255 { watching.watch 255 with target := 6, ending := true })
      (fun t => ((t.watch 255).st, (t.queue 63).ready.map Rec.status)) (9, []) = (2, [0x0105]) ∧
    after (.fenceWatchRead 255 .good) (watching.setWatch 255 { watching.watch 255 with target := 6 }) (fun t => (t.watch 255).st) 9 = 1 := by decide +kernel
/-- ARM_DRILL of a list of COUNT 0 with a DGO latched ends the list at once, and both commands complete (R134, R136). -/
theorem test_arm_empty : after (.armDrill 63) (withDrill (headOf (packet 0x0202 2 [7 * 2 ^ 8, 1, 0])) (fun x => { x with latched := some false }))
    (fun t => ((t.drill 0 7).st, (t.queue 63).ready.map Rec.status)) (.armed, []) = (.idle, [0]) := by decide +kernel


/-! ### Conditions of the clauses on room, gating, level L4 and the mesh's signals -/

theorem witness_stopped_and_dead : (running id).stopped = false ∧ (bound id).dead = false ∧ (bound id).stopped = false ∧
    (listed .running id).stopped = false ∧ ((listed .running id).fur 0).gated = false ∧ (landing.fur 0).gated = false ∧ (outgoing.fur 0).gated = false ∧
    (let s := (listed .running (fun x => { x with fetched := [lastRow], fetchIdx := 1 })).modFur 0 (fun z => { z with gated := true })
     (s.drill 0 7).nextDesc = some lastRow ∧ (s.fur 0).gated = true) := by decide +kernel

def twoRecs (k l : W32) : State := bound (fun x => { x with cqTail := 16, ready := [⟨0, k, 0, 0, 0, 0, false, none⟩, ⟨0, l, 0, 0, 0, 0, false, none⟩] })
theorem witness_FetchAndRecord_room :
    (let x := (bound (fun x => { x with cqTail := 15, ready := [⟨0, 0, 0, 0, 0, 0, false, some 9⟩] })).queue 63
     (x.cqTail - x.cqHead).toNat < 2 ^ fld x.cfg 16 5) ∧
    (let x := (twoRecs 0 1).queue 63
     2 ^ fld x.cfg 16 5 ≤ (x.cqTail - x.cqHead).toNat ∧ (x.cqTail - (2 : W64).setWidth 32).toNat + 2 ≤ 2 ^ fld x.cfg 16 5 ∧
      x.ready.map Rec.key = [0, 1] ∧ x.ready.map Rec.time = [none, none] ∧ x.ready.map Rec.quiet = [false, false]) ∧
    (twoRecs 0 1).release = 3 ∧ (twoRecs 0 1).dead = false ∧ (twoRecs 0 1).dc.started = true := by decide +kernel
/-- Two records that find room at one write of QS_CQ_HEAD stand in ascending SEQUENCE, and a record that has lost its room again is not written
(R247, R248). -/
theorem test_room_order :
    after (.qsCqHeadWrite 63 2) (twoRecs 5 4) (fun t => (t.queue 63).ready.map Rec.key) [] = [4, 5] ∧
    after (.qsCqHeadWrite 63 2) (twoRecs 0xFFFFFFFF 0) (fun t => (t.queue 63).ready.map Rec.key) [] = [0xFFFFFFFF, 0] ∧
    after (.completionRecordWrite 63) (bound (fun x => { x with cqTail := 16, ready := [⟨0, 0, 0, 0, 0, 0, false, some 9⟩] }))
      (fun t => (t.queue 63).cqTail) 0 = 16 := by decide +kernel

/-- No record is masked. -/
def unmasked (s : State) : State := { s with gl := { s.gl with imask := 0 } }
/-- Furrow 1, unowned and quiet, asked for by context slot 0. -/
def wanted (s : State) : State := s.modFur 1 (fun x =>
  { x with doms := (Vector.replicate 2 (Domain.atReset .unused)).set 0 (Domain.atReset .idle), owned := false, pendingAssign := true, target := 0 })
theorem witness_ContextControl_record :
    (let s := unmasked ((bound id).modFur 0 (fun x => { x with owned := false, assignZeroing := true, zeroing := true, pendingAssign := true }))
     s.gl.intake.length < 240 ∧ bitOf s.gl.imask 5 = false) ∧
    (let s := wanted (bound id)
     s.assignBarred 1 = false ∧ (s.fur 1).assignZeroing = false ∧ (s.fur 1).pendingAssign = true ∧ (s.fur 1).owned = false ∧ s.mayReassign 1 = true) := by
  decide +kernel
/-- Event 0x8505 tells the nanoseconds from the change to the end of zeroing (R256); the rows on the way to an unowned furrow that a context
takes are discarded and their sender is frozen (R147). -/
theorem test_hand_over :
    after (.furrowOwnershipChange 0) { unmasked ((bound id).modFur 0 (fun x => { x with owned := false, assignZeroing := true, zeroAt := 5 })) with time := 805 }
      (fun t => t.gl.intake.map (fun r => (r.code, r.p2))) [] = [(0x8505, 800)] ∧
    after (.furrowOwnershipChange 1) (wanted ((listed .running (fun x => { x with mode := 1 })).modFur 0 (fun z => { z with relayOut := [(⟨rowBytes, false⟩, 0)] })))
      (fun t => ((t.fur 0).relayOut.length, (t.drill 0 7).st, (t.fur 1).owned)) (9, .idle, false) = (0, .frozen, true) := by decide +kernel

theorem witness_FrameForwarding_valid :
    (let s := transiting 0 ⟨csig 0, 15, none, none⟩
     s.ms.valid = true ∧ (s.setMs { s.ms with valid := false }).ms.valid = false ∧ (s.setMs { s.ms with valid := false }).meshRuns = true) := by decide +kernel
/-- With MS_ID.VALID clear a frame in transit is not sent on, and is dropped with reason 6 (R300, log 82). -/
theorem test_invalid_transit :
    let s := transiting 1 ⟨{ csig 0 with h0 := mkH0 3 1 1 2 0 }, 15, none, none⟩
    let t := s.setMs { s.ms with valid := false }
    after (.portTransmit 15) t (fun u => u.ms.transit.length) 9 = 1 ∧ after (.portTransmit 15) s (fun u => u.ms.transit.length) 9 = 0 ∧
    after (.frameDrop 15) t (fun u => u.gl.intake.map (fun r => r.p1)) [] = [6] := by decide +kernel

/-- A fence signal of source 2, lane 63 that has asked for its slots of stack 0. -/
def asking (n : Nat) : State := paired (fun x => { x with cur := some (fsig1 6), slots := some (0, List.replicate n ⟨8, 16, 0, false⟩) })
theorem witness_mesh_signal :
    ((asking 0).ms.recvLane (laneKey 2 63)).slots = some (0, []) ∧ twf RecvLane.clear (asking 2).ms.recv = true ∧
    ((pickCand (asking 2).stackPorts[0] ((asking 2).cands 0)).any (fun c => c.rq == 129 && c.idx == laneKey 2 63 + 1)) = true ∧
    ((pickCand engines.stackPorts[0] (({ engines with copies := [], remotes := [⟨ref63, 0, 0, [⟨8, 16, 0, false⟩]⟩] } : State).cands 0)).any
      (fun c => c.rq == 129 && c.idx == 0)) = true := by decide +kernel
/-- A fence signal that arrives for a fence in HBM asks for two slots, has one with each grant, and stores its value when it has both (R276, R277). -/
theorem test_mesh_signal :
    after (.fsigFrame 2 63 .good) (paired (fun x => { x with cur := some (fsig1 6) })) (fun t => ((t.ms.recvLane (laneKey 2 63)).slots.map (fun a => a.2.length), t.hbm)) (none, [])
      = (some 2, []) ∧
    after (.stackSlotGrant 0) (asking 2) (fun t => (t.ms.recvLane (laneKey 2 63)).slots.map (fun a => a.2.length)) none = some 1 ∧
    after (.fsigFrame 2 63 .good) (asking 0) (fun t => (t.hbmRd 8 1, t.ms.answers.map (fun a => a.1.type))) ([], []) = ([6], [4]) := by decide +kernel

/-- A WRITE of lane 62 whose row waits on a FULL tag does not hold back one of lane 63 to the same window (R312). -/
theorem test_window_lanes :
    let s := paired (fun x => { x with cur := some write1 })
    let other : Frame := { write1 with h1 := mkH1 0 62 0 0 0 0, h2 := w64 (512 * 2 ^ 8) }
    let t := (s.setMs (s.ms.setRecv (laneKey 2 62) { RecvLane.clear with valid := true, cur := some other })).modFur 0 (fun z =>
      { z with windows := z.windows.map (fun w => { w with length := 1024 }), full := [(1, true)] })
    after (.writeFrameCommit 2 63) t (fun u => (u.fur 0).isFull 0) false = true ∧
    after (.writeFrameCommit 2 62) t (fun u => (u.ms.recvLane (laneKey 2 62)).cur) none = some other := by decide +kernel

/-- An L3 begins, with a fence signal of slot 63 whose slots have been granted. -/
def signalling : State := recovering1 (recov .block 3 0x0604 .block 0) (fenced 6)
def quietQueues (s : State) (n : Nat) : Bool := (List.range n).all (fun q => (s.queue (slotOf q)).cmds.isEmpty)
theorem witness_Recoveries_signal : (signalling.l3Of 0).isSome = true ∧ onlyOut signalling 16 0 = true ∧ signalling.ms.recv.isEmpty = true ∧
    signalling.fences.isEmpty = true ∧ (signalling.queue 63).cmds.map (fun c => (c.opcode, c.stage, c.done, c.since)) = [(0x0300, 2, false, 0)] ∧
    (signalling.queue 63).cmds.map (fun c => (c.w 2, c.w 3, c.w 4)) = [(1, 8, 6)] ∧ quietQueues signalling 63 = true := by decide +kernel
theorem witness_Recoveries_fence : ((signalling.locOf 1 8).checked 0).host = false ∧ (signalling.memRead ((signalling.locOf 1 8).checked 0) 8).2 = .good ∧
    reached (w64 6) (w64 (ofLe (signalling.memRead ((signalling.locOf 1 8).checked 0) 8).1)) = true := by decide +kernel
theorem witness_Recoveries_no_signal :
    let s := recovering1 (recov .block 3 0x0604 .block 0) outgoing
    quietQueues s 64 = true ∧ s.ms.recv.isEmpty = true := by decide +kernel
/-- A fence signal that has had both slots, and that an L3 finishes, stores its value whether its read fails or not, and a read that fails is
recorded (R276, R328). -/
theorem test_l3_signal : ∀ out ∈ [ReadOutcome.good, .uncorrectable],
    let t := (signalling.fenceOp 1 8 0 6 (srcQueue 63) (63 * 2 ^ 24) out).1
    (t.hbmRd 8 1, t.gl.intake.map (fun r => r.code)) = ([6], if out = .good then [] else [0x0703]) := by decide +kernel
/-- The records of an L2's self-test come before that of its last step, whatever their SOURCE (R327, R334). -/
theorem test_l2_order : after (.l2Complete 0 .furrow 2) (recovering1 (recov (.furrow 0) 2 0x0108 .furrow 1) ((domain .offline id).modFur 0 (fun x => { x with split := true })))
    (fun t => t.gl.intake.map (fun r => r.code)) [] = [0x0301, 0x8540] := by decide +kernel

theorem witness_ResetAndSync_attempts :
    (let s : State := { State.reset with release := 3 }
     s.rv.attempts < 3 ∧ s.starting = true) ∧
    (let s : State := { State.reset with release := 3, rv := { State.reset.rv with attempts := 3 } }
     s.starting = true ∧ s.dc.l3 = false ∧ 3 ≤ s.rv.attempts) := by decide +kernel
/-- A third failed attempt ends start-up: a fourth does not complete it, and the time-out is an L4 (R394). -/
theorem test_attempts :
    let s : State := { State.reset with release := 3, rv := { State.reset.rv with attempts := 2 } }
    after (.firmwareLoaded false 0 true []) s (fun t => (t.rv.attempts, after (.firmwareLoaded true 0 true []) t (fun u => u.dc.ready) true,
      after (.startupTimeout true) t (fun u => u.dc.l4) false)) (0, true, false) = (3, false, true) ∧
    after (.startupTimeout true) s (fun u => u.dc.l4) true = false := by decide +kernel

/-- A course write of value `v` to lane 0 of entry 0, issued in beat `i`, that commits in beat 5. -/
def writing (mode : WinMode) (i : Nat) (v : W32) : Flight := ⟨5, i, 4, 0x38, 0, 0, 0, false, .win 0 0 mode 0 [v] false 0 false false⟩
/-- Two additions of one entry in one beat both stand, and an addition adds to an earlier issued write of its beat (R186); of a write that does not add
and one issued before it, the earlier is discarded (R35, R171; log 14). 4.0 + 1.0 + 2.0 is 7.0, and 8.0 + 1.0 is 9.0. -/
theorem test_course_collision :
    let s : State := (domain .draining id).modFur 0 (fun z => { z with windrow := [(0, ⟨[(0, 0x40800000)], false⟩)] })
    let lane (fs : List Flight) := tget 0 (((s.commitList (s.fur 0) 0 0 (inIssueOrder fs)).fur 0).went 0 0).lanes 0
    lostTo 1024 (writing .accum 3 0x3F800000) [writing .accum 4 0x40000000] = none ∧
    lostTo 1024 (writing .accum 3 0x3F800000) [writing .replace 4 0x40000000] = some (writing .replace 4 0x40000000) ∧
    (∀ fs ∈ [[writing .accum 3 0x3F800000, writing .accum 4 0x40000000], [writing .accum 4 0x40000000, writing .accum 3 0x3F800000]], lane fs = 0x40E00000) ∧
    lane [writing .accum 4 0x3F800000, writing .replace 3 0x41000000] = 0x41100000 := by decide +kernel
/-- A held drain ticks with MO_ADV low, and its keeper operations run in the reference cycle (R44, R224). -/
theorem test_held_drain :
    after (.operationCommit 0 0 0) (domain .draining (fun x => { x with hold := true, tick := { x.tick with adv := true } })) (fun t => (t.dom 0 0).tick.adv) true = false := by
  decide +kernel

/-! ### Results that commit in a running domain's beat, commands that wait for a stack, and the ends of routines -/

/-- Domain 0 RUNNING, with one operation in flight that commits in the next beat. -/
def flying (e : Effect) : State := running (fun x => { x with beat := 5, flights := [⟨5, 4, 1, 0x10, 0, 0, 0, false, e⟩] })
theorem witness_DrainCommits_running : ∀ e ∈ [Effect.sreg 31 9, .areg 15 9, .flag 3 true, .vreg 31 448 (List.replicate 64 1) 0x80 0x80, .row 0x1FFFE00 [7, 8] 3 true,
      .standby 3 127 rowBytes true, .swap 3 3 false, .win 3 1023 .replace 448 (List.replicate 64 1) true 0 false false,
      .win 3 1023 .accum 448 (List.replicate 64 1) false 0 false false, .winClear 3 1023 1024, .counter 255 2 1],
    let s := flying e
    stands s ⟨1, 0, 0⟩ [] = true ∧ (s.dom 0 0).course = none ∧ (s.dom 0 0).flights = [⟨5, 4, 1, 0x10, 0, 0, 0, false, e⟩] ∧ (5 : Nat) ≤ (s.dom 0 0).beat ∧
      (s.fur 0).asleep 0xFFFF = false ∧ ((s.fur 0).went 3 1023).mark = false := by decide +kernel
/-- A RUNNING domain's beat commits the result whose beat has come, and the domain runs on (R33, R38). -/
theorem test_running_commit : after (.operationCommit 0 0 0) (flying (.sreg 31 9)) (fun t => ((t.dom 0 0).sreg 31, (t.dom 0 0).st, (t.dom 0 0).beat)) (0, .idle, 0) =
    (9, .running, 6) := by decide +kernel
/-- At ADDR + LENGTH no beat issues a word: reason 7 of fault 0x0105 (R405). -/
theorem test_past_end : after (.add 0 0 0 opS) (running (fun x => { x with stop := 0 })) (fun t => ((t.dom 0 0).st, t.gl.intake.map (fun r => (r.code, r.p2)))) (.idle, []) =
      (.faulted, [(0x0105, 7)]) ∧
    after (.endWord 0 0) (running (fun x => { x with stop := 0 })) (fun t => (t.dom 0 0).st) .idle = .faulted := by decide +kernel
/-- An END in the beat of a pair loss leaves the domain FAULTED, not DRAINING (R50). -/
theorem test_pair_lost_at_end :
    let s := running id
    (s.retireActs 0 0 (some ⟨0x8000, [], 0⟩) [] 0 0 |>.dom 0 0).st = .draining ∧
    ((s.modDom 0 0 (fun x => { x with pairLost := true })).retireActs 0 0 (some ⟨0x8000, [], 0⟩) [] 0 0 |>.dom 0 0).st = .faulted := by decide +kernel

/-- Stack 0 gives no slots. -/
def retraining (s : State) : State := s.modStack 0 (fun p => { p with retraining := true })
def loadPacket : Packet := packet 0x0100 1 [0, 1, 0]
/-- A CONFIGURE of one value in segment 1 waits; `k` is accepted after it. -/
def configuring (s : State) : State := working 0x0101 2 [0, 2 ^ 24 + 2 ^ 8, 1, 0] s
theorem witness_ImmediateCommands_held :
    (let s := retraining (headOf loadPacket)
     let a := s.admitted 63 0x0100 loadPacket
     takesOk s 0x0100 loadPacket = true ∧ a.imageHeld 1 0 a.erasures = true) ∧
    (let s := { headOf loadPacket with hbm := [(3, 1)] }
     let a := s.admitted 63 0x0100 loadPacket
     takesOk s 0x0100 loadPacket = true ∧ a.imageHeld 1 0 a.erasures = false ∧
      (match a.checkImage 1 0 a.erasures with | .error st => st == stBadParam | _ => false) = true) ∧
    (let p : Packet := { packet 0x0102 1 [0, 0] with seq := 1 }
     let s := retraining (configuring (bound (fun x => { x with fetched := [{ p with words := (packet 0x0102 1 [0, 0]).words.set 0 (w64 (0x0102 + 2 ^ 24 + 2 ^ 32)) }] })))
     let a := s.admitted 63 0x0102 p
     (a.applyReady (a.configs 0 0)).configs 0 0 = [ref63]) := by decide +kernel

/-- A START, sequence 1, that waits for the values of the CONFIGURE before it. -/
def starting1 : State :=
  let s := configuring (bound id)
  (s.modQueue 63 (fun x => { x with cmds := x.cmds ++ [⟨1, 0x0102, 1, (packet 0x0102 1 [0, 0]).words, false, [], 2, 0, false, 0, 0, [], false, 0⟩] })).modFur 0
    (fun x => x.setDom 0 ((x.dom 0).begin 0 (x.routine 0) ⟨63, 1⟩ false))
theorem witness_CommandEvents_held :
    (∀ s ∈ [working 0x0100 1 [0, 1, 0] (imaged (bound id)), retraining (working 0x0100 1 [0, 1, 0] (bound id))],
      s.stopped = false ∧ (s.atWork 63 0 0x0100).any (fun c => c.stage == 1) = true) ∧
    (retraining (working 0x0100 1 [0, 1, 0] (bound id))).imageHeld 1 0 0 = true ∧
    (let s := working 0x0100 1 [0, 1, 0] (imaged (bound id))
     s.imageHeld 1 0 0 = false ∧ (match s.checkImage 1 0 0 with | .ok img => imageCount img == 1 | _ => false) = true) ∧
    (let s := starting1
     (s.atWork 63 0 0x0101).any (fun c => !s.afterStart c && !s.configHeld c) = true ∧ (s.configs 0 0).head? = some ref63 ∧
      (let t := ((s.modDom 0 0 (fun y => { y with next := tputs 0 y.next 0 [0] })).bumpFree).finish ref63 stOk 1 0
       (t.dom 0 0).st = .starting ∧ (t.dom 0 0).startLeft = 0 ∧ (t.dom 0 0).cmd = some ⟨63, 1⟩ ∧ (t.cmd? ⟨63, 1⟩).any (fun k => k.stage == 0 && k.order == 2) = true ∧ t.configs 0 0 = [] ∧
        t.footRefused 0 0 false (t.dom 0 0).foot = none)) := by decide +kernel
/-- A CONFIGURE of COUNT 0 waits for the START before it to swap (R94); the last value that a START waits for lets its footprint wait for the scoreboard
(log 97). -/
theorem test_configure_order :
    (let c : Packet := { packet 0x0101 1 [0, 0] with seq := 2, words := (packet 0x0101 1 [0, 0]).words.set 0 (w64 (0x0101 + 2 ^ 24 + 2 ^ 33)) }
     let s := (starting1.modQueue 63 (fun x => { x with fetched := [c], cmds := x.cmds.drop 1 }))
     after (.configure 63) s (fun t => ((t.queue 63).ready.length, (t.queue 63).cmds.map (fun c => c.stage))) (9, []) = (0, [0, 2])) ∧
    after (.configureApply 63 0) starting1 (fun t => ((t.fur 0).waiting.map (fun e => (e.order, e.kind)), (t.queue 63).cmds.map (fun c => c.stage))) ([], []) =
      ([(2, 1)], [3, 1]) := by decide +kernel

/-! ### Port S beside port W, groups asleep, and a gated clock -/

def under (a n : Nat) (mark : Bool) : WRow := ⟨0, a, n, mark⟩
theorem witness_portW_row :
    ((landing.modFur 0 (fun z => { z with wRows := [under 0x1FFFE00 8 true] })).fur 0).wRow 0xFFFF = some (under 0x1FFFE00 8 true) ∧ (landing.fur 0).wRow 0xFFFF = none ∧
    (landing.fur 0).xferOf (.drill 7) = none ∧
    (let z := (landing.modFur 0 (fun z => { z with xfers := [moving], fallow := 0x8000 })).fur 0
     z.xferOf (.drill 7) = some moving ∧ z.asleep (moving.addr / 512) = true) ∧
    ((receiving 2).fur 0).wRow 0xFFFF = none ∧ ((paired id).fur 0).wRow 0 = none ∧
    (((scratchList id).modFur 0 (fun z => { z with xfers := [descRead] })).fur 0).asleep (descRead.addr / 512) = false ∧
    (scratchList id |>.fur 0).gated = false ∧
    ofLe ((fsig1 6).payload.take 4) < 2 ^ 31 ∧
    2 ^ 31 ≤ ofLe (({ fsig1 6 with payload := toLe 4 0x80000001 ++ (fsig1 6).payload.drop 4 } : Frame).payload.take 4) := by decide +kernel
/-- A port-S write on the tick of a port-W write to its row is a clash, under which the bytes of port W stand; a write after a later beat is none (R110). -/
theorem test_clash :
    let z (ws : List WRow) := landing.modFur 0 (fun z => { z with wRows := ws, data := [(0x1FFFE00, 1)], xfers := [{ moving with bytes := [7, 8] }] })
    after (.portSCommit 0 (.drill 7)) (z [under 0x1FFFE00 1 false]) (fun t => ((t.fur 0).data, (t.fur 0).swClashes, t.gl.intake.map (fun r => r.code))) ([], 9, []) =
      ([(0x1FFFE00, 1), (0x1FFFE01, 8)], 1, [0x0202]) ∧
    (((z [under 0x1FFFE00 1 false]).dropW 0 0).fur 0).wRows = [] ∧
    after (.portSCommit 0 (.drill 7)) (z []) (fun t => ((t.fur 0).data, (t.fur 0).swClashes)) ([], 9) = ([(0x1FFFE00, 7), (0x1FFFE01, 8)], 0) := by decide +kernel
/-- A drill whose transfer ends in a group that sleeps faults with reason 4 and writes nothing (R120, R149). -/
theorem test_asleep_transfer : after (.portSCommit 0 (.drill 7)) (landing.modFur 0 (fun z => { z with xfers := [moving], fallow := 0x8000 }))
    (fun t => ((t.drill 0 7).st, (t.drill 0 7).faultReason, (t.fur 0).data, t.gl.intake.map (fun r => r.code))) (.idle, 0, [], []) = (.frozen, 4, [], [0x0401]) := by
  decide +kernel
/-- A fence signal whose handle has its reserved bit set is refused with BAD_PARAM (R261). -/
theorem test_fsig_reserved : after (.fsigFrame 2 63 .good) (paired (fun x => { x with cur := some { fsig1 6 with payload := toLe 4 0x80000001 ++ (fsig1 6).payload.drop 4 } }))
    (fun t => ((t.ms.recvLane (laneKey 2 63)).frozen, t.ms.answers.map (fun a => (a.1.type, fld a.1.h3 0 20)))) (false, []) = (true, [(5, 2 ^ 16 + 0x0107)]) := by decide +kernel

/-- Pairs 0 and 1 of one domain lost on one tick count as one fault: both are recorded and the domain is frozen once (R325). -/
theorem test_two_pairs :
    let t := ((domain .running (fun x => { x with bricks := 4 })).disablePair 0 0 1).disablePair 0 2 1
    t.gl.intake.map (fun r => r.code) = [0x0301, 0x0301] ∧ t.dc.recovs.map (fun r => r.level) = [1] ∧ (t.dom 0 0).pairLost = true := by decide +kernel

/-! ### Faults of one tick, additions in issue order, and the waits that a reference cycle counts -/

/-- MO_ERR of a beat that lost its pair, of one that has FAULTED for it, and of a domain that an L2 has reset on that tick. -/
def sameTick (st : DomState) (lost : Bool) (level : Nat) : State :=
  recovering1 (recov (if level < 3 then up.recDom 0 0 else .block) level 0x0604 .furrow 0)
    (withMortar.modDom 0 0 (fun x => { x with st := st, pairLost := lost, tick := { x.tick with adv := true } }))
theorem witness_FurrowEvents_sameTick :
    (∀ s ∈ [sameTick .running true 1, sameTick .draining true 1, sameTick .faulted false 1, sameTick .reset false 2],
      (0 : Nat) < s.build.mortar ∧ (s.fur 0).split = false ∧ (s.dom 0 0).tick.adv = true ∧ (s.ownStop 0 0).isSome = true ∧ s.dead = false ∧
        ((s.dom 0 0).pairLost = true → (s.fur 0).gated = false ∧ s.stopped = false)) ∧
    (let s := sameTick .reset false 3
     (0 : Nat) < s.build.mortar ∧ (s.fur 0).split = false ∧ (s.dom 0 0).tick.adv = true ∧ s.ownStop 0 0 = none ∧ s.dead = false ∧ (s.dom 0 0).st = .reset ∧
      s.dc.recovs.any (fun r => r.dom == .block && decide (2 ≤ r.level) && r.detect == s.time) = true ∧ s.openRec (s.recDom 0 0) = none) := by decide +kernel
/-- MO_ERR of the beat that lost a pair is recorded with that one L1, and the furrow takes no L2 (R232, R325). -/
theorem test_mortar_pair :
    after (.mortarError 0 0 5) (sameTick .running true 1) (fun t => ((t.dom 0 0).st, t.dc.recovs.map (fun r => r.level), t.gl.intake.map (fun r => r.code)))
      (.idle, [], []) = (.faulted, [1], [0x0901]) := by decide +kernel
/-- MO_ERR of a domain that an L3 of another unit has reset on that tick is a fault of level L1 of its own, which escalates nothing (R325). -/
theorem test_fault_beside :
    after (.mortarError 0 0 5) (sameTick .reset false 3) (fun t => ((t.dom 0 0).st, t.dc.recovs.map (fun r => r.level), bitOf t.dc.sticky 37, t.gl.intake.map
      (fun r => r.code))) (.idle, [], true, []) = (.reset, [3, 1], false, [0x0901]) := by decide +kernel

/-- A half of a split furrow that has lost its pair, which an L2 has put back in service. -/
def halfGone : State := (headOf (packet 0x0102 1 [0, 0])).modFur 0 (fun x => { x with split := true, halfLost := 1, routines := [(0, ⟨0x800020FF00400000, 0, 0⟩)] })
theorem witness_ImmediateCommands_lost :
    takesOk halfGone 0x0102 (packet 0x0102 1 [0, 0]) = true ∧ ((halfGone.fur 0).routine 0).valid = true ∧ bitOf (halfGone.fur 0).halfLost 0 = true := by decide +kernel
/-- No routine starts in it until the furrow is joined (R50). -/
theorem test_half_lost : after (.start 63) halfGone (fun t => (t.queue 63).ready.map Rec.status) [] = [stShape] := by decide +kernel

/-- Lane 0 of the windrow had 1.0, and −2^24, issued in beat 9, has committed to it; 2^24, issued in beat 4, is in flight. -/
def lateAdding (slot : Nat) (mode : WinMode) : State := (draining (.win 0 0 mode 0 [0x4B800000] false 0 false false)).modFur 0 (fun z =>
  { z.setDom 0 { z.dom 0 with
      lateAdds := [(0, ⟨0x3F800000, [⟨9, false, false, 0xCB800000⟩]⟩)], flights := (z.dom 0).flights.map (fun g => { g with slot := slot }) } with
    windrow := [(0, ⟨tputs 0 [] 0 [0xCB7FFFFF], true⟩)] })
theorem witness_DrainCommits_late :
    (∀ mode ∈ [WinMode.accum, .replace], ∀ slot ∈ [4, 6], let s := lateAdding slot mode
      (s.dom 0 0).st = .draining ∧ s.stopped = false ∧ (s.dom 0 0).hold = false ∧ (4 : Nat) < 9 ∧ 512 * winKey 0 0 + 0 = 0 ∧
      (s.dom 0 0).flights = [⟨5, 4, slot, 0x10, 0, 0, 0, false, .win 0 0 mode 0 [0x4B800000] false 0 false false⟩] ∧
      (s.dom 0 0).lateAdds = [(512 * winKey 0 0 + 0, ⟨0x3F800000, [⟨9, false, false, 0xCB800000⟩]⟩)]) ∧
    ((draining (.win 3 1023 .accum 448 (List.replicate 64 1) false 0 false false)).dom 0 0).lateAdds = [] := by decide +kernel
/-- In issue order 1.0 + 2^24 rounds to 2^24, and −2^24 leaves 0; in order of commit it would be 1.0 (R186). The entry's mark stays, and changes no
lane (R203). A write that replaces, issued before the addition, stands before it: 2^24 − 2^24 is 0. A write of WWR has no such order: it leaves 2^24. -/
theorem test_late_add : (∀ mode ∈ [WinMode.accum, .replace],
      after (.operationCommit 0 0 0) (lateAdding 4 mode) (fun t => (tget 0 ((t.fur 0).went 0 0).lanes 0, ((t.fur 0).went 0 0).mark)) (1, false) = (0, true)) ∧
    after (.operationCommit 0 0 0) (lateAdding 6 .replace) (fun t => (tget 0 ((t.fur 0).went 0 0).lanes 0, (t.dom 0 0).lateAdds)) (1, []) = (0x4B800000, []) := by
  decide +kernel
/-- An addition to a clean lane of a marked entry is the sum (R203); one that commits before an earlier-issued one is noted (R186). -/
theorem test_marked_add :
    let two : State := domain .draining (fun x => { x with beat := 5, flights := [⟨5, 4, 4, 0x10, 0, 0, 0, false, .win 0 0 .accum 0 [0x3F800000] false 0 false false⟩,
      ⟨9, 3, 4, 0x10, 0, 0, 0, false, .win 0 0 .accum 0 [0x3F800000] false 0 false false⟩] })
    let s := two.modFur 0 (fun z => { z with windrow := [(0, ⟨tputs 0 [] 0 [0x3F800000], true⟩)] })
    after (.operationCommit 0 0 0) s (fun t => (tget 0 ((t.fur 0).went 0 0).lanes 0, ((t.fur 0).went 0 0).mark, (t.dom 0 0).lateAdds)) (0, false, []) =
      (0x40000000, true, [(0, ⟨0x3F800000, [⟨4, false, false, 0x3F800000⟩]⟩)]) := by decide +kernel

/-- A domain frozen on SWAIT whose clock is gated counts the frozen tick, and no keeper operation (R45, R384). -/
theorem test_gated_freeze : after (.swait 0 0 (fields [(28, 9), (0, 1)])) ((running id).modFur 0 (fun x => { x with owned := true, gated := true }))
    (fun t => (vat 9 (t.dom 0 0).frozen 6, (t.dom 0 0).keeper)) (9, 9) = (1, 0) := by decide +kernel

/-- A transfer that begins drops the port-W write of its row, and keeps those of other rows (R107, R110). -/
theorem test_begin_drops : ((landing.fur 0).sBegin moving |>.wRows) = [] ∧
    (({ landing.fur 0 with wRows := [under 0x1FFFE00 8 true, under 0 8 true] }).sBegin moving |>.wRows) = [under 0 8 true] := by decide +kernel

/-- Over one reference cycle, 7 ticks at CURRENT 56, a drill that stalls for credit counts them all in BUSY and WAIT_CREDIT (R150). -/
theorem test_credit_ticks :
    let s := withDrill (bound id) (fun x => { x with st := .running, count := 1, fetched := [lastRow] })
    (match step (s.modFur 0 (fun x => { x with current := 56 })) with | .next t => (t.drill 0 7).waits.toList | _ => []) = [7, 0, 0, 7, 0] := by decide +kernel

/-- The acceptance read of a FENCE_WAIT that finds an uncorrectable word counts as failed and records 0x0703 once (R279, R281). -/
theorem test_wait_read : let a := adm 0x0301 1 [0, 1, 8, 6, 0]
    let t := a.waitRead .uncorrectable (packet 0x0301 1 [0, 1, 8, 6, 0]) ref63
    ((t.watch 0).st, (t.watch 0).reads, (t.watch 0).failed, t.gl.intake.map (fun r => r.code)) = (1, 1, 1, [0x0703]) := by decide +kernel

theorem witness_DrillAndSignalOperations_empty :
    (withDrill (running id) (fun x => { x with st := .armed })).drill 0 7 = { Drill.atReset with st := .armed } ∧ Drill.atReset.count = 0 := by decide +kernel
theorem witness_RelayRows_full : 16 ≤ (((receiving 1).modFur 0 (fun z => { z with relayOut := List.replicate 16 (⟨[], false⟩, 0) })).fur 0).relayOut.length := by decide +kernel

/-- A hot die's furrows step down in an L3 too (R356; log 56). -/
theorem test_hold_in_l3 : after (.thermalHoldStep 0 (List.replicate 20 1200)) (recovering1 (recov .block 3 0x0604 .block 0) (bound id))
    (fun t => (bitOf t.rv.holding 0, (t.fur 0).thermalLimit.isSome)) (false, false) = (true, true) := by decide +kernel

/-- Block reset releases a hold with event 0x8B07, P0 2, before it ends debug (R361, R379). -/
theorem test_reset_hold :
    let s : State := { debugging with gl := { debugging.gl with held := true, heldBeats := 9 } }
    (s.debugOn, s.gl.held, after .blockReset s (fun t => t.gl.intake.map (fun r => (r.code, r.p0, r.p1))) []) =
      (true, true, [(0x8B07, 2, 9), (0x0B05, 4, 0)]) := by decide +kernel

/-! ### Causes together, boards, drills at rest, verdicts, and recoveries beside one another -/

/-- A tag check that fails in a row both of a relay destination and of an open window shows causes 4 and 5, and is charged to 4 (R40, R41). -/
theorem test_two_causes :
    let s := ((withWord 1 0x21 (1 * 2 ^ 23) id).setWindow 0 0 { Window.closed with isOpen := true, length := 512 }).setDrill 0 7
      { Drill.atReset with st := .running, mode := 2, relayRows := 1 }
    after (.beatAttempt 0 ⟨0, 0⟩) s (fun t => ((t.dom 0 0).causes, vat 0 (t.dom 0 0).frozen 4, vat 0 (t.dom 0 0).frozen 5)) (0, 0, 9) = (0x30, 1, 0) := by
  decide +kernel

/-- A half's routine of BRICKS 10 starts while FT_BRICKS.ACTIVE shows four (R24, R95). -/
def halfStart : State := (headOf (packet 0x0102 1 [0, 0])).modFur 0 (fun x => { x with split := true, routines := [(0, ⟨0x80006FF000400000, 0, 0⟩)] })
theorem witness_ImmediateCommands_shown :
    takesOk halfStart 0x0102 (packet 0x0102 1 [0, 0]) = true ∧ ((halfStart.fur 0).routine 0).bricks = 4 ∧
    (let a := halfStart.admitted 63 0x0102 (packet 0x0102 1 [0, 0])
     (a.env 0 0).shown = 4 ∧ (a.env 0 0).act = 2 ∧ ((a.fur 0).routine 0).placement = placementOf true 0 ∧ a.configs 0 0 = []) := by decide +kernel
theorem test_half_bricks : after (.start 63) halfStart (fun t => ((t.dom 0 0).st, (t.queue 63).ready.map Rec.status)) (.idle, [9]) = (.starting, []) := by decide +kernel

/-- An entrant accepted earlier goes before those accepted later (R117). -/
theorem test_enqueue :
    let e (n : Nat) : Entrant := ⟨n, 1, ⟨63, BitVec.ofNat 32 n⟩, []⟩
    (({ (bound id).fur 0 with waiting := [e 1, e 5] } : Furrow).enqueue (e 3)).waiting.map Entrant.order = [1, 3, 5] := by decide +kernel

/-- A host copy that has ended, whose record waits for room, keeps its scoreboard entry until the record is written (R116, R118, R248). -/
def onBoard (op : Nat) (room : Bool) : State :=
  (working op 3 [0, 96 * 2 ^ 32] (bound (fun x => { x with
    cqTail := if room then 15 else 16, ready := [⟨0, 0, BitVec.ofNat 16 op, 0, 96, 0, false, if room then some 9 else none⟩] }))).modFur 0
    (fun z => { z with board := [⟨0, 512, true, 0, ref63⟩] })
def recordsNext (s : State) (op : Nat) : Bool :=
  (s.queue 63).ready.map Rec.time == [some 9] && !s.stopped && decide (((s.queue 63).cqTail - (s.queue 63).cqHead).toNat < 2 ^ fld (s.queue 63).cfg 16 5) &&
    (s.cmd? ref63).any (fun c => c.opcode == BitVec.ofNat 16 op)
theorem witness_FetchAndRecord_board : recordsNext (onBoard 0x0204 true) 0x0204 = true ∧ recordsNext (onBoard 0x0201 true) 0x0201 = true := by decide +kernel
theorem test_board :
    after (.completionRecordWrite 63) (onBoard 0x0204 true) (fun t => (t.fur 0).board.length) 9 = 0 ∧
    after (.completionRecordWrite 63) (onBoard 0x0204 false) (fun t => (t.fur 0).board.length) 9 = 1 ∧
    after (.portSCommit 0 (.host 63 0)) ((scratching 0x0204 (96 * 2 ^ 32) id).modFur 0 (fun z => { z with xfers := [hostMove 0 96 true []], board := [⟨0, 512, true, 0, ref63⟩] }))
      (fun t => ((t.fur 0).board.length, (t.queue 63).ready.length)) (9, 9) = (1, 1) := by decide +kernel

/-- A remote command that has passed its checks in a queue that takes no commands keeps that verdict (R242, R243). -/
theorem test_verdict : ∀ st ∈ [QState.active, .draining],
    let s := (headOf (packet 0x0403 1 [1 + 63 * 2 ^ 16, 1, 255 * 2 ^ 8])).modQueue 63 (fun x => { x with st := st })
    s.verdict (s.queue 63) = some none ∧ (s.judgeHeads.queue 63).headJudged = some none := by decide +kernel

/-- With the sixteenth pair its source freezes, and what its other lanes hold is refused with it (R317). -/
def manyFrozen (n : Nat) : State :=
  let s := paired (fun x => { x with held := [csig 5] })
  let t := s.setMs { s.ms with recv := (List.range n).map (fun i => (laneKey 2 i, { RecvLane.clear with valid := true, frozen := true })) ++
    (laneKey 2 62, { RecvLane.clear with valid := true }) :: s.ms.recv }
  arrived { write1 with h1 := mkH1 0 62 0 0 0 0 } t
theorem witness_LaneReceiver_source : ∀ n ∈ [14, 15], let s := manyFrozen n
    let fr : Frame := { write1 with h1 := mkH1 0 62 0 0 0 0 }
    s.ms.arrivals.map Prod.fst = [fr] ∧ fr.isData = true ∧ s.meshRuns = true ∧ s.ms.valid = true ∧ s.stopped = false ∧ tget false s.ms.frozenSrcs fr.src = false ∧
      (s.ms.recvLane fr.key).valid = true ∧ (s.ms.recvLane fr.key).frozen = false ∧ fr.syn = false ∧ fr.lseq = (s.ms.recvLane fr.key).expect ∧ (s.ms.recvLane fr.key).cur = none ∧
      fr.type = 1 ∧ (s.writeCheck fr).isSome = true ∧ twf RecvLane.clear s.ms.recv = true ∧ s.ms.frozenPairs fr.src = n := by decide +kernel
theorem test_frozen_source : ∀ n ∈ [14, 15], after .laneFrameDeliver (manyFrozen n)
    (fun t => (tget false t.ms.frozenSrcs 2, (t.ms.recvLane (laneKey 2 63)).held.length, t.ms.answers.map (fun a => fld a.1.h3 0 24))) (false, 9, []) =
      if n = 15 then (true, 0, [2 ^ 16 + 0x0103, 2 ^ 16 + 0x0103]) else (false, 1, [2 ^ 16 + 0x0103]) := by decide +kernel

/-- An L2 of the furrow that ends while one of its half 0 is still in progress leaves domain 0 OFFLINE (R327). -/
def twoL2 : State :=
  let s := recovering1 (recov (.furrow 0) 2 0x0108 .furrow 1) ((domain .offline id).modFur 0 (fun x => { (x.setDom 1 (Domain.atReset .offline)) with split := true }))
  { s with dc := { s.dc with recovs := s.dc.recovs ++ [recov (.half 0 0) 2 0x0108 .half0 0] } }
theorem witness_Recoveries_two : twoL2.stopped = false ∧ (twoL2.l2Of 0 .furrow 1).map (fun r => (r.byDebug, r.dom)) = some (false, .furrow 0) ∧
    twoL2.rv.evicting = none ∧ twoL2.rv.critical = false ∧
    twoL2.dc.recovs.any (fun o => o.dom == .half 0 0 && o.level == 2 && o.phase != 2 && o.scope == .half0 && o.fur == 0) = true := by decide +kernel
theorem test_two_l2 : after (.l2Complete 0 .furrow 0) twoL2 (fun t => ((t.dom 0 0).st, (t.dom 0 1).st)) (.idle, .offline) = (.offline, .idle) := by decide +kernel

/-- A DEBUG_ENABLE that waits for its token's stack when an L3 comes completes with BUSY, and the nonce is replaced (R360). -/
theorem test_debug_l3 :
    let s := (posted 0x0F38 [0, 1, 0] (bound id)).modStack 0 (fun p => { p with retraining := true })
    s.tokenHeld = true ∧ (s.endDebugL3.rv.mbx, fld (vat 0 s.endDebugL3.rv.res 0) 32 16, s.endDebugL3.rv.nonces) = (Mbx.done, stBusy, 1) := by decide +kernel
end Sys2Proof.Tests
end

section
/-! PROOFS. Register writes, the gleaner's store and its clearing, and the debug window (R9, R10, R366 to R380). -/

namespace Sys2Proof.Machine

section
variable (s : State)

/-! ### Host accesses -/

/-- A queue that gains no record in a cycle is left as it is. -/
@[simp] theorem Queue.cycle_self (x : Queue) : x.cycle x = x := by simp [Queue.cycle]

/-- A command that touches neither the gleaner's queue, the fault ring nor the queues needs no order among its records (R247, R334, R369). -/
theorem State.oneCycle_of_no_records {s t : State} (hi : t.gl.intake = s.gl.intake) (hr : t.gl.refused = s.gl.refused)
    (ht : t.dc.frTail = s.dc.frTail) (hl : t.dc.ringLost = s.dc.ringLost) (hq : t.queues = s.queues) : s.oneCycle t = t := by
  have ring : s.ringOrdered t = t := by simp [State.ringOrdered, ht, hl]
  have intake : s.ordered t = t := by simp [State.ordered, hi, hr]
  have queues : Vector.ofFn (fun q : Fin 64 => (s.queues[q]).cycle t.queues[q]) = t.queues := by
    ext1; simp [hq]
  unfold State.oneCycle
  rw [ring, intake]
  dsimp only
  rw [queues]

/-! R9 allows an aligned access of 64 bits and one of 32. -/

theorem goodAccess_wide {off : Nat} (h : off % 8 = 0) : goodAccess off 8 = true := by simp [goodAccess, h]
theorem goodAccess_half {off : Nat} (h : off % 4 = 0) : goodAccess off 4 = true := by simp [goodAccess, h]

/-- The debug window begins at 0x2000000 (R374). -/
theorem regionOf_below {off : Nat} (h : off < 0x2000000) : regionOf off = none := by
  unfold regionOf
  rw [if_neg (by omega), if_neg (by omega), if_neg (by omega)]

/-- A 64-bit host write below the debug window writes the register at its offset (R9, R10). -/
theorem State.writeAccess_wide (h : s.takesWrites) {a : Nat} (ha : a % 8 = 0) (hw : a < 0x2000000) (v : W64) :
    s.writeAccess a true v = s.regWrite a true v := by
  have hd : a / 8 * 8 = a := by omega
  simp [State.writeAccess, goodAccess_wide ha, regionOf_below hw, s.hostWrite_of_takes h, State.merge, hd]

theorem exec_registerWrite (off : BitVec 26) (wide : Bool) (v : W64) :
    exec (.registerWrite off wide v) s = .next (s.oneCycle (s.writeAccess off.toNat wide v)) := rfl

/-- REGISTER_WRITE of 64 bits has the effect of its register's write, where that brings no record to the gleaner, the fault ring or a queue. -/
theorem exec_registerWrite_wide (h : s.takesWrites) {a : Nat} (ha : a % 8 = 0) (hw : a < 0x2000000) {v : W64} {t : State}
    (ht : s.regWrite a true v = t) (hi : t.gl.intake = s.gl.intake) (hr : t.gl.refused = s.gl.refused)
    (hf : t.dc.frTail = s.dc.frTail) (hl : t.dc.ringLost = s.dc.ringLost) (hq : t.queues = s.queues) :
    exec (.registerWrite (BitVec.ofNat 26 a) true v) s = .next t := by
  have hoff : (BitVec.ofNat 26 a).toNat = a := by rw [BitVec.toNat_ofNat]; omega
  rw [exec_registerWrite, hoff, s.writeAccess_wide h ha hw, ht, State.oneCycle_of_no_records hi hr hf hl hq]

/-- A host write to a register of an open debug-window region has its effect (R374). -/
theorem State.debugWrite_of_open (h : s.takesWrites) {r : Nat} (ho : s.regionOpen r = true) (off bytes : Nat) (body : State → State) :
    s.debugWrite off bytes r body = body s := by
  unfold State.debugWrite
  rw [s.hostWrite_of_takes h, if_pos ho]

/-! ### Which register lies where (R237) -/

/-- The FT_ registers take no write. -/
theorem State.regWrite_ft {a : Nat} (h : a < 0x1000) (lo : Bool) (v : W64) : s.regWrite a lo v = s := by
  unfold State.regWrite; exact if_pos h

/-- The block of a furrow that is built begins at 0x1000000 and 0x100000 for each before it. -/
theorem State.regWrite_fur (f : Fur) (hf : f.val < s.build.furrows) {r : Nat} (hr : r < 0x100000) (lo : Bool) (v : W64) :
    s.regWrite (0x1000000 + 0x100000 * f.val + r) lo v = s.furWrite f r lo v := by
  have hn : (0x1000000 + 0x100000 * f.val + r - 0x1000000) / 0x100000 = f.val := by omega
  have hm : (0x1000000 + 0x100000 * f.val + r) % 0x100000 = r := by omega
  have hfur : furOf f.val = f := Fin.ofNat_val_eq_self f
  have hlt := f.isLt
  unfold State.regWrite
  rw [if_neg (by omega), if_neg (by omega), if_neg (by omega), if_neg (by omega), if_neg (by omega), if_neg (by omega),
    if_neg (by omega), if_neg (by omega), if_neg (by omega), if_pos (by omega)]
  simp only [hn, hm, hfur, hf, if_true]

/-- Writes of the shared logic's registers: each changes its own register through its mask, W1C for the sticky ones (R10). -/
theorem exec_registerWrite_registers (h : s.takesWrites) (v : W64) :
    let reg := fun (a : Nat) (t : State) => exec (.registerWrite (BitVec.ofNat 26 a) true v) s = .next t
    reg 0x1008 { s with dc := { s.dc with sticky := s.dc.sticky &&& ~~~(v &&& 0xFFFF003F00000000) } } ∧
    reg 0x1030 { s with dc := { s.dc with frHead := v.setWidth 32 } } ∧
    reg 0x2010 { s with rv := { s.rv with policy := v.setWidth 3 } } ∧
    reg 0x4020 { s with gl := { s.gl with sticky := s.gl.sticky &&& ~~~(v.setWidth 3) } } ∧
    reg 0x4028 { s with gl := { s.gl with imask := v.setWidth 16 &&& 0xFFFE } } ∧
    reg 0x40018 (s.setMs { s.ms with sticky := s.ms.sticky &&& ~~~(v.setWidth 5) }) := by
  refine ⟨?_, ?_, ?_, ?_, ?_, ?msSticky⟩
  case msSticky =>
    have width : BitVec.ofNat 5 v.toNat = v.setWidth 5 := BitVec.ofNat_toNat 5 v
    refine exec_registerWrite_wide s h (by decide) (by decide) ?_ rfl rfl rfl rfl rfl
    rw [← width]
    rfl
  all_goals exact exec_registerWrite_wide s h (by decide) (by decide) rfl rfl rfl rfl rfl rfl

theorem exec_registerWrite_ft (h : s.takesWrites) {a : Nat} (ha : a < 0x1000) (hm : a % 8 = 0) (v : W64) :
    exec (.registerWrite (BitVec.ofNat 26 a) true v) s = .next s :=
  exec_registerWrite_wide s h hm (by omega) (s.regWrite_ft ha true v) rfl rfl rfl rfl rfl

/-- FU_STICKY and FU_STALL_LIMIT lie at 0x10 and 0x28 of a built furrow's block. -/
theorem exec_registerWrite_furrow (h : s.takesWrites) (f : Fur) (hf : f.val < s.build.furrows) (v : W64) :
    exec (.registerWrite (BitVec.ofNat 26 (0x1000010 + 0x100000 * f.val)) true v) s =
      .next (s.setFur f { s.fur f with sticky := (s.fur f).sticky &&& ~~~(v.setWidth 20 &&& 0xFFFFC) }) ∧
    exec (.registerWrite (BitVec.ofNat 26 (0x1000028 + 0x100000 * f.val)) true v) s =
      .next (s.setFur f { s.fur f with stallLimit := v.setWidth 32 }) := by
  have hlt := f.isLt
  have mask : (v &&& 0xFFFFC#64).setWidth 20 = v.setWidth 20 &&& 0xFFFFC := BitVec.setWidth_and
  constructor
  · refine exec_registerWrite_wide s h (by omega) (by omega) ?_ rfl rfl rfl rfl rfl
    rw [show 0x1000010 + 0x100000 * f.val = 0x1000000 + 0x100000 * f.val + 0x10 by omega, s.regWrite_fur f hf (by decide), ← mask]
    rfl
  · refine exec_registerWrite_wide s h (by omega) (by omega) ?_ rfl rfl rfl rfl rfl
    rw [show 0x1000028 + 0x100000 * f.val = 0x1000000 + 0x100000 * f.val + 0x28 by omega, s.regWrite_fur f hf (by decide)]
    rfl

/-! ### Refused accesses (R9, R374): the block runs and is not at L4 -/

theorem exec_badRegisterAccess_running (hr : s.release = 3) (hd : s.dead = false) {off : BitVec 26} {bytes : Nat}
    (hg : goodAccess off.toNat bytes = false) (write : Bool) :
    exec (.badRegisterAccess off bytes write) s =
      .next (State.offer { s with hostRead := if write then s.hostRead else 0 } 0x0506 0 off.toNat bytes (b2n write)) := by
  have refused : exec (.badRegisterAccess off bytes write) s = .next (s.badAccess off.toNat bytes write) :=
    if_neg (by simp [hg])
  have running : (s.release ≠ 3 || s.dead) = false := by simp [hr, hd]
  rw [refused]
  unfold State.badAccess
  simp only [running]
  cases write <;> rfl

theorem exec_debugWindowRefused_read (hr : s.release = 3) (hd : s.dead = false) {off : BitVec 26} {r : Nat}
    (hreg : regionOf off.toNat = some r) (hc : s.regionOpen r = false) :
    exec (.debugWindowRefused off false) s =
      .next (State.offer { s with hostRead := 0 } 0x0B06 srcDebug (off.toNat % 2 ^ 25) 0 s.debugScope.toNat) := by
  have closed : exec (.debugWindowRefused off false) s = .next (s.windowRefuse off.toNat false) := by
    show execDebugWindowRefused off false s = _
    simp [execDebugWindowRefused, hreg, hc]
  have running : (s.release ≠ 3 || s.dead) = false := by simp [hr, hd]
  rw [closed]
  unfold State.windowRefuse
  simp only [running]
  rfl

/-! ### The gleaner's store (R366 to R369) -/

/-- A fault or warning record goes to partition F while that has room (R366, R367). -/
theorem Gleaner.takeOne_fault {g : Gleaner} {r : GRec} {rest : List GRec} (hi : g.intake = r :: rest)
    (hc : bitOf r.code 15 = false) (hf : g.fillF < sizeF) :
    g.takeOne = { g with
      intake := rest, store := tset emptyRec g.store g.fillF (r.words g.seq)
      fillF := g.fillF + 1, lastF := g.seq, seq := nextSeq g.seq
      sticky := setBit g.sticky 0 (bitOf g.sticky 0 || g.fillF + 1 == sizeF) } := by
  simp [Gleaner.takeOne, hi, Gleaner.put, hc, hf]

/-- An informational record goes to partition I while that has room (R366, R367). -/
theorem Gleaner.takeOne_info {g : Gleaner} {r : GRec} {rest : List GRec} (hi : g.intake = r :: rest)
    (hc : bitOf r.code 15 = true) (hf : g.fillI < sizeI) :
    g.takeOne = { g with
      intake := rest, store := tset emptyRec g.store (sizeF + g.fillI) (r.words g.seq)
      fillI := g.fillI + 1, lastI := g.seq, seq := nextSeq g.seq
      sticky := setBit g.sticky 1 (bitOf g.sticky 1 || g.fillI + 1 == sizeI) } := by
  simp [Gleaner.takeOne, hi, Gleaner.put, hc, hf]

/-- A fault or warning record that finds partition F full is counted (R367). -/
theorem Gleaner.takeOne_fault_full {g : Gleaner} {r : GRec} {rest : List GRec} (hi : g.intake = r :: rest)
    (hc : bitOf r.code 15 = false) (hf : sizeF ≤ g.fillF) :
    g.takeOne = { g with intake := rest, lostF := satInc g.lostF } := by
  simp [Gleaner.takeOne, hi, Gleaner.put, hc, Nat.not_lt.mpr hf]

/-- GLEANER_STORE takes from the intake queue once the boot record is stored, at L4 too (R369, log 59). -/
theorem exec_gleanerStore_running (hr : s.release = 3) (hb : s.bootWait = false) :
    exec .gleanerStore s = .next { s with gl := s.gl.takeOne } :=
  if_pos ⟨hr, by simp [hb]⟩

theorem exec_gleanerStore_fault (hr : s.release = 3) (hb : s.bootWait = false) {r : GRec} {rest : List GRec}
    (hi : s.gl.intake = r :: rest) (hc : bitOf r.code 15 = false) (hf : s.gl.fillF < sizeF) :
    ∃ t, exec .gleanerStore s = .next t ∧ t.gl.intake = rest ∧ t.gl.fillF = s.gl.fillF + 1 ∧
      t.gl.store = tset emptyRec s.gl.store s.gl.fillF (r.words s.gl.seq) ∧ t.gl.seq = nextSeq s.gl.seq ∧ t.furs = s.furs := by
  refine ⟨_, exec_gleanerStore_running s hr hb, ?_⟩
  rw [Gleaner.takeOne_fault hi hc hf]
  exact ⟨rfl, rfl, rfl, rfl, rfl⟩

theorem exec_gleanerStore_info (hr : s.release = 3) (hb : s.bootWait = false) {r : GRec} {rest : List GRec}
    (hi : s.gl.intake = r :: rest) (hc : bitOf r.code 15 = true) (hf : s.gl.fillI < sizeI) :
    ∃ t, exec .gleanerStore s = .next t ∧ t.gl.intake = rest ∧ t.gl.fillI = s.gl.fillI + 1 ∧
      t.gl.store = tset emptyRec s.gl.store (sizeF + s.gl.fillI) (r.words s.gl.seq) ∧ t.gl.seq = nextSeq s.gl.seq ∧
      t.furs = s.furs := by
  refine ⟨_, exec_gleanerStore_running s hr hb, ?_⟩
  rw [Gleaner.takeOne_info hi hc hf]
  exact ⟨rfl, rfl, rfl, rfl, rfl⟩

theorem exec_gleanerStore_fault_full (hr : s.release = 3) (hb : s.bootWait = false) {r : GRec} {rest : List GRec}
    (hi : s.gl.intake = r :: rest) (hc : bitOf r.code 15 = false) (hf : sizeF ≤ s.gl.fillF) :
    exec .gleanerStore s = .next { s with gl := { s.gl with intake := rest, lostF := satInc s.gl.lostF } } := by
  rw [exec_gleanerStore_running s hr hb, Gleaner.takeOne_fault_full hi hc hf]

/-! ### Clearing a partition (R368) -/

/-- With no record waiting there is none to store before a clear. -/
theorem Gleaner.takeAll_of_no_intake {g : Gleaner} (h : g.intake = []) : g.takeAll = g := by
  unfold Gleaner.takeAll
  rw [h, List.foldl_nil, ← h]

theorem exec_clearF (h : s.takesWrites) : exec .clearF s = .next (s.clearPart false) :=
  congrArg Host.Outcome.next (s.hostWrite_of_takes h _ _ _)

theorem exec_clearI (h : s.takesWrites) : exec .clearI s = .next (s.clearPart true) :=
  congrArg Host.Outcome.next (s.hostWrite_of_takes h _ _ _)

theorem exec_clearF_none_lost (h : s.takesWrites) (hi : s.gl.intake = []) (hl : s.gl.lostF = 0) :
    exec .clearF s = .next { s with gl := { s.gl with store := tclear s.gl.store 0 12288, fillF := 0 } } := by
  rw [exec_clearF s h]
  simp [State.clearPart, Gleaner.takeAll_of_no_intake hi, hl, sizeF]

theorem exec_clearI_none_lost (h : s.takesWrites) (hi : s.gl.intake = []) (hl : s.gl.lostI = 0) :
    exec .clearI s = .next { s with gl := { s.gl with store := tclear s.gl.store 12288 16384, fillI := 0 } } := by
  rw [exec_clearI s h]
  simp [State.clearPart, Gleaner.takeAll_of_no_intake hi, hl, sizeF, sizeI]

/-- A clear of partition F that has refused records reports their number, with the SEQUENCE last stored there (R368). -/
theorem exec_clearF_lost (h : s.takesWrites) (hi : s.gl.intake = []) (hl : s.gl.lostF ≠ 0) :
    ∃ t, exec .clearF s = .next t ∧ t.gl.fillF = 0 ∧ t.gl.lostF = 0 ∧
      ∃ r : GRec, t.gl.intake = [r] ∧ r.code = 0x0E02 ∧ r.p0 = 0 ∧ r.p1 = s.gl.lostF ∧ r.p2 = s.gl.lastF := by
  refine ⟨_, exec_clearF s h, ?_⟩
  simp only [State.clearPart, Gleaner.takeAll_of_no_intake hi, hl, if_false, Bool.false_eq_true]
  rw [State.offer_room _ _ _ _ _ _ (by simp [hi]) (by decide)]
  have width : ∀ x : W32, BitVec.ofNat 32 x.toNat = x := fun x => by simp
  refine ⟨rfl, rfl, ⟨s.time, 0x0E02, srcBlock, 0, s.gl.lostF, s.gl.lastF⟩, ?_, rfl, rfl, rfl, rfl⟩
  simp only [hi, List.nil_append, width]
  rfl

/-! ### The probe port and state capture (R375 to R379) -/

theorem exec_probeCtrlWrite_open (h : s.takesWrites) (ho : s.regionOpen 0 = true) (v : W64) :
    exec (.probeCtrlWrite v) s = .next (s.writeProbeCtrl v) :=
  congrArg Host.Outcome.next (s.debugWrite_of_open h ho _ _ _)

/-- A field of one bit is that bit. -/
theorem fld_one_eq_b2n_bitOf (v : W64) (i : Nat) : fld v i 1 = b2n (bitOf v i) := by
  simp only [fld, nfld, b2n, bitOf, BitVec.getLsbD, Nat.testBit_eq_decide_div_mod_eq, pow_one]
  rcases Nat.mod_two_eq_zero_or_one (v.toNat / 2 ^ i) with e | e <;> simp [e]

theorem State.writeProbeCtrl_off {v : W64} (hv : bitOf v 0 = false) :
    s.writeProbeCtrl v = { s with gl := { s.gl with probeCtrl := w64 (fld v 8 2 * 2 ^ 8) } } := by
  simp [State.writeProbeCtrl, hv, fld_one_eq_b2n_bitOf, b2n, at']

/-- The port is enabled where its source, divided, is no faster than 600 MHz (R375). -/
theorem State.writeProbeCtrl_on {v : W64} (hv : bitOf v 0 = true)
    (hm : probeSourceMhz (s.gl.probeSel.setWidth 16) ≤ 600 * 2 ^ fld v 8 2) :
    s.writeProbeCtrl v = { s with gl := { s.gl with probeCtrl := w64 (fld v 8 2 * 2 ^ 8 + 1) } } := by
  simp [State.writeProbeCtrl, hv, fld_one_eq_b2n_bitOf, b2n, at', Nat.not_lt.mpr hm]

theorem exec_captureHold_open (h : s.takesWrites) (ho : s.regionOpen 1 = true) : exec .captureHold s = .next s.beginHold :=
  congrArg Host.Outcome.next (s.debugWrite_of_open h ho _ _ _)

theorem exec_captureRelease_open (h : s.takesWrites) (ho : s.regionOpen 1 = true) :
    exec .captureRelease s = .next (s.releaseHold 1) :=
  congrArg Host.Outcome.next (s.debugWrite_of_open h ho _ _ _)

theorem exec_captureSelect_open (h : s.takesWrites) (ho : s.regionOpen 1 = true) (v : W64) :
    exec (.captureSelect v) s = .next (s.selectCapture v) :=
  congrArg Host.Outcome.next (s.debugWrite_of_open h ho _ _ _)

/-- A hold stops every domain (R377). -/
theorem State.beginHold_of_released (hh : s.gl.held = false) : s.beginHold = State.offer { s with
    gl := { s.gl with held := true, heldBeats := 0 }
    furs := s.furs.map (fun x => { x with doms := x.doms.map (fun d => { d with hold := true }) }) } 0x8B06 0 s.movers 0 0 := by
  unfold State.beginHold
  rw [hh]
  rfl

theorem State.beginHold_of_held (hh : s.gl.held = true) : s.beginHold = s := if_pos hh

/-- The end of a hold lets every domain run (R379). -/
theorem State.releaseHold_of_held (hh : s.gl.held = true) (cause : Nat) : s.releaseHold cause = State.offer { s with
    gl := { s.gl with held := false }
    furs := s.furs.map (fun x => { x with doms := x.doms.map (fun d => { d with hold := false }) }) }
      0x8B07 0 cause s.gl.heldBeats.toNat 0 := by
  unfold State.releaseHold
  rw [hh]
  rfl

theorem State.releaseHold_of_released (hh : s.gl.held = false) (cause : Nat) : s.releaseHold cause = s := if_pos (by simp [hh])

/-- A selection of a domain that stands still captures its bytes (R378). -/
theorem State.selectCapture_of_still {v : W64} {bs : List Byte} (hf : (furOf (fld v 0 4)).val < s.build.furrows)
    (hs : (s.dom (furOf (fld v 0 4)) (domOf (fld v 4 1))).still = true)
    (hb : s.capture (furOf (fld v 0 4)) (domOf (fld v 4 1)) (fld v 8 4) (fld v 16 12) = some bs) :
    (s.selectCapture v).gl.capData = bs ∧ (s.selectCapture v).gl.capValid = true ∧ (s.selectCapture v).furs = s.furs := by
  simp [State.selectCapture, hf, hs, hb]

/-! ### The program store aperture (R92, R380) -/

theorem exec_debugPstoreWrite_open (h : s.takesWrites) (ho : s.regionOpen 2 = true) (f : Fur) {addr : BitVec 18} {wide : Bool}
    (ha : addr.toNat % (if wide then 8 else 4) = 0) (v : W64) :
    exec (.debugPstoreWrite f addr wide v) s = .next (s.writeStore f addr.toNat (if wide then 8 else 4) v) := by
  have good : goodAccess (0x2100000 + f.val * 0x40000 + addr.toNat) (if wide then 8 else 4) = true := by
    cases wide
    · simp only [Bool.false_eq_true, if_false] at ha
      exact goodAccess_half (by omega)
    · simp only [if_true] at ha
      exact goodAccess_wide (by omega)
  show execDebugPstoreWrite f addr wide v s = _
  unfold execDebugPstoreWrite
  simp only [good, if_true]
  exact congrArg Host.Outcome.next (s.debugWrite_of_open h ho _ _ _)

/-- A debug write into a segment that no domain holds writes its bytes. -/
theorem State.writeStore_of_free {f : Fur} {off : Nat} (hz : s.dc.debugFrozen = false) (hf : f.val < s.build.furrows)
    (hh : bitOf (s.fur f).heldSegs (off / 32768) = false) (bytes : Nat) (v : W64) :
    s.writeStore f off bytes v = s.setFur f { s.fur f with pstore := tputs 0 (s.fur f).pstore off (toLe bytes v.toNat) } := by
  simp [State.writeStore, hz, Nat.not_le.mpr hf, hh, State.modFur]

@[simp] theorem bitOf_setBit_true_self {n i : Nat} (h : i < n) (w : BitVec n) : bitOf (setBit w i true) i = true := by
  simp [bitOf, setBit, h]

theorem bitOf_setBit_true {n : Nat} {w : BitVec n} {i : Nat} (h : bitOf w i = true) (j : Nat) : bitOf (setBit w j true) i = true := by
  simp only [bitOf] at h
  simp [bitOf, setBit, h]

/-- The fault ring leaves the debug master's state, and clears no sticky bit (R332). -/
theorem State.ringRecord_dc (code : Nat) (source : W16) (p0 p1 p2 lev : Nat) :
    (s.ringRecord code source p0 p1 p2 lev).dc.debugFrozen = s.dc.debugFrozen ∧
    ∀ i, bitOf s.dc.sticky i = true → bitOf (s.ringRecord code source p0 p1 p2 lev).dc.sticky i = true := by
  unfold State.ringRecord
  dsimp only
  split
  · split
    · exact ⟨rfl, fun _ h => h⟩
    · exact ⟨rfl, fun _ h => bitOf_setBit_true h 36⟩
  · exact ⟨rfl, fun _ h => h⟩

theorem State.faultRecord_dc (code : Nat) (source : W16) (p0 p1 p2 lev : Nat) :
    (s.faultRecord code source p0 p1 p2 lev).dc = (s.ringRecord code source p0 p1 p2 lev).dc := by
  obtain ⟨g, e⟩ := (s.ringRecord code source p0 p1 p2 lev).offer_changes code source p0 p1 p2
  unfold State.faultRecord
  rw [e]

theorem State.faultRecord_furs (code : Nat) (source : W16) (p0 p1 p2 lev : Nat) :
    (s.faultRecord code source p0 p1 p2 lev).furs = s.furs := by
  obtain ⟨m, b, c, g, e⟩ := s.faultRecord_changes code source p0 p1 p2 lev
  rw [e]

/-- A debug write into a held segment writes nothing and freezes the debug master (R92). -/
theorem State.writeStore_of_held {f : Fur} {off : Nat} (hz : s.dc.debugFrozen = false) (hf : f.val < s.build.furrows)
    (hh : bitOf (s.fur f).heldSegs (off / 32768) = true) (bytes : Nat) (v : W64) :
    (s.writeStore f off bytes v).dc.debugFrozen = true ∧ bitOf (s.writeStore f off bytes v).dc.sticky 35 = true ∧
      (s.writeStore f off bytes v).furs = s.furs := by
  have refused : s.writeStore f off bytes v =
      ({ s with dc := { s.dc with debugFrozen := true, sticky := setBit s.dc.sticky 35 true } } : State).faultRecord 0x0107 srcDebug 0 off
        (s.fur f).heldSegs.toNat (levByte 1 false false) := by
    simp [State.writeStore, hz, Nat.not_le.mpr hf, hh]
  rw [refused, State.faultRecord_dc, State.faultRecord_furs]
  obtain ⟨frozen, sticky⟩ := State.ringRecord_dc
    { s with dc := { s.dc with debugFrozen := true, sticky := setBit s.dc.sticky 35 true } } 0x0107 srcDebug 0 off
      (s.fur f).heldSegs.toNat (levByte 1 false false)
  exact ⟨frozen, sticky 35 (bitOf_setBit_true_self (by decide) _), rfl⟩

end

/-! ### The statement -/

/-- Settles O55: each clause is the equation of its command under the clause's conditions. -/
theorem registersAndObservation : Obligations.RegistersAndObservation := by
  unfold Obligations.RegistersAndObservation
  intro f off addr bytes wide write v s
  refine ⟨?writes, ?refused, ?store⟩
  case writes =>
    intro h
    refine ⟨?registers, ?clears, ?probe, ?capture, ?pstore⟩
    case registers =>
      obtain ⟨dcSticky, frHead, policy, glSticky, imask, msSticky⟩ := exec_registerWrite_registers s h v
      exact ⟨dcSticky, frHead, policy, glSticky, imask, msSticky, fun a ha hm => exec_registerWrite_ft s h ha hm v,
        fun hf => exec_registerWrite_furrow s h f hf v⟩
    case clears =>
      exact fun hi => ⟨exec_clearF_none_lost s h hi, exec_clearI_none_lost s h hi, exec_clearF_lost s h hi⟩
    case probe =>
      intro ho
      rw [exec_probeCtrlWrite_open s h ho]
      exact ⟨fun hv => congrArg _ (s.writeProbeCtrl_off hv), fun hv hm => congrArg _ (s.writeProbeCtrl_on hv hm)⟩
    case capture =>
      intro ho
      rw [exec_captureHold_open s h ho, exec_captureRelease_open s h ho, exec_captureSelect_open s h ho]
      exact ⟨fun hh => congrArg _ (s.beginHold_of_released hh),
        fun hh => ⟨congrArg _ (s.beginHold_of_held hh), congrArg _ (s.releaseHold_of_held hh 1)⟩,
        fun hh => congrArg _ (s.releaseHold_of_released hh 1),
        fun _ hf hs hb => ⟨_, rfl, s.selectCapture_of_still hf hs hb⟩⟩
    case pstore =>
      intro n ho ha hz hf
      rw [exec_debugPstoreWrite_open s h ho f ha]
      exact ⟨fun hh => congrArg _ (s.writeStore_of_free hz hf hh n v), fun hh => ⟨_, rfl, s.writeStore_of_held hz hf hh n v⟩⟩
  case refused =>
    exact fun hr hd => ⟨fun hg => exec_badRegisterAccess_running s hr hd hg write,
      fun _ hreg hc => exec_debugWindowRefused_read s hr hd hreg hc⟩
  case store =>
    exact fun hr hb _ _ hi => ⟨exec_gleanerStore_fault s hr hb hi, exec_gleanerStore_info s hr hb hi,
      exec_gleanerStore_fault_full s hr hb hi⟩

end Sys2Proof.Machine
end

section
/-! PROOFS. Rows on the relay: RELAY_SEND, RELAY_ARRIVE and RELAY_WRITE (R26, R146, R147). -/

namespace Sys2Proof.Machine

/-! ### Lists and runs of bytes -/

/-- A change of one element that a test does not see leaves what the test finds. -/
theorem any_mapFirst {α : Type} (p q : α → Bool) (g : α → α) (h : ∀ a, q (g a) = q a) (l : List α) :
    (mapFirst p g l).any q = l.any q := by
  induction l with
  | nil => rfl
  | cons a r ih =>
    unfold mapFirst
    split
    · simp [h]
    · simp [ih]

/-- A run that has just been written reads back. -/
theorem tgets_tputs_self {α : Type} [DecidableEq α] (d : α) (vs : List α) :
    ∀ (t : Tab α) (k : Nat), twf d t = true → tgets d (tputs d t k vs) k vs.length = vs := by
  induction vs with
  | nil => exact fun _ _ _ => rfl
  | cons v r ih =>
    intro t k h
    have first := tget_tputs_in d (v :: r) t k 0 h (by simp)
    have rest := ih (tset d t k v) (k + 1) (twf_tset d v t k h)
    simp only [Nat.add_zero, List.getD_cons_zero] at first
    simp only [List.length_cons, tgets, first]
    exact congrArg (v :: ·) rest

/-- The one drill that passes a test is the one found among the eight of a furrow. -/
theorem find_domDrills_of_unique {p : DrillNo → Bool} {k : DrillNo} (hk : p k = true) (other : ∀ j, j ≠ k → p j = false) :
    (domDrills false 0).find? p = some k := by
  have all : ∀ j : DrillNo, j ∈ domDrills false 0 := by decide
  cases found : (domDrills false 0).find? p with
  | none => exact absurd hk (List.find?_eq_none.mp found k (all k))
  | some j =>
    have hj : p j = true := List.find?_some found
    by_contra ne
    exact absurd (other j fun e => ne (congrArg some e)) (by simp [hj])

/-- The sender of a furrow that has one is another furrow. -/
theorem furOf_pred_ne {f : Fur} (h : f.val ≠ 0) : furOf (f.val - 1) ≠ f := by
  intro e
  have v := congrArg Fin.val e
  simp only [furOf, Fin.val_ofNat] at v
  omega

section
variable (s : State) (f : Fur)

/-! ### RELAY_SEND and RELAY_ARRIVE (R146) -/

theorem State.relayRow_of_landed {k : DrillNo} {r : LandRow} (hr : (s.drill f k).landing.find? (fun r => !r.relayed) = some r)
    (hm : (s.drill f k).moving = true) (tee : (s.drill f k).mode.toNat % 2 = 1) (next : f.val + 1 < s.build.furrows)
    (took : (s.fur f).portTook k r = true) : s.relayRow f k = some r := by
  simp [State.relayRow, hr, hm, tee, next, took]

theorem exec_relaySend_room {k : DrillNo} {r : LandRow} (hr : s.relayRow f k = some r) (room : s.relayFull f = false)
    (hg : (s.fur f).gated = false) (hs : s.stopped = false) :
    exec (.relaySend f k) s = .next ((s.setFur f { s.fur f with relayOut := (s.fur f).relayOut ++ [(⟨r.bytes, r.poison⟩, s.uptime)] }).settleRow
      f k r.idx r.row (fun r => { r with relayed := true })) := by
  show execRelaySend f k s = _
  simp [execRelaySend, hr, room, hg, hs]

/-- A full receiver makes the drill wait. -/
theorem exec_relaySend_full (k : DrillNo) (full : s.relayFull f = true) : exec (.relaySend f k) s = .next s := by
  show execRelaySend f k s = _
  unfold execRelaySend
  split
  · rfl
  · simp [full]

theorem exec_relayArrive_early {r : RelayRow × W64} {rest : List (RelayRow × W64)} (hf : f.val ≠ 0)
    (hr : (s.fur (furOf (f.val - 1))).relayOut = r :: rest) (early : s.hopPassed (furOf (f.val - 1)) r.2 = false) :
    exec (.relayArrive f) s = .next s := by
  show execRelayArrive f s = _
  simp [execRelayArrive, hf, hr, early]

theorem exec_relayArrive_passed {r : RelayRow × W64} {rest : List (RelayRow × W64)} (hf : f.val ≠ 0) (hs : s.stopped = false)
    (hr : (s.fur (furOf (f.val - 1))).relayOut = r :: rest) (passed : s.hopPassed (furOf (f.val - 1)) r.2 = true) :
    exec (.relayArrive f) s = .next ((s.setFur (furOf (f.val - 1)) { s.fur (furOf (f.val - 1)) with relayOut := rest }).setFur f
      { s.fur f with relayIn := (s.fur f).relayIn ++ [r.1] }) := by
  show execRelayArrive f s = _
  simp [execRelayArrive, hf, hs, hr, passed, State.modFur, State.fur_setFur_ne s (furOf_pred_ne hf).symm]

/-! ### The agents that ask (R105) -/

/-- Noting who asks changes that list alone. -/
theorem State.noteAsks_changes : ∃ a, s.noteAsks f = s.setFur f { s.fur f with asks := a } := ⟨_, rfl⟩

theorem State.fur_noteAsks : ∃ a, (s.noteAsks f).fur f = { s.fur f with asks := a } := ⟨_, s.fur_setFur f _⟩

/-- Whether a transfer is served does not depend on who asks. -/
theorem State.served_noteAsks (t : Xfer) : (s.noteAsks f).served f t = s.served f t := by
  obtain ⟨a, e⟩ := s.noteAsks_changes f
  rw [e]
  unfold State.served State.portFree State.bankHeld
  rw [State.fur_setFur]
  rfl

/-- A port with no transfer in progress serves one into a row that is awake, in a bank that serves, if its check passes. -/
theorem State.served_of_idle_port {t : Xfer} (idle : (s.fur f).xfers = []) (bank : s.bankHeld f t.addr = false)
    (awake : (s.fur f).asleep (t.addr / 512) = false) (check : (s.fur f).sCheck (t.addr / 512) t.write t.tag t.ring = true) :
    s.served f t = true := by
  simp [State.served, State.portFree, Furrow.bankBusy, idle, bank, awake, check]

end

section
variable (z : Furrow)

/-! ### The RECV drill and its next transfer (R147) -/

/-- The block that takes relay rows is one of its drill's. -/
theorem Furrow.mem_blocks_of_recvDrill {k : DrillNo} {b : Block} (h : z.recvDrill = some (k, b)) : b ∈ (z.drill k).blocks := by
  simp only [Furrow.recvDrill, Option.bind_eq_some_iff, Option.map_eq_some_iff] at h
  obtain ⟨_, -, _, block, rfl, rfl⟩ := h
  exact List.mem_of_find?_eq_some block

/-- The transfer of relay row `r` into the row that block `b` comes to next. -/
def Furrow.relayXfer (r : RelayRow) (b : Block) : Xfer :=
  ⟨.relay, (z.spRow b.desc b.begun true).1 * 512, r.bytes.length, true, b.desc.tag, (z.spRow b.desc b.begun true).2, r.bytes, r.poison,
    b.idx, b.begun, false⟩

theorem Furrow.relayXfer_row (r : RelayRow) (b : Block) : (z.relayXfer r b).addr / 512 = (z.spRow b.desc b.begun true).1 :=
  Nat.mul_div_cancel _ (by decide)

/-- The relay input asks for its oldest row, once a RECV_TEE drill has handed every row before it to the relay output. -/
theorem Furrow.relayNext_of_recvDrill {k : DrillNo} {b : Block} {r : RelayRow} {rest : List RelayRow} (hi : z.relayIn = r :: rest)
    (hd : z.recvDrill = some (k, b)) (idle : z.xfers = [])
    (mode : (z.drill k).mode = 2 ∨ ((z.drill k).mode = 3 ∧ ∀ q ∈ (z.drill k).landing, q.relayed = true)) :
    z.relayNext = some (z.relayXfer r b) := by
  have takes : (z.drill k).mode = 3 → ∀ q ∈ (z.drill k).landing, q.relayed = true := by
    rcases mode with recv | ⟨_, relayed⟩
    · exact fun tee => absurd (recv.symm.trans tee) (by decide)
    · exact fun _ => relayed
  simpa [Furrow.relayNext, hi, hd, Furrow.xferOf, idle, Furrow.relayXfer] using takes

/-! ### The beginning and the end of its transfer -/

/-- The furrow once the relay input's transfer has begun. -/
def Furrow.relayBegun (k : DrillNo) (t : Xfer) : Furrow :=
  ({ z.sBegin t with relayIn := z.relayIn.drop 1 }).setDrill k { z.drill k with
    blocks := mapFirst (fun c => c.idx == t.idx) (fun c => { c with begun := c.begun + 1, landed := c.landed + 1 }) (z.drill k).blocks }

theorem State.relayBegins_eq (s : State) (f : Fur) (k : DrillNo) (t : Xfer) :
    s.relayBegins f k t = s.setFur f ((s.fur f).relayBegun k t) := by
  simp only [State.relayBegins, State.modFur, State.modDrill, State.setDrill, State.drill, State.fur_setFur, State.setFur_setFur]
  rfl

/-- A write transfer that begins on an idle port is the one in progress there. -/
theorem Furrow.relayBegun_xfers {t : Xfer} (k : DrillNo) (idle : z.xfers = []) (hw : t.write = true) : (z.relayBegun k t).xfers = [t] := by
  simp [Furrow.relayBegun, Furrow.setDrill, Furrow.sBegin, idle, hw]

/-- No port-W write of an earlier tick to the row is left. -/
theorem Furrow.relayBegun_wRow (k : DrillNo) (t : Xfer) : (z.relayBegun k t).wRow (t.addr / 512) = none := by
  simp [Furrow.relayBegun, Furrow.setDrill, Furrow.sBegin, Furrow.wRow]

/-- The drill keeps its mode, its landed rows and its count of rows. -/
theorem Furrow.relayBegun_drill (k : DrillNo) (t : Xfer) : ∃ bs, (z.relayBegun k t).drill k = { z.drill k with blocks := bs } ∧
    ∀ i, bs.any (fun b : Block => b.idx == i) = (z.drill k).blocks.any (fun b => b.idx == i) :=
  ⟨_, Furrow.drill_setDrill _ _ _, fun i => by
    refine any_mapFirst _ (fun b : Block => b.idx == i) _ ?_ _
    exact fun _ => rfl⟩

theorem Furrow.relayBegun_drill_ne {k j : DrillNo} (t : Xfer) (h : j ≠ k) : (z.relayBegun k t).drill j = z.drill j :=
  Furrow.drill_setDrill_ne _ h _

/-- The end of a write transfer into a row that is awake and free of port W puts its bytes there, and changes of the rest of the furrow
only the row's TAG and POISON, the transfers and the rings (R106, R111, R115). -/
theorem Furrow.sWrite_changes {t : Xfer} (free : z.wRow (t.addr / 512) = none) (awake : z.asleep (t.addr / 512) = false) :
    ∃ full poison rings, z.sWrite t = { z with data := tputs 0 z.data t.addr t.bytes, full := full, poison := poison, rings := rings
                                               xfers := eraseFirst (fun u => u.agent == t.agent) z.xfers } := by
  unfold Furrow.sWrite Furrow.writeRow
  simp only [free, awake, Bool.false_eq_true, if_false]
  split
  · exact ⟨_, _, z.rings, rfl⟩
  · exact ⟨_, _, _, rfl⟩

end

section
variable (s : State) (f : Fur)

/-- No port-W write meets the transfer, so none is counted (R110). -/
theorem State.portWrite_of_free {t : Xfer} (free : (s.fur f).wRow (t.addr / 512) = none) :
    s.portWrite f t = s.setFur f ((s.fur f).sWrite t) := by
  simp [State.portWrite, State.swClash, free, State.modFur]

/-! ### A row that has moved (R136, R137) -/

/-- State `t` is `s` but for its segment references and drill `k` of furrow `f`, which counts `rows` rows and holds `landing`. -/
def State.OnlyDrill (s t : State) (f : Fur) (k : DrillNo) (rows : W64) (landing : List LandRow) : Prop :=
  ∃ x g, t = { s.setDrill f k x with segs := g } ∧ x.rows = rows ∧ x.landing = landing

theorem State.setDrill_self (k : DrillNo) : s.setDrill f k (s.drill f k) = s := by
  have drills : (s.fur f).setDrill k (s.drill f k) = s.fur f :=
    congrArg (fun d => { s.fur f with drills := d }) (Vector.set_getElem_self _)
  unfold State.setDrill
  rw [drills]
  exact congrArg (fun u => { s with furs := u }) (Vector.set_getElem_self _)

theorem State.onlyDrill_setDrill (k : DrillNo) (x : Drill) : s.OnlyDrill (s.setDrill f k x) f k x.rows x.landing :=
  ⟨x, s.segs, rfl, rfl, rfl⟩

theorem State.onlyDrill_unrefSegs {s t : State} {f : Fur} {k : DrillNo} {rows : W64} {landing : List LandRow}
    (h : s.OnlyDrill t f k rows landing) (is : List Nat) : s.OnlyDrill (t.unrefSegs is) f k rows landing := by
  obtain ⟨x, _, rfl, hr, hl⟩ := h
  obtain ⟨g, e⟩ := State.unrefSegs_changes is { s.setDrill f k x with segs := _ }
  exact ⟨x, g, e, hr, hl⟩

theorem State.OnlyDrill.drill {s t : State} {f : Fur} {k : DrillNo} {rows : W64} {landing : List LandRow}
    (h : s.OnlyDrill t f k rows landing) : (t.drill f k).rows = rows ∧ (t.drill f k).landing = landing := by
  obtain ⟨x, g, rfl, hr, hl⟩ := h
  have e : State.drill { s.setDrill f k x with segs := g } f k = x := s.drill_setDrill f k x
  rw [e]
  exact ⟨hr, hl⟩

theorem State.OnlyDrill.fur {s t : State} {f : Fur} {k : DrillNo} {rows : W64} {landing : List LandRow}
    (h : s.OnlyDrill t f k rows landing) : ∃ x, t.fur f = (s.fur f).setDrill k x := by
  obtain ⟨x, g, rfl, -, -⟩ := h
  exact ⟨x, s.fur_setFur f _⟩

theorem State.OnlyDrill.trans {s t u : State} {f : Fur} {k : DrillNo} {rows rows' : W64} {landing landing' : List LandRow}
    (h : s.OnlyDrill t f k rows landing) (h' : t.OnlyDrill u f k rows' landing') : s.OnlyDrill u f k rows' landing' := by
  obtain ⟨x, g, rfl, -, -⟩ := h
  obtain ⟨y, g', rfl, hr, hl⟩ := h'
  refine ⟨y, g', ?_, hr, hl⟩
  simp [State.setDrill, State.setFur, State.fur, Furrow.setDrill]

theorem State.onlyDrill_dropBlocks (k : DrillNo) :
    s.OnlyDrill (s.dropBlocks f k) f k (s.drill f k).rows (s.drill f k).landing :=
  State.onlyDrill_unrefSegs (s.onlyDrill_setDrill f k { s.drill f k with blocks := _ }) _

theorem State.onlyDrill_beginStop (k : DrillNo) :
    s.OnlyDrill (s.beginStop f k) f k (s.drill f k).rows (s.drill f k).landing := by
  unfold State.beginStop
  dsimp only
  split
  · exact State.onlyDrill_unrefSegs (s.onlyDrill_setDrill f k { s.drill f k with st := .stopping, blocks := _ }) _
  · simpa only [s.setDrill_self f k] using s.onlyDrill_setDrill f k (s.drill f k)

/-- A row that has moved is counted; its block may end, and the drill may stop, but the landed rows stay. -/
theorem State.onlyDrill_rowMoved (k : DrillNo) (idx : Nat) (poison : Bool) :
    s.OnlyDrill (s.rowMoved f k idx poison) f k ((s.drill f k).rows + 1) (s.drill f k).landing := by
  have counted : ∀ x : Drill, s.OnlyDrill ((s.setDrill f k x).dropBlocks f k) f k x.rows x.landing := fun x => by
    simpa only [State.drill_setDrill] using (s.onlyDrill_setDrill f k x).trans (State.onlyDrill_dropBlocks _ f k)
  have stopped : ∀ x : Drill, s.OnlyDrill (((s.setDrill f k x).dropBlocks f k).beginStop f k) f k x.rows x.landing := fun x => by
    simpa only [(counted x).drill] using (counted x).trans (State.onlyDrill_beginStop _ f k)
  unfold State.rowMoved
  dsimp only
  split
  · exact stopped { s.drill f k with rows := (s.drill f k).rows + 1, blocks := _, listRows := _, listPois := _, poisoned := _ }
  · exact counted { s.drill f k with rows := (s.drill f k).rows + 1, blocks := _, listRows := _, listPois := _, poisoned := _ }

/-! ### RELAY_WRITE (R147) -/

theorem State.tryXfer_relay {k : DrillNo} {b : Block} {t : Xfer} (hd : (s.fur f).recvDrill = some (k, b)) (agent : t.agent = .relay)
    (awake : (s.fur f).asleep (t.addr / 512) = false) (served : s.served f t = true) (turn : s.turn f t = true) :
    s.tryXfer f t = (s.setFur f ((s.fur f).relayBegun k t)).noteAsks f := by
  simp [State.tryXfer, State.beginXfer, awake, served, turn, agent, hd, State.relayBegins_eq]

/-- The relay input's transfer begins at its turn. -/
theorem State.fur_portAsk_relay {k : DrillNo} {b : Block} {t : Xfer} (asked : (s.fur f).relayNext = some t)
    (hd : (s.fur f).recvDrill = some (k, b)) (agent : t.agent = .relay) (awake : (s.fur f).asleep (t.addr / 512) = false)
    (served : s.served f t = true) (turn : (s.noteAsks f).turn f t = true) :
    ∃ a, (s.portAsk f .relay).fur f = { (s.fur f).relayBegun k t with asks := a } := by
  obtain ⟨a, noted⟩ := s.fur_noteAsks f
  have next : (s.noteAsks f).xferNext f .relay = some t := by
    unfold State.xferNext
    rw [noted]
    exact asked
  have begins := (s.noteAsks f).tryXfer_relay f (k := k) (b := b) (by rw [noted]; exact hd) agent (by rw [noted]; exact awake)
    ((s.served_noteAsks f t).trans served) turn
  obtain ⟨a', noted'⟩ := State.fur_noteAsks ((s.noteAsks f).setFur f (((s.noteAsks f).fur f).relayBegun k t)) f
  refine ⟨a', ?_⟩
  unfold State.portAsk
  simp only [next]
  rw [begins, noted', State.fur_setFur, noted]
  rfl

/-- The relay input's transfer `t` is the one in progress on port S of furrow `f`, into a row that is awake and that port W does not write, and
`k` is the one drill that takes rows from the relay and has its block. -/
structure State.RelayWriting (s : State) (f : Fur) (k : DrillNo) (t : Xfer) : Prop where
  agent : t.agent = .relay
  alone : (s.fur f).xfers = [t]
  free : (s.fur f).wRow (t.addr / 512) = none
  awake : (s.fur f).asleep (t.addr / 512) = false
  recv : (s.drill f k).isRecv = true
  block : (s.drill f k).blocks.any (fun b => b.idx == t.idx) = true
  other : ∀ j, j ≠ k → (s.drill f j).isRecv = false

/-- Who asks is no matter of the drills. -/
theorem State.drill_of_begun {s' : State} {f : Fur} {y : Furrow} {a : List Agent} (begun : s'.fur f = { y with asks := a }) (j : DrillNo) :
    s'.drill f j = y.drill j := by
  unfold State.drill
  rw [begun]
  rfl

/-- What begins on an idle port is in progress there, in the drill that asked. -/
theorem State.relayWriting_of_begun {s s' : State} {f : Fur} {k : DrillNo} {b : Block} {t : Xfer} {a : List Agent}
    (begun : s'.fur f = { (s.fur f).relayBegun k t with asks := a }) (agent : t.agent = .relay) (hw : t.write = true)
    (idle : (s.fur f).xfers = []) (awake : (s.fur f).asleep (t.addr / 512) = false) (recv : (s.drill f k).isRecv = true)
    (hb : b ∈ (s.drill f k).blocks) (idx : b.idx = t.idx) (other : ∀ j, j ≠ k → (s.drill f j).isRecv = false) :
    s'.RelayWriting f k t := by
  obtain ⟨bs, drill, sameBlocks⟩ := (s.fur f).relayBegun_drill k t
  have drills := State.drill_of_begun begun
  refine { agent := agent, alone := ?_, free := ?_, awake := ?_, recv := ?_, block := ?_, other := fun j ne => ?_ }
  · rw [begun]
    exact (s.fur f).relayBegun_xfers k idle hw
  · rw [begun]
    exact (s.fur f).relayBegun_wRow k t
  · rw [begun]
    exact awake
  · rw [drills, drill]
    exact recv
  · rw [drills, drill]
    exact (sameBlocks t.idx).trans (List.any_eq_true.mpr ⟨b, hb, beq_iff_eq.mpr idx⟩)
  · rw [drills, (s.fur f).relayBegun_drill_ne t ne]
    exact other j ne

end

section
variable {s : State} {f : Fur} {k : DrillNo} {t : Xfer}

/-- The relay input's transfer ends at that drill. -/
theorem State.RelayWriting.relayCommit (h : s.RelayWriting f k t) :
    s.relayCommit f = if (s.drill f k).mode = 3 then
        (s.portWrite f t).modDrill f k (fun z => { z with landing := z.landing ++ [⟨t.idx, t.row, t.bytes, t.poison, true, false⟩] })
      else (s.portWrite f t).rowMoved f k t.idx t.poison := by
  have oldest : (s.fur f).xferOf .relay = some t := by simp [Furrow.xferOf, h.alone, h.agent]
  have found : (domDrills false 0).find? (fun j => ((s.fur f).drill j).isRecv && ((s.fur f).drill j).blocks.any (fun b => b.idx == t.idx)) =
      some k := by
    refine find_domDrills_of_unique ?_ fun j ne => ?_
    · exact Bool.and_eq_true_iff.mpr ⟨h.recv, h.block⟩
    · exact Bool.and_eq_false_imp.mpr fun recv => absurd recv (by simpa [State.drill] using h.other j ne)
  unfold State.relayCommit
  simp only [oldest, found, h.awake, Bool.false_eq_true, if_false]
  rfl

theorem State.RelayWriting.drill_portWrite (h : s.RelayWriting f k t) : (s.portWrite f t).drill f k = s.drill f k := by
  obtain ⟨_, _, _, e⟩ := (s.fur f).sWrite_changes h.free h.awake
  rw [s.portWrite_of_free f h.free]
  unfold State.drill
  rw [State.fur_setFur, e]
  rfl

theorem State.RelayWriting.fur_portWrite (h : s.RelayWriting f k t) :
    ((s.portWrite f t).fur f).relayIn = (s.fur f).relayIn ∧ ((s.portWrite f t).fur f).xfers = [] ∧
      ((s.portWrite f t).fur f).data = tputs 0 (s.fur f).data t.addr t.bytes := by
  obtain ⟨_, _, _, e⟩ := (s.fur f).sWrite_changes h.free h.awake
  rw [s.portWrite_of_free f h.free, State.fur_setFur, e]
  simp [h.alone, eraseFirst]

/-- For a RECV drill its row counts as moved. -/
theorem State.RelayWriting.onlyDrill_recv (h : s.RelayWriting f k t) (mode : (s.drill f k).mode = 2) :
    (s.portWrite f t).OnlyDrill (s.relayCommit f) f k ((s.drill f k).rows + 1) (s.drill f k).landing := by
  have moved := (s.portWrite f t).onlyDrill_rowMoved f k t.idx t.poison
  rw [h.drill_portWrite] at moved
  rw [h.relayCommit, if_neg (by simp [mode])]
  exact moved

/-- For a RECV_TEE drill its row is the relay output's to take (R146). -/
theorem State.RelayWriting.onlyDrill_tee (h : s.RelayWriting f k t) (mode : (s.drill f k).mode = 3) :
    (s.portWrite f t).OnlyDrill (s.relayCommit f) f k (s.drill f k).rows
      ((s.drill f k).landing ++ [⟨t.idx, t.row, t.bytes, t.poison, true, false⟩]) := by
  rw [h.relayCommit, if_pos mode, State.modDrill, h.drill_portWrite]
  exact (s.portWrite f t).onlyDrill_setDrill f k { s.drill f k with landing := _ }

/-- A change of one drill, and the note of who asks, leave the relay's buffer, the transfers and the scratchpad as the write left them. -/
theorem State.OnlyDrill.noteAsks {t : State} {rows : W64} {landing : List LandRow} (h : s.OnlyDrill t f k rows landing) :
    ((t.noteAsks f).fur f).relayIn = (s.fur f).relayIn ∧ ((t.noteAsks f).fur f).xfers = (s.fur f).xfers ∧
      ((t.noteAsks f).fur f).data = (s.fur f).data ∧ ((t.noteAsks f).drill f k).rows = rows ∧
      ((t.noteAsks f).drill f k).landing = landing := by
  obtain ⟨x, fur⟩ := h.fur
  obtain ⟨hr, hl⟩ := h.drill
  obtain ⟨a, noted⟩ := t.fur_noteAsks f
  have drill : (t.noteAsks f).drill f k = t.drill f k := by
    unfold State.drill
    rw [noted]
    rfl
  rw [drill, noted, fur]
  exact ⟨rfl, rfl, rfl, hr, hl⟩

/-- The furrow once the transfer has ended: its bytes are in the scratchpad, and none is in progress. -/
theorem State.RelayWriting.committed (h : s.RelayWriting f k t) {rows : W64} {landing : List LandRow}
    (commits : (s.portWrite f t).OnlyDrill (s.relayCommit f) f k rows landing) {u : State} (hu : u = (s.relayCommit f).noteAsks f) :
    (u.fur f).relayIn = (s.fur f).relayIn ∧ (u.fur f).xfers = [] ∧ (u.fur f).data = tputs 0 (s.fur f).data t.addr t.bytes ∧
      (u.drill f k).rows = rows ∧ (u.drill f k).landing = landing := by
  obtain ⟨relayIn, xfers, data⟩ := h.fur_portWrite
  obtain ⟨relayIn', xfers', data', counted⟩ := commits.noteAsks
  rw [hu]
  exact ⟨relayIn'.trans relayIn, xfers'.trans xfers, data'.trans data, counted⟩

end

section
variable (s : State) (f : Fur)

/-- RELAY_WRITE asks, and ends what it has begun. -/
theorem exec_relayWrite_running (hs : s.stopped = false) :
    exec (.relayWrite f) s = .next (((s.portAsk f .relay).relayCommit f).noteAsks f) := by
  show execRelayWrite f s = _
  simp [execRelayWrite, hs]

/-- A relay row that has its turn is written in one RELAY_WRITE (R147). -/
theorem exec_relayWrite_written {k : DrillNo} {b : Block} {r : RelayRow} {rest : List RelayRow} {t : Xfer}
    (ht : t = (s.fur f).relayXfer r b) (hs : s.stopped = false)
    (hi : (s.fur f).relayIn = r :: rest) (hd : (s.fur f).recvDrill = some (k, b)) (idle : (s.fur f).xfers = [])
    (other : ∀ j, j ≠ k → (s.drill f j).isRecv = false)
    (mode : (s.drill f k).mode = 2 ∨ ((s.drill f k).mode = 3 ∧ ∀ q ∈ (s.drill f k).landing, q.relayed = true))
    (awake : (s.fur f).asleep (t.addr / 512) = false) (served : s.served f t = true) (turn : (s.noteAsks f).turn f t = true) :
    ∃ u, exec (.relayWrite f) s = .next u ∧ (u.fur f).relayIn = rest ∧ (u.fur f).xfers = [] ∧
      (u.fur f).data = tputs 0 (s.fur f).data t.addr r.bytes ∧
      ((s.drill f k).mode = 2 → (u.drill f k).rows = (s.drill f k).rows + 1 ∧ (u.drill f k).landing = (s.drill f k).landing) ∧
      ((s.drill f k).mode = 3 → (u.drill f k).rows = (s.drill f k).rows ∧
        (u.drill f k).landing = (s.drill f k).landing ++ [⟨b.idx, b.begun, r.bytes, r.poison, true, false⟩]) := by
  have recv : (s.drill f k).isRecv = true := by
    rcases mode with h | ⟨h, -⟩
    · simp [Drill.isRecv, h]
    · simp [Drill.isRecv, h]
  have asked : (s.fur f).relayNext = some t := ht ▸ (s.fur f).relayNext_of_recvDrill hi hd idle mode
  obtain ⟨a, begun⟩ := s.fur_portAsk_relay f asked hd (ht ▸ rfl) awake served turn
  have writing : (s.portAsk f .relay).RelayWriting f k t := State.relayWriting_of_begun begun (ht ▸ rfl) (ht ▸ rfl) idle awake recv
    ((s.fur f).mem_blocks_of_recvDrill hd) (ht ▸ rfl) other
  obtain ⟨bs, drill, -⟩ := (s.fur f).relayBegun_drill k t
  have kept : (s.portAsk f .relay).drill f k = { s.drill f k with blocks := bs } := (State.drill_of_begun begun k).trans drill
  have relayIn : ((s.portAsk f .relay).fur f).relayIn = rest := by
    rw [begun]
    exact congrArg (List.drop 1) hi
  have data : tputs 0 ((s.portAsk f .relay).fur f).data t.addr t.bytes = tputs 0 (s.fur f).data t.addr r.bytes := by
    rw [begun, ht]
    rfl
  refine ⟨_, exec_relayWrite_running s f hs, ?_⟩
  rcases mode with mode | ⟨mode, -⟩
  · obtain ⟨in', idle', data', counted⟩ := writing.committed (writing.onlyDrill_recv (by rw [kept]; exact mode)) rfl
    rw [kept] at counted
    exact ⟨in'.trans relayIn, idle', data'.trans data, fun _ => counted, fun tee => absurd (mode.symm.trans tee) (by decide)⟩
  · obtain ⟨in', idle', data', held⟩ := writing.committed (writing.onlyDrill_tee (by rw [kept]; exact mode)) rfl
    rw [kept, ht] at held
    exact ⟨in'.trans relayIn, idle', data'.trans data, fun recv => absurd (recv.symm.trans mode) (by decide), fun _ => held⟩

end

/-! ### The statement -/

/-- Settles O41: a row is sent, arrives and is written by the equations of the three commands; the write follows the transfer from its turn at
port S to its end within the one command. -/
theorem relayRows : Obligations.RelayRows := by
  unfold Obligations.RelayRows
  intro f k s z x hs
  refine ⟨?send, ?waits, ?arrive, ?write⟩
  case send =>
    intro r hr hm tee next hg took room
    exact exec_relaySend_room s f (s.relayRow_of_landed f hr hm tee next took)
      (decide_eq_false (Nat.not_le.mpr room)) hg hs
  case waits =>
    exact fun full => exec_relaySend_full s f k (decide_eq_true full)
  case arrive =>
    intro r rest hf hr hop
    refine ⟨fun early => exec_relayArrive_early s f hf hr (decide_eq_false early), fun passed => ?_⟩
    have ne := furOf_pred_ne hf
    refine ⟨_, exec_relayArrive_passed s f hf hs hr (decide_eq_true passed), ?_, ?_, ?_, fun g hgf hgp => ?_⟩
    · rw [State.fur_setFur]
    · rw [State.fur_setFur_ne _ ne, State.fur_setFur]
    · rw [State.fur_setFur]
    · rw [State.fur_setFur_ne _ hgf, State.fur_setFur_ne _ hgp]
  case write =>
    intro r rest b hi hd idle other mode canonical p free t bank awake check turn
    have row : t.addr / 512 = p.1 := z.relayXfer_row r b
    have served : s.served f t = true :=
      s.served_of_idle_port f idle bank (row ▸ awake) (row ▸ check)
    obtain ⟨u, written, relayIn, xfers, data, recv, tee⟩ :=
      exec_relayWrite_written s f rfl hs hi hd idle other mode (row ▸ awake) served turn
    refine ⟨u, written, relayIn, xfers, ?_, fun a out => ?_, recv, tee⟩
    · rw [data]
      exact tgets_tputs_self 0 _ _ _ canonical
    · rw [data]
      exact tget_tputs_out 0 _ _ _ _ canonical out

end Sys2Proof.Machine
end

section
/-! PROOFS. The values that block reset leaves (R395). -/
namespace Sys2Proof.Machine

/-! Every unit of a kind stands alike after reset. -/

@[simp] theorem reset_queue (q : QSlot) : State.reset.queue q = Queue.atReset := by
  simp [State.queue, State.reset, State.blank]

@[simp] theorem reset_ctx (c : CSlot) : State.reset.ctx c.val = ⟨0, false, []⟩ := by
  simp [State.ctx, vat, State.reset, State.blank]

@[simp] theorem reset_watch (k : Fin 256) : State.reset.watch k = Watch.free := by
  simp [State.watch, State.reset, State.blank]

@[simp] theorem reset_stackPort (k : StackNo) : State.reset.stackPorts[k] = StackPort.zero := by
  simp [State.reset, State.blank]

@[simp] theorem reset_port (p : PortNo) : (State.reset.port p).st = .disabled := by
  simp [State.port, State.reset, State.blank, Mesh.atReset, Port.atReset]

@[simp] theorem reset_fur (f : Fur) : State.reset.fur f = Furrow.atReset Build.reference.audit := by
  simp [State.fur, State.reset, State.blank]

@[simp] theorem Furrow.atReset_dom (audit : Bool) (d : Dom) : (Furrow.atReset audit).dom d = Domain.atReset .reset := by
  simp [Furrow.dom, Furrow.atReset]

@[simp] theorem Furrow.atReset_drill (audit : Bool) (k : DrillNo) : (Furrow.atReset audit).drill k = Drill.atReset := by
  simp [Furrow.drill, Furrow.atReset]

/-- Settles O3: the scalar registers of the block read off the reset state, its queues, contexts, ports and furrows through the lemma of
their kind. -/
theorem resetValues : Obligations.ResetValues := by
  unfold Obligations.ResetValues
  refine ⟨rfl, rfl, rfl, rfl, rfl, fun q => ?queue, fun c => ?ctx, fun k => ?watch, rfl, rfl, rfl, rfl, fun k => ?stack, rfl, rfl, rfl, rfl,
    reset_port, rfl, rfl, rfl, rfl, rfl, rfl, rfl, rfl, rfl, fun i => ⟨rfl, rfl⟩, fun f => ?furrow⟩
  case queue => rw [reset_queue]; exact ⟨rfl, rfl⟩
  case ctx => rw [reset_ctx]; exact ⟨rfl, rfl⟩
  case watch => rw [reset_watch]; rfl
  case stack => rw [reset_stackPort]; exact ⟨rfl, rfl⟩
  case furrow =>
    simp only [reset_fur, Furrow.atReset_dom, Furrow.atReset_drill]
    exact ⟨rfl, rfl, rfl, rfl, fun _ => rfl, fun _ => rfl, fun _ => rfl⟩

end Sys2Proof.Machine
end

section
/-! PROOFS. LDN, STN, VLD and VST (R66, R72). -/
namespace Sys2Proof.Machine

/-- One access that breaks no rule of R47 and R102 violates no half range. -/
theorem actsHalf_acc_of_no_fault {v : Env} {a : Acc} (h : accFault v a = none) : actsHalf v [.acc a] = none := by
  simp [actsHalf, accsHalf, h]

/-- A slot operation other than of the sequencer whose one act is an access that breaks no rule makes that access (R103). -/
theorem issues_access {c : Instr} {s : State} {f : Fur} {d : Dom} {o : SlotOp} {a : Acc} (hc : exec c s = .next (s.opBeat f d o))
    (h0 : o.slot ≠ 0) (ha : slotActs (s.env f d) (s.dom f d).rid (s.dom f d).pos none o = .ok [.acc a])
    (hf : accFault (s.env f d) a = none) : issues c s f d o [.acc a] :=
  issues_of c s f d o _ hc (fun h => absurd h h0) ha (actsHalf_acc_of_no_fault hf)

/-- The narrow access of slot 1 (R66). -/
theorem scaMem_of_resolve {v : Env} {op a : Nat} (h : v.resolve (nfld op 26 4) = .ok a) (write : Bool) (code : Nat) :
    scaMem v write code op = .ok [.acc ⟨1, code, 4, a, false, nfld op 23 3,
      if write then Use.store 0 (toLe 8 (v.x.sreg (opD op)).toNat) false else Use.ldn (opD op)⟩] := by
  simp [scaMem, h]

/-- The wide access of slot 9 (R72). -/
theorem hldActs_of_resolve {v : Env} {op a lo n : Nat} (hr : rowLanes v.h (nfld op 26 2) (nfld op 24 2) = some (lo, n))
    (h : v.resolve (nfld op 31 4) = .ok a) (code : Nat) :
    hldActs v code op = .ok [.acc ⟨9, code, 3, a, true, nfld op 28 3,
      if code = 0x90 then Use.vld (opD op) (nfld op 26 2) (nfld op 24 2)
      else
        let rb := rowOfLanes ((v.x.vreg (opD op)).vals lo n) (nfld op 26 2) (nfld op 24 2)
        Use.store rb.1 rb.2 ((v.x.vreg (opD op)).marks &&& segsOf lo n != 0)⟩] := by
  simp [hldActs, hr, h]

/-- Settles O9: each of the four is the beat of its slot, whose only act is its access. -/
theorem memoryOperations : Obligations.MemoryOperations := by
  unfold Obligations.MemoryOperations
  intro f d op s a n x acc
  refine ⟨?ldn, ?stn, fun lo k hr => ⟨?vld, ?vst⟩⟩
  case ldn =>
    exact fun h hf => issues_access rfl (Nat.succ_ne_zero _) (scaMem_of_resolve h false 0x21) hf
  case stn =>
    exact fun h hf => issues_access rfl (Nat.succ_ne_zero _) (scaMem_of_resolve h true 0x22) hf
  case vld =>
    exact fun h hf => issues_access rfl (Nat.succ_ne_zero _) (hldActs_of_resolve hr h 0x90) hf
  case vst =>
    exact fun h hf => issues_access rfl (Nat.succ_ne_zero _) (hldActs_of_resolve hr h 0x91) hf

end Sys2Proof.Machine
end

section
/-! PROOFS. The first step of an L2, an L3 and an L4, and the faults and requests that lead to one (R321 to R331). -/
namespace Sys2Proof.Machine

section
variable (s : State)

/-! ### Records of a fault or of a cycle change no recovery register -/

/-- The fault ring moves its own registers and its sticky bit alone (R332). -/
theorem State.ringRecord_dc_changes (code : Nat) (source : W16) (p0 p1 p2 lev : Nat) :
    ∃ tail lost sticky ring, (s.ringRecord code source p0 p1 p2 lev).dc =
      { s.dc with frTail := tail, frLost := lost, sticky := sticky, ringLost := ring } := by
  unfold State.ringRecord
  dsimp only
  split
  · split
    · exact ⟨_, _, _, _, rfl⟩
    · exact ⟨_, _, _, _, rfl⟩
  · exact ⟨_, _, _, _, rfl⟩

/-- A fault record changes the ring's own registers of DC, and no furrow. -/
theorem State.faultRecord_dc_changes (code : Nat) (source : W16) (p0 p1 p2 lev : Nat) :
    ∃ tail lost sticky ring, (s.faultRecord code source p0 p1 p2 lev).dc =
      { s.dc with frTail := tail, frLost := lost, sticky := sticky, ringLost := ring } := by
  rw [State.faultRecord_dc]
  exact s.ringRecord_dc_changes code source p0 p1 p2 lev

/-- Host memory alone is written, by any number of writes. -/
theorem State.hostWrites_changes {α : Type} (addr : State → α → Nat) (bytes : State → α → List Byte) (l : List α) :
    ∀ t : State, ∃ m b, l.foldl (fun u j => u.hostWr (addr u j) (bytes u j)) t = { t with hostMem := m, hostBad := b } := by
  induction l with
  | nil => exact fun t => ⟨_, _, rfl⟩
  | cons j r ih =>
    intro t
    obtain ⟨m, b, e⟩ := ih (t.hostWr (addr t j) (bytes t j))
    exact ⟨m, b, e⟩

/-- Ordering the fault ring's records of a cycle changes host memory and the note of those dropped (R334). -/
theorem State.ringOrdered_changes (t : State) :
    ∃ m b l, s.ringOrdered t = { t with hostMem := m, hostBad := b, dc := { t.dc with ringLost := l } } := by
  unfold State.ringOrdered
  dsimp only
  split
  · exact ⟨_, _, _, rfl⟩
  · obtain ⟨m, b, e⟩ := State.hostWrites_changes _ _ _ _
    exact ⟨m, b, _, e⟩

/-- Ordering the records of a cycle in the gleaner changes the gleaner alone (R369). -/
theorem State.ordered_changes (t : State) : ∃ g, s.ordered t = { t with gl := g } := by
  unfold State.ordered
  dsimp only
  split
  · exact ⟨_, rfl⟩
  · exact ⟨_, rfl⟩

/-- One dispatcher cycle orders its records, and changes nothing else (log 25). -/
theorem State.oneCycle_changes (t : State) :
    ∃ m b l g q, s.oneCycle t = { t with hostMem := m, hostBad := b, dc := { t.dc with ringLost := l }, gl := g, queues := q } := by
  obtain ⟨m, b, l, ring⟩ := s.ringOrdered_changes t
  obtain ⟨g, intake⟩ := s.ordered_changes (s.ringOrdered t)
  refine ⟨m, b, l, g, Vector.ofFn (fun q => s.queues[q].cycle t.queues[q]), ?_⟩
  unfold State.oneCycle
  rw [intake, ring]

/-! ### DC_LAST (R331) -/

/-- CODE of DC_LAST is that of the recovery noted. -/
theorem State.noteRecovery_last {level code fur : Nat} (hl : level < 2 ^ 32) (hc : code < 2 ^ 16) (hf : fur < 2 ^ 12) (sc : Scope)
    (esc req : Bool) : fld (s.noteRecovery level code sc fur esc req).dc.last 48 16 = code := by
  have scope : scopeCode sc ≤ 3 := by cases sc <;> decide
  have escaped : b2n esc ≤ 1 := by cases esc <;> decide
  have requested : b2n req ≤ 1 := by cases req <;> decide
  simp only [State.noteRecovery, fld, nfld, w64, at', BitVec.toNat_ofNat]
  split <;> omega

@[simp] theorem State.noteRecovery_faultN (level code : Nat) (sc : Scope) (fur : Nat) (esc req : Bool) :
    (s.noteRecovery level code sc fur esc req).dc.faultN.isSome = true := by
  simp only [State.noteRecovery]
  split <;> rfl

/-! ### Domains that a recovery stops (R327) -/

theorem Furrow.stopDoms_both (x : Furrow) (d : Dom) :
    ((x.stopDoms [0, 1]).dom d).st = if (x.dom d).st = .unused then .unused else .reset := by
  have stop : ∀ (y : Furrow) (e : Dom), ((if (y.dom e).st = .unused then y else
      y.setDom e { y.dom e with st := .reset, causes := 0, frozenSince := none }).dom d).st =
        if e = d then (if (y.dom d).st = .unused then .unused else .reset) else (y.dom d).st := by
    intro y e
    by_cases h : e = d
    · subst h
      by_cases hu : (y.dom e).st = .unused <;> simp [hu]
    · rw [if_neg h]
      split
      · rfl
      · rw [Furrow.dom_setDom_ne _ (Ne.symm h)]
  have two : d = 0 ∨ d = 1 := (Fin.forall_fin_two (p := fun e => e = 0 ∨ e = 1)).mpr ⟨.inl rfl, .inr rfl⟩ d
  unfold Furrow.stopDoms
  simp only [List.foldl_cons, List.foldl_nil, stop]
  rcases two with rfl | rfl <;> simp

theorem State.fur_stopAll (g : Fur) (f : Furrow → Furrow) : State.fur { s with furs := s.furs.map f } g = f (s.fur g) := by
  simp [State.fur]

end

/-! ### An L2 of a furrow -/

/-- State `t` is `s` once an L2 of furrow `f` for `code` has begun: its domains are in RESET, it is counted and shown, and FAULT_N is asserted
(R327, R331). -/
def State.L2Begun (s t : State) (f : Fur) (code : Nat) : Prop :=
  (∀ d : Dom, ((t.fur f).dom d).st = if ((s.fur f).dom d).st = .unused then .unused else .reset) ∧
  (∀ g : Fur, g ≠ f → t.fur g = s.fur g) ∧ bitOf t.dc.sticky (48 + f.val) = true ∧ t.dc.recovL2 = satInc s.dc.recovL2 ∧
  fld t.dc.last 48 16 = code ∧ t.dc.faultN.isSome = true ∧
  ∃ r ∈ t.dc.recovs, r.dom = .furrow f ∧ r.level = 2 ∧ r.code.toNat = code ∧ r.phase = 0 ∧ r.scope = .furrow

theorem State.startL2_begun {s : State} {f : Fur} (few : s.l2Running < 2) {i : FaultInfo} (hc : i.code < 2 ^ 16) (req byDebug : Bool) :
    s.L2Begun (s.startL2 (.furrow f) i false req byDebug) f i.code := by
  have few' : (decide (2 ≤ s.l2Running) && !byDebug) = false := by simp [Nat.not_le.mpr few]
  obtain ⟨tail, lost, sticky, ring, dc⟩ := s.faultRecord_dc_changes i.code i.source i.p0 i.p1 i.p2 (levByte 2 false req)
  have fur : ∀ g, (s.faultRecord i.code i.source i.p0 i.p1 i.p2 (levByte 2 false req)).fur g = s.fur g := fun g =>
    congrArg (fun v : Vector Furrow 16 => v[g]) (s.faultRecord_furs i.code i.source i.p0 i.p1 i.p2 (levByte 2 false req))
  have hf : furOf f.val = f := Fin.ofNat_val_eq_self f
  unfold State.startL2
  simp only [few', Bool.false_eq_true, if_false, State.scopeOf, hf, scopeDoms]
  generalize s.faultRecord i.code i.source i.p0 i.p1 i.p2 (levByte 2 false req) = s1 at dc fur
  have last := s1.noteRecovery_last (level := 2) (by decide) hc (Nat.lt_trans f.isLt (by decide)) .furrow false req
  have asserted := s1.noteRecovery_faultN 2 i.code .furrow f.val false req
  refine ⟨fun d => ?doms, fun g hg => ?others, ?sticky, ?count, last, asserted, ?recov⟩
  case doms =>
    rw [State.modFur, State.fur_setFur, Furrow.stopDoms_both]
    exact congrArg (fun x : Furrow => if (x.dom d).st = .unused then DomState.unused else .reset) (fur f)
  case others =>
    rw [State.modFur, State.fur_setFur_ne _ hg]
    exact fur g
  case sticky =>
    exact bitOf_setBit_true_self (by omega) _
  case count =>
    show satInc s1.dc.recovL2 = _
    rw [dc]
  case recov =>
    refine ⟨_, List.mem_append_right _ (List.mem_singleton_self _), rfl, rfl, ?_, rfl, rfl⟩
    exact (BitVec.toNat_ofNat ..).trans (Nat.mod_eq_of_lt hc)

section
variable {s t : State} {f : Fur} {code : Nat}

/-- A change of the furrow that keeps its domains before the L2 makes no difference. -/
theorem State.L2Begun.of_modFur {g : Furrow → Furrow} (h : (s.modFur f g).L2Begun t f code) (doms : (g (s.fur f)).doms = (s.fur f).doms) :
    s.L2Begun t f code := by
  obtain ⟨stopped, others, rest⟩ := h
  refine ⟨fun d => ?_, fun k hk => ?_, rest⟩
  · have same : ((s.modFur f g).fur f).dom d = (s.fur f).dom d := by
      rw [State.modFur, State.fur_setFur]
      exact congrArg (fun v : Vector Domain 2 => v[d]) doms
    rw [stopped d, same]
  · rw [others k hk, State.modFur, State.fur_setFur_ne _ hk]

/-- The failing store address is kept with the recovery (R327). -/
theorem State.L2Begun.noteStore (h : s.L2Begun t f code) (a : Nat) : s.L2Begun (t.noteStore f a) f code := by
  obtain ⟨stopped, others, sticky, count, last, asserted, r, mem, dom, level, rcode, phase, scope⟩ := h
  refine ⟨stopped, others, sticky, count, last, asserted, _, List.mem_map_of_mem mem, ?_⟩
  split <;> exact ⟨dom, level, rcode, phase, scope⟩

/-- The order of the cycle's records makes no difference. -/
theorem State.L2Begun.oneCycle (h : s.L2Begun t f code) (u : State) : s.L2Begun (u.oneCycle t) f code := by
  obtain ⟨m, b, l, g, q, e⟩ := u.oneCycle_changes t
  rw [e]
  exact h

theorem State.raise_begun (closed : s.openRec (.furrow f) = none) (few : s.l2Running < 2) {i : FaultInfo} (hc : i.code < 2 ^ 16)
    (master : Nat) : s.L2Begun (s.raise 2 (.furrow f) i master) f i.code := by
  rw [s.raise_l2 closed]
  exact State.startL2_begun few hc false false

theorem exec_pstoreEccError_begun (detects : s.detects = true) (runs : s.stopped = false) (closed : s.openRec (.furrow f) = none)
    (few : s.l2Running < 2) (fetching : (s.fur f).fetching ≠ 0) (addr : BitVec 18) :
    ∃ t, exec (.pstoreEccError f addr) s = .next t ∧ s.L2Begun t f 0x0106 := by
  refine ⟨_, ?_, (((State.raise_begun (s := s.modFur f (fun x => { x with sticky := setBit x.sticky 3 true })) closed few
    (i := ⟨0x0106, srcDom f 0, f.val, addr.toNat, (s.fur f).fetching⟩) (show 0x0106 < 2 ^ 16 by decide) 0).of_modFur rfl).noteStore addr.toNat)⟩
  show execPstoreEccError f addr s = _
  simp [execPstoreEccError, detects, runs, fetching]

theorem exec_furrowControlFault_begun (detects : s.detects = true) (runs : s.stopped = false) (closed : s.openRec (.furrow f) = none)
    (few : s.l2Running < 2) (built : f.val < s.build.furrows) (unit : BitVec 2) :
    ∃ t, exec (.furrowControlFault f unit) s = .next t ∧ s.L2Begun t f 0x0108 := by
  refine ⟨_, ?_, (State.raise_begun (s := s.modFur f (fun x => { x with sticky := setBit x.sticky 2 true })) closed few
    (i := ⟨0x0108, srcDom f 0, f.val, unit.toNat, 0⟩) (show 0x0108 < 2 ^ 16 by decide) 0).of_modFur rfl⟩
  show execFurrowControlFault f unit s = _
  simp [execFurrowControlFault, detects, runs, built]

/-- A step over the furrows that acts on one of them alone is one act. -/
theorem foldl_allFurs_single {α : Type} (g : α → Fur → α) (f : Fur) (a : α) (other : ∀ b k, k ≠ f → g b k = b) :
    allFurs.foldl g a = g a f := by
  have nodup : allFurs.Nodup := by decide
  have all : ∀ k : Fur, k ∈ allFurs := by decide
  have skip : ∀ (l : List Fur), f ∉ l → ∀ b, l.foldl g b = b := by
    intro l
    induction l with
    | nil => exact fun _ _ => rfl
    | cons k r ih =>
      intro out b
      rw [List.foldl_cons, other b k (fun e => out (e ▸ List.mem_cons_self)), ih (fun h => out (List.mem_cons_of_mem _ h))]
  obtain ⟨before, after, split⟩ := List.append_of_mem (all f)
  rw [split] at nodup
  have left : f ∉ before := fun h => (List.nodup_append.mp nodup).2.2 f h f List.mem_cons_self rfl
  have right : f ∉ after := (List.nodup_cons.mp (List.nodup_append.mp nodup).2.1).1
  rw [split, List.foldl_append, List.foldl_cons, skip before left, skip after right]

theorem State.resetFurrows_single (runs : s.stopped = false) (closed : s.openRec (.furrow f) = none) (apart : s.inL2 f = false)
    (built : f.val < s.build.furrows) : s.resetFurrows (BitVec.twoPow 16 f.val) =
      s.startL2 (.furrow f) ⟨0x0512, srcBlock, 1, at' f.val 8, 2⟩ false true false := by
  have named : ∀ k : Fur, bitOf (BitVec.twoPow 16 f.val) k.val = decide (k = f) := by
    intro k
    simp [bitOf, Fin.ext_iff, eq_comm]
  unfold State.resetFurrows
  rw [foldl_allFurs_single _ f s]
  · simp [named, built, apart, runs, State.request, closed]
  · intro b k hk
    simp [named, hk]

theorem exec_resetFurrow_begun (takes : s.takesWrites) (runs : s.stopped = false) (closed : s.openRec (.furrow f) = none)
    (few : s.l2Running < 2) (apart : s.inL2 f = false) (built : f.val < s.build.furrows) :
    ∃ t, exec (.resetFurrow (BitVec.twoPow 16 f.val)) s = .next t ∧ s.L2Begun t f 0x0512 := by
  refine ⟨_, ?_, (State.startL2_begun few (i := ⟨0x0512, srcBlock, 1, at' f.val 8, 2⟩) (show 0x0512 < 2 ^ 16 by decide) true false).oneCycle s⟩
  show execResetFurrow _ s = _
  rw [execResetFurrow, s.hostWrite_of_takes takes, State.resetFurrows_single runs closed apart built]

end

/-! ### An L3 -/

/-- State `t` is `s` once an L3 for `code` has begun: the domains of every furrow are in RESET, READY is 0, it is counted and shown, and FAULT_N
is asserted (R328, R331). -/
def State.L3Begun (s t : State) (code : Nat) : Prop :=
  (∀ (g : Fur) (d : Dom), ((t.fur g).dom d).st = if ((s.fur g).dom d).st = .unused then .unused else .reset) ∧
  t.dc.ready = false ∧ t.dc.l3 = true ∧ bitOf t.dc.sticky 33 = true ∧ t.dc.recovL3 = satInc s.dc.recovL3 ∧
  fld t.dc.last 48 16 = code ∧ t.dc.faultN.isSome = true ∧
  ∃ r ∈ t.dc.recovs, r.dom = .block ∧ r.level = 3 ∧ r.code.toNat = code ∧ r.phase = 0

theorem State.startL3_begun {s : State} (closed : s.openRec .block = none) {i : FaultInfo} (hc : i.code < 2 ^ 16) (req : Bool) :
    s.L3Begun (s.startL3 i false false req) i.code := by
  obtain ⟨tail, lost, sticky, ring, dc⟩ := s.faultRecord_dc_changes i.code i.source i.p0 i.p1 i.p2 (levByte 3 false req)
  have fur : ∀ g, (s.faultRecord i.code i.source i.p0 i.p1 i.p2 (levByte 3 false req)).fur g = s.fur g := fun g =>
    congrArg (fun v : Vector Furrow 16 => v[g]) (s.faultRecord_furs i.code i.source i.p0 i.p1 i.p2 (levByte 3 false req))
  unfold State.startL3
  simp only [closed, Bool.or_false, Bool.false_eq_true, if_false]
  generalize s.faultRecord i.code i.source i.p0 i.p1 i.p2 (levByte 3 false req) = s1 at dc fur
  have last := s1.noteRecovery_last (level := 3) (by decide) hc (Nat.zero_lt_succ _) .block false req
  have asserted := s1.noteRecovery_faultN 3 i.code .block 0 false req
  refine ⟨fun g d => ?doms, rfl, rfl, ?sticky, ?count, last, asserted, ?recov⟩
  case doms =>
    have stop := (State.noteRecovery s1 3 i.code .block 0 false req).fur_stopAll g (fun x => x.stopDoms [0, 1])
    refine (congrArg (fun x : Furrow => (x.dom d).st) stop).trans ((Furrow.stopDoms_both _ d).trans ?_)
    exact congrArg (fun x : Furrow => if (x.dom d).st = .unused then DomState.unused else .reset) (fur g)
  case sticky => exact bitOf_setBit_true_self (by decide) _
  case count =>
    show satInc s1.dc.recovL3 = _
    rw [dc]
  case recov =>
    refine ⟨_, List.mem_append_right _ (List.mem_singleton_self _), rfl, rfl, ?_, rfl⟩
    exact (BitVec.toNat_ofNat ..).trans (Nat.mod_eq_of_lt hc)

section
variable {s : State}

theorem State.raise_l3_begun (closed : s.openRec .block = none) {i : FaultInfo} (hc : i.code < 2 ^ 16) (master : Nat) :
    s.L3Begun (s.raise 3 .block i master) i.code := by
  rw [s.raise_l3 closed]
  exact State.startL3_begun closed hc false

theorem exec_dispatcherError_begun (detects : s.detects = true) (closed : s.openRec .block = none) (unit : BitVec 2) (index : W16) :
    ∃ t, exec (.dispatcherError unit index) s = .next t ∧ s.L3Begun t 0x0508 :=
  ⟨_, if_pos detects, State.raise_l3_begun closed (show 0x0508 < 2 ^ 16 by decide) 0⟩

theorem exec_segmentTableError_begun (detects : s.detects = true) (closed : s.openRec .block = none) (i : BitVec 15) :
    ∃ t, exec (.segmentTableError i) s = .next t ∧ s.L3Begun t 0x0604 :=
  ⟨_, if_pos detects, State.raise_l3_begun closed (show 0x0604 < 2 ^ 16 by decide) 0⟩

/-- The reeve restarts in the L3 that its watchdog starts (R321). -/
theorem exec_reeveWatchdog_begun (detects : s.detects = true) (closed : s.openRec .block = none) (report : W32) :
    ∃ t, exec (.reeveWatchdog report) s = .next t ∧ s.L3Begun t 0x0509 ∧ t.rv.booted = false := by
  let s1 : State := { s with rv := { s.rv with booted := false } }
  refine ⟨_, if_pos detects, State.raise_l3_begun (s := s1) closed (show 0x0509 < 2 ^ 16 by decide) 0, ?_⟩
  obtain ⟨m, b, c, g, x, e⟩ := s1.raise_changes 3 .block ⟨0x0509, srcReeve, report.toNat, 0, 0⟩ 0
  rw [e]

theorem exec_resetBlock_begun (takes : s.takesWrites) (closed : s.openRec .block = none) :
    ∃ t, exec .resetBlock s = .next t ∧ s.L3Begun t 0x0512 := by
  refine ⟨_, congrArg Host.Outcome.next (s.hostWrite_of_takes takes _ _ _), ?_⟩
  unfold State.requestBlock State.request
  simp only [closed]
  exact State.startL3_begun closed (show 0x0512 < 2 ^ 16 by decide) true

/-! ### An L4, and the debug master's thaw -/

/-- From the detection of an L4 on the block is dead (R329). -/
theorem State.startL4_dead (i : FaultInfo) (esc req : Bool) : (s.startL4 i esc req).dead = true := by
  refine Bool.or_eq_true_iff.mpr (.inr (List.any_eq_true.mpr ⟨_, List.mem_filter.mpr ⟨List.mem_append_right _
    (List.mem_singleton_self _), rfl⟩, rfl⟩))

theorem State.startL4_last {i : FaultInfo} (hc : i.code < 2 ^ 16) (esc req : Bool) : fld (s.startL4 i esc req).dc.last 48 16 = i.code :=
  State.noteRecovery_last (s.faultRecord i.code i.source i.p0 i.p1 i.p2 (levByte 4 esc req)) (level := 4) (fur := 0) (by decide) hc (by decide) .block esc req

theorem exec_configurationUpset_dead (detects : s.detects = true) (report : W32) :
    ∃ t, exec (.configurationUpset report) s = .next t ∧ t.dead = true ∧ t.dc.ready = false ∧ fld t.dc.last 48 16 = 0x0520 :=
  ⟨_, if_pos detects, State.startL4_dead _ _ _, rfl, State.startL4_last (i := ⟨0x0520, srcBlock, report.toNat, 0, 0⟩)
    (show 0x0520 < 2 ^ 16 by decide) false false⟩

theorem exec_dbgThaw_takes (takes : s.takesWrites) : exec .dbgThaw s = .next s.thawDebug :=
  congrArg Host.Outcome.next (s.hostWrite_of_takes takes _ _ _)

end

/-! ### The statement -/

/-- Settles O51: each fault and request comes to the first step of its level, whose equations give the rest. -/
theorem blockFaults : Obligations.BlockFaults := by
  unfold Obligations.BlockFaults
  intro f addr unit index i report s after l2 l3
  refine ⟨?furrow, ?resetFurrow, ?block, ?resetBlock, ?upset, ?thaw⟩
  case furrow =>
    exact fun detects runs closed few => ⟨fun fetching => exec_pstoreEccError_begun detects runs closed few fetching addr,
      fun built => exec_furrowControlFault_begun detects runs closed few built unit⟩
  case resetFurrow =>
    exact fun takes runs closed few apart built => exec_resetFurrow_begun takes runs closed few apart built
  case block =>
    intro detects closed
    obtain ⟨t, run, begun, booted⟩ := exec_reeveWatchdog_begun detects closed report
    exact ⟨exec_dispatcherError_begun detects closed unit index, ⟨t, run, begun⟩, exec_segmentTableError_begun detects closed i,
      ⟨t, run, booted⟩⟩
  case resetBlock => exact fun takes closed => exec_resetBlock_begun takes closed
  case upset => exact fun detects => exec_configurationUpset_dead detects report
  case thaw =>
    intro takes
    rw [exec_dbgThaw_takes takes, State.thawDebug]
    exact ⟨fun off => by simp [off], fun on => by simp [on]⟩

end Sys2Proof.Machine
end

section
/-! PROOFS. A thaw of a domain (R54), and the shared operations it is made of: commands that finish and drills that stop. -/
namespace Sys2Proof.Machine

/-! ### Commands that finish leave of the furrows all but their scoreboards (R118) -/

theorem sameFurrows.of_furs {s t : State} (h : t.furs = s.furs) : sameFurrows s t := by
  intro f
  have e : t.fur f = s.fur f := congrArg (fun v : Vector Furrow 16 => v[f]) h
  rw [e]

theorem sameFurrows.trans {s t u : State} (h : sameFurrows s t) (h' : sameFurrows t u) : sameFurrows s u := by
  intro f
  exact (h' f).trans (by rw [h f])

theorem sameFurrows.fur {s t : State} (h : sameFurrows s t) (f : Fur) : ∃ b w, t.fur f = { s.fur f with board := b, waiting := w } :=
  ⟨_, _, h f⟩

section
variable (s : State)

theorem State.leaveBoards_sameFurrows (r : CmdRef) : sameFurrows s (s.leaveBoards r) := by
  unfold State.leaveBoards
  split
  · split
    · intro f
      rw [s.fur_stopAll f (fun x => x.leaveBoard r)]
      rfl
    · exact .of_furs rfl
  · exact .of_furs rfl

theorem State.unrefSegs_furs (is : List Nat) : (s.unrefSegs is).furs = s.furs := by
  obtain ⟨t, e⟩ := State.unrefSegs_changes is s
  rw [e]

theorem State.completed_sameFurrows (r : CmdRef) : sameFurrows s (s.completed r) := by
  refine (s.leaveBoards_sameFurrows r).trans (.of_furs ?_)
  exact State.unrefSegs_furs _ _

theorem State.giveRoom_sameFurrows (q : QSlot) : sameFurrows s (s.giveRoom q) := by
  have all : ∀ (l : List Rec) (u : State), sameFurrows u
      (l.foldl (fun s k => (s.completed ⟨q.val, k.key⟩).freeWatch ⟨q.val, k.key⟩) u) := by
    intro l
    induction l with
    | nil => exact fun u => .of_furs rfl
    | cons k r ih =>
      exact fun u => ((u.completed_sameFurrows ⟨q.val, k.key⟩).trans (.of_furs rfl)).trans (ih _)
  exact sameFurrows.trans (.of_furs rfl) (all _ _)

theorem State.finish_sameFurrows (r : CmdRef) (status r0 r1 : Nat) : sameFurrows s (s.finish r status r0 r1) := by
  unfold State.finish
  split
  · exact .of_furs rfl
  · split
    · exact .of_furs rfl
    · exact sameFurrows.trans (.of_furs rfl) (State.giveRoom_sameFurrows _ _)

theorem State.finishOpt_sameFurrows (r : Option CmdRef) (status r0 r1 : Nat) : sameFurrows s (s.finishOpt r status r0 r1) := by
  unfold State.finishOpt
  split
  · exact .of_furs rfl
  · exact s.finish_sameFurrows _ _ _ _

theorem State.finishAll_sameFurrows (rs : List CmdRef) (status r0 r1 : Nat) : ∀ s : State,
    sameFurrows s (rs.foldl (fun s r => s.finish r status r0 r1) s) := by
  induction rs with
  | nil => exact fun s => .of_furs rfl
  | cons r rs ih => exact fun s => (s.finish_sameFurrows r status r0 r1).trans (ih _)

end

/-! ### What work on a drill leaves of its furrow -/

/-- Furrow `y` is `x` but for drill `k`, the transfers of port S and the scoreboard. -/
def Furrow.DrillWork (x y : Furrow) (k : DrillNo) : Prop :=
  (∃ ds b w xs, y = { x with drills := ds, board := b, waiting := w, xfers := xs }) ∧ ∀ j, j ≠ k → y.drill j = x.drill j

theorem Furrow.DrillWork.refl (x : Furrow) (k : DrillNo) : x.DrillWork x k := ⟨⟨_, _, _, _, rfl⟩, fun _ _ => rfl⟩

theorem Furrow.DrillWork.trans {x y z : Furrow} {k : DrillNo} (h : x.DrillWork y k) (h' : y.DrillWork z k) : x.DrillWork z k := by
  obtain ⟨⟨ds, b, w, xs, rfl⟩, same⟩ := h
  obtain ⟨⟨ds', b', w', xs', rfl⟩, same'⟩ := h'
  exact ⟨⟨ds', b', w', xs', rfl⟩, fun j hj => (same' j hj).trans (same j hj)⟩

theorem Furrow.drillWork_setDrill (x : Furrow) (k : DrillNo) (y : Drill) : x.DrillWork (x.setDrill k y) k :=
  ⟨⟨_, _, _, _, rfl⟩, fun _ hj => Furrow.drill_setDrill_ne x hj y⟩

theorem sameFurrows.drill {s t : State} (h : sameFurrows s t) (f : Fur) (k : DrillNo) : t.drill f k = s.drill f k := by
  unfold State.drill
  rw [h f]
  rfl

theorem sameFurrows.dom {s t : State} (h : sameFurrows s t) (f : Fur) (d : Dom) : t.dom f d = s.dom f d := by
  unfold State.dom
  rw [h f]
  rfl

/-- What only changes the scoreboards is no work on a drill. -/
theorem sameFurrows.drillWork {s t : State} (h : sameFurrows s t) (f : Fur) (k : DrillNo) : (s.fur f).DrillWork (t.fur f) k := by
  refine ⟨⟨_, _, _, _, h f⟩, fun j _ => ?_⟩
  rw [h f]
  rfl

section
variable (s : State) (f : Fur) (k : DrillNo)

theorem State.memWrite_furs (l : Loc) (bs : List Byte) (poison : Bool) (seg : Nat) : (s.memWrite l bs poison seg).1.furs = s.furs := by
  obtain ⟨m, b, h, i, g, e⟩ := s.memWrite_changes l bs poison seg
  rw [e]

/-- Parts of a row that reach memory change no furrow. -/
theorem State.partRow_furs (b : Block) (i : Nat) (bytes : List Byte) (poison : Bool) : (s.partRow b i bytes poison).furs = s.furs := by
  unfold State.partRow
  dsimp only
  generalize piecesOf _ _ _ = l
  induction l generalizing s with
  | nil => rfl
  | cons p r ih =>
    rw [List.foldl_cons, ih]
    split
    · rfl
    · exact s.memWrite_furs _ _ _ _

theorem State.offer_furs (code : Nat) (source : W16) (p0 p1 p2 : Nat) : (s.offer code source p0 p1 p2).furs = s.furs := by
  obtain ⟨g, e⟩ := s.offer_changes code source p0 p1 p2
  rw [e]

theorem State.fur_of_furs {s t : State} (h : t.furs = s.furs) (f : Fur) : t.fur f = s.fur f :=
  congrArg (fun v : Vector Furrow 16 => v[f]) h

theorem State.modDrill_work (g : Drill → Drill) : (s.fur f).DrillWork ((s.modDrill f k g).fur f) k := by
  rw [State.modDrill, State.setDrill, State.fur_setFur]
  exact (s.fur f).drillWork_setDrill k _

theorem State.rowMoved_work (idx : Nat) (poison : Bool) : (s.fur f).DrillWork ((s.rowMoved f k idx poison).fur f) k := by
  obtain ⟨x, e⟩ := (s.onlyDrill_rowMoved f k idx poison).fur
  rw [e]
  exact (s.fur f).drillWork_setDrill k x

/-- A row of an OUT block that is in memory is counted in its drill (R136). -/
theorem State.ackRow_work (b : Block) (i : Nat) (bytes : List Byte) (poison : Bool) :
    (s.fur f).DrillWork ((s.ackRow f k b i bytes poison).fur f) k := by
  unfold State.ackRow
  dsimp only
  refine Furrow.DrillWork.trans ?_ (State.rowMoved_work _ f k b.idx poison)
  refine Furrow.DrillWork.trans ?_ (State.modDrill_work _ f k _)
  have same : ∀ t : State, t.furs = s.furs → (s.fur f).DrillWork (t.fur f) k := fun t h => by
    rw [State.fur_of_furs h f]
    exact .refl _ k
  split
  · exact same _ ((State.offer_furs _ _ _ _ _ _).trans (s.memWrite_furs _ _ _ _))
  · exact same _ (s.memWrite_furs _ _ _ _)

/-- The requests of a drill that have been granted complete in memory and in the drill alone (R327). -/
theorem State.flushDrill_work : (s.fur f).DrillWork ((s.flushDrill f k).fur f) k := by
  unfold State.flushDrill
  dsimp only
  split
  · generalize ((s.drill f k).blocks.take 4).flatMap _ = l
    have all : ∀ (l : List (Block × Nat × List Byte × Bool)) (u : State), (u.fur f).DrillWork ((l.foldl (fun s p =>
        if p.1.rowWaits p.2.1 then s.partRow p.1 p.2.1 p.2.2.1 p.2.2.2 else s.ackRow f k p.1 p.2.1 p.2.2.1 p.2.2.2) u).fur f) k := by
      intro l
      induction l with
      | nil => exact fun u => .refl _ k
      | cons p r ih =>
        intro u
        rw [List.foldl_cons]
        refine Furrow.DrillWork.trans ?_ (ih _)
        split
        · rw [State.fur_of_furs (u.partRow_furs _ _ _ _) f]
          exact .refl _ k
        · exact u.ackRow_work f k _ _ _ _
    exact all l s
  · exact .refl _ k

theorem Furrow.drillWork_dropDrill (x : Furrow) (k : DrillNo) : x.DrillWork (x.dropDrill k) k := by
  unfold Furrow.dropDrill
  dsimp only
  split <;> exact ⟨⟨_, _, _, _, rfl⟩, fun _ _ => rfl⟩

@[simp] theorem Drill.toIdle_st (x : Drill) : x.toIdle.st = .idle := rfl

/-- The drill is IDLE, and only it (R133, R135). -/
theorem State.idleDrill_work (status r0 r1 : Nat) :
    (s.fur f).DrillWork ((s.idleDrill f k status r0 r1).fur f) k ∧ ((s.idleDrill f k status r0 r1).drill f k) = (s.drill f k).toIdle := by
  unfold State.idleDrill
  dsimp only
  have segs := State.fur_of_furs (s.unrefSegs_furs (s.drill f k).segs) f
  have finished := ((State.modFur (s.unrefSegs (s.drill f k).segs) f (fun z => (z.dropDrill k).setDrill k (s.drill f k).toIdle)).finishOpt_sameFurrows
    (s.drill f k).cmd status r0 r1).trans (State.finishAll_sameFurrows (s.drill f k).disarm stOk 0 0 _)
  constructor
  · refine Furrow.DrillWork.trans ?_ (finished.drillWork f k)
    rw [State.modFur, State.fur_setFur, segs]
    exact ((s.fur f).drillWork_dropDrill k).trans (Furrow.drillWork_setDrill _ k _)
  · refine (finished.drill f k).trans ?_
    rw [State.modFur, State.drill, State.fur_setFur]
    exact Furrow.drill_setDrill _ _ _

/-- A drill that is stopped is IDLE, and only it (R327, R330). -/
theorem State.stopDrill_work : (s.fur f).DrillWork ((s.stopDrill f k).fur f) k ∧ ((s.stopDrill f k).drill f k).st = .idle := by
  have flushed := s.flushDrill_work f k
  unfold State.stopDrill
  dsimp only
  generalize s.flushDrill f k = u at flushed
  obtain ⟨work, idle⟩ := u.idleDrill_work f k stBusy (u.drill f k).listRows (u.drill f k).listPois
  exact ⟨flushed.trans work, (congrArg Drill.st idle).trans (Drill.toIdle_st _)⟩

end

/-! ### Several drills, one after another -/

/-- Furrow `y` is `x` but for its drills, the transfers of port S and the scoreboard. -/
def Furrow.DrillsWork (x y : Furrow) : Prop := ∃ ds b w xs, y = { x with drills := ds, board := b, waiting := w, xfers := xs }

theorem Furrow.DrillsWork.trans {x y z : Furrow} (h : x.DrillsWork y) (h' : y.DrillsWork z) : x.DrillsWork z := by
  obtain ⟨ds, b, w, xs, rfl⟩ := h
  obtain ⟨ds', b', w', xs', rfl⟩ := h'
  exact ⟨ds', b', w', xs', rfl⟩

/-- An operation that takes its drill to IDLE, done on the drills of a list in turn, has taken all of them there. -/
theorem State.idleAll_work {f : Fur} {op : State → DrillNo → State}
    (idles : ∀ s k, (s.fur f).DrillWork ((op s k).fur f) k ∧ ((op s k).drill f k).st = .idle) (ks : List DrillNo) : ∀ s : State,
    (s.fur f).DrillsWork ((ks.foldl op s).fur f) ∧
      ∀ k, k ∈ ks ∨ (s.drill f k).st = .idle → ((ks.foldl op s).drill f k).st = .idle := by
  induction ks with
  | nil => exact fun s => ⟨⟨_, _, _, _, rfl⟩, fun k h => h.resolve_left (List.not_mem_nil)⟩
  | cons j r ih =>
    intro s
    obtain ⟨⟨one, others⟩, idle⟩ := idles s j
    obtain ⟨rest, all⟩ := ih (op s j)
    refine ⟨Furrow.DrillsWork.trans one rest, fun k h => all k ?_⟩
    by_cases hk : k = j
    · exact .inr (hk ▸ idle)
    · rcases h with mem | before
      · exact .inl ((List.mem_cons.mp mem).resolve_left hk)
      · exact .inr ((congrArg Drill.st (others k hk)).trans before)

theorem State.stopDrills_work (s : State) (f : Fur) (ks : List DrillNo) :
    (s.fur f).DrillsWork ((s.stopDrills f ks).fur f) ∧ ∀ k ∈ ks, ((s.stopDrills f ks).drill f k).st = .idle := by
  obtain ⟨work, idle⟩ := State.idleAll_work (fun s k => s.stopDrill_work f k) ks s
  exact ⟨work, fun k hk => idle k (.inl hk)⟩

/-! ### The abandoned domain -/

theorem State.leaveBoardOpt_fur (s : State) (f : Fur) (r : Option CmdRef) :
    ∃ b w, (s.leaveBoardOpt f r).fur f = { s.fur f with board := b, waiting := w } := by
  unfold State.leaveBoardOpt
  split
  · exact ⟨_, _, s.fur_setFur f _⟩
  · exact ⟨_, _, rfl⟩

/-- The domain's work ends, and of its furrow only the scoreboard and the mortar units' states change with it (R330). -/
theorem State.abandonDom_fur (s : State) (f : Fur) (d : Dom) : ∃ b w m,
    (s.abandonDom f d).fur f = { (s.fur f).setDom d (s.dom f d).abandon with board := b, waiting := w, mortarState := m } := by
  obtain ⟨b, w, left⟩ := s.leaveBoardOpt_fur f (s.dom f d).cmd
  obtain ⟨b', w', finished⟩ := (State.finishOpt_sameFurrows (((s.leaveBoardOpt f (s.dom f d).cmd).modDom f d Domain.abandon).modFur f
    (fun x => x.abandonMortars s.build d)) (s.dom f d).cmd stBusy 0 0).fur f
  refine ⟨b', w', ((s.fur f).abandonMortars s.build d).mortarState, finished.trans ?_⟩
  have same : (s.leaveBoardOpt f (s.dom f d).cmd).dom f d = s.dom f d := by
    rw [State.dom, left]
    rfl
  rw [State.modFur, State.fur_setFur, State.modDom, State.setDom, State.fur_setFur, same, left]
  rfl

/-! ### FU_THAW -/

/-- The L1 bits of a domain are clear in FU_STICKY (R54). -/
theorem l1Clear_iff (sticky : BitVec 20) (d : Dom) :
    l1Clear sticky d = true ↔ ∀ b ∈ [4, 6, 8, 12], bitOf sticky (b + d.val) = false := by
  simp [l1Clear, and_assoc]

/-- FU_THAW of one domain of a built furrow. -/
theorem exec_fuThaw_takes {s : State} (takes : s.takesWrites) {f : Fur} (built : f.val < s.build.furrows) (d : Dom) :
    exec (.fuThaw f (if d = 0 then 1 else 2)) s = .next (s.oneCycle (s.thawDom f d)) := by
  have two : d = 0 ∨ d = 1 := (Fin.forall_fin_two (p := fun e => e = 0 ∨ e = 1)).mpr ⟨.inl rfl, .inr rfl⟩ d
  show execFuThaw f _ s = _
  unfold execFuThaw
  rw [s.furrowWrite_of_takes takes f built]
  rcases two with rfl | rfl <;> rfl

theorem State.thawDom_of_clear {s : State} {f : Fur} {d : Dom} (faulted : (s.dom f d).st = .faulted)
    (clear : ∀ b ∈ [4, 6, 8, 12], bitOf (s.fur f).sticky (b + d.val) = false) : s.thawDom f d =
      (((s.abandonDom f d).stopDrills f (domDrills (s.fur f).split d)).modDom f d (fun y => { y with st := .idle })).masterThawed
        (masterDom f d) :=
  if_pos ⟨faulted, (l1Clear_iff _ _).mpr clear⟩

theorem State.thawDom_refused {s : State} {f : Fur} {d : Dom}
    (h : (s.dom f d).st ≠ .faulted ∨ ¬ ∀ b ∈ [4, 6, 8, 12], bitOf (s.fur f).sticky (b + d.val) = false) :
    s.thawDom f d = s.offer 0x0111 (srcDom f d) d.val (stCode (s.dom f d).st) (s.fur f).sticky.toNat := by
  refine if_neg fun ⟨faulted, clear⟩ => ?_
  rcases h with other | bits
  · exact other faulted
  · exact bits ((l1Clear_iff _ _).mp clear)

/-! ### A cycle with one record -/

theorem recount_same (v : W32) (a : Nat) : recount v a a = v := by
  unfold recount
  have bound := v.isLt
  split
  · rfl
  · rw [Nat.add_sub_cancel, Nat.min_eq_right (by omega), BitVec.ofNat_toNat, BitVec.setWidth_eq]

/-- A single record offered stands where it was put, or where it was refused (R369). -/
theorem State.ordered_offer (s : State) (code : Nat) (source : W16) (p0 p1 p2 : Nat) :
    s.ordered (s.offer code source p0 p1 p2) = s.offer code source p0 p1 p2 := by
  unfold State.offer
  dsimp only
  split
  · simp [State.ordered]
  · split
    · simp [State.ordered]
    · simp [State.ordered, insertRec, recount_same]

theorem State.oneCycle_offer (s : State) (code : Nat) (source : W16) (p0 p1 p2 : Nat) :
    s.oneCycle (s.offer code source p0 p1 p2) = s.offer code source p0 p1 p2 := by
  obtain ⟨g, e⟩ := s.offer_changes code source p0 p1 p2
  have ring : s.ringOrdered (s.offer code source p0 p1 p2) = s.offer code source p0 p1 p2 := by
    rw [e]
    simp [State.ringOrdered]
  have queues : Vector.ofFn (fun q : Fin 64 => (s.queues[q]).cycle (s.offer code source p0 p1 p2).queues[q]) =
      (s.offer code source p0 p1 p2).queues := by
    rw [e]
    ext1
    simp
  unfold State.oneCycle
  rw [ring, s.ordered_offer]
  dsimp only
  rw [queues]

/-! ### The statement -/

theorem State.masterThawed_fur (s : State) (master : Nat) (f : Fur) : (s.masterThawed master).fur f = s.fur f := rfl

theorem State.oneCycle_fur (s t : State) (f : Fur) : (s.oneCycle t).fur f = t.fur f := by
  obtain ⟨m, b, l, g, q, e⟩ := s.oneCycle_changes t
  rw [e]
  rfl

/-- The furrow of a domain that a thaw has taken to IDLE: the domain's work is gone, its drills are stopped, and the scoreboard, the transfers and
the mortar units' states are what else may have changed (R54). -/
theorem State.thawed_fur (s : State) (f : Fur) (d : Dom) :
    let t := ((s.abandonDom f d).stopDrills f (domDrills (s.fur f).split d)).modDom f d (fun y => { y with st := .idle })
    (∃ ds b w xs m, t.fur f = { (s.fur f).setDom d { (s.dom f d).abandon with st := .idle } with
      drills := ds, board := b, waiting := w, xfers := xs, mortarState := m }) ∧
    ∀ k ∈ domDrills (s.fur f).split d, (t.drill f k).st = .idle := by
  intro t
  obtain ⟨b, w, m, abandoned⟩ := s.abandonDom_fur f d
  obtain ⟨⟨ds, b', w', xs, stopped⟩, idle⟩ := (s.abandonDom f d).stopDrills_work f (domDrills (s.fur f).split d)
  have same : ((s.abandonDom f d).stopDrills f (domDrills (s.fur f).split d)).dom f d = (s.dom f d).abandon := by
    rw [State.dom, stopped, abandoned]
    exact Furrow.dom_setDom _ _ _
  have fur : t.fur f = (((s.abandonDom f d).stopDrills f (domDrills (s.fur f).split d)).fur f).setDom d
      { (s.dom f d).abandon with st := .idle } := by
    rw [← same]
    exact State.fur_setFur _ _ _
  constructor
  · refine ⟨ds, b', w', xs, m, ?_⟩
    rw [fur, stopped, abandoned]
    simp [Furrow.setDom]
  · intro k hk
    rw [State.drill, fur]
    exact idle k hk

/-- Settles O59: the equations of the thaw that takes effect and of the one that is refused. -/
theorem domainThaw : Obligations.DomainThaw := by
  unfold Obligations.DomainThaw
  intro f d s z x c clear takes built
  refine ⟨fun faulted bits => ?taken, fun refused => ?refused⟩
  case taken =>
    refine ⟨_, exec_fuThaw_takes takes built d, ?_⟩
    rw [State.thawDom_of_clear faulted bits]
    obtain ⟨⟨ds, b, w, xs, m, fur⟩, idle⟩ := s.thawed_fur f d
    simp only [State.dom, State.drill, State.oneCycle_fur, State.masterThawed_fur]
    refine ⟨?_, idle, ?_⟩
    · rw [fur]
      simp [Furrow.dom, Furrow.setDom, Domain.abandon, x, State.dom]
    · rw [fur]
      exact ⟨rfl, rfl, rfl, rfl, rfl, fun d' hd => Furrow.dom_setDom_ne _ hd _⟩
  case refused =>
    refine ⟨stCode x.st, (exec_fuThaw_takes takes built d).trans ?_⟩
    rw [State.thawDom_refused refused, s.oneCycle_offer]

end Sys2Proof.Machine
end

section
/-! PROOFS. One cycle of the reference clock (R385, R386), and the keeper operations of domains that stand still (R44). -/
namespace Sys2Proof.Machine

/-! ### What a tick on which a domain stands still may change -/

/-- Domain `y` is `x` but for the KEEPER count, the eighths that it gathers and the record of the last tick (R44). -/
def Domain.Stands (x y : Domain) : Prop := ∃ keeper acc tick, y = { x with keeper := keeper, keeperAcc := acc, tick := tick }

theorem Domain.Stands.refl (x : Domain) : x.Stands x := ⟨_, _, _, rfl⟩

theorem Domain.Stands.trans {x y z : Domain} (h : x.Stands y) (h' : y.Stands z) : x.Stands z := by
  obtain ⟨k, a, t, rfl⟩ := h
  obtain ⟨k', a', t', rfl⟩ := h'
  exact ⟨k', a', t', rfl⟩

/-- Furrow `y` is `x` after ticks on which its domains stood still: its scratchpad, counters, windrow, cells, transfers and scoreboard are as
they were. -/
def Furrow.Stands (x y : Furrow) : Prop :=
  (y.data = x.data ∧ y.full = x.full ∧ y.counters = x.counters ∧ y.windrow = x.windrow ∧ y.cells = x.cells ∧ y.xfers = x.xfers ∧
    y.board = x.board) ∧ ∀ d : Dom, (x.dom d).Stands (y.dom d)

theorem Furrow.Stands.refl (x : Furrow) : x.Stands x := ⟨⟨rfl, rfl, rfl, rfl, rfl, rfl, rfl⟩, fun _ => .refl _⟩

theorem Furrow.Stands.trans {x y z : Furrow} (h : x.Stands y) (h' : y.Stands z) : x.Stands z := by
  obtain ⟨⟨data, full, counters, windrow, cells, xfers, board⟩, doms⟩ := h
  obtain ⟨⟨data', full', counters', windrow', cells', xfers', board'⟩, doms'⟩ := h'
  exact ⟨⟨data'.trans data, full'.trans full, counters'.trans counters, windrow'.trans windrow, cells'.trans cells, xfers'.trans xfers,
    board'.trans board⟩, fun d => (doms d).trans (doms' d)⟩

theorem Furrow.stands_setDom {x : Furrow} {d : Dom} {y : Domain} (h : (x.dom d).Stands y) : x.Stands (x.setDom d y) := by
  refine ⟨⟨rfl, rfl, rfl, rfl, rfl, rfl, rfl⟩, fun e => ?_⟩
  by_cases he : e = d
  · subst he
    rwa [Furrow.dom_setDom]
  · rw [Furrow.dom_setDom_ne _ he]
    exact .refl _

/-- State `t` is `s` after such ticks of its furrows, and perhaps events of them in the gleaner's queue. -/
def State.Stands (s t : State) : Prop :=
  (∃ x g, t = { s with furs := x, gl := g } ∧ g.store = s.gl.store) ∧ ∀ f : Fur, (s.fur f).Stands (t.fur f)

theorem State.Stands.refl (s : State) : s.Stands s := ⟨⟨_, _, rfl, rfl⟩, fun _ => .refl _⟩

theorem State.Stands.trans {s t u : State} (h : s.Stands t) (h' : t.Stands u) : s.Stands u := by
  obtain ⟨⟨x, g, rfl, store⟩, furs⟩ := h
  obtain ⟨⟨x', g', rfl, store'⟩, furs'⟩ := h'
  exact ⟨⟨x', g', rfl, store'.trans store⟩, fun f => (furs f).trans (furs' f)⟩

/-- Acts that leave a state so, one after another, leave it so. -/
theorem State.stands_foldl {α : Type} {g : State → α → State} (h : ∀ (s : State) (a : α), s.Stands (g s a)) (l : List α) : ∀ s : State, s.Stands (l.foldl g s) := by
  induction l with
  | nil => exact fun s => .refl s
  | cons a r ih => exact fun s => (h s a).trans (ih _)

section
variable {s : State} {f : Fur}

theorem State.stands_setFur {x : Furrow} (h : (s.fur f).Stands x) : s.Stands (s.setFur f x) := by
  refine ⟨⟨_, _, rfl, rfl⟩, fun g => ?_⟩
  by_cases hg : g = f
  · subst hg
    rwa [State.fur_setFur]
  · rw [State.fur_setFur_ne _ hg]
    exact .refl _

theorem State.stands_setDom {d : Dom} {y : Domain} (h : (s.dom f d).Stands y) : s.Stands (s.setDom f d y) :=
  State.stands_setFur (Furrow.stands_setDom h)

variable (s f)

theorem State.stands_offer (code : Nat) (source : W16) (p0 p1 p2 : Nat) : s.Stands (s.offer code source p0 p1 p2) := by
  obtain ⟨store, -⟩ := s.offer_store code source p0 p1 p2
  obtain ⟨g, e⟩ := s.offer_changes code source p0 p1 p2
  rw [e] at store ⊢
  exact ⟨⟨_, g, rfl, store⟩, fun _ => .refl _⟩

/-! ### The parts of a reference cycle -/

/-- The counters of a drill lie in its furrow's drills alone (R150, R151). -/
theorem State.stands_bumpDrill (k : DrillNo) (c n : Nat) : s.Stands (s.bumpDrill f k c n) := by
  have counted : ∀ x : Drill, s.Stands (s.setDrill f k x) := fun x => State.stands_setFur ⟨⟨rfl, rfl, rfl, rfl, rfl, rfl, rfl⟩, fun _ => .refl _⟩
  have noted : ∀ (t : State) (b : BitVec 40), t.Stands (t.modFur f (fun z => { z with dlOvf := b })) := fun t b =>
    State.stands_setFur ⟨⟨rfl, rfl, rfl, rfl, rfl, rfl, rfl⟩, fun _ => .refl _⟩
  unfold State.bumpDrill
  dsimp only
  split
  · exact ((counted _).trans (noted _ _)).trans (State.stands_offer _ _ _ _ _ _)
  · exact counted _

theorem State.stands_bumpKeeper (d : Dom) : s.Stands (s.bumpKeeper f d) := by
  have counted : s.Stands (s.setDom f d { s.dom f d with keeper := (s.dom f d).keeper + 1 }) := State.stands_setDom ⟨_, _, _, rfl⟩
  have noted : ∀ (t : State) (b : BitVec 18), t.Stands (t.modFur f (fun x => { x with ovf := b })) := fun t b =>
    State.stands_setFur ⟨⟨rfl, rfl, rfl, rfl, rfl, rfl, rfl⟩, fun _ => .refl _⟩
  unfold State.bumpKeeper
  dsimp only
  split
  · exact (counted.trans (noted _ _)).trans (State.stands_offer _ _ _ _ _ _)
  · exact counted

/-- A tick without a brick operation gathers eighths and runs a keeper operation when it has eight (R44). -/
theorem State.stands_keeperTick (d : Dom) : s.Stands (s.keeperTick f d false false) := by
  unfold State.keeperTick
  simp only [Bool.false_eq_true, if_false]
  split
  · refine State.Stands.trans (State.stands_setDom ?_) (State.stands_bumpKeeper _ f d)
    exact ⟨_, _, _, rfl⟩
  · exact State.stands_setDom ⟨_, _, _, rfl⟩

theorem State.stands_noteTick (d : Dom) (retired adv : Bool) : s.Stands (s.noteTick f d retired adv) := by
  have dropped : s.Stands (s.dropW f d) := State.stands_setFur ⟨⟨rfl, rfl, rfl, rfl, rfl, rfl, rfl⟩, fun _ => .refl _⟩
  refine dropped.trans (State.stands_setDom ?_)
  exact ⟨_, _, _, rfl⟩

theorem Domain.stands_idled (y : Domain) (n : Nat) : y.Stands (y.idled n) := by
  unfold Domain.idled
  split <;> exact ⟨_, _, _, rfl⟩

theorem State.stands_idleKeeper (d : Dom) (n : Nat) : s.Stands (s.idleKeeper f d n) := by
  unfold State.idleKeeper
  dsimp only
  split
  · exact .refl s
  · split
    · exact State.stands_setDom ((s.dom f d).stands_idled n)
    · exact State.stands_foldl (fun s _ => (s.stands_noteTick f d false false).trans (State.stands_keeperTick _ f d)) _ s

theorem State.stands_watchGate : s.Stands (s.watchGate f) := by
  have noted : ∀ t : Option W64, s.Stands (s.setFur f { s.fur f with gateSince := t }) := fun t =>
    State.stands_setFur ⟨⟨rfl, rfl, rfl, rfl, rfl, rfl, rfl⟩, fun _ => .refl _⟩
  unfold State.watchGate
  dsimp only
  split
  · split
    · exact noted _
    · exact .refl s
  · split
    · exact noted _
    · exact .refl s

theorem State.stands_countWait (j n : Nat) : s.Stands (s.countWait f j n) :=
  State.stands_setFur ⟨⟨rfl, rfl, rfl, rfl, rfl, rfl, rfl⟩, fun _ => .refl _⟩

/-- The ticks that a reference cycle counts leave every furrow's domains standing as they stood. -/
theorem State.stands_countTicks (t t' : Nat) : s.Stands (s.countTicks t t') := by
  refine State.stands_foldl (fun s i => ?_) _ s
  have past : s.Stands (s.modFur (furOf i) (fun x => { x with wRows := [] })) :=
    State.stands_setFur ⟨⟨rfl, rfl, rfl, rfl, rfl, rfl, rfl⟩, fun _ => .refl _⟩
  have drills : ∀ (u : State) (n : Nat), u.Stands (u.drillTicks (furOf i) n) := fun u n =>
    State.stands_foldl (fun u (p : DrillNo × Nat) => u.stands_bumpDrill (furOf i) p.1 p.2 n) _ u
  have windows : ∀ (u : State) (n : Nat), u.Stands (u.windowTicks (furOf i) n) := fun u n =>
    State.stands_foldl (fun u j => u.stands_countWait (furOf i) j n) _ u
  have asks : ∀ u : State, u.Stands (u.noteAsks (furOf i)) := fun u =>
    State.stands_setFur ⟨⟨rfl, rfl, rfl, rfl, rfl, rfl, rfl⟩, fun _ => .refl _⟩
  exact (((((past.trans (drills _ _)).trans (windows _ _)).trans (State.stands_idleKeeper _ _ 0 _)).trans
    (State.stands_idleKeeper _ _ 1 _)).trans (State.stands_watchGate _ _)).trans (asks _)

end

/-! ### What waits for the mesh ports (R303) -/

/-- Mesh `m'` is `m` but for the notes of since when its frames wait. -/
def Mesh.Notes (m m' : Mesh) : Prop :=
  { m' with send := m.send, transit := m.transit, answers := m.answers } = m ∧
    m'.transit.map Transit.frame = m.transit.map Transit.frame ∧ m'.answers.map Prod.fst = m.answers.map Prod.fst

theorem Mesh.foldl_setSend (l : List (Nat × SendLane)) (g : Nat × SendLane → SendLane) : ∀ m : Mesh,
    ∃ send, l.foldl (fun m p => m.setSend p.1 (g p)) m = { m with send := send } := by
  induction l with
  | nil => exact fun m => ⟨_, rfl⟩
  | cons p r ih =>
    intro m
    obtain ⟨send, e⟩ := ih (m.setSend p.1 (g p))
    exact ⟨send, e⟩

theorem State.noteWaits_notes (s : State) : ∃ m, s.noteWaits = s.setMs m ∧ s.ms.Notes m := by
  obtain ⟨send, e⟩ := Mesh.foldl_setSend s.ms.send (fun p => { p.2 with
    noPort := s.waitFrom p.2.noPort ((p.2.send s.time).isSome && (s.routeOf (p.1 / 64)).isNone) }) { s.ms with
      transit := s.ms.transit.map (fun t => { t with
        noPort := s.waitFrom t.noPort (s.routeOf t.frame.dest).isNone, noCredit := s.waitFrom t.noCredit (s.noCredit t.frame.dest) })
      answers := s.ms.answers.map (fun (a : Frame × Option W64) => (a.1, s.waitFrom a.2 (s.routeOf a.1.dest).isNone)) }
  refine ⟨_, congrArg s.setMs e, rfl, ?_, ?_⟩ <;> simp

/-! ### The statement -/

/-- Time moves by 11 or 9 ns while a slew remains, which that shortens, and by 10 ns else (R386). -/
theorem slewStep_eq (slew : Int) : slewStep slew =
    (if 0 < slew then 11 else if slew < 0 then 9 else 10, if 0 < slew then slew - 1 else if slew < 0 then slew + 1 else 0) := by
  unfold slewStep
  split
  · rfl
  · split <;> rfl

/-- The state at the end of a reference cycle from stage 3, apart from what the ticks that it counts and the notes of waits change: time has
moved, and the records that the dispatcher cycles before refused are gone. -/
def State.timed (s : State) : State :=
  { s with
    time := s.time + BitVec.ofInt 64 (slewStep s.slew).1, uptime := s.uptime + 10, slew := (slewStep s.slew).2
    gl := { s.gl with refused := [] }, dc := { s.dc with ringLost := [] } }

theorem State.tick_changes {s : State} (h : s.release = 3) : ∃ t m, s.timed.Stands t ∧ s.ms.Notes m ∧ s.tick = t.setMs m := by
  have none : s.ms.Notes s.ms := ⟨rfl, rfl, rfl⟩
  unfold State.tick
  dsimp only
  rw [if_pos h]
  by_cases dead : s.dead = true
  · exact ⟨s.timed, s.ms, .refl _, none, if_pos dead⟩
  · rw [if_neg dead]
    have counted : ∃ t, s.timed.Stands t ∧ (if s.stopped then s.timed else
        s.timed.countTicks s.time.toNat (s.time.toNat + (slewStep s.slew).1.toNat)) = t := ⟨_, by
      split
      · exact .refl _
      · exact State.stands_countTicks _ _ _, rfl⟩
    obtain ⟨t, stands, e⟩ := counted
    obtain ⟨m, noted, notes⟩ := t.noteWaits_notes
    have same : t.ms = s.ms := by
      obtain ⟨⟨x, g, rfl, -⟩, -⟩ := stands
      rfl
    exact ⟨t, m, stands, same ▸ notes, (congrArg State.noteWaits e).trans noted⟩

/-- Settles O2: the empty queue gives a reference cycle, which moves time, lets domains that stand still count, and notes waits. -/
theorem referenceCycle : Obligations.ReferenceCycle := by
  unfold Obligations.ReferenceCycle
  intro s empty
  have cycle : step s = .next s.tick := by
    unfold step
    rw [empty]
  refine ⟨fun early => ?early, fun running => ⟨s.tick, cycle, ?running⟩⟩
  case early =>
    rw [cycle, State.tick, if_neg early]
  case running =>
    obtain ⟨t, m, ⟨⟨x, g, rfl, store⟩, furs⟩, ⟨rest, transit, answers⟩, e⟩ := State.tick_changes running
    have slew := slewStep_eq s.slew
    rw [e]
    refine ⟨?time, ?slew, rfl, rfl, rfl, rfl, rfl, rfl, store, rest, transit, answers, fun f => ?fur⟩
    case time =>
      show s.time + BitVec.ofInt 64 (slewStep s.slew).1 = _
      rw [slew]
      split
      · rfl
      · split <;> rfl
    case slew => exact congrArg Prod.snd slew
    case fur =>
      obtain ⟨⟨data, full, counters, windrow, cells, xfers, board⟩, doms⟩ := furs f
      exact ⟨data, full, counters, windrow, cells, xfers, board, doms⟩

end Sys2Proof.Machine
end

section
/-! PROOFS. A beat in three parts: what it issues, what commits at its end, and how it closes (R33, R38). -/
namespace Sys2Proof.Machine

/-! ### A state in which one furrow has changed -/

/-- State `t` is `s` with furrow `f` as `x`, but for the furrow's overflow bits and its notes of the rows just written (R110), the source of
free values, and the gleaner, which the events of a beat reach. -/
def State.Leaves (s t : State) (f : Fur) (x : Furrow) : Prop :=
  ∃ o w n g, t = { s.setFur f { x with ovf := o, wRows := w } with free := n, gl := g }

section
variable {s t u : State} {f : Fur} {d : Dom} {x : Furrow} {y : Domain}

theorem State.setFur_fur (s : State) (f : Fur) : s.setFur f (s.fur f) = s := by
  simp [State.setFur, State.fur]

theorem Furrow.setDom_setDom (x : Furrow) (d : Dom) (y z : Domain) : (x.setDom d y).setDom d z = x.setDom d z := by
  simp [Furrow.setDom]

theorem Furrow.setDom_dom (x : Furrow) (d : Dom) : x.setDom d (x.dom d) = x := by
  simp [Furrow.setDom, Furrow.dom]

theorem State.leaves_self (s : State) (f : Fur) : s.Leaves s f (s.fur f) :=
  ⟨(s.fur f).ovf, (s.fur f).wRows, s.free, s.gl, (s.setFur_fur f).symm⟩

theorem State.leaves_setFur (s : State) (f : Fur) (x : Furrow) : s.Leaves (s.setFur f x) f x := ⟨x.ovf, x.wRows, s.free, s.gl, rfl⟩

theorem State.leaves_setDom (s : State) (f : Fur) (d : Dom) (y : Domain) : s.Leaves (s.setDom f d y) f ((s.fur f).setDom d y) :=
  s.leaves_setFur f _

theorem State.Leaves.fur (h : s.Leaves t f x) : ∃ o w, t.fur f = { x with ovf := o, wRows := w } := by
  obtain ⟨o, w, n, g, rfl⟩ := h
  exact ⟨o, w, s.fur_setFur f _⟩

theorem State.Leaves.dom (h : s.Leaves t f x) : t.dom f d = x.dom d := by
  obtain ⟨o, w, e⟩ := h.fur
  rw [State.dom, e]
  rfl

theorem State.Leaves.fur_ne (h : s.Leaves t f x) {k : Fur} (hk : k ≠ f) : t.fur k = s.fur k := by
  obtain ⟨o, w, n, g, rfl⟩ := h
  exact s.fur_setFur_ne hk _

theorem State.Leaves.memories (h : s.Leaves t f x) : t.hostMem = s.hostMem ∧ t.hbm = s.hbm ∧ t.segs = s.segs ∧ t.queues = s.queues := by
  obtain ⟨o, w, n, g, rfl⟩ := h
  exact ⟨rfl, rfl, rfl, rfl⟩

theorem State.Leaves.time_build (h : s.Leaves t f x) : t.time = s.time ∧ t.build = s.build := by
  obtain ⟨o, w, n, g, rfl⟩ := h
  exact ⟨rfl, rfl⟩

theorem State.Leaves.trans {x' : Furrow} (h : s.Leaves t f x) (h' : t.Leaves u f x') : s.Leaves u f x' := by
  obtain ⟨o, w, n, g, rfl⟩ := h
  obtain ⟨o', w', n', g', rfl⟩ := h'
  refine ⟨o', w', n', g', ?_⟩
  show ({ (s.setFur f _).setFur f _ with free := n', gl := g' } : State) = _
  rw [State.setFur_setFur]

/-- Which overflow bits and row notes stand in `x` does not matter. -/
theorem State.Leaves.of_noted {o : BitVec 18} {w : List WRow} (h : s.Leaves t f { x with ovf := o, wRows := w }) : s.Leaves t f x := by
  obtain ⟨o', w', n, g, e⟩ := h
  exact ⟨o', w', n, g, e⟩

/-- What then changes only domain `d` changes it in `x`. -/
theorem State.Leaves.thenDom (h : s.Leaves t f x) (h' : t.Leaves u f ((t.fur f).setDom d y)) : s.Leaves u f (x.setDom d y) := by
  obtain ⟨o, w, e⟩ := h.fur
  rw [e] at h'
  exact State.Leaves.of_noted (x := x.setDom d y) (h.trans h')

/-- What then changes nothing of the furrow leaves it. -/
theorem State.Leaves.thenSame (h : s.Leaves t f x) (h' : t.Leaves u f (t.fur f)) : s.Leaves u f x := by
  obtain ⟨o, w, e⟩ := h.fur
  rw [e] at h'
  exact State.Leaves.of_noted (h.trans h')

theorem State.leaves_gl (s : State) (f : Fur) (g : Gleaner) : s.Leaves { s with gl := g } f (s.fur f) :=
  ⟨(s.fur f).ovf, (s.fur f).wRows, s.free, g, by rw [s.setFur_fur f]⟩

theorem State.leaves_offer (s : State) (f : Fur) (code : Nat) (source : W16) (p0 p1 p2 : Nat) :
    s.Leaves (s.offer code source p0 p1 p2) f (s.fur f) := by
  obtain ⟨g, e⟩ := s.offer_changes code source p0 p1 p2
  rw [e]
  exact s.leaves_gl f g

theorem State.leaves_ordered (s t : State) (f : Fur) : t.Leaves (s.ordered t) f (t.fur f) := by
  unfold State.ordered
  dsimp only
  split
  · exact t.leaves_self f
  · exact t.leaves_gl f _

theorem State.leaves_ovf (s : State) (f : Fur) (g : Furrow → BitVec 18) :
    s.Leaves (s.modFur f (fun x => { x with ovf := g x })) f (s.fur f) :=
  State.Leaves.of_noted (o := g (s.fur f)) (w := (s.fur f).wRows) (s.leaves_setFur f _)

theorem State.leaves_wRows (s : State) (f : Fur) (g : Furrow → List WRow) :
    s.Leaves (s.modFur f (fun x => { x with wRows := g x })) f (s.fur f) :=
  State.Leaves.of_noted (o := (s.fur f).ovf) (w := g (s.fur f)) (s.leaves_setFur f _)

theorem State.leaves_dropW (s : State) (f : Fur) (d : Dom) : s.Leaves (s.dropW f d) f (s.fur f) :=
  s.leaves_wRows f (fun x => x.wRows.filter (fun w => w.dom != d))

theorem State.leaves_noteTick (s : State) (f : Fur) (d : Dom) (retired adv : Bool) :
    ∃ k, s.Leaves (s.noteTick f d retired adv) f ((s.fur f).setDom d { s.dom f d with tick := k }) := by
  have dropped := s.leaves_dropW f d
  refine ⟨_, dropped.thenDom (y := { s.dom f d with tick := (s.dom f d).noted (s.dom f d).pos retired adv (s.dom f d).course.isSome }) ?_⟩
  have same : (s.dropW f d).dom f d = s.dom f d := dropped.dom
  unfold State.noteTick State.modDom
  rw [same]
  exact State.leaves_setDom _ f d _

end

/-! ### The keeper's part -/

/-- Domain `y` is `x` but for its keeper and the signals of its last tick. -/
def Domain.Kept (x y : Domain) : Prop :=
  ∃ k a p b t, y = { x with keeper := k, keeperAcc := a, keeperPhase := p, lastBrick := b, tick := t }

theorem Domain.Kept.refl (x : Domain) : x.Kept x := ⟨_, _, _, _, _, rfl⟩

theorem Domain.Kept.trans {x y z : Domain} (h : x.Kept y) (h' : y.Kept z) : x.Kept z := by
  obtain ⟨_, _, _, _, _, rfl⟩ := h
  obtain ⟨k, a, p, b, t, rfl⟩ := h'
  exact ⟨k, a, p, b, t, rfl⟩

section
variable (s : State) (f : Fur) (d : Dom)

theorem State.leaves_bumpKeeper : s.Leaves (s.bumpKeeper f d) f ((s.fur f).setDom d { s.dom f d with keeper := (s.dom f d).keeper + 1 }) := by
  have counted := s.leaves_setDom f d { s.dom f d with keeper := (s.dom f d).keeper + 1 }
  unfold State.bumpKeeper
  dsimp only
  split
  · refine counted.thenSame ((State.leaves_ovf _ f (fun x => setBit x.ovf (16 + d.val) true)).thenSame ?_)
    exact State.leaves_offer _ f _ _ _ _ _
  · exact counted

theorem State.leaves_keeperTick (brickOp busy : Bool) :
    ∃ y, (s.dom f d).Kept y ∧ s.Leaves (s.keeperTick f d brickOp busy) f ((s.fur f).setDom d y) := by
  unfold State.keeperTick
  dsimp only
  split
  · exact ⟨_, ⟨_, _, _, _, _, rfl⟩, s.leaves_setDom f d _⟩
  · have phased : (s.dom f d).Kept (if busy = true then { s.dom f d with lastBrick := some s.time, keeperPhase := 8 } else s.dom f d) := by
      split
      · exact ⟨_, _, _, _, _, rfl⟩
      · exact .refl _
    generalize (if busy = true then { s.dom f d with lastBrick := some s.time, keeperPhase := 8 } else s.dom f d) = y1 at phased
    split
    · have gathered := s.leaves_setDom f d { y1 with keeperAcc := y1.keeperAcc + y1.keeperPhase - 8, tick := { y1.tick with kept := true } }
      refine ⟨_, ?_, gathered.thenDom (State.leaves_bumpKeeper _ f d) |> fun h => by rw [Furrow.setDom_setDom] at h; exact h⟩
      rw [State.dom_setDom]
      exact phased.trans ⟨_, _, _, _, _, rfl⟩
    · exact ⟨_, phased.trans ⟨_, _, _, _, _, rfl⟩, s.leaves_setDom f d _⟩

theorem State.leaves_keeperBeside : ∃ y, (s.dom f d).Kept y ∧ s.Leaves (s.keeperBeside f d) f ((s.fur f).setDom d y) := by
  have noted := s.leaves_setDom f d { s.dom f d with tick := { (s.dom f d).tick with kept := true } }
  have bumped := noted.thenDom (State.leaves_bumpKeeper _ f d)
  rw [Furrow.setDom_setDom, State.dom_setDom] at bumped
  exact ⟨_, ⟨_, _, _, _, _, rfl⟩, bumped⟩

end

/-! ### The close of a beat: the keeper, the counts and the way on (R44, R77 to R82) -/

/-- Domain `y` is `x` at another place of its program, or at its end (R77 to R82). -/
def Domain.Steers (x y : Domain) : Prop :=
  ∃ st loops stack rid pos done idle endAfter stop bricks causes frozenSince, (causes = x.causes ∨ causes = 0) ∧ y = { x with
    st := st, loops := loops, stack := stack, rid := rid, pos := pos, done := done, idle := idle, endAfter := endAfter, stop := stop,
    bricks := bricks, causes := causes, frozenSince := frozenSince }

section
variable {x y z : Domain}

theorem Domain.Steers.refl (x : Domain) : x.Steers x := ⟨_, _, _, _, _, _, _, _, _, _, _, _, .inl rfl, rfl⟩

theorem Domain.Steers.trans (h : x.Steers y) (h' : y.Steers z) : x.Steers z := by
  obtain ⟨_, _, _, _, _, _, _, _, _, _, ca, _, hc, rfl⟩ := h
  obtain ⟨st, lo, sk, ri, po, dn, id, ea, sp, br, ca', fs, hc', rfl⟩ := h'
  refine ⟨st, lo, sk, ri, po, dn, id, ea, sp, br, ca', fs, ?_, rfl⟩
  rcases hc' with e | e
  · rw [e]; exact hc
  · exact .inr e

theorem Domain.finishRoutine_steers (x : Domain) : x.Steers x.finishRoutine := ⟨_, _, _, _, _, _, _, _, _, _, _, _, .inr rfl, rfl⟩

theorem Domain.takeEnd_steers (x : Domain) : x.Steers x.takeEnd := by
  unfold Domain.takeEnd
  split
  · exact x.finishRoutine_steers
  · exact ⟨_, _, _, _, _, _, _, _, _, _, _, _, .inl rfl, rfl⟩

theorem Domain.makeCall_steers (x : Domain) (target : Nat) (t : Routine) (ret : Nat) (endBit : Bool) (loops : List Loop) :
    x.Steers (x.makeCall target t ret endBit loops) := ⟨_, _, _, _, _, _, _, _, _, _, _, _, .inl rfl, rfl⟩

theorem Domain.afterWord_steers (x : Domain) (fu : Furrow) (w : Word) (next : Nat) (seq : Option (Nat × Nat)) :
    x.Steers (x.afterWord fu w next seq) := by
  unfold Domain.afterWord
  split
  · exact ⟨_, _, _, _, _, _, _, _, _, _, _, _, .inl rfl, rfl⟩
  dsimp only
  have moved : x.Steers { x with done := 0, pos := (advLoops x.stack.length next x.loops).1, loops := (advLoops x.stack.length next x.loops).2 } :=
    ⟨_, _, _, _, _, _, _, _, _, _, _, _, .inl rfl, rfl⟩
  generalize { x with done := 0, pos := (advLoops x.stack.length next x.loops).1, loops := (advLoops x.stack.length next x.loops).2 } = y at moved
  have plain : x.Steers (if w.endBit = true then y.takeEnd else y) := by
    split
    · exact moved.trans y.takeEnd_steers
    · exact moved
  split
  · exact plain
  · split <;> exact ⟨_, _, _, _, _, _, _, _, _, _, _, _, .inl rfl, rfl⟩
  · exact moved.trans (y.makeCall_steers _ _ _ _ _)
  · split
    · exact moved.trans (y.makeCall_steers _ _ _ _ _)
    · exact ⟨_, _, _, _, _, _, _, _, _, _, _, _, .inl rfl, rfl⟩
  · exact moved.trans y.takeEnd_steers
  · exact moved.trans y.finishRoutine_steers
  · exact plain

theorem Domain.afterIdle_steers (x : Domain) : x.Steers x.afterIdle := by
  unfold Domain.afterIdle
  split
  · split
    · refine Domain.Steers.trans ?_ (Domain.takeEnd_steers _)
      exact ⟨_, _, _, _, _, _, _, _, _, _, _, _, .inl rfl, rfl⟩
    · exact ⟨_, _, _, _, _, _, _, _, _, _, _, _, .inl rfl, rfl⟩
  · exact ⟨_, _, _, _, _, _, _, _, _, _, _, _, .inl rfl, rfl⟩

end

/-- Domain `y` after a retired beat with `x` as the beat found it: one more on every count, and on its way (R41, R80). -/
def Domain.turned (y x : Domain) (fu : Furrow) (w : Option Word) (next : Nat) (seq : Option (Nat × Nat)) : Domain :=
  let z := { y with ticks := y.ticks + 1, beats := y.beats + 1, runBeats := y.runBeats + 1, beat := y.beat + 1 }
  let flagsAtStart := { z with flags := x.flags }
  if y.st != .running then z
  else match w with
  | some w => { flagsAtStart.afterWord fu w next seq with flags := z.flags }
  | none => z.afterIdle

/-- A domain that drains has no course, and one that lost a pair freezes there (R53, R171). -/
def Domain.cut (y : Domain) : Domain :=
  if y.st == .draining then (if y.pairLost then { y with st := .faulted, pairLost := false, course := none } else { y with course := none }) else y

/-- Domain `y` is `x` after the close of its beat: what the beat's end committed stands, and the beat is counted. -/
structure Domain.Closes (x y : Domain) : Prop where
  sregs : y.sregs = x.sregs
  aregs : y.aregs = x.aregs
  vregs : y.vregs = x.vregs
  flags : y.flags = x.flags
  live : y.live = x.live
  flights : y.flights = x.flights
  beat : y.beat = x.beat + 1
  beats : y.beats = x.beats + 1
  ticks : y.ticks = x.ticks + 1
  runBeats : y.runBeats = x.runBeats + 1
  course : x.course = none → y.course = none
  causes : x.causes = 0 → y.causes = 0

theorem Domain.Closes.of_kept {x y z : Domain} (h : x.Kept y) (h' : y.Closes z) : x.Closes z := by
  obtain ⟨k, a, p, b, t, rfl⟩ := h
  exact ⟨h'.sregs, h'.aregs, h'.vregs, h'.flags, h'.live, h'.flights, h'.beat, h'.beats, h'.ticks, h'.runBeats, h'.course, h'.causes⟩

theorem Domain.closes_turned (y x : Domain) (fu : Furrow) (w : Option Word) (next : Nat) (seq : Option (Nat × Nat)) :
    y.Closes (y.turned x fu w next seq) := by
  unfold Domain.turned
  dsimp only
  split
  · exact ⟨rfl, rfl, rfl, rfl, rfl, rfl, rfl, rfl, rfl, rfl, id, id⟩
  · cases w with
    | some w =>
      dsimp only
      have steers := Domain.afterWord_steers { y with
        ticks := y.ticks + 1, beats := y.beats + 1, runBeats := y.runBeats + 1, beat := y.beat + 1, flags := x.flags } fu w next seq
      obtain ⟨_, _, _, _, _, _, _, _, _, _, ca, _, hc, e⟩ := steers
      rw [e]
      refine ⟨rfl, rfl, rfl, rfl, rfl, rfl, rfl, rfl, rfl, rfl, id, fun h => ?_⟩
      exact hc.elim (fun e => e.trans h) id
    | none =>
      dsimp only
      have steers := Domain.afterIdle_steers { y with
        ticks := y.ticks + 1, beats := y.beats + 1, runBeats := y.runBeats + 1, beat := y.beat + 1 }
      obtain ⟨_, _, _, _, _, _, _, _, _, _, ca, _, hc, e⟩ := steers
      rw [e]
      refine ⟨rfl, rfl, rfl, rfl, rfl, rfl, rfl, rfl, rfl, rfl, id, fun h => ?_⟩
      exact hc.elim (fun e => e.trans h) id

theorem Domain.Closes.cut {x y : Domain} (h : x.Closes y) : x.Closes y.cut := by
  unfold Domain.cut
  split
  · split
    · exact { h with course := fun _ => rfl }
    · exact { h with course := fun _ => rfl }
  · exact h

theorem Domain.afterWord_empty_st (x : Domain) (fu : Furrow) (next : Nat) : (x.afterWord fu ⟨0, [], 0⟩ next none).st = x.st := by
  unfold Domain.afterWord
  split <;> rfl

/-- A word with no operation and no END leaves a RUNNING domain RUNNING (R77). -/
theorem Domain.cut_turned_running {y : Domain} (run : y.st = .running) (x : Domain) (fu : Furrow) (next : Nat) :
    (y.turned x fu (some ⟨0, [], 0⟩) next none).cut.st = .running := by
  have st : (y.turned x fu (some ⟨0, [], 0⟩) next none).st = .running := by
    unfold Domain.turned
    dsimp only
    rw [if_neg (by rw [run]; decide)]
    exact (Domain.afterWord_empty_st _ fu next).trans run
  unfold Domain.cut
  rw [if_neg (by rw [st]; decide)]
  exact st

/-! ### The three parts -/

/-- The acts of a beat's word, slot by slot. -/
def Env.slotsOf (v : Env) (w : Option Word) : List (SlotOp × List Act) :=
  match w with | some w => actsBySlot v v.x.rid v.x.pos none w.slots | none => []

/-- The harrow flags of a beat's operations (R218), and the audit of what they read (R51). -/
def State.raiseFlags (t : State) (f : Fur) (d : Dom) (rid addr : Nat) (bs : List (SlotOp × List Act)) : State :=
  bs.foldl (fun (s : State) p => p.2.foldl (fun (s : State) a => match a with
    | .hrw _ _ fl => s.harrowFlags f d rid addr p.1.slot p.1.code fl
    | _ => s) s) t
def State.auditSlots (t : State) (f : Fur) (d : Dom) (v : Env) (bs : List (SlotOp × List Act)) : State :=
  bs.foldl (fun (s : State) p => s.auditEarly f d v v.x.rid v.x.pos p.1.slot (auditReads v p.1 p.2)) t

section
variable (s : State) (f : Fur) (d : Dom)

/-- The accesses of port W in a beat, each with the one that takes its bank; the row that each reads (R104); the source of free values. -/
def State.clashesNow (acts : List Act) : List (Acc × Option Acc) := clashes (courseAccs s.build (liveCourse (s.dom f d) acts) ++ accsOf acts)
def State.rowNow (acts : List Act) (a : Acc) : RowBuf := if (s.servedNow f d acts).contains a then (s.env f d).readRow a else ⟨[], false⟩
def State.freeNow (acts : List Act) : Nat := if poisonedActs acts then s.free + 16 else s.free

/-- The step of a beat's course. -/
def State.courseStep (acts : List Act) : Option COut :=
  (liveCourse (s.dom f d) acts).map (fun c => c.run (s.env f d) ((courseAccs s.build (some c)).map (s.rowNow f d acts)) (s.freeNow acts))

/-- The operations that a beat puts in flight: those of its slots, and the results of its course's step (R33). -/
def State.slotFlights (w : Option Word) (acts : List Act) : List Flight :=
  ((s.env f d).slotsOf w).flatMap (fun p => flightsOf (s.env f d) (s.dom f d).rid (s.dom f d).pos (s.rowNow f d acts)
    (fun a => (s.servedNow f d acts).contains a) p.1 p.2)
def State.courseFlights (acts : List Act) : List Flight :=
  match s.courseStep f d acts with
  | none => []
  | some o => o.effs.map (fun p => ⟨(s.dom f d).beat + p.1 - 1, (s.dom f d).beat, 4, 0x38 + o.c.op, o.c.rid, o.c.addr, 0,
      s.build.audit && (s.fur f).auditEn, p.2⟩)

/-- The reads of a beat are made, its operations are in flight, and its course has advanced (R33, R109, R152). -/
def State.launch (w : Option Word) (acts : List Act) : State :=
  let x := s.dom f d
  let fresh := s.slotFlights f d w acts ++ s.courseFlights f d acts
  let old := if s.build.audit && (s.fur f).auditEn then markOvertaken s.build.depth x.flights fresh else x.flights
  let s0 := { s with free := match s.courseStep f d acts with | some o => o.free | none => s.freeNow acts }
  let s1 := s0.setFur f ((s.servedNow f d acts).foldl Furrow.accTags (s0.fur f))
  s1.modDom f d (fun y => { y with
    flights := old ++ fresh
    course := match s.courseStep f d acts with
      | none => none
      | some o => if o.c.t + 1 < o.c.cost then some { o.c with t := o.c.t + 1 } else none
    causes := 0, frozenSince := none, longReported := false, lastPos := posWord x.rid x.pos
    tick := y.noted x.pos true true (liveCourse x acts).isSome })

/-- The sticky bits and events of the issue of a beat of state `s`, written in `t` (R51, R104, R111, R218). -/
def State.issueEvents (t : State) (w : Option Word) (acts : List Act) : State :=
  let v := s.env f d
  let x := s.dom f d
  let course := liveCourse x acts
  let s3 := match s.courseStep f d acts with
    | some o => t.modFur f (fun z => z.wrFlags d o.ovf o.inv)
    | none => t
  let s4 := (s3.clashEvents f d (posWord x.rid x.pos) (s.clashesNow f d acts)).narrowPoison f d (posWord x.rid x.pos) v.fu (s.servedNow f d acts)
  let s5 := s4.raiseFlags f d x.rid x.pos (v.slotsOf w)
  let streams := (courseAccs s.build course).map (fun a => (4, a.addr.toNat / 512))
  let early := fun (s : State) => match course with
    | some c => s.auditEarly f d v c.rid c.addr 4 streams
    | none => s
  if s.build.audit && (s.fur f).auditEn then (early s5).auditSlots f d v (v.slotsOf w) else s5

/-- The first part of a beat: its flights, its events, and the acts that need no flight (R33, R38). -/
def State.issueBeat (w : Option Word) (acts : List Act) : State :=
  acts.foldl (fun t a => t.lateAct f d (s.dom f d).lastPut (s.dom f d).rid (s.dom f d).pos a)
    (s.issueEvents f d (s.launch f d w acts) w acts)

end

/-- The last part of a beat whose operations have committed: the keeper, the counts and the way on, with `v` as the beat found it. -/
def State.closeBeat (s : State) (f : Fur) (d : Dom) (v : Env) (w : Option Word) (acts : List Act) (next : Nat) : State :=
  let course := liveCourse v.x acts
  let feeds := match course with | some c => c.feeds v.b | none => false
  let swapped := acts.any (fun a => match a with | .swapOp _ _ => true | _ => false)
  let brickOp := match course with | some _ => feeds | none => swapped
  let bricks := match course with | some c => c.nb | none => v.x.bricks
  let kept := s.keeperTick f d brickOp course.isSome
  let beside := if brickOp && decide (bricks < v.act) then kept.keeperBeside f d else kept
  let seq := acts.findSome? (fun a => match a with | .seqOp c o => some (c, o) | _ => none)
  let turned := beside.modDom f d (fun y => y.turned v.x v.fu w next seq)
  let y : Domain := turned.dom f d
  if y.st == .draining then
    let z := if y.pairLost then { y with st := .faulted, pairLost := false, course := none } else { y with course := none }
    match y.course with
    | some c => (turned.setDom f d z).offer 0x0304 (srcDom f d) (posWord v.x.rid v.x.pos) (c.cost - c.t) d.val
    | none => turned.setDom f d z
  else turned

/-- A beat whose checks have passed: its issue, the commits of its end, and its close. -/
theorem State.retireActs_eq (s : State) (f : Fur) (d : Dom) (w : Option Word) (acts : List Act) (next : Nat) (mask : BitVec 4) :
    s.retireActs f d w acts next mask = ((s.issueBeat f d w acts).commitDue f d mask).closeBeat f d (s.env f d) w acts next := rfl

/-- The close of a beat changes only its domain: as the sequencer turns it, its keeper having run. -/
theorem State.leaves_closeBeat (s : State) (f : Fur) (d : Dom) (v : Env) (w : Option Word) (acts : List Act) (next : Nat) :
    ∃ k, (s.dom f d).Kept k ∧ s.Leaves (s.closeBeat f d v w acts next) f ((s.fur f).setDom d
      (k.turned v.x v.fu w next (acts.findSome? (fun a => match a with | .seqOp c o => some (c, o) | _ => none))).cut) := by
  unfold State.closeBeat
  dsimp only
  generalize (match liveCourse v.x acts with | some c => c.feeds v.b | none => false) = feeds
  generalize (match liveCourse v.x acts with
    | some _ => feeds
    | none => acts.any (fun a => match a with | .swapOp _ _ => true | _ => false)) = brickOp
  generalize (match liveCourse v.x acts with | some c => c.nb | none => v.x.bricks) = bricks
  generalize (acts.findSome? (fun a => match a with | .seqOp c o => some (c, o) | _ => none)) = seq
  obtain ⟨k, keeps, kept⟩ := s.leaves_keeperTick f d brickOp (liveCourse v.x acts).isSome
  generalize s.keeperTick f d brickOp (liveCourse v.x acts).isSome = t at kept
  have beside : ∃ k, (s.dom f d).Kept k ∧ s.Leaves (if (brickOp && decide (bricks < v.act)) = true then t.keeperBeside f d else t) f
      ((s.fur f).setDom d k) := by
    split
    · obtain ⟨k', keeps', kept'⟩ := t.leaves_keeperBeside f d
      rw [kept.dom, Furrow.dom_setDom] at keeps'
      refine ⟨k', keeps.trans keeps', ?_⟩
      have both := kept.thenDom kept'
      rwa [Furrow.setDom_setDom] at both
    · exact ⟨k, keeps, kept⟩
  generalize (if (brickOp && decide (bricks < v.act)) = true then t.keeperBeside f d else t) = u at beside
  obtain ⟨k, keeps, kept⟩ := beside
  refine ⟨k, keeps, ?_⟩
  have here : u.dom f d = k := by rw [kept.dom, Furrow.dom_setDom]
  have turned : s.Leaves (u.modDom f d (fun y => y.turned v.x v.fu w next seq)) f ((s.fur f).setDom d (k.turned v.x v.fu w next seq)) := by
    unfold State.modDom
    rw [here]
    have both := kept.thenDom (u.leaves_setDom f d (k.turned v.x v.fu w next seq))
    rwa [Furrow.setDom_setDom] at both
  generalize u.modDom f d (fun y => y.turned v.x v.fu w next seq) = r at turned
  have there : r.dom f d = k.turned v.x v.fu w next seq := by rw [turned.dom, Furrow.dom_setDom]
  rw [there]
  generalize k.turned v.x v.fu w next seq = y at turned
  have ends : ∀ z, s.Leaves (r.setDom f d z) f ((s.fur f).setDom d z) := fun z => by
    have both := turned.thenDom (r.leaves_setDom f d z)
    rwa [Furrow.setDom_setDom] at both
  unfold Domain.cut
  split
  · split
    · exact (ends _).thenSame (State.leaves_offer _ f _ _ _ _ _)
    · exact ends _
  · exact turned

/-- After the close of a beat the domain has gone on with what the beat's end committed, and the rest is as that left it. -/
theorem State.closeBeat_closes (s : State) (f : Fur) (d : Dom) (v : Env) (w : Option Word) (acts : List Act) (next : Nat) :
    ∃ y, (s.dom f d).Closes y ∧ s.Leaves (s.closeBeat f d v w acts next) f ((s.fur f).setDom d y) := by
  obtain ⟨k, kept, left⟩ := s.leaves_closeBeat f d v w acts next
  exact ⟨_, .of_kept kept (k.closes_turned _ _ _ _ _).cut, left⟩

end Sys2Proof.Machine
end

section
/-! PROOFS. What commits at the end of a beat, by how many operations are due (R33 to R35). -/
namespace Sys2Proof.Machine

/-! ### The lists of a beat's end -/

/-- The operations of domain `y` whose beat has come, and those still in flight. -/
def Domain.dueNow (y : Domain) : List Flight := sortFlights (y.flights.filter (fun g => decide (g.due ≤ y.beat)))
def Domain.stillFly (y : Domain) : List Flight := y.flights.filter (fun g => !decide (g.due ≤ y.beat))

/-- Of operations that commit in one beat, each with the one that discards it (R35). -/
def collisions (depth : Nat) (due : List Flight) : List (Flight × Option Flight) :=
  due.mapIdx (fun i g => (g, lostTo depth g (due.drop (i + 1))))
def keptOf (depth : Nat) (due : List Flight) : List Flight := ((collisions depth due).filter (fun p => p.2.isNone)).map (fun p => p.1)
def lostOf (depth : Nat) (due : List Flight) : List (Flight × Flight) := (collisions depth due).filterMap (fun p => p.2.map (fun k => (k, p.1)))

/-- Operations that commit, phase by phase. -/
def inPhases (gs : List Flight) : List Flight := (List.range 4).flatMap (fun ph => inIssueOrder (gs.filter (fun g => g.eff.phase == ph)))

/-- The commits of a beat's end, from the lists: `n` operations are due, `rest` fly on, `kept` commit in the order `run`, `lost` are discarded
and the exchanges `absorbed` made one with others. -/
def State.commitLists (s : State) (f : Fur) (d : Dom) (mask : BitVec 4) (n : Nat) (rest kept run : List Flight) (lost : List (Flight × Flight))
    (absorbed : List Flight) : State :=
  let s0 := { s.modDom f d (fun y => { y with flights := rest }) with free := s.free + n }
  let s1 := (s0.commitList (s.fur f) f d (run.mapIdx (fun i g => spoil (s.free + i) mask g))).modDom f d (fun y => { y with
    lateAdds := lateLogs rest y.lateAdds })
  let s2 := (lost.foldl (fun s p => s.overtakenEvent f d p.2) s1).collide f d lost
  let s3 := absorbed.foldl (fun s g => match g.eff with
    | .swap _ n _ => s.offer 0x0303 (srcDom f d) (posWord g.rid g.addr) n.toNat d.val
    | _ => s) s2
  ((s3.dropW f d).modFur f (fun x => { x with wRows := x.wRows ++ wRowsOf d kept })).mismatches f d mask run

theorem State.commitDue_eq (s : State) (f : Fur) (d : Dom) (mask : BitVec 4) : s.commitDue f d mask =
    s.commitLists f d mask (s.dom f d).dueNow.length (s.dom f d).stillFly (keptOf s.build.depth (s.dom f d).dueNow)
      (inPhases (mergeSwaps (keptOf s.build.depth (s.dom f d).dueNow)).1) (lostOf s.build.depth (s.dom f d).dueNow)
      (mergeSwaps (keptOf s.build.depth (s.dom f d).dueNow)).2 := rfl

/-! ### None due, or one -/

theorem spoil_zero (n : Nat) (g : Flight) : spoil n 0 g = g := by
  obtain ⟨due, issue, slot, code, rid, addr, overtaken, stamped, eff⟩ := g
  cases eff <;> simp [spoil, bitOf]

theorem lostTo_nil (depth : Nat) (g : Flight) : lostTo depth g [] = none := by
  unfold lostTo
  split <;> rfl

theorem keptOf_one (depth : Nat) (g : Flight) : keptOf depth [g] = [g] := by
  simp [keptOf, collisions, lostTo_nil]

theorem lostOf_one (depth : Nat) (g : Flight) : lostOf depth [g] = [] := by
  simp [lostOf, collisions, lostTo_nil]

theorem mergeSwaps_one (g : Flight) : mergeSwaps [g] = ([g], []) := by
  obtain ⟨due, issue, slot, code, rid, addr, overtaken, stamped, eff⟩ := g
  cases eff with
  | swap p n auto =>
    cases auto
    · have all : p &&& ~~~(0 : BitVec 2) = p := by revert p; decide
      simpa [mergeSwaps] using all
    · simp [mergeSwaps]
  | _ => simp [mergeSwaps]

theorem inPhases_one (g : Flight) : inPhases [g] = [g] := by
  have phase : g.eff.phase = 0 ∨ g.eff.phase = 1 ∨ g.eff.phase = 2 ∨ g.eff.phase = 3 := by
    unfold Effect.phase
    split <;> simp
  unfold inPhases
  rcases phase with e | e | e | e <;>
    simp [List.range, List.range.loop, e, inIssueOrder, insertIssue]

theorem lateLogs_nil (t : Tab LaneLog) : lateLogs [] t = [] := by
  simp [lateLogs, addsEarlier]

theorem State.mismatches_zero (s : State) (f : Fur) (d : Dom) (gs : List Flight) : s.mismatches f d 0 gs = s := by
  simp [State.mismatches, bitOf, List.range, List.range.loop]

theorem State.mismatches_nil (s : State) (f : Fur) (d : Dom) (mask : BitVec 4) : s.mismatches f d mask [] = s := by
  simp [State.mismatches, List.range, List.range.loop]

section
variable (s : State) (f : Fur) (d : Dom)

/-- Where no result is discarded, no exchange is absorbed and no residue check fails, the operations that run are all that commits. -/
theorem State.leaves_commitLists {mask : BitVec 4} {n : Nat} {rest kept run : List Flight} {x : Furrow} (clean : mask = 0 ∨ run = [])
    (h : s.Leaves (({ s.modDom f d (fun y => { y with flights := rest }) with free := s.free + n }).commitList (s.fur f) f d
      (run.mapIdx (fun i g => spoil (s.free + i) mask g))) f x) :
    s.Leaves (s.commitLists f d mask n rest kept run [] []) f (x.setDom d { x.dom d with lateAdds := lateLogs rest (x.dom d).lateAdds }) := by
  have quiet : ∀ t : State, t.mismatches f d mask run = t := fun t => by
    rcases clean with rfl | rfl
    · exact t.mismatches_zero f d run
    · exact t.mismatches_nil f d mask
  unfold State.commitLists
  simp only [List.foldl_nil, State.collide, quiet]
  generalize State.commitList _ _ _ _ _ = u at h ⊢
  have logged := h.thenDom (u.leaves_setDom f d { u.dom f d with lateAdds := lateLogs rest (u.dom f d).lateAdds })
  rw [h.dom] at logged
  refine Leaves.thenSame ?_ (State.leaves_wRows _ f (fun x => x.wRows ++ wRowsOf d kept))
  refine Leaves.thenSame ?_ (State.leaves_dropW _ f d)
  unfold State.modDom
  rw [h.dom]
  exact logged

/-- Where nothing is due, a beat's end changes of its domain only the logs of late additions. -/
theorem State.leaves_commitDue_none (mask : BitVec 4) (later : ∀ g ∈ (s.dom f d).flights, ¬ g.due ≤ (s.dom f d).beat) :
    ∃ l, s.Leaves (s.commitDue f d mask) f ((s.fur f).setDom d { s.dom f d with lateAdds := l }) := by
  have due : (s.dom f d).dueNow = [] := by
    unfold Domain.dueNow
    rw [List.filter_eq_nil_iff.mpr fun g hg => by simpa using later g hg]
    rfl
  have rest : (s.dom f d).stillFly = (s.dom f d).flights := List.filter_eq_self.mpr fun g hg => by simpa using later g hg
  rw [s.commitDue_eq f d mask, due, rest]
  have flown := s.leaves_setDom f d { s.dom f d with flights := (s.dom f d).flights }
  have all := s.leaves_commitLists f d (rest := (s.dom f d).flights) (kept := []) (run := []) (n := 0) (mask := mask) (.inr rfl) flown
  rw [Furrow.setDom_setDom, Furrow.dom_setDom] at all
  exact ⟨_, all⟩

/-- What one operation in flight leaves when it commits alone, `n` being the source of free values. -/
def Furrow.committed (x : Furrow) (depth : Nat) (d : Dom) (n : Nat) (g : Flight) : Furrow :=
  ((x.setDom d { x.dom d with flights := [] }).applyEff x depth d n g.slot g.issue g.eff).1

/-- A commit of one operation that overtook nothing is its effect, but for the mark of the first poisoned windrow write (R218). -/
theorem State.leaves_commitList_one (x0 : Furrow) {g : Flight} (h : g.overtaken = 0) : ∃ w,
    let o := ((s.fur f).applyEff x0 s.build.depth d s.free g.slot g.issue g.eff).1
    s.Leaves (s.commitList x0 f d [g]) f (o.setDom d { o.dom d with winFirst := w }) := by
  unfold State.commitList State.commitList
  dsimp only
  generalize (s.fur f).applyEff x0 s.build.depth d s.free g.slot g.issue g.eff = o
  have applied : ∀ n, s.Leaves { s.setFur f o.1 with free := n } f o.1 := fun n => ⟨o.1.ovf, o.1.wRows, n, s.gl, rfl⟩
  specialize applied (match g.eff with | .mac .. => s.free + 512 | _ => s.free)
  generalize { s.setFur f o.1 with free := match g.eff with | .mac .. => s.free + 512 | _ => s.free } = u at applied ⊢
  have same : s.Leaves u f (o.1.setDom d { o.1.dom d with winFirst := (o.1.dom d).winFirst }) := by
    have e : o.1.setDom d { o.1.dom d with winFirst := (o.1.dom d).winFirst } = o.1 := o.1.setDom_dom d
    rwa [e]
  have quiet : ∀ t : State, t.overtakenEvent f d g = t := fun t => by
    unfold State.overtakenEvent
    rw [if_pos h]
  simp only [quiet]
  split
  · split
    · exact ⟨_, same⟩
    · refine ⟨true, Leaves.thenSame ?_ (State.leaves_offer _ f _ _ _ _ _)⟩
      have marked := applied.thenDom (u.leaves_setDom f d { u.dom f d with winFirst := true })
      rw [applied.dom] at marked
      unfold State.modDom
      rw [applied.dom]
      exact marked
  · exact ⟨_, same⟩

/-- The one operation in flight, when its beat has come, commits alone at the beat's end. -/
theorem State.leaves_commitDue_one {g : Flight} (alone : (s.dom f d).flights = [g]) (due : g.due ≤ (s.dom f d).beat) (ov : g.overtaken = 0) :
    ∃ n w, let o := (s.fur f).committed s.build.depth d n g
      s.Leaves (s.commitDue f d 0) f (o.setDom d { o.dom d with lateAdds := [], winFirst := w }) := by
  have now : (s.dom f d).dueNow = [g] := by
    unfold Domain.dueNow
    rw [alone, List.filter_cons_of_pos (by simpa using due)]
    rfl
  have rest : (s.dom f d).stillFly = [] := by
    unfold Domain.stillFly
    rw [alone, List.filter_cons_of_neg (by simpa using due)]
    rfl
  rw [s.commitDue_eq f d 0, now, rest]
  simp only [keptOf_one, lostOf_one, mergeSwaps_one, inPhases_one]
  have flown : s.Leaves { s.modDom f d (fun y => { y with flights := [] }) with free := s.free + [g].length } f
      ((s.fur f).setDom d { s.dom f d with flights := [] }) := ⟨(s.fur f).ovf, (s.fur f).wRows, s.free + [g].length, s.gl, rfl⟩
  have here : ({ s.modDom f d (fun y => { y with flights := [] }) with free := s.free + [g].length } : State).fur f =
      (s.fur f).setDom d { s.dom f d with flights := [] } := s.fur_setFur f _
  obtain ⟨w, run⟩ := State.leaves_commitList_one { s.modDom f d (fun y => { y with flights := [] }) with free := s.free + [g].length } f d
    (s.fur f) ov
  rw [here] at run
  have all := s.leaves_commitLists f d (rest := []) (kept := [g]) (run := [g]) (n := [g].length) (mask := 0) (.inl rfl)
    (by simpa only [List.mapIdx_cons, List.mapIdx_nil, spoil_zero] using flown.trans run)
  rw [Furrow.setDom_setDom, Furrow.dom_setDom, lateLogs_nil] at all
  exact ⟨_, w, all⟩

end
end Sys2Proof.Machine
end

section
/-! PROOFS. The beat of a scalar or address operation, and of no operation (R33, R38, R67). -/
namespace Sys2Proof.Machine

/-! ### The issue of a beat that reads no memory and has no course -/

/-- An act that only writes a register. -/
def Act.IsEff (a : Act) : Prop := ∃ lat e, a = .eff lat e

theorem accsOf_effs {acts : List Act} (h : ∀ a ∈ acts, a.IsEff) : accsOf acts = [] := by
  unfold accsOf
  refine List.filterMap_eq_nil_iff.mpr fun a ha => ?_
  obtain ⟨lat, e, rfl⟩ := h a ha
  rfl

theorem tileOf_effs {acts : List Act} (h : ∀ a ∈ acts, a.IsEff) : tileOf acts = none := by
  unfold tileOf
  refine List.findSome?_eq_none_iff.mpr fun a ha => ?_
  obtain ⟨lat, e, rfl⟩ := h a ha
  rfl

theorem liveCourse_effs {x : Domain} {acts : List Act} (idle : x.course = none) (h : ∀ a ∈ acts, a.IsEff) : liveCourse x acts = none := by
  unfold liveCourse
  rw [idle, tileOf_effs h]

theorem poisonedActs_effs {acts : List Act} (h : ∀ a ∈ acts, a.IsEff) : poisonedActs acts = false := by
  unfold poisonedActs
  refine List.any_eq_false.mpr fun a ha => ?_
  obtain ⟨lat, e, rfl⟩ := h a ha
  exact Bool.false_ne_true

theorem foldl_eq_self {α β : Type} {g : α → β → α} {l : List β} (h : ∀ a, ∀ b ∈ l, g a b = a) (a : α) : l.foldl g a = a := by
  induction l with
  | nil => rfl
  | cons b r ih => rw [List.foldl_cons, h a b (List.mem_cons_self ..), ih fun a c hc => h a c (List.mem_cons_of_mem _ hc)]

theorem markOvertaken_nil (depth : Nat) (old : List Flight) : markOvertaken depth old [] = old := by
  simp [markOvertaken]

theorem State.auditEarly_none_flying (s : State) (f : Fur) (d : Dom) {v : Env} (h : v.x.flights = []) (rid addr slot : Nat) (rs : List (Nat × Nat)) :
    s.auditEarly f d v rid addr slot rs = s := by
  unfold State.auditEarly
  refine foldl_eq_self (fun s r _ => ?_) s
  simp [h]

section
variable {s : State} {f : Fur} {d : Dom} {w : Option Word} {acts : List Act}

/-- A beat that reads no memory, has no course and only writes registers puts its results in flight, and changes nothing else; here nothing is
in flight already, or the beat has no operation. -/
theorem State.leaves_launch (idle : (s.dom f d).course = none) (effs : ∀ a ∈ acts, a.IsEff)
    (alone : (s.dom f d).flights = [] ∨ s.slotFlights f d w acts = []) :
    ∃ l k, s.Leaves (s.launch f d w acts) f ((s.fur f).setDom d { s.dom f d with
      flights := (s.dom f d).flights ++ s.slotFlights f d w acts
      course := none, causes := 0, frozenSince := none, longReported := false, lastPos := l, tick := k }) := by
  have course := liveCourse_effs idle effs
  have step : s.courseStep f d acts = none := by unfold State.courseStep; rw [course]; rfl
  have none : s.courseFlights f d acts = [] := by unfold State.courseFlights; rw [step]
  have served : s.servedNow f d acts = [] := by
    unfold State.servedNow State.courseNow
    rw [course, accsOf_effs effs]
    rfl
  have old : (if (s.build.audit && (s.fur f).auditEn) = true then markOvertaken s.build.depth (s.dom f d).flights (s.slotFlights f d w acts)
      else (s.dom f d).flights) = (s.dom f d).flights := by
    split
    · rcases alone with h | h
      · rw [h]; rfl
      · rw [h, markOvertaken_nil]
    · rfl
  unfold State.launch
  simp only [step, none, served, List.append_nil, List.foldl_nil, old]
  have freed : s.Leaves { s with free := s.freeNow acts } f (s.fur f) :=
    ⟨(s.fur f).ovf, (s.fur f).wRows, s.freeNow acts, s.gl, by rw [s.setFur_fur f]⟩
  rw [State.setFur_fur]
  exact ⟨_, _, freed.thenDom (State.leaves_setDom _ f d _)⟩

/-- The acts of the word are such acts, slot by slot, and so are those of the beat. -/
theorem State.issueEvents_effs (t : State) (idle : (s.dom f d).course = none) (effs : ∀ a ∈ acts, a.IsEff)
    (slots : ∀ p ∈ (s.env f d).slotsOf w, ∀ a ∈ p.2, a.IsEff) (alone : (s.dom f d).flights = [] ∨ (s.env f d).slotsOf w = []) :
    s.issueEvents f d t w acts = t := by
  have course := liveCourse_effs idle effs
  have step : s.courseStep f d acts = none := by unfold State.courseStep; rw [course]; rfl
  have free : s.clashesNow f d acts = [] := by
    unfold State.clashesNow
    rw [course, accsOf_effs effs]
    rfl
  have served : s.servedNow f d acts = [] := by
    unfold State.servedNow State.courseNow
    rw [course, accsOf_effs effs]
    rfl
  have raised : ∀ u : State, u.raiseFlags f d (s.dom f d).rid (s.dom f d).pos ((s.env f d).slotsOf w) = u :=
    foldl_eq_self fun u p hp => foldl_eq_self (fun u a ha => by
      obtain ⟨lat, e, rfl⟩ := slots p hp a ha
      rfl) u
  have audited : ∀ u : State, u.auditSlots f d (s.env f d) ((s.env f d).slotsOf w) = u := by
    rcases alone with h | h
    · exact foldl_eq_self fun u p _ => u.auditEarly_none_flying f d h _ _ _ _
    · rw [h]; exact fun _ => rfl
  unfold State.issueEvents
  simp only [step, free, served, course, State.clashEvents, State.narrowPoison, List.foldl_nil, raised, audited, ite_self]

theorem State.lateActs_effs (t : State) (effs : ∀ a ∈ acts, a.IsEff) (lastPut : Option Nat) (rid addr : Nat) :
    acts.foldl (fun t a => t.lateAct f d lastPut rid addr a) t = t :=
  foldl_eq_self (fun t a ha => by
    obtain ⟨lat, e, rfl⟩ := effs a ha
    rfl) t

/-- The issue of such a beat is its launch. -/
theorem State.issueBeat_effs (idle : (s.dom f d).course = none) (effs : ∀ a ∈ acts, a.IsEff)
    (slots : ∀ p ∈ (s.env f d).slotsOf w, ∀ a ∈ p.2, a.IsEff) (alone : (s.dom f d).flights = [] ∨ (s.env f d).slotsOf w = []) :
    s.issueBeat f d w acts = s.launch f d w acts := by
  unfold State.issueBeat
  rw [State.issueEvents_effs _ idle effs slots alone, State.lateActs_effs _ effs]

end

end Sys2Proof.Machine
end

section
/-! PROOFS. O23: the frame of a scalar or address operation (R33, R38, R67). -/
namespace Sys2Proof.Machine

/-! ### Reads of a vector after a write -/

theorem toList_getD_vput_self {α : Type} {n i : Nat} (h : i < n) (v : Vector α n) (x d : α) : (vput v i x).toList.getD i d = x := by
  simp [vput, h, List.getD]

theorem toList_getD_vput_ne {α : Type} {n i j : Nat} (h : j ≠ i) (v : Vector α n) (x d : α) : (vput v i x).toList.getD j d = v.toList.getD j d := by
  unfold vput
  split
  · simp [List.getD, Ne.symm h]
  · rfl

/-! ### The beat as a whole -/

section
variable {s : State} {f : Fur} {d : Dom} {w : Option Word} {acts : List Act} {mask : BitVec 4} {x : Furrow}

/-- From what the end of a beat commits, what the beat leaves: its domain has been turned, its keeper having run. -/
theorem State.retireBeat_turns (next : Nat) (h : s.Leaves ((s.issueBeat f d w acts).commitDue f d mask) f x) :
    ∃ k, (x.dom d).Kept k ∧ s.Leaves (s.retireBeat f d w acts next mask) f (x.setDom d
      (k.turned (s.dom f d) (s.fur f) w next (acts.findSome? (fun a => match a with | .seqOp c o => some (c, o) | _ => none))).cut) := by
  obtain ⟨k, kept, left⟩ := ((s.issueBeat f d w acts).commitDue f d mask).leaves_closeBeat f d (s.env f d) w acts next
  rw [h.dom] at kept
  refine ⟨k, kept, (h.thenDom left).thenSame ?_⟩
  rw [← s.retireActs_eq f d w acts next mask]
  exact State.leaves_ordered s _ f

/-- The same by fields: the commits stand, and the beat is counted. -/
theorem State.retireBeat_closes (next : Nat) (h : s.Leaves ((s.issueBeat f d w acts).commitDue f d mask) f x) :
    ∃ y, (x.dom d).Closes y ∧ s.Leaves (s.retireBeat f d w acts next mask) f (x.setDom d y) := by
  obtain ⟨k, kept, left⟩ := State.retireBeat_turns next h
  exact ⟨_, .of_kept kept (k.closes_turned _ _ _ _ _).cut, left⟩

end

/-! ### The beat of one operation that writes a register -/

/-- The flight of a register's result issued in this beat with latency `lat` (R33). -/
def State.effFlight (s : State) (f : Fur) (d : Dom) (o : SlotOp) (lat : Nat) (e : Effect) : Flight :=
  ⟨(s.dom f d).beat + lat - 1, (s.dom f d).beat, o.slot, o.code, (s.dom f d).rid, (s.dom f d).pos, 0, s.build.audit && (s.fur f).auditEn, e⟩

section
variable {s : State} {f : Fur} {d : Dom} {o : SlotOp} {lat : Nat} {e : Effect}

theorem Env.slotsOf_one {acts : List Act} (h : slotActs (s.env f d) (s.dom f d).rid (s.dom f d).pos none o = .ok acts) :
    (s.env f d).slotsOf (some (oneOp o)) = [(o, acts)] := by
  show [(o, match slotActs (s.env f d) (s.dom f d).rid (s.dom f d).pos none o with | .ok as => as | .error _ => [])] = _
  rw [h]

/-- The issue of such an operation puts its result in flight, where nothing was. -/
theorem State.leaves_issueBeat_eff (quiet : (s.dom f d).flights = []) (idle : (s.dom f d).course = none)
    (h : slotActs (s.env f d) (s.dom f d).rid (s.dom f d).pos none o = .ok [.eff lat e]) :
    ∃ l k, s.Leaves (s.issueBeat f d (some (oneOp o)) [.eff lat e]) f ((s.fur f).setDom d { s.dom f d with
      flights := [s.effFlight f d o lat e]
      course := none, causes := 0, frozenSince := none, longReported := false, lastPos := l, tick := k }) := by
  have slots := Env.slotsOf_one h
  have effs : ∀ a ∈ [Act.eff lat e], a.IsEff := fun a ha => ⟨lat, e, List.mem_singleton.mp ha⟩
  have flies : s.slotFlights f d (some (oneOp o)) [.eff lat e] = [s.effFlight f d o lat e] := by
    unfold State.slotFlights
    rw [slots]
    rfl
  obtain ⟨l, k, launched⟩ := State.leaves_launch (w := some (oneOp o)) idle effs (.inl quiet)
  rw [flies, quiet] at launched
  refine ⟨l, k, ?_⟩
  rw [State.issueBeat_effs idle effs (by rw [slots]; simpa using effs) (.inl quiet)]
  exact launched

/-- Of its registers, `y` differs from `x` at most in the one that an operation of latency `lat` writes, which reads its value if the latency is 1. -/
structure Domain.Wrote (x y : Domain) (lat i : Nat) (v : W64) (e : Effect) : Prop where
  vregs : y.vregs = x.vregs
  flags : y.flags = x.flags
  live : y.live = x.live
  beat : y.beat = x.beat
  beats : y.beats = x.beats
  ticks : y.ticks = x.ticks
  sreg : ∀ j, (e = .sreg i v → j ≠ i) → y.sreg j = x.sreg j
  areg : ∀ j, (e = .areg i v → j ≠ i) → y.areg j = x.areg j
  result : lat = 1 → (e = .sreg i v → i < 32 → y.sreg i = v) ∧ (e = .areg i v → i < 16 → y.areg i = v)

/-- What an operation of latency 2 or more leaves in its first beat: its destination is still as it was. -/
theorem Domain.wrote_later {x y : Domain} {lat i : Nat} {v : W64} {e : Effect} (late : lat ≠ 1) (vregs : y.vregs = x.vregs) (flags : y.flags = x.flags) (live : y.live = x.live)
    (beat : y.beat = x.beat) (beats : y.beats = x.beats) (ticks : y.ticks = x.ticks) (sregs : y.sregs = x.sregs) (aregs : y.aregs = x.aregs) :
    x.Wrote y lat i v e :=
  ⟨vregs, flags, live, beat, beats, ticks, fun j _ => by unfold Domain.sreg; rw [sregs], fun j _ => by unfold Domain.areg; rw [aregs],
    fun h => absurd h late⟩

theorem Domain.wrote_sreg {x y : Domain} {lat i : Nat} {v : W64} (vregs : y.vregs = x.vregs) (flags : y.flags = x.flags) (live : y.live = x.live)
    (beat : y.beat = x.beat) (beats : y.beats = x.beats) (ticks : y.ticks = x.ticks) (sregs : y.sregs = vput x.sregs i v)
    (aregs : y.aregs = x.aregs) : x.Wrote y lat i v (.sreg i v) :=
  ⟨vregs, flags, live, beat, beats, ticks,
    fun j hj => by unfold Domain.sreg; rw [sregs]; exact toList_getD_vput_ne (hj rfl) _ _ _,
    fun j _ => by unfold Domain.areg; rw [aregs],
    fun _ => ⟨fun _ hi => by unfold Domain.sreg; rw [sregs]; exact toList_getD_vput_self hi _ _ _, nofun⟩⟩

theorem Domain.wrote_areg {x y : Domain} {lat i : Nat} {v : W64} (vregs : y.vregs = x.vregs) (flags : y.flags = x.flags) (live : y.live = x.live)
    (beat : y.beat = x.beat) (beats : y.beats = x.beats) (ticks : y.ticks = x.ticks) (sregs : y.sregs = x.sregs)
    (aregs : y.aregs = vput x.aregs i v) : x.Wrote y lat i v (.areg i v) :=
  ⟨vregs, flags, live, beat, beats, ticks,
    fun j _ => by unfold Domain.sreg; rw [sregs],
    fun j hj => by unfold Domain.areg; rw [aregs]; exact toList_getD_vput_ne (hj rfl) _ _ _,
    fun _ => ⟨nofun, fun _ hi => by unfold Domain.areg; rw [aregs]; exact toList_getD_vput_self hi _ _ _⟩⟩

theorem Furrow.committed_sreg (x : Furrow) (depth : Nat) (d : Dom) (n : Nat) {g : Flight} {i : Nat} {v : W64} (h : g.eff = .sreg i v) :
    x.committed depth d n g = x.setDom d { x.dom d with flights := [], sregs := vput (x.dom d).sregs i v } := by
  unfold Furrow.committed
  rw [h]
  unfold Furrow.applyEff
  dsimp only
  rw [Furrow.setDom_setDom, Furrow.dom_setDom]

theorem Furrow.committed_areg (x : Furrow) (depth : Nat) (d : Dom) (n : Nat) {g : Flight} {i : Nat} {v : W64} (h : g.eff = .areg i v) :
    x.committed depth d n g = x.setDom d { x.dom d with flights := [], aregs := vput (x.dom d).aregs i v } := by
  unfold Furrow.committed
  rw [h]
  unfold Furrow.applyEff
  dsimp only
  rw [Furrow.setDom_setDom, Furrow.dom_setDom]

/-- At the end of the beat the result is in its register if the latency is 1, and in flight if it is more. -/
theorem State.commits_eff {i : Nat} {v : W64} (quiet : (s.dom f d).flights = []) (idle : (s.dom f d).course = none) (dst : e = .sreg i v ∨ e = .areg i v)
    (one : 1 ≤ lat) (h : slotActs (s.env f d) (s.dom f d).rid (s.dom f d).pos none o = .ok [.eff lat e]) :
    ∃ y, (s.dom f d).Wrote y lat i v e ∧
      s.Leaves ((s.issueBeat f d (some (oneOp o)) [.eff lat e]).commitDue f d 0) f ((s.fur f).setDom d y) := by
  obtain ⟨l, k, issued⟩ := State.leaves_issueBeat_eff quiet idle h
  generalize s.issueBeat f d (some (oneOp o)) [.eff lat e] = u at issued
  have here := issued.dom (d := d)
  rw [Furrow.dom_setDom] at here
  by_cases first : lat = 1
  · subst first
    obtain ⟨n, m, commit⟩ := u.leaves_commitDue_one f d (g := s.effFlight f d o 1 e) (by rw [here]) (by rw [here]; exact Nat.le_refl _) rfl
    rcases dst with rfl | rfl
    · rw [Furrow.committed_sreg _ _ _ _ rfl] at commit
      dsimp only at commit
      rw [Furrow.setDom_setDom, Furrow.dom_setDom, ← State.dom, here] at commit
      have both := issued.thenDom commit
      rw [Furrow.setDom_setDom] at both
      refine ⟨_, ?_, both⟩
      exact Domain.wrote_sreg rfl rfl rfl rfl rfl rfl rfl rfl
    · rw [Furrow.committed_areg _ _ _ _ rfl] at commit
      dsimp only at commit
      rw [Furrow.setDom_setDom, Furrow.dom_setDom, ← State.dom, here] at commit
      have both := issued.thenDom commit
      rw [Furrow.setDom_setDom] at both
      refine ⟨_, ?_, both⟩
      exact Domain.wrote_areg rfl rfl rfl rfl rfl rfl rfl rfl
  · obtain ⟨m, commit⟩ := u.leaves_commitDue_none f d 0 (by
      rw [here]
      intro g hg
      rw [List.mem_singleton.mp hg]
      show ¬ (s.dom f d).beat + lat - 1 ≤ (s.dom f d).beat
      omega)
    rw [here] at commit
    have both := issued.thenDom commit
    rw [Furrow.setDom_setDom] at both
    refine ⟨_, ?_, both⟩
    exact Domain.wrote_later first rfl rfl rfl rfl rfl rfl rfl rfl

end

/-- Settles O23: the beat leaves its furrow with its one domain changed, whose result has committed or is in flight. -/
theorem scalarFrame : Obligations.ScalarFrame := by
  unfold Obligations.ScalarFrame
  intro s f d o lat i v e x acts t y quiet idle dst one issues
  obtain ⟨z, wrote, commit⟩ := State.commits_eff quiet idle dst one issues
  obtain ⟨y', closes, left⟩ := State.retireBeat_closes (s.dom f d).pos commit
  rw [Furrow.dom_setDom] at closes
  rw [Furrow.setDom_setDom] at left
  have left : s.Leaves t f ((s.fur f).setDom d y') := left
  have hy : y = y' := by
    show t.dom f d = y'
    rw [left.dom, Furrow.dom_setDom]
  obtain ⟨host, hbm, segs, queues⟩ := left.memories
  obtain ⟨ov, wr, fur⟩ := left.fur
  have other : ∀ e : Dom, e ≠ d → t.dom f e = s.dom f e := fun e he => by rw [left.dom, Furrow.dom_setDom_ne _ he]; rfl
  have regS : ∀ j, y'.sreg j = z.sreg j := fun j => by unfold Domain.sreg; rw [closes.sregs]
  have regA : ∀ j, y'.areg j = z.areg j := fun j => by unfold Domain.areg; rw [closes.aregs]
  rw [hy, fur]
  refine ⟨fun k hk => left.fur_ne hk, other, rfl, rfl, rfl, rfl, rfl, rfl, rfl, host, hbm, segs, queues,
    closes.vregs.trans wrote.vregs, closes.flags.trans wrote.flags, closes.live.trans wrote.live, fun j hj => (regS j).trans (wrote.sreg j hj),
    fun j hj => (regA j).trans (wrote.areg j hj), fun h => ?_, by rw [closes.beat, wrote.beat], by rw [closes.beats, wrote.beats],
    by rw [closes.ticks, wrote.ticks]⟩
  rw [regS, regA]
  exact wrote.result h

end Sys2Proof.Machine
end

section
/-! PROOFS. Beats of the schedule (R38, R84, R95, R164, R168). -/
namespace Sys2Proof.Machine

/-! ### When a beat retires, and when its operations wait -/

section
variable {s : State} {f : Fur} {d : Dom} {acts : List Act}

/-- The acts that the checks of a beat's word let through: none in a beat with no issue (R405). -/
def State.checkedActs (s : State) (f : Fur) (d : Dom) (word : Option Word) (next : Nat) : Except BFault (List Act) :=
  match word with
  | none => .ok []
  | some w => wordActs (s.env f d) (s.dom f d).rid (s.dom f d).pos (decide (w.extra ≤ (s.dom f d).done)) next w

/-- A beat whose word and port-W accesses are without fault retires, or waits for its causes (R38, R405). -/
theorem State.attempt_of_checked {word : Option Word} {next : Nat} (mask : BitVec 4) (h : s.checkedActs f d word next = .ok acts)
    (ports : portFaults (s.env f d) (s.servedNow f d acts) = []) : s.attempt f d word next mask =
      if beatCauses (s.env f d) (s.servedNow f d acts) acts ≠ 0 then s.freezeBeat f d (beatCauses (s.env f d) (s.servedNow f d acts) acts)
      else s.retireBeat f d word acts next mask := by
  have checked : s.attempt f d word next mask = match s.checkedActs f d word next with
      | .error e => (s.noteTick f d false false).slotFault f d (s.dom f d).rid (s.dom f d).pos e
      | .ok acts => match portFaults (s.env f d) (s.servedNow f d acts) with
        | p :: r => (s.noteTick f d false false).portFault f d (posWord (s.dom f d).rid (s.dom f d).pos) (p :: r)
        | [] => if beatCauses (s.env f d) (s.servedNow f d acts) acts ≠ 0 then s.freezeBeat f d (beatCauses (s.env f d) (s.servedNow f d acts) acts)
          else s.retireBeat f d word acts next mask := rfl
  rw [checked, h]
  dsimp only
  rw [ports]

theorem State.attempt_of_unblocked {word : Option Word} {next : Nat} (mask : BitVec 4) (h : s.checkedActs f d word next = .ok acts)
    (free : s.unblocked f d acts) : s.attempt f d word next mask = s.retireBeat f d word acts next mask := by
  obtain ⟨ports, causes⟩ := free
  rw [State.attempt_of_checked mask h ports, if_neg (not_not.mpr causes)]

theorem State.checkedActs_empty (s : State) (f : Fur) (d : Dom) (next : Nat) : s.checkedActs f d (some ⟨0, [], 0⟩) next = .ok [] := rfl

/-- A beat with an empty word that nothing stops retires. -/
theorem State.emptyBeat_retires (mask : BitVec 4) (ready : s.atBeat f d) (free : s.unblocked f d []) :
    s.emptyBeat f d 0 mask = s.retireBeat f d (some ⟨0, [], 0⟩) [] (s.dom f d).pos mask := by
  obtain ⟨run, paired, idle, done, before⟩ := ready
  unfold State.emptyBeat
  simp only [run, paired, idle, done, Bool.not_false, Bool.and_self, beq_self_eq_true, if_true]
  rw [issueAttempt_before_end s f d _ _ mask before]
  exact State.attempt_of_unblocked mask (s.checkedActs_empty f d _) free

/-- The next beat of the schedule is the attempt of the stored word, or of a beat with no issue (R38, R80). -/
theorem State.fetchAttempt_stored (mask : BitVec 4) (paired : (s.dom f d).pairLost = false) (idle : (s.dom f d).idle = 0)
    (before : (s.dom f d).pos < (s.dom f d).stop) : s.fetchAttempt f d mask =
      s.attempt f d (some (readWord (s.fur f).pstore (s.dom f d).pos)) ((s.dom f d).pos + (readWord (s.fur f).pstore (s.dom f d).pos).size) mask := by
  unfold State.fetchAttempt
  dsimp only
  rw [if_neg (by rw [paired]; exact Bool.false_ne_true), if_neg (by rw [idle]; exact Nat.lt_irrefl 0)]
  exact issueAttempt_before_end s f d _ _ mask before

theorem State.fetchAttempt_idle (mask : BitVec 4) (paired : (s.dom f d).pairLost = false) (idle : 0 < (s.dom f d).idle) :
    s.fetchAttempt f d mask = s.attempt f d none (s.dom f d).pos mask := by
  unfold State.fetchAttempt
  dsimp only
  rw [if_neg (by rw [paired]; exact Bool.false_ne_true), if_pos idle]

theorem exec_beatAttempt (mask : BitVec 4) (run : s.canAttempt f d = true) : exec (.beatAttempt f ⟨d, mask⟩) s = .next (s.fetchAttempt f d mask) := by
  show execBeatAttempt f ⟨d, mask⟩ s = _
  unfold execBeatAttempt
  dsimp only
  rw [if_pos run]

theorem State.not_draining_of_canAttempt (run : s.canAttempt f d = true) : (s.dom f d).st ≠ .draining := by
  unfold State.canAttempt at run
  simp only [Bool.and_eq_true, decide_eq_true_eq] at run
  rw [run.1.1]
  decide

/-- OPERATION_COMMIT of a domain that stands at a beat is a beat with no operation. -/
theorem exec_operationCommit_running (mask : BitVec 4) (ready : s.atBeat f d) (free : s.unblocked f d []) :
    exec (.operationCommit f d mask) s = .next (s.retireBeat f d (some ⟨0, [], 0⟩) [] (s.dom f d).pos mask) := by
  show execOperationCommit f d mask s = _
  unfold execOperationCommit
  rw [if_neg (State.not_draining_of_canAttempt ready.1), State.emptyBeat_retires mask ready free]

theorem exec_tileChunkSwap {c : Course} (course : (s.dom f d).course = some c) (ends : c.chunkEnds s.build = true) (ready : s.atBeat f d)
    (free : s.unblocked f d []) : exec (.tileChunkSwap f d) s = .next (s.retireBeat f d (some ⟨0, [], 0⟩) [] (s.dom f d).pos 0) := by
  show execTileChunkSwap f d s = _
  have chunk : s.atChunkEnd f d = true := by
    unfold State.atChunkEnd
    rw [course]
    exact ends
  unfold execTileChunkSwap
  rw [if_pos chunk, State.emptyBeat_retires 0 ready free]

theorem exec_osDrainRead {c : Course} (course : (s.dom f d).course = some c) (drains : (c.drainAt s.build c.t).isSome = true) (ready : s.atBeat f d)
    (free : s.unblocked f d []) : exec (.osDrainRead f d) s = .next (s.retireBeat f d (some ⟨0, [], 0⟩) [] (s.dom f d).pos 0) := by
  show execOsDrainRead f d s = _
  have row : s.atDrainRead f d = true := by
    unfold State.atDrainRead
    rw [course]
    exact drains
  unfold execOsDrainRead
  rw [if_pos row, State.emptyBeat_retires 0 ready free]

/-! ### A beat with no operation, in a domain that has nothing at work -/

/-- The domain as it was but for its control, with nothing in flight and no course. -/
def Domain.Bare (x y : Domain) : Prop := ∃ l k a, y = { x with
  flights := [], course := none, causes := 0, frozenSince := none, longReported := false, lastPos := l, tick := k, lateAdds := a }

/-- At its end nothing has changed but the domain's control. -/
theorem State.retireBeat_nothing {w : Option Word} (next : Nat) (mask : BitVec 4) (quiet : (s.dom f d).flights = []) (idle : (s.dom f d).course = none)
    (empty : ∀ u, w = some u → u.slots = []) : ∃ x y, (s.dom f d).Bare x ∧ x.Closes y ∧
      s.Leaves (s.retireBeat f d w [] next mask) f ((s.fur f).setDom d y) := by
  have none : ∀ a ∈ ([] : List Act), a.IsEff := fun a ha => absurd ha List.not_mem_nil
  have slots : (s.env f d).slotsOf w = [] := by
    unfold Env.slotsOf
    split
    · next u => rw [empty u rfl]; rfl
    · rfl
  have flies : s.slotFlights f d w [] = [] := by
    unfold State.slotFlights
    rw [slots]
    rfl
  obtain ⟨l, k, issued⟩ := State.leaves_launch (w := w) idle none (.inl quiet)
  rw [flies, quiet, ← State.issueBeat_effs idle none (by rw [slots]; exact fun p hp => absurd hp List.not_mem_nil) (.inl quiet)] at issued
  obtain ⟨a, commit⟩ := (s.issueBeat f d w []).leaves_commitDue_none f d mask (by
    rw [issued.dom, Furrow.dom_setDom]
    exact fun g hg => absurd hg List.not_mem_nil)
  rw [issued.dom, Furrow.dom_setDom] at commit
  obtain ⟨y, closes, left⟩ := State.retireBeat_closes next (issued.thenDom commit)
  rw [Furrow.setDom_setDom, Furrow.dom_setDom] at closes
  rw [Furrow.setDom_setDom, Furrow.setDom_setDom] at left
  refine ⟨_, y, ?_, closes, left⟩
  exact ⟨l, k, a, rfl⟩

end

end Sys2Proof.Machine
end

section
/-! PROOFS. What keeps the operations in flight, the beat and the live sets of a domain (R33, R154). -/
namespace Sys2Proof.Machine

/-- The domain's operations in flight, its beat and the live sets of its furrow are as they were. -/
structure State.SamePipe (s t : State) (f : Fur) (d : Dom) : Prop where
  flights : (t.dom f d).flights = (s.dom f d).flights
  beat : (t.dom f d).beat = (s.dom f d).beat
  liveSet : (t.fur f).liveSet = (s.fur f).liveSet

section
variable {s t u : State} {f : Fur} {d : Dom}

theorem State.SamePipe.refl (s : State) (f : Fur) (d : Dom) : s.SamePipe s f d := ⟨rfl, rfl, rfl⟩

theorem State.SamePipe.trans (h : s.SamePipe t f d) (h' : t.SamePipe u f d) : s.SamePipe u f d :=
  ⟨h'.flights.trans h.flights, h'.beat.trans h.beat, h'.liveSet.trans h.liveSet⟩

theorem State.samePipe_foldl {α : Type} {g : State → α → State} {l : List α} (h : ∀ (s : State), ∀ a ∈ l, s.SamePipe (g s a) f d) (s : State) :
    s.SamePipe (l.foldl g s) f d := by
  induction l generalizing s with
  | nil => exact .refl s f d
  | cons a r ih => exact (h s a (List.mem_cons_self ..)).trans (ih (fun s b hb => h s b (List.mem_cons_of_mem _ hb)) _)

theorem State.SamePipe.of_fur {x : Furrow} (h : t.fur f = x) (doms : x.doms = (s.fur f).doms) (live : x.liveSet = (s.fur f).liveSet) :
    s.SamePipe t f d := by
  have dom : t.dom f d = s.dom f d := by
    unfold State.dom Furrow.dom
    rw [h, doms]
  exact ⟨by rw [dom], by rw [dom], by rw [h, live]⟩

theorem State.SamePipe.of_furs (h : t.furs = s.furs) : s.SamePipe t f d := .of_fur (State.fur_of_furs h f) rfl rfl

variable (s f d)

theorem State.samePipe_setDom {y : Domain} (flights : y.flights = (s.dom f d).flights) (beat : y.beat = (s.dom f d).beat) :
    s.SamePipe (s.setDom f d y) f d := by
  refine ⟨?_, ?_, ?_⟩
  · rw [State.dom_setDom, flights]
  · rw [State.dom_setDom, beat]
  · rw [State.setDom, State.fur_setFur]
    rfl

theorem State.samePipe_modFur (k : Fur) {g : Furrow → Furrow} (doms : ∀ x, (g x).doms = x.doms) (live : ∀ x, (g x).liveSet = x.liveSet) :
    s.SamePipe (s.modFur k g) f d := by
  by_cases hk : f = k
  · subst hk
    exact .of_fur (s.fur_setFur f _) (doms _) (live _)
  · exact .of_fur (s.fur_setFur_ne hk _) rfl rfl

theorem State.samePipe_offer (code : Nat) (source : W16) (p0 p1 p2 : Nat) : s.SamePipe (s.offer code source p0 p1 p2) f d :=
  .of_furs (s.offer_furs code source p0 p1 p2)

/-! ### The events of an issue -/

theorem State.samePipe_auditEvent (bit code rid addr slot kind index p2 : Nat) :
    s.SamePipe (s.auditEvent f d bit code rid addr slot kind index p2) f d := by
  unfold State.auditEvent
  dsimp only
  split
  · exact s.samePipe_setDom f d rfl rfl
  · have counted : s.SamePipe (s.setDom f d { s.dom f d with
        combos := (addr, slot) :: (s.dom f d).combos, auditRec := satInc (s.dom f d).auditRec }) f d := s.samePipe_setDom f d rfl rfl
    refine counted.trans (.trans ?_ (State.samePipe_offer _ f d _ _ _ _ _))
    exact State.samePipe_modFur _ f d f (fun _ => rfl) (fun _ => rfl)

theorem State.samePipe_auditEarly (v : Env) (rid addr slot : Nat) (rs : List (Nat × Nat)) :
    s.SamePipe (s.auditEarly f d v rid addr slot rs) f d :=
  State.samePipe_foldl (fun s r _ => by
    split
    · exact s.samePipe_auditEvent f d _ _ _ _ _ _ _ _
    · exact .refl s f d) s

theorem State.samePipe_auditSlots (v : Env) (bs : List (SlotOp × List Act)) : s.SamePipe (s.auditSlots f d v bs) f d :=
  State.samePipe_foldl (fun s _ _ => s.samePipe_auditEarly f d v _ _ _ _) s

theorem State.samePipe_harrowFlags (rid addr slot code : Nat) (fl : Raised) : s.SamePipe (s.harrowFlags f d rid addr slot code fl) f d := by
  have raised := s.samePipe_modFur f d f (g := fun x => x.haFlags d fl) (fun _ => rfl) (fun _ => rfl)
  unfold State.harrowFlags
  dsimp only
  split
  · exact .refl s f d
  · split
    · exact raised
    · refine raised.trans (.trans ?_ (State.samePipe_offer _ f d _ _ _ _ _))
      exact State.samePipe_setDom _ f d rfl rfl

theorem State.samePipe_raiseFlags (rid addr : Nat) (bs : List (SlotOp × List Act)) : s.SamePipe (s.raiseFlags f d rid addr bs) f d :=
  State.samePipe_foldl (fun s p _ => State.samePipe_foldl (fun s a _ => by
    split
    · exact s.samePipe_harrowFlags f d _ _ _ _ _
    · exact .refl s f d) s) s

theorem State.samePipe_clashEvents (p0 : Nat) (cs : List (Acc × Option Acc)) : ∀ s : State, s.SamePipe (s.clashEvents f d p0 cs) f d := by
  induction cs with
  | nil => exact fun s => .refl s f d
  | cons p r ih =>
    intro s
    obtain ⟨a, b⟩ := p
    cases b with
    | none => exact ih s
    | some b =>
      refine .trans ?_ (ih _)
      refine .trans ?_ (State.samePipe_offer _ f d _ _ _ _ _)
      exact s.samePipe_modFur f d f (fun _ => rfl) (fun _ => rfl)

theorem State.samePipe_narrowPoison (p0 : Nat) (x0 : Furrow) (as : List Acc) : s.SamePipe (s.narrowPoison f d p0 x0 as) f d :=
  State.samePipe_foldl (fun s a _ => by
    split
    · refine .trans ?_ (State.samePipe_offer _ f d _ _ _ _ _)
      exact s.samePipe_modFur f d f (fun _ => rfl) (fun _ => rfl)
    · exact .refl s f d) s

theorem State.samePipe_issueEvents (t : State) (w : Option Word) (acts : List Act) : t.SamePipe (s.issueEvents f d t w acts) f d := by
  have flags : t.SamePipe (match s.courseStep f d acts with
      | some o => t.modFur f (fun z => z.wrFlags d o.ovf o.inv)
      | none => t) f d := by
    split
    · exact t.samePipe_modFur f d f (fun _ => rfl) (fun _ => rfl)
    · exact .refl t f d
  have early : ∀ u : State, u.SamePipe (match liveCourse (s.env f d).x acts with
      | some c => u.auditEarly f d (s.env f d) c.rid c.addr 4 ((courseAccs s.build (liveCourse (s.env f d).x acts)).map (fun a => (4, a.addr.toNat / 512)))
      | none => u) f d := fun u => by
    split
    · exact u.samePipe_auditEarly f d _ _ _ _ _
    · exact .refl u f d
  have raised := ((flags.trans (State.samePipe_clashEvents f d (posWord (s.dom f d).rid (s.dom f d).pos) (s.clashesNow f d acts) _)).trans
    (State.samePipe_narrowPoison _ f d (posWord (s.dom f d).rid (s.dom f d).pos) (s.fur f) (s.servedNow f d acts))).trans
    (State.samePipe_raiseFlags _ f d (s.dom f d).rid (s.dom f d).pos ((s.env f d).slotsOf w))
  unfold State.issueEvents
  dsimp only
  split
  · exact (raised.trans (early _)).trans (State.samePipe_auditSlots _ f d _ _)
  · exact raised

/-! ### The acts of an issue that need no flight -/

variable {s f d}

theorem State.SamePipe.of_work {k : DrillNo} (h : (s.fur f).DrillWork (t.fur f) k) : s.SamePipe t f d := by
  obtain ⟨⟨ds, b, w, xs, e⟩, -⟩ := h
  exact .of_fur e rfl rfl

variable (s f d)

theorem State.samePipe_setDrill (k : DrillNo) (x : Drill) : s.SamePipe (s.setDrill f k x) f d := .of_fur (s.fur_setFur f _) rfl rfl

theorem State.samePipe_modDrill (k : DrillNo) (g : Drill → Drill) : s.SamePipe (s.modDrill f k g) f d := s.samePipe_setDrill f d k _

theorem State.samePipe_endList (k : DrillNo) : s.SamePipe (s.endList f k) f d := by
  unfold State.endList
  dsimp only
  split
  · refine (s.samePipe_setDrill f d k (s.drill f k).toParked).trans (.of_work (k := k) ?_)
    exact (State.finishOpt_sameFurrows _ _ _ _ _).drillWork f k
  · exact .of_work (s.idleDrill_work f k _ _ _).1

theorem State.samePipe_startList (k : DrillNo) : s.SamePipe (s.startList f k) f d := by
  unfold State.startList
  dsimp only
  split
  · exact .trans (s.samePipe_setDrill f d k { s.drill f k with st := .running, latched := none }) (State.samePipe_endList _ f d k)
  · exact s.samePipe_setDrill f d k { s.drill f k with st := .running, latched := none }

theorem State.samePipe_beginStop (k : DrillNo) : s.SamePipe (s.beginStop f k) f d := by
  obtain ⟨x, e⟩ := (s.onlyDrill_beginStop f k).fur
  exact .of_fur e rfl rfl

theorem State.samePipe_endTile (k : DrillNo) : s.SamePipe (s.endTile f k) f d := by
  unfold State.endTile
  dsimp only
  split
  · obtain ⟨x, e⟩ := (State.onlyDrill_dropBlocks (s.setDrill f k (s.drill f k).endTile) f k).fur
    exact (s.samePipe_setDrill f d k _).trans (.of_fur e rfl rfl)
  · exact .refl s f d

theorem State.samePipe_leaveChanges (k : Fur) : s.SamePipe (s.leaveChanges k) f d := by
  unfold State.leaveChanges
  split
  · exact .refl s f d
  · exact s.samePipe_modFur f d k (fun _ => rfl) (fun _ => rfl)

theorem State.samePipe_lateAct (lastPut : Option Nat) (rid addr : Nat) (a : Act) : s.SamePipe (s.lateAct f d lastPut rid addr a) f d := by
  unfold State.lateAct
  dsimp only
  split
  case h_1 =>
    refine .trans ?_ (State.samePipe_modDrill _ f d _ _)
    exact s.samePipe_setDom f d rfl rfl
  case h_2 =>
    split
    · exact s.samePipe_startList f d _
    · exact s.samePipe_setDrill f d _ _
    · exact s.samePipe_setDrill f d _ _
    · exact s.samePipe_offer f d _ _ _ _ _
    · exact s.samePipe_offer f d _ _ _ _ _
    · exact s.samePipe_offer f d _ _ _ _ _
  case h_3 => exact s.samePipe_setDrill f d _ _
  case h_4 => exact s.samePipe_beginStop f d _
  case h_5 => exact s.samePipe_endTile f d _
  case h_6 =>
    split
    · exact .refl s f d
    · refine .trans ?_ (State.samePipe_leaveChanges _ f d _)
      exact s.samePipe_modFur f d _ (fun _ => rfl) (fun _ => rfl)
  case h_7 =>
    refine .trans (t := s.setDom f d { s.dom f d with lastMiss := _ }) ?_ (State.samePipe_modFur _ f d f (fun _ => rfl) (fun _ => rfl))
    exact s.samePipe_setDom f d rfl rfl
  case h_8 => exact .refl s f d

/-- After its launch an issue changes neither what is in flight nor the live sets. -/
theorem State.samePipe_issueBeat (w : Option Word) (acts : List Act) : (s.launch f d w acts).SamePipe (s.issueBeat f d w acts) f d :=
  (s.samePipe_issueEvents f d _ w acts).trans (State.samePipe_foldl (fun s a _ => s.samePipe_lateAct f d _ _ _ a) _)

end

end Sys2Proof.Machine
end

section
/-! PROOFS. What the commits of a beat's end leave in flight, and the sets that they exchange (R33, R154). -/
namespace Sys2Proof.Machine

/-- The pairs that an effect exchanges, and those that operations exchange in all. -/
def Effect.pairs (e : Effect) : BitVec 2 := match e with | .swap ps _ _ => ps | _ => 0
def pairsIn (gs : List Flight) : BitVec 2 := gs.foldr (fun g m => g.eff.pairs ^^^ m) 0

/-- The furrow's domain `d` has the same operations in flight and the same beat, and `ps` have been exchanged. -/
structure Furrow.Swapped (x y : Furrow) (d : Dom) (ps : BitVec 2) : Prop where
  flights : (y.dom d).flights = (x.dom d).flights
  beat : (y.dom d).beat = (x.dom d).beat
  liveSet : y.liveSet = x.liveSet ^^^ ps

section
variable {x y z : Furrow} {d : Dom} {ps qs : BitVec 2}

theorem Furrow.Swapped.of_doms (doms : y.doms = x.doms) (live : y.liveSet = x.liveSet ^^^ ps) : x.Swapped y d ps := by
  have e : y.dom d = x.dom d := by
    unfold Furrow.dom
    rw [doms]
  exact ⟨by rw [e], by rw [e], live⟩

theorem Furrow.Swapped.of_same (doms : y.doms = x.doms) (live : y.liveSet = x.liveSet) : x.Swapped y d 0 := .of_doms doms (by rw [live]; simp)

theorem Furrow.Swapped.refl (x : Furrow) (d : Dom) : x.Swapped x d 0 := .of_same rfl rfl

theorem Furrow.Swapped.trans (h : x.Swapped y d ps) (h' : y.Swapped z d qs) : x.Swapped z d (ps ^^^ qs) :=
  ⟨h'.flights.trans h.flights, h'.beat.trans h.beat, by rw [h'.liveSet, h.liveSet, BitVec.xor_assoc]⟩

theorem Furrow.Swapped.thenNone (h : x.Swapped y d ps) (h' : y.Swapped z d 0) : x.Swapped z d ps := by
  simpa using h.trans h'

theorem Furrow.swapped_setDom {y : Domain} (flights : y.flights = (x.dom d).flights) (beat : y.beat = (x.dom d).beat) :
    x.Swapped (x.setDom d y) d 0 := by
  refine ⟨by rw [Furrow.dom_setDom, flights], by rw [Furrow.dom_setDom, beat], ?_⟩
  show x.liveSet = _
  simp

theorem macBrick_swapped (fmtA fmtB : Nat) (first sat flush aMark : Bool) (free brick set : Nat) (bs : List Nat) (bMark : Bool) (as : List Nat) (e : Dom) :
    ∀ (k : Nat) (x : Furrow), x.Swapped (macBrick fmtA fmtB first sat flush aMark free brick set bs bMark as k x e) d 0 := by
  induction as with
  | nil => exact fun _ x => .refl x d
  | cons a r ih =>
    intro k x
    unfold macBrick
    dsimp only
    refine .thenNone ?_ (ih _ _)
    exact .of_same rfl rfl

/-- The windrow entry that a write leaves (R202, R203). -/
def Furrow.entryAfter (x x0 : Furrow) (d : Dom) (slot issue b e : Nat) (mode : WinMode) (lo : Nat) (vals : List W32) (mark sat flush : Bool) : WEntry :=
  let biasMark := match mode with
    | .bias e' => (x0.went b e').mark
    | .copyBias e' => (x0.went b e').mark
    | _ => false
  let m := mark || biasMark
  let old := x.went b e
  let rs : List CVal := vals.mapIdx (fun i v => winLane x x0 d slot issue b e mode sat flush (lo + i) v)
  let whole := vals.length = 512 && (match mode with | .replace => true | .copyBias _ => true | _ => false)
  ⟨tputs 0 old.lanes lo (rs.map (fun r => w32 r.bits)), if whole then m else old.mark || m⟩

/-- A windrow write puts its entry and raises flags, and changes nothing else. -/
theorem Furrow.commitWin_fst (x x0 : Furrow) (d : Dom) (slot issue b e : Nat) (mode : WinMode) (lo : Nat) (vals : List W32) (mark sat flush : Bool) :
    ∃ k, (x.commitWin x0 d slot issue b e mode lo vals mark sat flush).1 = { x with
      windrow := tset WEntry.zero x.windrow (winKey b e) (x.entryAfter x0 d slot issue b e mode lo vals mark sat flush), wrSticky := k } := by
  have flagged : ∀ (z : Furrow) (p ovf inv : Bool), ∃ k, (if p = true then { z with wrSticky := setBit z.wrSticky d.val true } else z).wrFlags d ovf inv =
      { z with wrSticky := k } := by
    intro z p ovf inv
    cases p <;> exact ⟨_, rfl⟩
  obtain ⟨k, e'⟩ := flagged { x with
    windrow := tset WEntry.zero x.windrow (winKey b e) (x.entryAfter x0 d slot issue b e mode lo vals mark sat flush) } _ _ _
  exact ⟨k, e'⟩

theorem Furrow.commitWin_swapped (x x0 : Furrow) (e : Dom) (slot issue b en : Nat) (mode : WinMode) (lo : Nat) (vals : List W32) (mark sat flush : Bool) :
    x.Swapped (x.commitWin x0 e slot issue b en mode lo vals mark sat flush).1 d 0 := by
  obtain ⟨k, h⟩ := x.commitWin_fst x0 e slot issue b en mode lo vals mark sat flush
  rw [h]
  exact .of_same rfl rfl

theorem Furrow.writeRow_swapped (x : Furrow) (addr : Nat) (bytes : List Byte) (tag : Nat) (mark : Bool) :
    x.Swapped (x.writeRow addr bytes tag mark) d 0 := by
  unfold Furrow.writeRow
  dsimp only
  split
  · exact .refl x d
  · exact .of_same rfl rfl

/-- One effect exchanges its pairs, and changes neither what is in flight nor the beat. -/
theorem Furrow.applyEff_swapped (x x0 : Furrow) (depth : Nat) (d : Dom) (free slot issue : Nat) (e : Effect) :
    x.Swapped (x.applyEff x0 depth d free slot issue e).1 d e.pairs := by
  cases e with
  | sreg | areg | flag | vreg => exact swapped_setDom rfl rfl
  | win b e' mode lo vals mark sums sat flush =>
    have won : x.Swapped (x.commitWin x0 d slot issue b e' mode lo vals mark sat flush).1 d 0 := x.commitWin_swapped x0 d slot issue b e' mode lo vals mark sat flush
    unfold Furrow.applyEff
    dsimp only
    generalize x.commitWin x0 d slot issue b e' mode lo vals mark sat flush = o at won
    exact ⟨by rw [Furrow.dom_setDom], by rw [Furrow.dom_setDom], won.liveSet⟩
  | winClear =>
    unfold Furrow.applyEff
    dsimp only
    exact ⟨by rw [Furrow.dom_setDom], by rw [Furrow.dom_setDom], by simp [Furrow.setDom, Effect.pairs]⟩
  | row => exact x.writeRow_swapped _ _ _ _
  | standby => exact .of_same rfl rfl
  | swap => exact .of_doms rfl rfl
  | mac fa fb first sat flush as aMark bs =>
    unfold Furrow.applyEff
    dsimp only
    induction bs generalizing x with
    | nil => exact .refl x d
    | cons q r ih => exact .thenNone (macBrick_swapped _ _ _ _ _ _ _ _ _ _ _ _ _ _ _) (ih _)
  | counter => exact .of_same rfl rfl

end

section
variable {s t u : State} {f : Fur} {d : Dom} {ps : BitVec 2}

theorem State.SamePipe.swapped (h : s.SamePipe t f d) : (s.fur f).Swapped (t.fur f) d 0 :=
  ⟨h.flights, h.beat, by rw [h.liveSet]; simp⟩

theorem Furrow.Swapped.thenSame {x : Furrow} (h : x.Swapped (s.fur f) d ps) (h' : s.SamePipe t f d) : x.Swapped (t.fur f) d ps :=
  h.thenNone h'.swapped

variable (s f d)

theorem State.samePipe_overtakenEvent (g : Flight) : s.SamePipe (s.overtakenEvent f d g) f d := by
  unfold State.overtakenEvent
  split
  · exact .refl s f d
  · split
    · exact s.samePipe_auditEvent f d _ _ _ _ _ _ _ _
    · exact .refl s f d

theorem State.samePipe_collide (ps : List (Flight × Flight)) : ∀ s : State, s.SamePipe (s.collide f d ps) f d := by
  induction ps with
  | nil => exact fun s => .refl s f d
  | cons p r ih =>
    intro s
    obtain ⟨kept, lost⟩ := p
    refine .trans ?_ (ih _)
    refine .trans ?_ (State.samePipe_offer _ f d _ _ _ _ _)
    exact s.samePipe_modFur f d f (fun _ => rfl) (fun _ => rfl)

/-- Commits exchange their pairs, and change neither what is in flight nor the beat. -/
theorem State.commitList_swapped (x0 : Furrow) (gs : List Flight) : ∀ s : State,
    (s.fur f).Swapped ((s.commitList x0 f d gs).fur f) d (pairsIn gs) := by
  induction gs with
  | nil => exact fun s => .refl _ d
  | cons g r ih =>
    intro s
    have applied := (s.fur f).applyEff_swapped x0 s.build.depth d s.free g.slot g.issue g.eff
    unfold State.commitList
    dsimp only
    generalize (s.fur f).applyEff x0 s.build.depth d s.free g.slot g.issue g.eff = o at applied
    have here : ({ s.setFur f o.1 with free := match g.eff with | .mac .. => s.free + 512 | _ => s.free } : State).fur f = o.1 := s.fur_setFur f o.1
    rw [← here] at applied
    generalize { s.setFur f o.1 with free := match g.eff with | .mac .. => s.free + 512 | _ => s.free } = v at applied ⊢
    refine .trans (applied.thenSame (.trans ?_ (State.samePipe_overtakenEvent _ f d g))) (ih _)
    split
    · split
      · exact .refl v f d
      · refine .trans ?_ (State.samePipe_offer _ f d _ _ _ _ _)
        exact v.samePipe_setDom f d rfl rfl
    · exact .refl v f d

/-- After the commits of a beat's end those operations are in flight whose beat has not come, and the pairs of those that committed have been
exchanged. -/
theorem State.commitDue_swapped : ∃ y : Furrow, (y.dom d).flights = (s.dom f d).stillFly ∧ (y.dom d).beat = (s.dom f d).beat ∧
    y.liveSet = (s.fur f).liveSet ∧ y.Swapped ((s.commitDue f d 0).fur f) d
      (pairsIn (inPhases (mergeSwaps (keptOf s.build.depth (s.dom f d).dueNow)).1)) := by
  refine ⟨(s.fur f).setDom d { s.dom f d with flights := (s.dom f d).stillFly }, by rw [Furrow.dom_setDom], by rw [Furrow.dom_setDom], rfl, ?_⟩
  rw [s.commitDue_eq f d 0]
  generalize (mergeSwaps (keptOf s.build.depth (s.dom f d).dueNow)).2 = absorbed
  generalize inPhases (mergeSwaps (keptOf s.build.depth (s.dom f d).dueNow)).1 = run
  generalize keptOf s.build.depth (s.dom f d).dueNow = kept
  generalize lostOf s.build.depth (s.dom f d).dueNow = lost
  generalize (s.dom f d).dueNow.length = n
  have same : run.mapIdx (fun i g => spoil (s.free + i) 0 g) = run := by
    simp only [spoil_zero]
    exact List.ext_getElem (by simp) (by simp)
  unfold State.commitLists
  simp only [same, State.mismatches_zero]
  have here : ({ s.modDom f d (fun y => { y with flights := (s.dom f d).stillFly }) with free := s.free + n } : State).fur f =
      (s.fur f).setDom d { s.dom f d with flights := (s.dom f d).stillFly } := s.fur_setFur f _
  have run' := State.commitList_swapped f d (s.fur f) run { s.modDom f d (fun y => { y with flights := (s.dom f d).stillFly }) with free := s.free + n }
  rw [here] at run'
  generalize State.commitList _ _ _ _ _ = v at run' ⊢
  refine run'.thenSame ?_
  refine .trans ?_ (State.samePipe_modFur _ f d f (fun _ => rfl) (fun _ => rfl))
  refine .trans ?_ (State.samePipe_modFur _ f d f (fun _ => rfl) (fun _ => rfl))
  refine .trans ?_ (State.samePipe_foldl (fun s g _ => ?_) _)
  · refine .trans ?_ (State.samePipe_collide f d lost _)
    refine .trans ?_ (State.samePipe_foldl (fun s p _ => s.samePipe_overtakenEvent f d p.2) _)
    exact v.samePipe_setDom f d rfl rfl
  · split
    · exact s.samePipe_offer f d _ _ _ _ _
    · exact .refl s f d

end

end Sys2Proof.Machine
end

section
/-! PROOFS. O26: beats of the schedule retire, and a chunk's end exchanges the sets of the course's pairs (R38, R84, R95, R164, R168). -/
namespace Sys2Proof.Machine

/-! ### The one exchange among the operations of a beat's end -/

/-- Whether a flight is an exchange: the phase of the exchanges is theirs alone (R155). -/
def Flight.isSwap (g : Flight) : Bool := g.eff.phase == 1

theorem Effect.phase_eq_one_iff (e : Effect) : e.phase = 1 ↔ ∃ ps n auto, e = .swap ps n auto := by
  cases e <;> simp [Effect.phase]

theorem Effect.pairs_of_phase {e : Effect} (h : e.phase ≠ 1) : e.pairs = 0 := by
  cases e with
  | swap => exact absurd rfl h
  | _ => rfl

theorem pairsIn_append (a b : List Flight) : pairsIn (a ++ b) = pairsIn a ^^^ pairsIn b := by
  induction a with
  | nil => simp [pairsIn]
  | cons g r ih =>
    show g.eff.pairs ^^^ pairsIn (r ++ b) = (g.eff.pairs ^^^ pairsIn r) ^^^ pairsIn b
    rw [ih, BitVec.xor_assoc]

theorem pairsIn_none {gs : List Flight} (h : ∀ g ∈ gs, g.eff.phase ≠ 1) : pairsIn gs = 0 := by
  induction gs with
  | nil => rfl
  | cons g r ih =>
    show g.eff.pairs ^^^ pairsIn r = 0
    rw [Effect.pairs_of_phase (h g (List.mem_cons_self ..)), ih fun a ha => h a (List.mem_cons_of_mem _ ha)]
    rfl

theorem mem_insertIssue (g h : Flight) (gs : List Flight) : h ∈ insertIssue g gs ↔ h = g ∨ h ∈ gs := by
  induction gs with
  | nil => simp [insertIssue]
  | cons a r ih =>
    unfold insertIssue
    split
    · simp only [List.mem_cons, ih]
      tauto
    · simp

theorem mem_inIssueOrder (h : Flight) (gs : List Flight) : h ∈ inIssueOrder gs ↔ h ∈ gs := by
  induction gs with
  | nil => simp [inIssueOrder]
  | cons a r ih =>
    show h ∈ insertIssue a (inIssueOrder r) ↔ _
    rw [mem_insertIssue, ih, List.mem_cons]

/-- Of operations among which one exchange stands, phase by phase, that one exchanges its pairs. -/
theorem pairsIn_inPhases {gs : List Flight} {g : Flight} (h : gs.filter Flight.isSwap = [g]) : pairsIn (inPhases gs) = g.eff.pairs := by
  have others : ∀ ph, ph ≠ 1 → pairsIn (inIssueOrder (gs.filter (fun g => g.eff.phase == ph))) = 0 := fun ph hp => pairsIn_none fun a ha => by
    rw [mem_inIssueOrder, List.mem_filter, beq_iff_eq] at ha
    rw [ha.2]
    exact hp
  have one : inIssueOrder (gs.filter (fun g => g.eff.phase == 1)) = [g] := by
    rw [show gs.filter (fun g => g.eff.phase == 1) = [g] from h]
    rfl
  have phases : inPhases gs = inIssueOrder (gs.filter (fun g => g.eff.phase == 0)) ++ (inIssueOrder (gs.filter (fun g => g.eff.phase == 1)) ++
      (inIssueOrder (gs.filter (fun g => g.eff.phase == 2)) ++ (inIssueOrder (gs.filter (fun g => g.eff.phase == 3)) ++ []))) := rfl
  rw [phases]
  simp only [pairsIn_append, others 0 (by decide), others 2 (by decide), others 3 (by decide), one]
  simp [pairsIn]

/-- One automatic exchange is merged with none. -/
theorem mergeSwaps_auto {gs : List Flight} {g : Flight} {ps n : BitVec 2} (h : gs.filter Flight.isSwap = [g]) (auto : g.eff = .swap ps n true) :
    (mergeSwaps gs).1 = gs := by
  unfold mergeSwaps
  dsimp only
  refine (List.map_congr_left (g := id) fun a ha => ?_).trans (List.map_id gs)
  split
  · next p n' e =>
    have only : a ∈ gs.filter Flight.isSwap := List.mem_filter.mpr ⟨ha, by unfold Flight.isSwap; rw [e]; rfl⟩
    rw [h, List.mem_singleton] at only
    rw [only, auto] at e
    cases e
  · rfl

theorem keptOf_isSwap (depth : Nat) (due : List Flight) : (keptOf depth due).filter Flight.isSwap = due.filter Flight.isSwap := by
  induction due with
  | nil => rfl
  | cons g r ih =>
    have tail : keptOf depth (g :: r) = (if (lostTo depth g r).isNone then [g] else []) ++ keptOf depth r := by
      unfold keptOf collisions
      rw [List.mapIdx_cons]
      simp only [List.drop_succ_cons, List.drop_zero]
      cases lostTo depth g r <;> simp
    rw [tail, List.filter_append, ih]
    by_cases swap : g.isSwap = true
    · obtain ⟨ps, n, auto, e⟩ := (Effect.phase_eq_one_iff g.eff).mp (beq_iff_eq.mp swap)
      have stands : lostTo depth g r = none := by
        unfold lostTo
        rw [e]
        rfl
      rw [stands]
      simp [swap]
    · rw [List.filter_cons_of_neg swap]
      cases lostTo depth g r <;> simp [swap]

theorem insertFlight_perm (g : Flight) (gs : List Flight) : (insertFlight g gs).Perm (g :: gs) := by
  induction gs with
  | nil => exact .refl _
  | cons h r ih =>
    unfold insertFlight
    split
    · exact .refl _
    · exact (ih.cons h).trans (.swap g h r)

theorem sortFlights_perm (gs : List Flight) : (sortFlights gs).Perm gs := by
  induction gs with
  | nil => exact .refl _
  | cons g r ih => exact (insertFlight_perm g _).trans (ih.cons g)

/-! ### The results of a course's step at a chunk's end -/

/-- Results that put values into the windrow or the cells, and exchange nothing. -/
def COut.NoSwap (o : COut) : Prop := ∀ p ∈ o.effs, p.2.phase ≠ 1

theorem COut.noSwap_nil {o : COut} (h : o.effs = []) : o.NoSwap := by
  unfold COut.NoSwap
  rw [h]
  exact fun p hp => absurd hp List.not_mem_nil

theorem COut.noSwap_write {o : COut} (h : o.NoSwap) (sums : BitVec 4) (lat ph e : Nat) (mode : WinMode) (lo : Nat) (sat flush : Bool)
    (vs : List (CVal × Bool)) : (o.write sums lat ph e mode lo sat flush vs).NoSwap := by
  unfold COut.write
  split
  · exact h
  · intro p hp
    rcases List.mem_append.mp hp with hp | hp
    · exact h p hp
    · rw [List.mem_singleton.mp hp]
      exact nofun

theorem COut.noSwap_foldl {g : COut → Nat → COut} (h : ∀ o q, o.NoSwap → (g o q).NoSwap) (l : List Nat) {o : COut} (ho : o.NoSwap) :
    (l.foldl g o).NoSwap := by
  induction l generalizing o with
  | nil => exact ho
  | cons a r ih => exact ih (h o a ho)

/-- At a chunk's end a course that is no OS course exchanges the sets of its pairs once, with latency 1 (R164). -/
theorem Course.run_chunkEnds (v : Env) (c : Course) (rows : CRows) (free : Nat) (op : c.op ≠ 2) (ends : c.chunkEnds v.b = true) :
    ∃ rest, (∀ p ∈ rest, p.2.phase ≠ 1) ∧ (c.run v rows free).effs = rest ++ [(1, .swap (v.pairsOf c.nb) 0 true)] := by
  have start : (⟨[], false, false, free, c, false⟩ : COut).NoSwap := COut.noSwap_nil rfl
  have noDrain : c.drainAt v.b c.t = none := by
    unfold Course.drainAt
    simp [op]
  unfold Course.run
  simp only [noDrain, ends, if_true, op, if_false]
  refine ⟨_, ?_, rfl⟩
  show COut.NoSwap _
  split
  · exact start
  · exact COut.noSwap_nil rfl
  · split
    · exact start
    · split
      · exact COut.noSwap_write start _ _ _ _ _ _ _ _ _
      · contradiction
      · exact COut.noSwap_foldl (fun o q ho => COut.noSwap_write ho _ _ _ _ _ _ _ _ _) _ start
  · split
    · exact COut.noSwap_foldl (fun o q ho => COut.noSwap_write ho _ _ _ _ _ _ _ _ _) _ (COut.noSwap_nil rfl)
    · exact COut.noSwap_write (COut.noSwap_nil rfl) _ _ _ _ _ _ _ _ _
    · contradiction
    · exact COut.noSwap_foldl (fun o q ho => COut.noSwap_write ho _ _ _ _ _ _ _ _ _) _ (COut.noSwap_nil rfl)

/-! ### The beat that ends a chunk -/

section
variable {s : State} {f : Fur} {d : Dom}

theorem accTags_foldl_rest (as : List Acc) : ∀ x : Furrow, (as.foldl Furrow.accTags x).doms = x.doms ∧ (as.foldl Furrow.accTags x).liveSet = x.liveSet := by
  have one : ∀ (x : Furrow) (a : Acc), (x.accTags a).doms = x.doms ∧ (x.accTags a).liveSet = x.liveSet := by
    intro x a
    have tag : ∃ t, (if (!a.write && decide (a.tag = 2)) = true then { x with full := tset false x.full (a.addr.toNat / 512) false } else x) =
        { x with full := t } := by
      split
      · exact ⟨_, rfl⟩
      · exact ⟨x.full, rfl⟩
    obtain ⟨t, e⟩ := tag
    unfold Furrow.accTags
    dsimp only
    rw [e]
    split
    · exact ⟨rfl, rfl⟩
    · split
      · exact ⟨rfl, rfl⟩
      · split <;> exact ⟨rfl, rfl⟩
  induction as with
  | nil => exact fun x => ⟨rfl, rfl⟩
  | cons a r ih => exact fun x => ⟨(ih _).1.trans (one x a).1, (ih _).2.trans (one x a).2⟩

/-- After its launch a beat's operations are in flight with those that were (those that they overtake being marked, R51), and no sets are exchanged. -/
theorem State.launch_pipe (s : State) (f : Fur) (d : Dom) (w : Option Word) (acts : List Act) :
    (∃ old, ((s.launch f d w acts).dom f d).flights = old ++ (s.slotFlights f d w acts ++ s.courseFlights f d acts) ∧
      ((s.dom f d).flights = [] → old = [])) ∧
    ((s.launch f d w acts).dom f d).beat = (s.dom f d).beat ∧ ((s.launch f d w acts).fur f).liveSet = (s.fur f).liveSet := by
  have tagged := accTags_foldl_rest (s.servedNow f d acts) (s.fur f)
  have dom : ((s.servedNow f d acts).foldl Furrow.accTags (s.fur f)).dom d = s.dom f d := by
    unfold Furrow.dom
    rw [tagged.1]
    rfl
  unfold State.launch
  dsimp only
  refine ⟨⟨_, by rw [State.modDom, State.dom_setDom], fun h => ?_⟩, ?_, ?_⟩
  · split
    · rw [h]; rfl
    · exact h
  · rw [State.modDom, State.dom_setDom]
    show (State.dom (State.setFur _ f _) f d).beat = _
    rw [State.dom, State.fur_setFur]
    exact congrArg Domain.beat dom
  · rw [State.modDom, State.setDom, State.fur_setFur]
    show (State.fur (State.setFur _ f _) f).liveSet = _
    rw [State.fur_setFur]
    exact tagged.2

/-- A beat that retires leaves in flight the operations whose beat has not come, and exchanges the pairs of those whose beat has. -/
theorem State.retireBeat_pipe (s : State) (f : Fur) (d : Dom) (w : Option Word) (acts : List Act) (next : Nat) : ∃ y : Domain, ∃ depth,
    y.flights = ((s.launch f d w acts).dom f d).flights ∧ y.beat = (s.dom f d).beat ∧
    ((s.retireBeat f d w acts next 0).dom f d).flights = y.stillFly ∧
    ((s.retireBeat f d w acts next 0).fur f).liveSet = (s.fur f).liveSet ^^^ pairsIn (inPhases (mergeSwaps (keptOf depth y.dueNow)).1) := by
  obtain ⟨-, beat, live⟩ := s.launch_pipe f d w acts
  have issued := s.samePipe_issueBeat f d w acts
  obtain ⟨y, flights', beat', live', swapped⟩ := (s.issueBeat f d w acts).commitDue_swapped f d
  obtain ⟨z, closes, left⟩ := ((s.issueBeat f d w acts).commitDue f d 0).closeBeat_closes f d (s.env f d) w acts next
  have ends := left.thenSame (State.leaves_ordered s _ f)
  rw [← s.retireActs_eq f d w acts next 0] at ends
  have ends : Leaves _ (s.retireBeat f d w acts next 0) f _ := ends
  generalize (s.issueBeat f d w acts).commitDue f d 0 = v at swapped closes ends
  generalize s.retireBeat f d w acts next 0 = t at ends ⊢
  refine ⟨(s.issueBeat f d w acts).dom f d, (s.issueBeat f d w acts).build.depth, issued.flights, issued.beat.trans beat, ?_, ?_⟩
  · rw [ends.dom, Furrow.dom_setDom, closes.flights, ← flights']
    exact swapped.flights
  · obtain ⟨o, r, fur⟩ := ends.fur
    rw [fur]
    exact swapped.liveSet.trans (by rw [live', issued.liveSet, live])

/-- A beat without an operation that ends a chunk of a course that is no OS course exchanges the sets of the course's pairs (R164). -/
theorem State.retireBeat_chunkEnds {c : Course} (next : Nat) (course : (s.dom f d).course = some c) (ends : c.chunkEnds s.build = true) (op : c.op ≠ 2)
    (quiet : (s.dom f d).flights = []) :
    ((s.retireBeat f d (some ⟨0, [], 0⟩) [] next 0).fur f).liveSet = (s.fur f).liveSet ^^^ (s.env f d).pairsOf c.nb := by
  obtain ⟨⟨old, flights, old'⟩, -⟩ := s.launch_pipe f d (some ⟨0, [], 0⟩) []
  obtain ⟨y, depth, flights', beat, -, live⟩ := s.retireBeat_pipe f d (some ⟨0, [], 0⟩) [] next
  have now : liveCourse (s.dom f d) [] = some c := by
    unfold liveCourse
    rw [course]
  obtain ⟨rest, others, effs⟩ := Course.run_chunkEnds (s.env f d) c ((courseAccs s.build (some c)).map (s.rowNow f d [])) (s.freeNow []) op ends
  have step : s.courseStep f d [] = some (c.run (s.env f d) ((courseAccs s.build (some c)).map (s.rowNow f d [])) (s.freeNow [])) := by
    unfold State.courseStep
    rw [now]
    rfl
  generalize c.run (s.env f d) ((courseAccs s.build (some c)).map (s.rowNow f d [])) (s.freeNow []) = o at effs step
  have fresh : s.courseFlights f d [] = o.effs.map (fun p => ⟨(s.dom f d).beat + p.1 - 1, (s.dom f d).beat, 4, 0x38 + o.c.op, o.c.rid, o.c.addr, 0,
      s.build.audit && (s.fur f).auditEn, p.2⟩) := by
    unfold State.courseFlights
    rw [step]
  have all : y.flights = s.courseFlights f d [] := by
    rw [flights', flights, old' quiet]
    rfl
  obtain ⟨g, auto, swaps⟩ : ∃ g : Flight, g.eff = .swap ((s.env f d).pairsOf c.nb) 0 true ∧
      (y.flights.filter (fun g => decide (g.due ≤ y.beat))).filter Flight.isSwap = [g] := by
    refine ⟨⟨(s.dom f d).beat, (s.dom f d).beat, 4, 0x38 + o.c.op, o.c.rid, o.c.addr, 0, s.build.audit && (s.fur f).auditEn,
      .swap ((s.env f d).pairsOf c.nb) 0 true⟩, rfl, ?_⟩
    rw [all, fresh, effs, beat, List.map_append, List.filter_append, List.filter_append, List.filter_eq_nil_iff.mpr]
    · simp [Flight.isSwap, Effect.phase]
    · intro g hg
      obtain ⟨p, hp, rfl⟩ := List.mem_map.mp (List.mem_of_mem_filter hg)
      exact fun h => others p hp (beq_iff_eq.mp h)
  have due : (keptOf depth y.dueNow).filter Flight.isSwap = [g] := by
    rw [keptOf_isSwap]
    exact List.perm_singleton.mp (swaps ▸ (sortFlights_perm _).filter Flight.isSwap)
  rw [live, mergeSwaps_auto due auto, pairsIn_inPhases due, auto]
  rfl

end

/-- Settles O26: each clause is what its command's beat does, by the lemmas of the attempt, of the bare beat and of the chunk's end. -/
theorem scheduleBeats : Obligations.ScheduleBeats := by
  unfold Obligations.ScheduleBeats
  intro f d s x w idle
  refine ⟨fun acts mask run paired quiet before checked free => ?_, fun mask run paired waits free => ?_, fun st left clock hold go mask => ?_,
    fun w next mask quiet course empty => ?_, fun mask ready free => exec_operationCommit_running mask ready free,
    fun c course => ⟨fun ends => ⟨fun ready free => exec_tileChunkSwap course ends ready free, fun quiet op ready free =>
      ⟨_, exec_tileChunkSwap course ends ready free, State.retireBeat_chunkEnds _ course ends op quiet⟩⟩,
      fun drains ready free => exec_osDrainRead course drains ready free⟩,
    fun run lost => ?_, fun st quiet hold go => ?_⟩
  · have passes : s.checkedActs f d (some w) (x.pos + w.size) = .ok acts := checked
    rw [exec_beatAttempt mask run, State.fetchAttempt_stored mask paired quiet before, State.attempt_of_unblocked mask passes free]
  · rw [exec_beatAttempt mask run, State.fetchAttempt_idle mask paired waits, State.attempt_of_unblocked mask rfl free]
  · refine ⟨?_, rfl⟩
    show execBeatAttempt f ⟨d, mask⟩ s = _
    have still : s.canAttempt f d = false := by
      unfold State.canAttempt
      rw [show (s.dom f d).st = .starting from st]
      rfl
    unfold execBeatAttempt
    dsimp only
    rw [still, if_neg Bool.false_ne_true, if_pos]
    simp only [show (s.dom f d).st = .starting from st, show (s.dom f d).hold = false from hold, clock, go]
    simpa using left
  · obtain ⟨b, y, ⟨l, k, a, rfl⟩, closes, left⟩ := State.retireBeat_nothing next mask quiet course empty
    obtain ⟨host, hbm, segs, queues⟩ := left.memories
    obtain ⟨o, r, fur⟩ := left.fur
    have dom : (s.retireBeat f d w [] next mask).dom f d = y := by rw [left.dom, Furrow.dom_setDom]
    intro t y'
    have other : ∀ e : Dom, e ≠ d → t.dom f e = s.dom f e := fun e he => by
      show (s.retireBeat f d w [] next mask).dom f e = _
      rw [left.dom, Furrow.dom_setDom_ne _ he]
      rfl
    rw [show y' = y from dom, show t.fur f = _ from fur]
    exact ⟨fun k hk => left.fur_ne hk, other, host, hbm, queues, segs, rfl, rfl, rfl, rfl, rfl, rfl, rfl, rfl, closes.sregs, closes.aregs,
      closes.vregs, closes.flags, closes.live, closes.flights, closes.course rfl, closes.beat, closes.beats, closes.ticks, closes.runBeats,
      closes.causes rfl⟩
  · have exec' : exec (.pairLossFreeze f d) s = .next (s.pairFreeze f d) := by
      show execPairLossFreeze f d s = _
      unfold execPairLossFreeze
      rw [if_pos (by rw [run, show (s.dom f d).pairLost = true from lost]; rfl)]
    refine ⟨s.pairFreeze f d, x.noted x.pos false false x.course.isSome, exec', ?_⟩
    have same : (s.dropW f d).dom f d = s.dom f d := (s.leaves_dropW f d).dom
    unfold State.pairFreeze State.noteTick State.modDom
    rw [State.dom_setDom, same]
    unfold State.setDom
    rw [State.setFur_setFur, State.fur_setFur, Furrow.setDom_setDom]
  · show execDrainEnd f d s = _
    unfold execDrainEnd
    dsimp only
    rw [if_pos]
    · rfl
    · exact ⟨st, quiet, by rw [show (s.dom f d).hold = false from hold]; rfl, by rw [go]; rfl⟩

end Sys2Proof.Machine
end

section
/-! PROOFS. A tick on which the one operation in flight commits: of the drain, or of a beat with no operation (R33, R36, R38). -/
namespace Sys2Proof.Machine

/-! ### What a commit leaves of its domain -/

/-- Domain `y` is `x` but for registers and the logs of late additions. -/
def Domain.Written (x y : Domain) : Prop :=
  ∃ sr ar fl vr la, y = { x with sregs := sr, aregs := ar, flags := fl, vregs := vr, lateAdds := la }

theorem Domain.Written.refl (x : Domain) : x.Written x := ⟨_, _, _, _, _, rfl⟩

theorem macBrick_doms (fmtA fmtB : Nat) (first sat flush aMark : Bool) (free brick set : Nat) (bs : List Nat) (bMark : Bool) (as : List Nat) (d : Dom) :
    ∀ (k : Nat) (x : Furrow), (macBrick fmtA fmtB first sat flush aMark free brick set bs bMark as k x d).doms = x.doms := by
  induction as with
  | nil => exact fun _ _ => rfl
  | cons a r ih =>
    intro k x
    unfold macBrick
    exact ih _ _

theorem Furrow.written_of_doms {x y : Furrow} (h : y.doms = x.doms) (d : Dom) : (x.dom d).Written (y.dom d) := by
  unfold Furrow.dom
  rw [h]
  exact .refl _

theorem Furrow.written_setDom (x : Furrow) {d : Dom} {y : Domain} (h : (x.dom d).Written y) : (x.dom d).Written ((x.setDom d y).dom d) := by
  rwa [Furrow.dom_setDom]

theorem Furrow.applyEff_written (x x0 : Furrow) (depth : Nat) (d : Dom) (free slot issue : Nat) (e : Effect) :
    (x.dom d).Written ((x.applyEff x0 depth d free slot issue e).1.dom d) := by
  cases e with
  | sreg | areg | flag | vreg => exact x.written_setDom ⟨_, _, _, _, _, rfl⟩
  | win b e' mode lo vals mark sums sat flush =>
    unfold Furrow.applyEff
    dsimp only
    rw [Furrow.dom_setDom]
    exact ⟨_, _, _, _, _, rfl⟩
  | winClear =>
    unfold Furrow.applyEff
    dsimp only
    rw [Furrow.dom_setDom]
    exact ⟨_, _, _, _, _, rfl⟩
  | row =>
    refine Furrow.written_of_doms ?_ d
    unfold Furrow.applyEff Furrow.writeRow
    dsimp only
    split <;> rfl
  | standby => exact Furrow.written_of_doms rfl d
  | swap => exact Furrow.written_of_doms rfl d
  | mac fa fb first sat flush as aMark bs =>
    refine Furrow.written_of_doms ?_ d
    unfold Furrow.applyEff
    dsimp only
    induction bs generalizing x with
    | nil => rfl
    | cons q r ih => exact (ih _).trans (macBrick_doms ..)
  | counter => exact Furrow.written_of_doms rfl d

/-- The one operation in flight leaves its domain with nothing in flight, and as it was but for what it writes. -/
theorem Furrow.committed_written (x : Furrow) (depth : Nat) (d : Dom) (n : Nat) (g : Flight) :
    ({ x.dom d with flights := [] } : Domain).Written ((x.committed depth d n g).dom d) := by
  have written := (x.setDom d { x.dom d with flights := [] }).applyEff_written x depth d n g.slot g.issue g.eff
  rwa [Furrow.dom_setDom] at written

/-! ### The tick of the commit -/

/-- Furrow `y` is `x` when operations of its domain `d` commit: nothing that a commit reads has changed. -/
def Furrow.AtCommit (x y : Furrow) (d : Dom) : Prop :=
  ∃ o r y', y = { x.setDom d y' with ovf := o, wRows := r } ∧ y'.sregs = (x.dom d).sregs ∧ y'.aregs = (x.dom d).aregs ∧
    y'.flags = (x.dom d).flags ∧ y'.vregs = (x.dom d).vregs ∧ y'.lateAdds = (x.dom d).lateAdds

/-- Domain `y` after the tick has the registers of `x`. -/
def Domain.SameRegs (x y : Domain) : Prop := y.sregs = x.sregs ∧ y.aregs = x.aregs ∧ y.flags = x.flags ∧ y.vregs = x.vregs

/-- Furrow `u` after a tick on which of domain `d` operation `g` alone commits, from the furrow `x` before it. -/
def Furrow.Commits (x u : Furrow) (depth : Nat) (d : Dom) (g : Flight) : Prop :=
  ∃ z n y o r, x.AtCommit z d ∧ u = { (z.committed depth d n g).setDom d y with ovf := o, wRows := r } ∧ ((z.committed depth d n g).dom d).SameRegs y

/-- State `t` follows `s` on such a tick of domain `d`: the operation has committed, and everything outside the furrow is as it was. -/
structure State.CommitTick (s t : State) (f : Fur) (d : Dom) (g : Flight) : Prop where
  fur : (s.fur f).Commits (t.fur f) s.build.depth d g
  flights : (t.dom f d).flights = []
  beat : (t.dom f d).beat = (s.dom f d).beat + 1
  st : (t.dom f d).st = (s.dom f d).st
  hostMem : t.hostMem = s.hostMem
  hbm : t.hbm = s.hbm
  others : ∀ k : Fur, k ≠ f → t.fur k = s.fur k

section
variable {s u t : State} {f : Fur} {d : Dom} {g : Flight}

/-- A tick of which the commits find the domain as it was, and after which it goes on, is such a tick. -/
theorem State.CommitTick.of_leaves {x1 y : Domain} (before : s.Leaves u f ((s.fur f).setDom d x1))
    (regs : (s.dom f d).SameRegs x1) (late : x1.lateAdds = (s.dom f d).lateAdds) (beat : x1.beat = (s.dom f d).beat) (st : x1.st = (s.dom f d).st) {n : Nat}
    (after : u.Leaves t f (((u.fur f).committed u.build.depth d n g).setDom d y))
    (goes : ∀ o : Domain, o = ((u.fur f).committed u.build.depth d n g).dom d → o.st = x1.st →
      o.SameRegs y ∧ y.flights = o.flights ∧ y.beat = o.beat + 1 ∧ y.st = o.st) : s.CommitTick t f d g := by
  obtain ⟨o, r, fur⟩ := before.fur
  obtain ⟨o', r', fur'⟩ := after.fur
  obtain ⟨-, depth⟩ := before.time_build
  obtain ⟨host, hbm, -, -⟩ := (before.trans after).memories
  have here : (u.fur f).dom d = x1 := before.dom.trans (Furrow.dom_setDom _ _ _)
  have dom : t.dom f d = y := after.dom.trans (Furrow.dom_setDom _ _ _)
  obtain ⟨sr, ar, fl, vr, la, written⟩ := (u.fur f).committed_written u.build.depth d n g
  rw [here] at written
  obtain ⟨same, flights, beat', st'⟩ := goes _ rfl (by rw [written])
  rw [written] at flights beat' st'
  obtain ⟨sregs, aregs, flags, vregs⟩ := regs
  rw [depth] at fur' same
  refine ⟨⟨u.fur f, n, y, o', r', ⟨o, r, x1, fur, sregs, aregs, flags, vregs, late⟩, fur', same⟩, ?_, ?_, ?_, host, hbm, fun k hk => ?_⟩
  · rw [dom, flights]
  · rw [dom, beat', ← beat]
  · rw [dom, st', ← st]
  · exact (before.trans after).fur_ne hk

theorem State.Leaves.thenMod {x : Furrow} (h : s.Leaves t f x) (m : Domain → Domain) : s.Leaves (t.modDom f d m) f (x.setDom d (m (x.dom d))) := by
  have both := h.thenDom (t.leaves_setDom f d (m (t.dom f d)))
  unfold State.modDom
  rw [h.dom] at both ⊢
  exact both

/-- A tick of the drain (R36). -/
theorem State.drainTick_commits (alone : (s.dom f d).flights = [g]) (due : g.due ≤ (s.dom f d).beat) (ov : g.overtaken = 0) :
    s.CommitTick (s.drainTick f d 0) f d g := by
  obtain ⟨k, noted⟩ := s.leaves_noteTick f d false true
  unfold State.drainTick
  generalize s.noteTick f d false true = u at noted
  have here : u.dom f d = { s.dom f d with tick := k } := noted.dom.trans (Furrow.dom_setDom _ _ _)
  obtain ⟨n, w, commit⟩ := u.leaves_commitDue_one f d (g := g) (by rw [here]; exact alone) (by rw [here]; exact due) ov
  have commit := commit.thenSame (State.leaves_ordered s _ f)
  generalize s.ordered (u.commitDue f d 0) = v at commit
  dsimp only at commit
  generalize ho : (u.fur f).committed u.build.depth d n g = o at commit
  have moved := commit.thenMod (d := d) (fun y => { y with beat := y.beat + 1 })
  rw [Furrow.dom_setDom, Furrow.setDom_setDom] at moved
  generalize v.modDom f d (fun y => { y with beat := y.beat + 1 }) = m at moved
  obtain ⟨y, kept, ticked⟩ := m.leaves_keeperTick f d false false
  rw [moved.dom, Furrow.dom_setDom] at kept
  have after := moved.thenDom ticked
  rw [Furrow.setDom_setDom] at after
  obtain ⟨_, _, _, _, _, rfl⟩ := kept
  subst ho
  refine .of_leaves noted ⟨rfl, rfl, rfl, rfl⟩ rfl rfl rfl after fun o e _ => ?_
  subst e
  exact ⟨⟨rfl, rfl, rfl, rfl⟩, rfl, rfl, rfl⟩

/-- A beat with no operation, in a RUNNING domain without a course (R33). -/
theorem State.retireBeat_commits (run : (s.dom f d).st = .running) (idle : (s.dom f d).course = none) (next : Nat) (alone : (s.dom f d).flights = [g])
    (due : g.due ≤ (s.dom f d).beat) (ov : g.overtaken = 0) : s.CommitTick (s.retireBeat f d (some ⟨0, [], 0⟩) [] next 0) f d g := by
  have none : ∀ a ∈ ([] : List Act), a.IsEff := fun a ha => absurd ha List.not_mem_nil
  obtain ⟨l, k, issued⟩ := State.leaves_launch (w := some ⟨0, [], 0⟩) idle none (.inr rfl)
  rw [← State.issueBeat_effs idle none (fun p hp => absurd hp List.not_mem_nil) (.inr rfl)] at issued
  have fresh : (s.dom f d).flights ++ s.slotFlights f d (some ⟨0, [], 0⟩) [] = [g] := by rw [alone]; rfl
  rw [fresh] at issued
  have retires : s.retireBeat f d (some ⟨0, [], 0⟩) [] next 0 = s.ordered (((s.issueBeat f d (some ⟨0, [], 0⟩) []).commitDue f d 0).closeBeat f d
    (s.env f d) (some ⟨0, [], 0⟩) [] next) := rfl
  rw [retires]
  generalize s.issueBeat f d (some ⟨0, [], 0⟩) [] = u at issued
  have here := issued.dom (d := d)
  rw [Furrow.dom_setDom] at here
  obtain ⟨n, w, commit⟩ := u.leaves_commitDue_one f d (g := g) (by rw [here]) (by rw [here]; exact due) ov
  generalize u.commitDue f d 0 = v at commit
  dsimp only at commit
  generalize ho : (u.fur f).committed u.build.depth d n g = o at commit
  obtain ⟨y, kept, closed⟩ := v.leaves_closeBeat f d (s.env f d) (some ⟨0, [], 0⟩) [] next
  rw [commit.dom, Furrow.dom_setDom] at kept
  have after := (commit.thenDom closed).thenSame (State.leaves_ordered s _ f)
  rw [Furrow.setDom_setDom] at after
  subst ho
  refine .of_leaves issued ⟨rfl, rfl, rfl, rfl⟩ rfl rfl rfl after fun o e st => ?_
  have running : y.st = .running := by
    obtain ⟨_, _, _, _, _, rfl⟩ := kept
    exact ((congrArg Domain.st e).symm.trans st).trans run
  have closes : o.Closes (y.turned (s.env f d).x (s.env f d).fu (some ⟨0, [], 0⟩) next Option.none).cut := by
    have turned := (y.closes_turned (s.env f d).x (s.env f d).fu (some ⟨0, [], 0⟩) next Option.none).cut
    have all := Domain.Closes.of_kept kept turned
    rw [e]
    exact ⟨all.sregs, all.aregs, all.vregs, all.flags, all.live, all.flights, all.beat, all.beats, all.ticks, all.runBeats, all.course, all.causes⟩
  exact ⟨⟨closes.sregs, closes.aregs, closes.flags, closes.vregs⟩, closes.flights, closes.beat,
    (Domain.cut_turned_running running _ _ _).trans (st.trans run).symm⟩

/-- OPERATION_COMMIT is such a tick, in the drain and in a running domain that nothing blocks. -/
theorem exec_operationCommit_commits (alone : (s.dom f d).flights = [g]) (due : g.due ≤ (s.dom f d).beat) (ov : g.overtaken = 0)
    (ready : ((s.dom f d).st = .draining ∧ s.stopped = false ∧ (s.dom f d).hold = false) ∨
      (s.atBeat f d ∧ (s.dom f d).course = none ∧ s.unblocked f d [])) :
    ∃ t, exec (.operationCommit f d 0) s = .next t ∧ s.CommitTick t f d g := by
  rcases ready with ⟨drains, go, hold⟩ | ⟨ready, idle, free⟩
  · refine ⟨s.drainTick f d 0, ?_, State.drainTick_commits alone due ov⟩
    show execOperationCommit f d 0 s = _
    unfold execOperationCommit
    rw [if_pos drains, go, hold]
    simp only [Bool.false_eq_true, if_false]
  · have run := ready.1
    unfold State.canAttempt at run
    simp only [Bool.and_eq_true, decide_eq_true_eq] at run
    exact ⟨_, exec_operationCommit_running 0 ready free, State.retireBeat_commits run.1.1 idle _ alone due ov⟩

end

end Sys2Proof.Machine
end

section
/-! PROOFS. O22: an operation in flight commits to its destination alone (R33, R36, R38, R69, R108, R154, R155, R186, R201, R202, R283). -/
namespace Sys2Proof.Machine

theorem Domain.SameRegs.refl (x : Domain) : x.SameRegs x := ⟨rfl, rfl, rfl, rfl⟩

/-- What a commit may write of furrow `x` and its domain `d` is in `u` as it was. -/
structure Furrow.Same (x u : Furrow) (d : Dom) : Prop where
  data : u.data = x.data
  full : u.full = x.full
  poison : u.poison = x.poison
  windrow : u.windrow = x.windrow
  cells : u.cells = x.cells
  liveSet : u.liveSet = x.liveSet
  counters : u.counters = x.counters
  fallow : u.fallow = x.fallow
  waking : u.waking = x.waking
  regs : (x.dom d).SameRegs (u.dom d)

section
variable {x z u : Furrow} {depth : Nat} {d : Dom} {g : Flight}

theorem Furrow.same_noted (x : Furrow) {y : Domain} (o : BitVec 18) (r : List WRow) (h : (x.dom d).SameRegs y) :
    x.Same { x.setDom d y with ovf := o, wRows := r } d := by
  refine ⟨rfl, rfl, rfl, rfl, rfl, rfl, rfl, rfl, rfl, ?_⟩
  have e : ({ x.setDom d y with ovf := o, wRows := r } : Furrow).dom d = y := Furrow.dom_setDom _ _ _
  rwa [e]

/-- A tick of one commit is that commit, on the furrow as it was. -/
theorem Furrow.Commits.sides (h : x.Commits u depth d g) :
    ∃ z n, x.Same z d ∧ (z.dom d).lateAdds = (x.dom d).lateAdds ∧ (z.committed depth d n g).Same u d := by
  obtain ⟨z, n, y, o, r, ⟨o', r', y', hz, sregs, aregs, flags, vregs, late⟩, hu, same⟩ := h
  refine ⟨z, n, ?_, ?_, ?_⟩
  · rw [hz]
    exact x.same_noted o' r' ⟨sregs, aregs, flags, vregs⟩
  · rw [hz, ← late]
    exact congrArg Domain.lateAdds (Furrow.dom_setDom _ _ _)
  · rw [hu]
    exact Furrow.same_noted _ o r same

/-! ### A register takes its value -/

theorem bitOf_setBit_self {n i : Nat} (h : i < n) (w : BitVec n) (b : Bool) : bitOf (setBit w i b) i = b := by
  cases b <;> simp [bitOf, setBit, h]

theorem bitOf_setBit_ne {n i j : Nat} (h : j ≠ i) (w : BitVec n) (b : Bool) : bitOf (setBit w i b) j = bitOf w j := by
  have off : (BitVec.twoPow n i).getLsbD j = false := by
    simp [BitVec.getLsbD_twoPow, Ne.symm h]
  unfold bitOf setBit
  split
  · rw [BitVec.getLsbD_or, off, Bool.or_false]
  · rw [BitVec.getLsbD_and, BitVec.getLsbD_not, off]
    by_cases hj : j < n
    · simp [hj]
    · simp [BitVec.getLsbD_of_ge w j (Nat.le_of_not_lt hj)]

/-- A commit that only writes its domain: the domain takes what it writes, and the rest of the furrow is as it was. -/
theorem Furrow.Commits.ofDom (h : x.Commits u depth d g) {P : Domain → Domain → Prop}
    (eff : ∀ z n, ∃ w, Furrow.committed z depth d n g = z.setDom d w ∧ P (z.dom d) w) :
    (u.data = x.data ∧ u.full = x.full ∧ u.poison = x.poison) ∧ u.windrow = x.windrow ∧ (u.cells = x.cells ∧ u.liveSet = x.liveSet) ∧
      u.counters = x.counters ∧ ∃ a w, (x.dom d).SameRegs a ∧ P a w ∧ w.SameRegs (u.dom d) := by
  obtain ⟨z, n, a, -, b⟩ := h.sides
  obtain ⟨w, e, hp⟩ := eff z n
  rw [e] at b
  have regs := b.regs
  rw [Furrow.dom_setDom] at regs
  exact ⟨⟨b.data.trans a.data, b.full.trans a.full, b.poison.trans a.poison⟩, b.windrow.trans a.windrow,
    ⟨b.cells.trans a.cells, b.liveSet.trans a.liveSet⟩, b.counters.trans a.counters, z.dom d, w, a.regs, hp, regs⟩

theorem Furrow.committed_flag (z : Furrow) (depth : Nat) (d : Dom) (n : Nat) {i : Nat} {v : Bool} (h : g.eff = .flag i v) :
    z.committed depth d n g = z.setDom d { z.dom d with flights := [], flags := setBit (z.dom d).flags i v } := by
  unfold Furrow.committed
  rw [h]
  unfold Furrow.applyEff
  dsimp only
  rw [Furrow.setDom_setDom, Furrow.dom_setDom]

theorem Furrow.committed_vreg (z : Furrow) (depth : Nat) (d : Dom) (n : Nat) {i lo : Nat} {vals : List W32} {segs marks : BitVec 8}
    (h : g.eff = .vreg i lo vals segs marks) : z.committed depth d n g = z.setDom d { z.dom d with
      flights := [], vregs := vput (z.dom d).vregs i (((z.dom d).vreg i).put lo vals segs marks) } := by
  unfold Furrow.committed
  rw [h]
  unfold Furrow.applyEff
  dsimp only
  rw [Furrow.setDom_setDom, Furrow.dom_setDom]
  rfl

/-- The marks of the segments written are those of the value, and the others stand (R206, R207). -/
theorem bitOf_put_marks (r : VReg) (lo : Nat) (vals : List W32) (segs marks : BitVec 8) {k : Nat} (hk : k < 8) :
    bitOf (r.put lo vals segs marks).marks k = if bitOf segs k then bitOf marks k else bitOf r.marks k := by
  unfold VReg.put bitOf
  simp only [BitVec.getLsbD_or, BitVec.getLsbD_and, BitVec.getLsbD_not, hk, decide_true, Bool.true_and]
  cases segs.getLsbD k <;> simp

/-! ### A row, a cell row, the live sets and a counter -/

/-- A commit that writes no register: of the domain, all registers stand. -/
theorem Furrow.Commits.ofFur (h : x.Commits u depth d g) (keeps : ∀ z n, (Furrow.dom z d).SameRegs ((Furrow.committed z depth d n g).dom d)) :
    (x.dom d).SameRegs (u.dom d) := by
  obtain ⟨z, n, a, -, b⟩ := h.sides
  obtain ⟨s, r, f, v⟩ := a.regs
  obtain ⟨s', r', f', v'⟩ := keeps z n
  obtain ⟨s'', r'', f'', v''⟩ := b.regs
  exact ⟨s''.trans (s'.trans s), r''.trans (r'.trans r), f''.trans (f'.trans f), v''.trans (v'.trans v)⟩

theorem Furrow.committed_row (z : Furrow) (depth : Nat) (d : Dom) (n : Nat) {a tag : Nat} {bytes : List Byte} {mark : Bool}
    (h : g.eff = .row a bytes tag mark) : z.committed depth d n g = (z.setDom d { z.dom d with flights := [] }).writeRow a bytes tag mark := by
  unfold Furrow.committed
  rw [h]
  rfl

theorem Furrow.committed_standby (z : Furrow) (depth : Nat) (d : Dom) (n : Nat) {b r : Nat} {bytes : List Byte} {mark : Bool}
    (h : g.eff = .standby b r bytes mark) : z.committed depth d n g = { z.setDom d { z.dom d with flights := [] } with
      cells := tset CellRow.zero z.cells (cellKey b (1 - z.liveOf b) r) ⟨bytes, [], mark⟩ } := by
  unfold Furrow.committed
  rw [h]
  rfl

theorem Furrow.committed_swap (z : Furrow) (depth : Nat) (d : Dom) (n : Nat) {ps nm : BitVec 2} {auto : Bool}
    (h : g.eff = .swap ps nm auto) : z.committed depth d n g = { z.setDom d { z.dom d with flights := [] } with liveSet := z.liveSet ^^^ ps } := by
  unfold Furrow.committed
  rw [h]
  rfl

theorem Furrow.committed_counter (z : Furrow) (depth : Nat) (d : Dom) (n : Nat) {c k v : Nat}
    (h : g.eff = .counter c k v) : z.committed depth d n g = { z.setDom d { z.dom d with flights := [] } with
      counters := tset 0 z.counters c (counterOp k v (tget 0 z.counters c)) } := by
  unfold Furrow.committed
  rw [h]
  rfl

theorem Furrow.sameRegs_grounded (z : Furrow) (d : Dom) : (z.dom d).SameRegs ((z.setDom d { z.dom d with flights := [] }).dom d) := by
  rw [Furrow.dom_setDom]
  exact ⟨rfl, rfl, rfl, rfl⟩

/-- A store writes its bytes, TAG and POISON where no sleeping group lies (R108, R111, R119). -/
theorem Furrow.writeRow_awake (z : Furrow) {a : Nat} (h : z.asleep (a / 512) = false) (bytes : List Byte) (tag : Nat) (mark : Bool) :
    z.writeRow a bytes tag mark = { z with
      data := tputs 0 z.data a bytes
      full := if tag = 3 || tag = 4 then tset false z.full (a / 512) true else z.full
      poison := if mark then tset false z.poison (a / 512) true
        else if bytes.length = 512 then tset false z.poison (a / 512) false else z.poison } := by
  unfold Furrow.writeRow
  dsimp only
  rw [if_neg (by rw [h]; exact Bool.false_ne_true)]

end

/-- One element written, read at every key. -/
theorem tget_tset {α : Type} [DecidableEq α] (d v : α) (t : Tab α) (k j : Nat) (hr : keysRise none t = true) :
    tget d (tset d t k v) j = if j = k then v else tget d t j := by
  split
  · next h => rw [h, tget_tset_self d v t k hr]
  · next h => rw [tget_tset_of_ne d v t h hr]

/-- TAG and POISON of every row after a store to one (R108, R111). -/
theorem tget_full_store (t : Tab Bool) (wf : twf false t = true) (row tag r : Nat) :
    tget false (if tag = 3 || tag = 4 then tset false t row true else t) r = if r = row ∧ (tag = 3 ∨ tag = 4) then true else tget false t r := by
  by_cases marks : tag = 3 ∨ tag = 4
  · rw [if_pos (by simpa using marks), tget_tset _ _ _ _ _ ((twf_iff _ _).mp wf).1]
    simp [marks]
  · rw [if_neg (by simpa using marks)]
    simp [marks]

theorem tget_poison_store (t : Tab Bool) (wf : twf false t = true) (row len r : Nat) (mark : Bool) :
    tget false (if mark then tset false t row true else if len = 512 then tset false t row false else t) r =
      if r = row ∧ mark = true then true else if r = row ∧ len = 512 then false else tget false t r := by
  have put := fun v => tget_tset false v t row r ((twf_iff _ _).mp wf).1
  cases mark with
  | true =>
    rw [if_pos rfl, put]
    by_cases here : r = row <;> simp [here]
  | false => by_cases whole : len = 512 <;> simp [put, whole]

/-! ### The windrow -/

theorem winKey_inj {b e b' e' : Nat} (he : e < 1024) (he' : e' < 1024) : winKey b' e' = winKey b e ↔ b' = b ∧ e' = e := by
  unfold winKey
  omega

/-- How far entry `e'` stands after entry `e`, around the windrow (R201). -/
theorem around_eq {depth e e' : Nat} (he : e < depth) (he' : e' < depth) :
    (e' + depth - e) % depth = if e ≤ e' then e' - e else e' + depth - e := by
  split
  · next h =>
    have : e' + depth - e = e' - e + depth := by omega
    rw [this, Nat.add_mod_right, Nat.mod_eq_of_lt (by omega)]
  · rw [Nat.mod_eq_of_lt (by omega)]

theorem around_succ {depth e e' n : Nat} (he : e < depth) (he' : e' < depth) :
    (e' + depth - e) % depth < n + 1 ↔ e' = e ∨ (e' + depth - (e + 1) % depth) % depth < n := by
  rw [around_eq he he']
  by_cases last : e + 1 = depth
  · rw [last, Nat.mod_self, around_eq (by omega) he']
    simp only [Nat.zero_le, if_true]
    split <;> omega
  · rw [Nat.mod_eq_of_lt (show e + 1 < depth by omega), around_eq (by omega) he']
    split <;> split <;> omega

/-- WCLR clears its `n` entries, around the end of the windrow, and no other (R201). -/
theorem tget_clearEntries {depth b : Nat} (hd : depth ≤ 1024) : ∀ (n e : Nat) (t : Tab WEntry), twf WEntry.zero t = true → e < depth → n ≤ depth →
    ∀ b' e', e' < depth → tget WEntry.zero (clearEntries depth b e n t) (winKey b' e') =
      if b' = b ∧ (e' + depth - e) % depth < n then WEntry.zero else tget WEntry.zero t (winKey b' e') := by
  intro n
  induction n with
  | zero =>
    intro e t _ _ _ b' e' _
    simp [clearEntries]
  | succ n ih =>
    intro e t ht he hn b' e' he'
    have wf := twf_tset WEntry.zero WEntry.zero t (winKey b (e % depth)) ht
    have around := around_succ (n := n) he he'
    unfold clearEntries
    rw [ih ((e + 1) % depth) _ wf (Nat.mod_lt _ (by omega)) (by omega) b' e' he', Nat.mod_eq_of_lt he,
      tget_tset _ _ _ _ _ ((twf_iff _ _).mp ht).1]
    simp only [winKey_inj (b := b) (e := e) (b' := b') (by omega) (show e' < 1024 by omega), around]
    by_cases hb : b' = b <;> by_cases he'' : e' = e <;> simp [hb, he'']

section
variable {x z u : Furrow} {depth : Nat} {d : Dom} {g : Flight}

theorem Furrow.committed_winClear (z : Furrow) (depth : Nat) (d : Dom) (n : Nat) {b e k : Nat} (h : g.eff = .winClear b e k) :
    ∃ w, (z.dom d).SameRegs w ∧ z.committed depth d n g = { z.setDom d w with windrow := clearEntries depth b e k z.windrow } := by
  refine ⟨{ z.dom d with flights := [], lateAdds := (z.dom d).lateAdds.filter (fun p => !(Effect.winClear b e k).hits depth (3, p.1 / 512)) },
    ⟨rfl, rfl, rfl, rfl⟩, ?_⟩
  unfold Furrow.committed
  rw [h]
  unfold Furrow.applyEff
  dsimp only
  rw [Furrow.dom_setDom]
  have shape : ∀ (w : Tab WEntry) (a y : Domain), ({ z.setDom d a with windrow := w } : Furrow).setDom d y = { z.setDom d y with windrow := w } :=
    fun w a y => congrArg (fun v : Furrow => { v with windrow := w }) (Furrow.setDom_setDom z d a y)
  exact shape _ _ _

/-- A windrow write puts the values that its lanes take in issue order (R186, R202). -/
theorem Furrow.committed_win (z : Furrow) (depth : Nat) (d : Dom) (n : Nat) {b e lo : Nat} {mode : WinMode} {vals : List W32} {mark sat flush : Bool}
    {sums : BitVec 4} (h : g.eff = .win b e mode lo vals mark sums sat flush) : ∃ w k, (z.dom d).SameRegs w ∧ z.committed depth d n g =
      { z.setDom d w with
        windrow := tset WEntry.zero z.windrow (winKey b e)
          ((z.setDom d { z.dom d with flights := [] }).entryAfter z d g.slot g.issue b e mode lo vals mark sat flush)
        wrSticky := k } := by
  unfold Furrow.committed
  rw [h]
  unfold Furrow.applyEff
  dsimp only
  obtain ⟨k, won⟩ := (z.setDom d { z.dom d with flights := [] }).commitWin_fst z d g.slot g.issue b e mode lo vals mark sat flush
  rw [won]
  have shape : ∀ (w : Tab WEntry) (a y : Domain), ({ z.setDom d a with windrow := w, wrSticky := k } : Furrow).setDom d y =
      { z.setDom d y with windrow := w, wrSticky := k } :=
    fun w a y => congrArg (fun v : Furrow => { v with windrow := w, wrSticky := k }) (Furrow.setDom_setDom z d a y)
  refine ⟨_, k, ?_, shape _ _ _⟩
  rw [Furrow.dom_setDom]
  exact ⟨rfl, rfl, rfl, rfl⟩

theorem w32_toNat (v : W32) : w32 v.toNat = v := by
  simp [w32]

/-- The lanes that such a write puts, where the logs of the domain are empty or the write is not the course's. -/
theorem Furrow.laneLog_none {slot : Nat} (h : (z.dom d).lateAdds = [] ∨ slot ≠ 4) (b e lane : Nat) : z.laneLog d slot b e lane = LaneLog.none := by
  unfold Furrow.laneLog
  split
  · next hs =>
    rcases h with h | h
    · rw [h]; rfl
    · exact absurd hs h
  · rfl

theorem winLane_replace {x0 : Furrow} {slot issue b e lane : Nat} (h : (z.dom d).lateAdds = [] ∨ slot ≠ 4) (sat flush : Bool) (v : W32) :
    w32 (winLane z x0 d slot issue b e .replace sat flush lane v).bits = v := by
  unfold winLane
  rw [Furrow.laneLog_none h]
  exact w32_toNat v

theorem winLane_accum {x0 : Furrow} {slot issue b e lane : Nat} (h : (z.dom d).lateAdds = [] ∨ slot ≠ 4) (sat flush : Bool) (v : W32) :
    w32 (winLane z x0 d slot issue b e .accum sat flush lane v).bits =
      w32 (add32 sat flush (tget 0 (z.went b e).lanes lane).toNat v.toNat).bits := by
  unfold winLane
  rw [Furrow.laneLog_none h]
  show w32 (CVal.plus _ sat flush v).bits = _
  unfold CVal.plus
  rw [w32_toNat]
  rfl

section
variable {x0 : Furrow} {issue b e lo : Nat} {base : W32} {a : LaneAdd}

theorem Furrow.laneLog_one (h : (z.dom d).lateAdds = [(512 * winKey b e + lo, ⟨base, [a]⟩)]) : z.laneLog d 4 b e lo = ⟨base, [a]⟩ := by
  unfold Furrow.laneLog winLaneKey
  rw [if_pos rfl, h]
  simp [tget]

/-- An addition that was issued later and has committed is made again after the write (R186). -/
theorem winLane_replace_before (h : (z.dom d).lateAdds = [(512 * winKey b e + lo, ⟨base, [a]⟩)]) (later : issue < a.issue) (sat flush : Bool) (v : W32) :
    w32 (winLane z x0 d 4 issue b e .replace sat flush lo v).bits = w32 (add32 a.sat a.flush v.toNat a.val.toNat).bits := by
  have after : LaneLog.after ⟨base, [a]⟩ issue = [a] := by simp [LaneLog.after, later]
  unfold winLane
  rw [Furrow.laneLog_one h]
  dsimp only
  rw [after]
  show w32 (CVal.plus _ a.sat a.flush a.val).bits = _
  unfold CVal.plus winStart
  dsimp only
  rw [w32_toNat]
  rfl

theorem winLane_accum_before (h : (z.dom d).lateAdds = [(512 * winKey b e + lo, ⟨base, [a]⟩)]) (later : issue < a.issue) (sat flush : Bool) (v : W32) :
    w32 (winLane z x0 d 4 issue b e .accum sat flush lo v).bits =
      w32 (add32 a.sat a.flush (w32 (add32 sat flush base.toNat v.toNat).bits).toNat a.val.toNat).bits := by
  have after : LaneLog.after ⟨base, [a]⟩ issue = [a] := by simp [LaneLog.after, later]
  have before : [a].filter (fun a => decide (a.issue < issue)) = [] := by
    simp [Nat.le_of_lt later]
  unfold winLane
  rw [Furrow.laneLog_one h]
  dsimp only
  unfold addInOrder
  rw [after, before]
  dsimp only
  rw [if_neg (List.cons_ne_nil a [])]
  show w32 (CVal.plus (CVal.plus ⟨(w32 base.toNat).toNat, false, false⟩ sat flush v) a.sat a.flush a.val).bits = _
  unfold CVal.plus
  rw [w32_toNat, w32_toNat]
  rfl

end

end

section
variable {x z u : Furrow} {depth : Nat} {d : Dom} {g : Flight} {b e lo : Nat} {mode : WinMode} {vals vs : List W32} {mark sat flush : Bool}
  {sums : BitVec 4}

theorem map_mapIdx {α β γ : Type} (l : List α) (h : Nat → α → β) (k : β → γ) : (l.mapIdx h).map k = l.mapIdx (fun i a => k (h i a)) :=
  List.ext_getElem (by simp) (by simp)

/-- The entry after a write that replaces its lanes, and after one that adds to them, by the values that the lanes take. -/
theorem Furrow.entryAfter_replace {slot issue : Nat} (lanes : vals.mapIdx (fun i v => w32 (winLane z x d slot issue b e .replace sat flush (lo + i) v).bits) = vs) :
    z.entryAfter x d slot issue b e .replace lo vals mark sat flush =
      ⟨tputs 0 (z.went b e).lanes lo vs, if vals.length = 512 then mark else (z.went b e).mark || mark⟩ := by
  unfold Furrow.entryAfter
  rw [← lanes]
  simp [map_mapIdx]

theorem Furrow.entryAfter_accum {slot issue : Nat} (lanes : vals.mapIdx (fun i v => w32 (winLane z x d slot issue b e .accum sat flush (lo + i) v).bits) = vs) :
    z.entryAfter x d slot issue b e .accum lo vals mark sat flush = ⟨tputs 0 (z.went b e).lanes lo vs, (z.went b e).mark || mark⟩ := by
  unfold Furrow.entryAfter
  rw [← lanes]
  simp [map_mapIdx]

/-- The commit of a windrow write writes its entry alone, computed from the windrow and the logs as they stood. -/
theorem Furrow.Commits.win (h : x.Commits u depth d g) (eff : g.eff = .win b e mode lo vals mark sums sat flush) :
    (x.dom d).SameRegs (u.dom d) ∧ (u.data = x.data ∧ u.full = x.full ∧ u.poison = x.poison) ∧ (u.cells = x.cells ∧ u.liveSet = x.liveSet) ∧
      u.counters = x.counters ∧ ∃ y y0 : Furrow, y.went b e = x.went b e ∧ (y.dom d).lateAdds = (x.dom d).lateAdds ∧
      u.windrow = tset WEntry.zero x.windrow (winKey b e) (y.entryAfter y0 d g.slot g.issue b e mode lo vals mark sat flush) := by
  have regs := h.ofFur fun z n => by
    obtain ⟨w, k, same, e⟩ := z.committed_win depth d n eff
    rw [e]
    show (z.dom d).SameRegs ((z.setDom d w).dom d)
    rwa [Furrow.dom_setDom]
  obtain ⟨z, n, a, late, c⟩ := h.sides
  obtain ⟨w, k, -, put⟩ := z.committed_win depth d n eff
  rw [put] at c
  refine ⟨regs, ⟨c.data.trans a.data, c.full.trans a.full, c.poison.trans a.poison⟩, ⟨c.cells.trans a.cells, c.liveSet.trans a.liveSet⟩,
    c.counters.trans a.counters, z.setDom d { z.dom d with flights := [] }, z, congrArg (fun t => tget WEntry.zero t (winKey b e)) a.windrow, ?_, ?_⟩
  · rw [Furrow.dom_setDom]
    exact late
  · rw [c.windrow, ← a.windrow]

end

/-- Settles O22: the tick is one commit, and each kind of effect writes its destination alone. -/
theorem drainCommits : Obligations.DrainCommits := by
  unfold Obligations.DrainCommits
  intro s f d g x z ticks regs row win cells ctrs commits ready alone due ov
  obtain ⟨t, exec', tick⟩ := exec_operationCommit_commits alone due ov ready
  have done : ∀ after : Furrow → Prop, after (t.fur f) → ticks after := fun after h =>
    ⟨t, exec', h, tick.flights, tick.beat, tick.st, tick.hostMem, tick.hbm, tick.others⟩
  have fur := tick.fur
  clear_value ticks
  refine ⟨fun i v eff hi => ?sreg, fun i v eff hi => ?areg, fun i v eff hi => ?flag, fun i lo vals segs marks eff hi => ?vreg,
    fun a bytes tag mark eff awake ok => ?row, fun b r bytes mark eff => ?standby, fun ps named auto eff => ?swap,
    fun b e lo vals mark sums sat flush eff => ?winReplace, fun b e lo vals mark sums sat flush eff => ?winAccum,
    fun b e n eff hb hd hn he ok => ?winClear, fun c k v eff => ?counter⟩
  case sreg =>
    refine done _ ?_
    obtain ⟨rows, win, cells, ctrs, p, w, ⟨s0, a0, f0, v0⟩, ⟨s1, a1, f1, v1⟩, s2, a2, f2, v2⟩ := fur.ofDom
      (P := fun p w => w.sregs = vput p.sregs i v ∧ w.aregs = p.aregs ∧ w.flags = p.flags ∧ w.vregs = p.vregs)
      (fun z n => ⟨_, z.committed_sreg s.build.depth d n eff, rfl, rfl, rfl, rfl⟩)
    have put : ((t.fur f).dom d).sregs = vput x.sregs i v := by rw [s2, s1, s0]; rfl
    refine ⟨⟨?_, fun j hj => ?_, a2.trans (a1.trans a0), f2.trans (f1.trans f0), v2.trans (v1.trans v0)⟩, rows, win, cells, ctrs⟩
    · unfold Domain.sreg; rw [put]; exact toList_getD_vput_self hi _ _ _
    · unfold Domain.sreg; rw [put]; exact toList_getD_vput_ne hj _ _ _
  case areg =>
    refine done _ ?_
    obtain ⟨rows, win, cells, ctrs, p, w, ⟨s0, a0, f0, v0⟩, ⟨s1, a1, f1, v1⟩, s2, a2, f2, v2⟩ := fur.ofDom
      (P := fun p w => w.sregs = p.sregs ∧ w.aregs = vput p.aregs i v ∧ w.flags = p.flags ∧ w.vregs = p.vregs)
      (fun z n => ⟨_, z.committed_areg s.build.depth d n eff, rfl, rfl, rfl, rfl⟩)
    have put : ((t.fur f).dom d).aregs = vput x.aregs i v := by rw [a2, a1, a0]; rfl
    refine ⟨⟨?_, fun j hj => ?_, s2.trans (s1.trans s0), f2.trans (f1.trans f0), v2.trans (v1.trans v0)⟩, rows, win, cells, ctrs⟩
    · unfold Domain.areg; rw [put]; exact toList_getD_vput_self hi _ _ _
    · unfold Domain.areg; rw [put]; exact toList_getD_vput_ne hj _ _ _
  case flag =>
    refine done _ ?_
    obtain ⟨rows, win, cells, ctrs, p, w, ⟨s0, a0, f0, v0⟩, ⟨s1, a1, f1, v1⟩, s2, a2, f2, v2⟩ := fur.ofDom
      (P := fun p w => w.sregs = p.sregs ∧ w.aregs = p.aregs ∧ w.flags = setBit p.flags i v ∧ w.vregs = p.vregs)
      (fun z n => ⟨_, z.committed_flag s.build.depth d n eff, rfl, rfl, rfl, rfl⟩)
    have put : ((t.fur f).dom d).flags = setBit x.flags i v := by rw [f2, f1, f0]; rfl
    refine ⟨⟨?_, fun j hj => ?_, s2.trans (s1.trans s0), a2.trans (a1.trans a0), v2.trans (v1.trans v0)⟩, rows, win, cells, ctrs⟩
    · rw [put]; exact bitOf_setBit_self hi _ _
    · rw [put]; exact bitOf_setBit_ne hj _ _
  case vreg =>
    refine done _ ?_
    obtain ⟨rows, win, cells, ctrs, p, w, ⟨s0, a0, f0, v0⟩, ⟨s1, a1, f1, v1⟩, s2, a2, f2, v2⟩ := fur.ofDom
      (P := fun p w => w.sregs = p.sregs ∧ w.aregs = p.aregs ∧ w.flags = p.flags ∧ w.vregs = vput p.vregs i ((p.vreg i).put lo vals segs marks))
      (fun z n => ⟨_, z.committed_vreg s.build.depth d n eff, rfl, rfl, rfl, rfl⟩)
    have same : p.vreg i = x.vreg i := by unfold Domain.vreg; rw [v0]; rfl
    have put : ((t.fur f).dom d).vregs = vput x.vregs i ((x.vreg i).put lo vals segs marks) := by rw [v2, v1, v0, same]; rfl
    have here : ((t.fur f).dom d).vreg i = (x.vreg i).put lo vals segs marks := by
      unfold Domain.vreg; rw [put]; exact toList_getD_vput_self hi _ _ _
    refine ⟨⟨s2.trans (s1.trans s0), a2.trans (a1.trans a0), f2.trans (f1.trans f0), fun j hj => ?_, ?_, fun k hk => ?_⟩, rows, win, cells, ctrs⟩
    · unfold Domain.vreg; rw [put]; exact toList_getD_vput_ne hj _ _ _
    · rw [here]; rfl
    · rw [here]; exact bitOf_put_marks _ _ _ _ _ hk
  case row =>
    refine done _ ?_
    obtain ⟨-, -, -, full, poison, -, -, -⟩ := ok
    have regs' := fur.ofFur fun z n => by
      have grounded := z.sameRegs_grounded d
      rw [z.committed_row s.build.depth d n eff]
      unfold Furrow.writeRow
      dsimp only
      split <;> exact grounded
    obtain ⟨z', n, a', -, b'⟩ := fur.sides
    have awake' : (z'.setDom d { z'.dom d with flights := [] }).asleep (a / 512) = false := by
      rw [← awake]
      show bitOf (z'.fallow ||| z'.waking) (a / 512 / 4096) = bitOf ((s.fur f).fallow ||| (s.fur f).waking) (a / 512 / 4096)
      rw [a'.fallow, a'.waking]
    rw [z'.committed_row s.build.depth d n eff, Furrow.writeRow_awake _ awake'] at b'
    refine ⟨regs', b'.windrow.trans a'.windrow, ⟨b'.cells.trans a'.cells, b'.liveSet.trans a'.liveSet⟩, b'.counters.trans a'.counters, ?_, fun r => ?_, fun r => ?_⟩
    · rw [b'.data, ← a'.data]
      rfl
    · unfold Furrow.isFull
      rw [b'.full, ← tget_full_store _ full, ← a'.full]
      rfl
    · unfold Furrow.isPoison
      rw [b'.poison, ← tget_poison_store _ poison, ← a'.poison]
      rfl
  case standby =>
    refine done _ ?_
    have regs' := fur.ofFur fun z n => by
      rw [z.committed_standby s.build.depth d n eff]
      exact z.sameRegs_grounded d
    obtain ⟨z', n, a', -, b'⟩ := fur.sides
    rw [z'.committed_standby s.build.depth d n eff] at b'
    refine ⟨regs', ⟨b'.data.trans a'.data, b'.full.trans a'.full, b'.poison.trans a'.poison⟩, b'.windrow.trans a'.windrow,
      b'.counters.trans a'.counters, b'.liveSet.trans a'.liveSet, ?_⟩
    rw [b'.cells]
    show tset CellRow.zero z'.cells (cellKey b (1 - z'.liveOf b) r) _ = _
    unfold Furrow.liveOf
    rw [a'.cells, a'.liveSet]
  case swap =>
    refine done _ ?_
    have regs' := fur.ofFur fun z n => by
      rw [z.committed_swap s.build.depth d n eff]
      exact z.sameRegs_grounded d
    obtain ⟨z', n, a', -, b'⟩ := fur.sides
    rw [z'.committed_swap s.build.depth d n eff] at b'
    refine ⟨regs', ⟨b'.data.trans a'.data, b'.full.trans a'.full, b'.poison.trans a'.poison⟩, b'.windrow.trans a'.windrow,
      b'.counters.trans a'.counters, b'.cells.trans a'.cells, fun p hp => ?_⟩
    rw [b'.liveSet]
    show bitOf (z'.liveSet ^^^ ps) p = _
    rw [a'.liveSet]
    exact BitVec.getLsbD_xor
  case winReplace =>
    obtain ⟨regs', rows, cells, ctrs, y, y0, went, late, put⟩ := fur.win eff
    dsimp only
    refine ⟨fun h => done _ ⟨regs', rows, cells, ctrs, ?_⟩, fun w base a slot one later log => done _ ⟨regs', rows, cells, ctrs, ?_⟩⟩
    · rw [put, Furrow.entryAfter_replace (vs := vals), went]
      simp only [winLane_replace (late ▸ h)]
      exact List.ext_getElem (by simp) (by simp)
    · subst one
      rw [put, Furrow.entryAfter_replace (vs := [w32 (add32 a.sat a.flush w.toNat a.val.toNat).bits]), went]
      rw [slot]
      simp only [List.mapIdx_cons, List.mapIdx_nil, Nat.add_zero]
      rw [winLane_replace_before (late.trans log) later]
  case winAccum =>
    obtain ⟨regs', rows, cells, ctrs, y, y0, went, late, put⟩ := fur.win eff
    dsimp only
    refine ⟨fun h => done _ ⟨regs', rows, cells, ctrs, ?_⟩, fun w base a slot one later log => done _ ⟨regs', rows, cells, ctrs, ?_⟩⟩
    · rw [put, Furrow.entryAfter_accum rfl, went]
      simp only [winLane_accum (late ▸ h), went]
      rfl
    · subst one
      rw [put, Furrow.entryAfter_accum rfl, went, slot]
      simp only [List.mapIdx_cons, List.mapIdx_nil, Nat.add_zero]
      rw [winLane_accum_before (late.trans log) later]
  case winClear =>
    refine done _ ?_
    obtain ⟨-, -, -, -, -, -, wf, -⟩ := ok
    have regs' := fur.ofFur fun z n => by
      obtain ⟨w, same, e⟩ := z.committed_winClear s.build.depth d n eff
      rw [e]
      show (z.dom d).SameRegs ((z.setDom d w).dom d)
      rwa [Furrow.dom_setDom]
    obtain ⟨z', k, a', -, b'⟩ := fur.sides
    obtain ⟨w, -, e'⟩ := z'.committed_winClear s.build.depth d k eff
    rw [e'] at b'
    refine ⟨regs', ⟨b'.data.trans a'.data, b'.full.trans a'.full, b'.poison.trans a'.poison⟩, ⟨b'.cells.trans a'.cells, b'.liveSet.trans a'.liveSet⟩,
      b'.counters.trans a'.counters, fun b2 e2 _ he2 => ?_⟩
    unfold Furrow.went
    rw [b'.windrow]
    show tget WEntry.zero (clearEntries s.build.depth b e n z'.windrow) _ = _
    rw [a'.windrow]
    exact tget_clearEntries hd n e _ wf he hn b2 e2 he2
  case counter =>
    refine done _ ?_
    have regs' := fur.ofFur fun z n => by
      rw [z.committed_counter s.build.depth d n eff]
      exact z.sameRegs_grounded d
    obtain ⟨z', n, a', -, b'⟩ := fur.sides
    rw [z'.committed_counter s.build.depth d n eff] at b'
    refine ⟨regs', ⟨b'.data.trans a'.data, b'.full.trans a'.full, b'.poison.trans a'.poison⟩, b'.windrow.trans a'.windrow,
      ⟨b'.cells.trans a'.cells, b'.liveSet.trans a'.liveSet⟩, ?_⟩
    rw [b'.counters]
    show tset 0 z'.counters c (counterOp k v (tget 0 z'.counters c)) = _
    rw [a'.counters]

end Sys2Proof.Machine
end

section
/-! PROOFS. O24: a beat that does not retire changes nothing and is charged to its lowest cause (R38, R40, R41). -/
namespace Sys2Proof.Machine

/-! ### The lowest cause -/

/-- The lowest bit of a mask of causes that is not empty. -/
theorem lowestBit_spec {m : BitVec 8} (h : m ≠ 0) :
    lowestBit m < 8 ∧ bitOf m (lowestBit m) = true ∧ ∀ j, j < lowestBit m → bitOf m j = false := by
  unfold lowestBit
  cases found : (List.range 8).find? (fun i => bitOf m i) with
  | none =>
    refine absurd (BitVec.eq_of_getLsbD_eq fun i hi => ?_) h
    have off := List.find?_eq_none.mp found i (List.mem_range.mpr hi)
    simpa [bitOf] using off
  | some k =>
    obtain ⟨on, below, first⟩ := List.find?_range_eq_some.mp found
    exact ⟨List.mem_range.mp below, on, fun j hj => by simpa using first j hj⟩

theorem vat_vput_self {α : Type} {n i : Nat} (h : i < n) (v : Vector α n) (x d : α) : vat d (vput v i x) i = x := by
  simp [vat, vput, h]

theorem vat_vput_ne {α : Type} {n i j : Nat} (h : j ≠ i) (v : Vector α n) (x d : α) : vat d (vput v i x) j = vat d v j := by
  unfold vat vput
  split
  · split
    · simp [Ne.symm h]
    · rfl
  · rfl

/-! ### A slot operation given alone -/

/-- The command of a slot operation is the beat of that operation (log 15). -/
theorem exec_of_slotOp {c : Instr} {f : Fur} {d : Dom} {o : SlotOp} (h : slotOpOf c = some (f, d, o)) (s : State) : exec c s = .next (s.opBeat f d o) := by
  unfold slotOpOf at h
  split at h <;> cases h <;> rfl

section
variable {s : State} {f : Fur} {d : Dom} {acts : List Act}

theorem State.opBeat_attempts {o : SlotOp} (ready : s.atBeat f d) : s.opBeat f d o = s.attempt f d (some (oneOp o)) (s.dom f d).pos 0 := by
  obtain ⟨run, paired, idle, done, before⟩ := ready
  unfold State.opBeat
  simp only [run, paired, idle, done, Bool.not_false, Bool.and_self, beq_self_eq_true, if_true]
  exact issueAttempt_before_end s f d _ _ 0 before

theorem State.checkedActs_one {o : SlotOp} (ready : s.atBeat f d)
    (h : wordActs (s.env f d) (s.dom f d).rid (s.dom f d).pos true (s.dom f d).pos (oneOp o) = .ok acts) :
    s.checkedActs f d (some (oneOp o)) (s.dom f d).pos = .ok acts := by
  obtain ⟨-, -, -, done, -⟩ := ready
  unfold State.checkedActs
  dsimp only
  rw [done]
  exact h

/-- The word with one operation that passes its checks does the operation's acts (R405). -/
theorem wordActs_one {v : Env} {rid addr next : Nat} {o : SlotOp} (enc : encFault o = none) (seq : o.slot ≠ 0)
    (acts' : slotActs v rid addr none o = .ok acts) (half : actsHalf v acts = none) : wordActs v rid addr true next (oneOp o) = .ok acts := by
  unfold wordActs oneOp
  simp only [nfld, encFaults, enc, gather, acts', half, seq, decide_false, Bool.false_and]
  rfl

/-- The word with one SWAIT of its own furrow's counter waits for it (R74). -/
theorem wordActs_swait {v : Env} {rid addr next op : Nat} (enc : encFault ⟨12, 0xB3, op⟩ = none) (own : nfld op 36 4 = 0) :
    wordActs v rid addr true next (oneOp ⟨12, 0xB3, op⟩) =
      .ok [.wait (nfld op 28 8) (if nfld op 27 1 = 1 then fld (v.x.sreg (nfld op 22 5)) 0 16 else nfld op 0 16)] := by
  refine wordActs_one enc (Nat.succ_ne_zero 11) ?_ rfl
  show sigActs v 0xB3 op = _
  unfold sigActs
  dsimp only
  rw [if_pos rfl, own, if_neg (not_not.mpr rfl)]

/-! ### The frozen beat -/

/-- A counter of frozen ticks counts one, and only it (R41). -/
theorem State.leaves_bumpFrozen (c : Nat) : s.Leaves (s.bumpFrozen f d c) f ((s.fur f).setDom d
    { s.dom f d with frozen := vput (s.dom f d).frozen c (vat 0 (s.dom f d).frozen c + 1) }) := by
  have counted := s.leaves_setDom f d { s.dom f d with frozen := vput (s.dom f d).frozen c (vat 0 (s.dom f d).frozen c + 1) }
  unfold State.bumpFrozen
  dsimp only
  split
  · refine counted.thenSame ((State.leaves_ovf _ f (fun x => setBit x.ovf (8 * d.val + c) true)).thenSame ?_)
    exact State.leaves_offer _ f _ _ _ _ _
  · exact counted

theorem State.leaves_countHeld (m : BitVec 8) : s.Leaves (s.countHeld m) f (s.fur f) := by
  unfold State.countHeld
  split
  · exact s.leaves_gl f _
  · exact s.leaves_self f

/-- Domain `y` is `x` after a tick frozen on the causes `m`: it is charged to the lowest of them, and the keeper may have run (R38, R40, R44). -/
def Domain.Frozen (x y : Domain) (m : BitVec 8) : Prop :=
  ∃ n fs k, ({ x with
    ticks := x.ticks + 1, runFrozen := n, causes := m, frozenSince := fs, tick := k
    frozen := vput x.frozen (lowestBit m) (vat 0 x.frozen (lowestBit m) + 1) } : Domain).Kept y

/-- A frozen beat changes only its domain, as such a tick does. -/
theorem State.leaves_freezeBeat (s : State) (f : Fur) (d : Dom) (m : BitVec 8) :
    ∃ y, (s.dom f d).Frozen y m ∧ s.Leaves (s.freezeBeat f d m) f ((s.fur f).setDom d y) := by
  obtain ⟨k, noted⟩ := s.leaves_noteTick f d false false
  unfold State.freezeBeat
  dsimp only
  generalize s.noteTick f d false false = u at noted
  have charged := noted.thenMod (d := d) (fun y => { y with
    ticks := y.ticks + 1, runFrozen := y.runFrozen + 1, causes := m
    frozenSince := match y.frozenSince with | some t => some t | none => some s.time })
  rw [Furrow.setDom_setDom, Furrow.dom_setDom] at charged
  generalize u.modDom f d _ = v at charged
  have counted := charged.thenDom (State.leaves_bumpFrozen (s := v) (f := f) (d := d) (lowestBit m))
  rw [Furrow.setDom_setDom, charged.dom, Furrow.dom_setDom] at counted
  generalize v.bumpFrozen f d (lowestBit m) = w at counted
  split
  · exact ⟨_, ⟨_, _, _, .refl _⟩, counted.thenSame (State.leaves_countHeld m)⟩
  · obtain ⟨y, kept, ticked⟩ := w.leaves_keeperTick f d false (s.dom f d).course.isSome
    rw [counted.dom, Furrow.dom_setDom] at kept
    have all := counted.thenDom ticked
    rw [Furrow.setDom_setDom] at all
    exact ⟨y, ⟨_, _, _, kept⟩, all.thenSame (State.leaves_countHeld m)⟩

end

/-- Settles O24: the beat is frozen, by the checks of the attempt, and a frozen beat changes only its domain's counts. -/
theorem frozenBeat : Obligations.FrozenBeat := by
  unfold Obligations.FrozenBeat
  intro s f d acts c x w m stored attempts alone waits cases ports caused
  have freezes : exec c s = .next (s.freezeBeat f d m) := by
    have one : ∀ o : SlotOp, slotOpOf c = some (f, d, o) → s.atBeat f d →
        wordActs (s.env f d) x.rid x.pos true x.pos (oneOp o) = .ok acts → exec c s = .next (s.freezeBeat f d m) := fun o op ready word => by
      rw [exec_of_slotOp op s, State.opBeat_attempts ready, State.attempt_of_checked 0 (State.checkedActs_one ready word) ports, if_pos caused]
    rcases cases with ⟨mask, rfl, run, paired, ⟨idle, before, word⟩ | ⟨idle, empty⟩⟩ | ⟨o, op, ready, word⟩ | ⟨op, rfl, ready, enc, own, acts'⟩
    · rw [exec_beatAttempt mask run, State.fetchAttempt_stored mask paired idle before,
        State.attempt_of_checked mask (show s.checkedActs f d (some w) (x.pos + w.size) = .ok acts from word) ports, if_pos caused]
    · rw [exec_beatAttempt mask run, State.fetchAttempt_idle mask paired idle,
        State.attempt_of_checked mask (show s.checkedActs f d none x.pos = .ok acts by rw [empty]; rfl) ports, if_pos caused]
    · exact one o op ready word
    · exact one _ rfl ready (by rw [acts']; exact wordActs_swait enc own)
  obtain ⟨below, on, first⟩ := lowestBit_spec caused
  obtain ⟨y, ⟨n, fs, k, a, b, p, l, t, rfl⟩, left⟩ := s.leaves_freezeBeat f d m
  obtain ⟨host, hbm, -, -⟩ := left.memories
  obtain ⟨o, r, fur⟩ := left.fur
  refine ⟨_, lowestBit m, freezes, below, on, first, ?_, ?_⟩
  · rw [left.dom, Furrow.dom_setDom]
    exact ⟨rfl, rfl, rfl, rfl, rfl, rfl, rfl, rfl, rfl, rfl, rfl, vat_vput_self below _ _ _, fun j hj => vat_vput_ne hj _ _ _⟩
  · rw [fur]
    exact ⟨rfl, rfl, rfl, rfl, host, hbm⟩

end Sys2Proof.Machine
end

section
/-! PROOFS. O21: what a beat issues with a latency of two or more is in flight at its end (R33, R152, R163, R168). -/
namespace Sys2Proof.Machine

section
variable {s : State} {f : Fur} {d : Dom}

/-- What a beat puts in flight, to commit in a later one, is in flight at its end. -/
theorem State.flies_of_issued {w : Option Word} {acts : List Act} {g : Flight} (next : Nat)
    (issued : g ∈ s.slotFlights f d w acts ∨ g ∈ s.courseFlights f d acts) (later : (s.dom f d).beat < g.due) :
    g ∈ ((s.retireBeat f d w acts next 0).dom f d).flights := by
  obtain ⟨⟨old, flights, -⟩, -⟩ := s.launch_pipe f d w acts
  obtain ⟨y, depth, flights', beat, still, -⟩ := s.retireBeat_pipe f d w acts next
  rw [still]
  unfold Domain.stillFly
  rw [flights', flights, beat]
  refine List.mem_filter.mpr ⟨List.mem_append_right _ (List.mem_append.mpr issued), ?_⟩
  simpa using later

/-- A flight that an act of the beat's operation becomes, with a latency of two or more. -/
theorem State.flies_of_act {o : SlotOp} {acts : List Act} {g : Flight} (h : slotActs (s.env f d) (s.dom f d).rid (s.dom f d).pos none o = .ok acts)
    (mem : g ∈ flightsOf (s.env f d) (s.dom f d).rid (s.dom f d).pos (s.rowNow f d acts) (fun a => (s.servedNow f d acts).contains a) o acts)
    (later : (s.dom f d).beat < g.due) : g ∈ ((s.issued f d o acts).dom f d).flights := by
  refine State.flies_of_issued _ (.inl ?_) later
  unfold State.slotFlights
  rw [Env.slotsOf_one h]
  simpa using mem

end

/-! ### Access by access -/

section
variable {v : Env} {rid addr : Nat} {rowOf : Acc → RowBuf} {served : Acc → Bool} {o : SlotOp} {acts : List Act} {a : Acc}

/-- The flight of an effect of operation `o` with latency `lat`. -/
def Env.flight (v : Env) (rid addr : Nat) (o : SlotOp) (lat : Nat) (e : Effect) : Flight :=
  ⟨v.x.beat + lat - 1, v.x.beat, o.slot, o.code, rid, addr, 0, v.b.audit && v.fu.auditEn, e⟩

theorem flightsOf_eff {lat : Nat} {e : Effect} (h : .eff lat e ∈ acts) : v.flight rid addr o lat e ∈ flightsOf v rid addr rowOf served o acts :=
  List.mem_filterMap.mpr ⟨_, h, rfl⟩

theorem flightsOf_hrw {lat : Nat} {e : Effect} {fl : Raised} (h : .hrw lat e fl ∈ acts) :
    v.flight rid addr o lat e ∈ flightsOf v rid addr rowOf served o acts :=
  List.mem_filterMap.mpr ⟨_, h, rfl⟩

theorem flightsOf_ldn {i : Nat} (h : .acc a ∈ acts) (use : a.use = .ldn i) :
    v.flight rid addr o (v.readLat a.addr.toNat + v.b.latOf 3) (.sreg i (w64 (ofLe (((rowOf a).bytes.drop (a.addr.toNat % 512)).take 8)))) ∈
      flightsOf v rid addr rowOf served o acts :=
  List.mem_filterMap.mpr ⟨_, h, by simp only [use]; rfl⟩

theorem flightsOf_vld {i width part lo k : Nat} (h : .acc a ∈ acts) (use : a.use = .vld i width part) (lanes : rowLanes v.h width part = some (lo, k)) :
    v.flight rid addr o (v.readLat a.addr.toNat) (.vreg i lo (lanesOfRow (rowOf a).bytes width part k) (segsOf lo k)
      (if (rowOf a).mark then segsOf lo k else 0)) ∈ flightsOf v rid addr rowOf served o acts :=
  List.mem_filterMap.mpr ⟨_, h, by simp only [use, lanes]; rfl⟩

theorem flightsOf_sld {b r : Nat} (h : .acc a ∈ acts) (use : a.use = .sld b r) :
    v.flight rid addr o (v.readLat a.addr.toNat) (.standby b r (rowOf a).bytes (rowOf a).mark) ∈ flightsOf v rid addr rowOf served o acts :=
  List.mem_filterMap.mpr ⟨_, h, by simp only [use]; rfl⟩

theorem flightsOf_store {off : Nat} {bytes : List Byte} {mark : Bool} (h : .acc a ∈ acts) (use : a.use = .store off bytes mark) (gets : served a = true) :
    v.flight rid addr o (v.writeLat a.addr.toNat) (.row (a.addr.toNat + off) bytes a.tag mark) ∈ flightsOf v rid addr rowOf served o acts :=
  List.mem_filterMap.mpr ⟨_, h, by simp only [use, gets]; rfl⟩

end

/-- The row that an access reads now: its bytes and mark, or zeros where it is refused (R104). -/
theorem State.rowNow_eq (s : State) (f : Fur) (d : Dom) (acts : List Act) (a : Acc) : s.rowNow f d acts a =
    if a ∈ s.servedNow f d acts then
      ⟨tgets 0 (s.fur f).data (a.addr.toNat / 512 * 512) 512, (s.fur f).isPoison (a.addr.toNat / 512)⟩ else ⟨[], false⟩ := by
  unfold State.rowNow
  by_cases h : a ∈ s.servedNow f d acts
  · rw [if_pos (List.contains_iff_mem.mpr h), if_pos h]
    rfl
  · rw [if_neg (fun c => h (List.contains_iff_mem.mp c)), if_neg h]

/-! ### The results of a course's step -/

/-- The results of `o` stand in `o'`. -/
def COut.Within (o o' : COut) : Prop := o.effs ⊆ o'.effs

theorem COut.within_write (o : COut) (sums : BitVec 4) (lat ph e : Nat) (mode : WinMode) (lo : Nat) (sat flush : Bool) (vs : List (CVal × Bool)) :
    o.Within (o.write sums lat ph e mode lo sat flush vs) := by
  unfold COut.write COut.Within
  split
  · exact fun _ h => h
  · exact fun _ h => List.mem_append_left _ h

/-- Values with no poison stand in their lanes as they are. -/
theorem laneVals_clean (free : Nat) {vs : List (CVal × Bool)} (clean : ∀ v ∈ vs, v.2 = false) : laneVals free vs = vs.map (fun v => w32 v.1.bits) := by
  unfold laneVals
  refine List.ext_getElem (by simp) fun i h₁ h₂ => ?_
  simp only [List.getElem_mapIdx, List.getElem_map]
  rw [clean _ (List.getElem_mem _)]
  rfl

theorem COut.write_clean (o : COut) (sums : BitVec 4) (lat ph e : Nat) (mode : WinMode) (lo : Nat) (sat flush : Bool) {vs : List (CVal × Bool)}
    (some : vs ≠ []) (clean : ∀ v ∈ vs, v.2 = false) :
    (lat, .win ph e mode lo (vs.map (fun v => w32 v.1.bits)) false sums sat flush) ∈ (o.write sums lat ph e mode lo sat flush vs).effs := by
  unfold COut.write
  rw [if_neg some]
  have mark : vs.any (fun v => v.2) = false := List.any_eq_false.mpr fun v hv => by rw [clean v hv]; exact Bool.false_ne_true
  dsimp only
  rw [mark, laneVals_clean _ clean]
  exact List.mem_append_right _ (List.mem_singleton.mpr rfl)

/-- Of writes one after another, brick by brick, the one of a brick that the step works on is among the results. -/
theorem COut.mem_foldl_write {sums : Nat → BitVec 4} {lat : Nat} {ph e : Nat → Nat} {mode : WinMode} {lo : Nat} {sat flush : Bool}
    {vs : Nat → List (CVal × Bool)} {q : Nat} (some : vs q ≠ []) (clean : ∀ v ∈ vs q, v.2 = false) (qs : List Nat) (mem : q ∈ qs) : ∀ o : COut,
    (lat, .win (ph q) (e q) mode lo ((vs q).map (fun v => w32 v.1.bits)) false (sums q) sat flush) ∈
      (qs.foldl (fun o q => o.write (sums q) lat (ph q) (e q) mode lo sat flush (vs q)) o).effs := by
  have keeps : ∀ (qs : List Nat) (o : COut), o.Within (qs.foldl (fun o q => o.write (sums q) lat (ph q) (e q) mode lo sat flush (vs q)) o) := by
    intro qs
    induction qs with
    | nil => exact fun o _ h => h
    | cons r rs ih => exact fun o _ h => ih _ (o.within_write (sums r) lat (ph r) (e r) mode lo sat flush (vs r) h)
  induction qs with
  | nil => exact absurd mem List.not_mem_nil
  | cons r rs ih =>
    intro o
    rcases List.mem_cons.mp mem with rfl | h
    · exact keeps rs _ (o.write_clean (sums q) lat (ph q) (e q) mode lo sat flush some clean)
    · exact ih h _

/-- The course of `o` is `c` with the operand rows that it has read. -/
def COut.Of (o : COut) (c : Course) : Prop := o.c.op = c.op ∧ o.c.rid = c.rid ∧ o.c.addr = c.addr

theorem COut.of_write {o : COut} {c : Course} (h : o.Of c) (sums : BitVec 4) (lat ph e : Nat) (mode : WinMode) (lo : Nat) (sat flush : Bool)
    (vs : List (CVal × Bool)) : (o.write sums lat ph e mode lo sat flush vs).Of c := by
  unfold COut.write
  split
  · exact h
  · exact h

theorem COut.of_foldl {c : Course} {g : COut → Nat → COut} (h : ∀ o q, o.Of c → (g o q).Of c) (l : List Nat) {o : COut} (ho : o.Of c) :
    (l.foldl g o).Of c := by
  induction l generalizing o with
  | nil => exact ho
  | cons a r ih => exact ih (h o a ho)

/-- The parts of a course's step: what its beat does (R163 to R170), the drain row beside it (R168), and the exchange at a chunk's end (R164). -/
def Course.stepOut (v : Env) (c : Course) (rows : CRows) (free : Nat) : COut :=
  let b := v.b
  let o : COut := ⟨[], false, false, free, c, false⟩
  match c.at b c.t with
  | .none => o
  | .scale _ =>
    let first := decide ((c.t % (c.sBeats b + c.bf b)) = 0)
    { o with c := { c with scales := (if first then [] else c.scales) ++ rows } }
  | .initial p j m =>
    let all := fun (lat e lanes : Nat) (q : Nat) (mode : WinMode) (lo : Nat) (o : COut) =>
      o.write 0 lat (v.phys q) e mode lo c.sat c.flush (List.replicate lanes (⟨0, false, false⟩, false))
    if c.init = 1 then o
    else match c.op with
      | 1 => all (c.lat b) (c.e0 + m + c.m * (j / (4 * c.nb))) (min c.klass.kc (c.k - j * c.klass.kc)) (j % c.nb) .replace
              (128 * ((j / c.nb) % 4)) o
      | 2 => if c.k ≤ j * 128 + m then o
              else (List.range c.nb).foldl (fun o q => all (b.latOf 12) (c.e0 + (p * c.chunks + j) * 128 + m) (c.cols p q) q
                .replace 0 o) o
      | _ => (List.range c.nb).foldl (fun o q => all (c.lat b) (c.e0 + p * c.pstep + m) (c.cols p q) q
              (if c.init = 2 then .copyBias (c.bias + p) else .replace) 0 o) o
  | .feed p j m =>
    let g := feedGroup c.fmtA
    let c' := if (c.op = 0 || c.op = 2) && m % g = 0 then { c with feed := rows.getD 0 ⟨[], false⟩ } else c
    let o := { o with c := c' }
    match c.op with
    | 0 => (List.range c.nb).foldl (fun o q =>
        o.write (v.bricksOf [q]) (c.lat b) (v.phys q) (c.e0 + p * c.pstep + m) (c.mode (j == 0) p) 0 c.sat c.flush (wsBrick v c' p j m q)) o
    | 1 => o.write (v.bricksOf (List.range c.nb)) (c.lat b) (v.phys (j % c.nb)) (c.e0 + m + c.m * (j / (4 * c.nb))) (c.mode (p == 0) p)
        (128 * ((j / c.nb) % 4)) c.sat c.flush (wtRows v c' p j rows)
    | 2 =>
      let fbRows := if m % g = 0 then rows.drop 1 else rows
      let ks := min c.klass.kc (c.k - j * c.klass.kc)
      let bs := ((List.range c.nb).filter (fun q => decide (0 < c.cols p q))).map (fun q =>
        let r := fbRows.getD q ⟨[], false⟩
        (v.phys q, v.macSet (v.phys q), (List.range (c.cols p q)).map (fun n => colElem c.fmtB r.bytes n), r.mark))
      { o with effs := [(c.lat b, .mac c.fmtA c.fmtB (m == 0) c.sat c.flush
          ((List.range ks).map (fun k => feedElem c.fmtA c'.feed.bytes m k)) c'.feed.mark bs)] }
    | _ => (List.range c.nb).foldl (fun o q =>
        o.write (v.bricksOf [q]) (c.lat b) (v.phys q) (c.e0 + p * c.pstep + m) (c.mode true p) 0 c.sat c.flush
          (esBrick v c' p q (rows.getD q ⟨[], false⟩))) o
def Course.drainOut (v : Env) (c : Course) (o1 : COut) : COut :=
  let b := v.b
  match c.drainAt b c.t with
  | none => o1
  | some (i, r) =>
    let p := i / c.chunks
    let j := i % c.chunks
    if c.k ≤ j * 128 + r then o1
    else (List.range c.nb).foldl (fun o q =>
      let ph := v.phys q
      let cell := v.fu.cell ph (1 - v.fu.liveOf ph) r
      let step := if c.klass = .b16 then 2 else 1
      o.write 0 (b.latOf 12) ph (c.e0 + i * 128 + r) (if c.init = 1 then .accum else .replace) 0 c.sat c.flush
        ((List.range (c.cols p q)).map (fun n => (⟨(cell.acc (n * step)).toNat, false, false⟩, cell.mark)))) o1
def Course.swapOut (v : Env) (c : Course) (o2 : COut) : COut :=
  if c.chunkEnds v.b then
    (if c.op = 2 then { o2 with effs := o2.effs ++ [(v.b.latOf 9, .swap (v.pairsOf c.nb) 0 true)] }
     else { o2 with effs := o2.effs ++ [(1, .swap (v.pairsOf c.nb) 0 true)], swap := true })
  else o2

section
variable (v : Env) (c : Course) (rows : CRows) (free : Nat)

theorem Course.run_eq : c.run v rows free = c.swapOut v (c.drainOut v (c.stepOut v rows free)) := rfl

theorem Course.within_swapOut (o : COut) : o.Within (c.swapOut v o) := by
  unfold Course.swapOut COut.Within
  split
  · split <;> exact fun _ h => List.mem_append_left _ h
  · exact fun _ h => h

theorem Course.stepOut_of : (c.stepOut v rows free).Of c := by
  have start : (⟨[], false, false, free, c, false⟩ : COut).Of c := ⟨rfl, rfl, rfl⟩
  unfold Course.stepOut
  dsimp only
  split
  · exact start
  · exact start
  · split
    · exact start
    · split
      · exact COut.of_write start _ _ _ _ _ _ _ _ _
      · split
        · exact start
        · exact COut.of_foldl (fun o q ho => COut.of_write ho _ _ _ _ _ _ _ _ _) _ start
      · exact COut.of_foldl (fun o q ho => COut.of_write ho _ _ _ _ _ _ _ _ _) _ start
  · have fed : ∀ (first : Bool) (r : RowBuf), COut.Of ⟨[], false, false, free, if first = true then { c with feed := r } else c, false⟩ c := fun _ r => by
      split <;> exact ⟨rfl, rfl, rfl⟩
    split
    · exact COut.of_foldl (fun o q ho => COut.of_write ho _ _ _ _ _ _ _ _ _) _ (fed _ _)
    · exact COut.of_write (fed _ _) _ _ _ _ _ _ _ _ _
    · exact fed _ _
    · exact COut.of_foldl (fun o q ho => COut.of_write ho _ _ _ _ _ _ _ _ _) _ (fed _ _)

theorem Course.run_of : (c.run v rows free).Of c := by
  have stepped := c.stepOut_of v rows free
  rw [c.run_eq]
  generalize c.stepOut v rows free = o at stepped
  have drained : (c.drainOut v o).Of c := by
    unfold Course.drainOut
    dsimp only
    split
    · exact stepped
    · split
      · exact stepped
      · exact COut.of_foldl (fun o q ho => COut.of_write ho _ _ _ _ _ _ _ _ _) _ stepped
  unfold Course.swapOut
  split
  · split <;> exact drained
  · exact drained

/-- The chunk sum that a WS feed forms in a column of a brick (R163), from the feed row and the cells. -/
def Course.wsSum (c : Course) (ks : Nat) (feed : RowBuf) (cells : Nat → CellRow) (q m n : Nat) : CVal :=
  chunkSum c.klass.frac c.sat c.flush ((List.range ks).map (fun k =>
    brickProd c.fmtA c.fmtB c.flush (feedElem c.fmtA feed.bytes m k) (cellElem c.fmtB (cells (k / c.klass.perCell)).weights (k % c.klass.perCell) n)
      (c.scaleA m (k / 32)) (c.scaleB q (k / 32) n)))

theorem div_lt_cdiv {k n p : Nat} (hp : 0 < p) (h : k < n) : k / p < cdiv n p := by
  unfold cdiv
  rw [if_neg (Nat.pos_iff_ne_zero.mp hp)]
  refine (Nat.le_div_iff_mul_le hp).mpr ?_
  have := Nat.div_mul_le_self k p
  rw [Nat.succ_mul]
  omega

theorem Klass.perCell_pos (k : Klass) : 0 < k.perCell := by
  cases k <;> decide

/-- A WS feed's result in a brick without poison: of each valid column, the chunk sum (R163, R166). -/
theorem wsBrick_clean {p j m q : Nat}
    (clean : (c.feed.mark || c.scaleMark q j m || (List.range (cdiv (min c.klass.kc (c.k - j * c.klass.kc)) c.klass.perCell)).any
      (fun r => (v.fu.cell (v.phys q) (v.fu.liveOf (v.phys q)) r).mark)) = false) :
    wsBrick v c p j m q = (List.range (c.cols p q)).map (fun n => (c.wsSum (min c.klass.kc (c.k - j * c.klass.kc)) c.feed
      (v.fu.cell (v.phys q) (v.fu.liveOf (v.phys q))) q m n, false)) := by
  have mark : ((List.range (cdiv (min c.klass.kc (c.k - j * c.klass.kc)) c.klass.perCell)).map (fun r =>
      v.fu.cell (v.phys q) (v.fu.liveOf (v.phys q)) r)).any (fun r => r.mark) = (List.range (cdiv (min c.klass.kc (c.k - j * c.klass.kc))
      c.klass.perCell)).any (fun r => (v.fu.cell (v.phys q) (v.fu.liveOf (v.phys q)) r).mark) := List.any_map
  unfold wsBrick
  dsimp only
  rw [mark, clean]
  refine List.map_congr_left fun n _ => congrArg (fun x => (x, false)) ?_
  unfold Course.wsSum
  congr 1
  refine List.ext_getElem (by simp) fun k h₁ h₂ => ?_
  have hk : k < min c.klass.kc (c.k - j * c.klass.kc) := by simpa using h₂
  have cell := div_lt_cdiv c.klass.perCell_pos hk
  simp [List.getD, cell]

/-- The results of a WS feed in a brick that it works on are among those of the step (R163, R167). -/
theorem Course.mem_run_ws {p j m q : Nat} (op : c.op = 0) (at' : c.at v.b c.t = .feed p j m) (hq : q < c.nb) (cols : 0 < c.cols p q)
    {feed : RowBuf} (hfeed : feed = if m % feedGroup c.fmtA = 0 then rows.getD 0 ⟨[], false⟩ else c.feed)
    (clean : (feed.mark || c.scaleMark q j m || (List.range (cdiv (min c.klass.kc (c.k - j * c.klass.kc)) c.klass.perCell)).any
      (fun r => (v.fu.cell (v.phys q) (v.fu.liveOf (v.phys q)) r).mark)) = false) :
    (c.lat v.b, .win (v.phys q) (c.e0 + p * c.pstep + m) (c.mode (j == 0) p) 0 ((List.range (c.cols p q)).map (fun n =>
      w32 (c.wsSum (min c.klass.kc (c.k - j * c.klass.kc)) feed (v.fu.cell (v.phys q) (v.fu.liveOf (v.phys q))) q m n).bits)) false
      (v.bricksOf [q]) c.sat c.flush) ∈ (c.run v rows free).effs := by
  rw [c.run_eq]
  refine c.within_swapOut v _ ?_
  have noDrain : c.drainAt v.b c.t = none := by
    unfold Course.drainAt
    simp [op]
  unfold Course.drainOut
  dsimp only
  rw [noDrain]
  have fed : (if ((decide (c.op = 0) || decide (c.op = 2)) && decide (m % feedGroup c.fmtA = 0)) = true then
      { c with feed := rows.getD 0 ⟨[], false⟩ } else c) = { c with feed := feed } := by
    have reads : ((decide (c.op = 0) || decide (c.op = 2)) && decide (m % feedGroup c.fmtA = 0)) = decide (m % feedGroup c.fmtA = 0) := by simp [op]
    rw [hfeed, reads]
    by_cases first : m % feedGroup c.fmtA = 0
    · rw [if_pos (decide_eq_true first), if_pos first]
    · rw [if_neg (by simpa using first), if_neg first]
  have brick : wsBrick v { c with feed := feed } p j m q = (List.range (c.cols p q)).map (fun n => (c.wsSum
      (min c.klass.kc (c.k - j * c.klass.kc)) feed (v.fu.cell (v.phys q) (v.fu.liveOf (v.phys q))) q m n, false)) :=
    wsBrick_clean v { c with feed := feed } clean
  have all := COut.mem_foldl_write (sums := fun q => v.bricksOf [q]) (lat := c.lat v.b) (ph := v.phys) (e := fun _ => c.e0 + p * c.pstep + m)
    (mode := c.mode (j == 0) p) (lo := 0) (sat := c.sat) (flush := c.flush) (vs := fun q => wsBrick v { c with feed := feed } p j m q) (q := q)
    (by rw [brick]; simpa using Nat.pos_iff_ne_zero.mp cols) (by rw [brick]; simp) (List.range c.nb) (List.mem_range.mpr hq)
    ⟨[], false, false, free, { c with feed := feed }, false⟩
  rw [brick, List.map_map] at all
  unfold Course.stepOut
  simp only [at', fed]
  split
  · exact all
  · next h => rw [op] at h; cases h
  · next h => rw [op] at h; cases h
  · next h _ _ => exact absurd op h

/-- The accumulators of a cell row that an OS drain reads are among the results of the step (R168). -/
theorem Course.mem_run_drain {i r q : Nat} (drain : c.drainAt v.b c.t = some (i, r)) (row : i % c.chunks * 128 + r < c.k) (hq : q < c.nb)
    (cols : 0 < c.cols (i / c.chunks) q) (clean : (v.fu.cell (v.phys q) (1 - v.fu.liveOf (v.phys q)) r).mark = false) :
    (v.b.latOf 12, .win (v.phys q) (c.e0 + i * 128 + r) (if c.init = 1 then .accum else .replace) 0 ((List.range (c.cols (i / c.chunks) q)).map (fun n =>
      (v.fu.cell (v.phys q) (1 - v.fu.liveOf (v.phys q)) r).acc (n * if c.klass = .b16 then 2 else 1))) false 0 c.sat c.flush) ∈
      (c.run v rows free).effs := by
  rw [c.run_eq]
  refine c.within_swapOut v _ ?_
  generalize c.stepOut v rows free = o
  unfold Course.drainOut
  simp only [drain, if_neg (Nat.not_le.mpr row)]
  have all := COut.mem_foldl_write (sums := fun _ => 0) (lat := v.b.latOf 12) (ph := v.phys) (e := fun _ => c.e0 + i * 128 + r)
    (mode := if c.init = 1 then .accum else .replace) (lo := 0) (sat := c.sat) (flush := c.flush) (q := q)
    (vs := fun q => (List.range (c.cols (i / c.chunks) q)).map (fun n =>
      ((⟨((v.fu.cell (v.phys q) (1 - v.fu.liveOf (v.phys q)) r).acc (n * if c.klass = .b16 then 2 else 1)).toNat, false, false⟩ : CVal),
        (v.fu.cell (v.phys q) (1 - v.fu.liveOf (v.phys q)) r).mark)))
    (by simpa using Nat.pos_iff_ne_zero.mp cols) (by simp [clean]) (List.range c.nb) (List.mem_range.mpr hq) o
  rw [List.map_map] at all
  simpa only [Function.comp_def, w32_toNat] using all

end

/-- How the first chunk and a later one write their results (R163). -/
theorem Course.mode_eq (c : Course) (j p : Nat) :
    c.mode (j == 0) p = if 0 < j ∨ c.init = 1 then .accum else if c.init = 0 then .replace else .bias (c.bias + p) := by
  unfold Course.mode
  rcases j with _ | j
  · split
    · next h => cases h
    · split
      · next h => simp [h]
      · next h => simp [h]
      · next h0 h1 => rw [if_neg (not_or.mpr ⟨Nat.lt_irrefl 0, h1⟩), if_neg h0]
  · simp

/-- A result of the running course's step, with a latency of two or more, is in flight at the end of a beat with no operation (R152). -/
theorem State.flies_of_course {s : State} {f : Fur} {d : Dom} {c : Course} (course : (s.dom f d).course = some c) {p : Nat × Effect}
    (mem : p ∈ (c.run (s.env f d) ((courseAccs s.build (some c)).map (s.rowNow f d [])) s.free).effs) (later : 2 ≤ p.1) :
    (⟨(s.dom f d).beat + p.1 - 1, (s.dom f d).beat, 4, 0x38 + c.op, c.rid, c.addr, 0, s.build.audit && (s.fur f).auditEn, p.2⟩ : Flight) ∈
      ((s.retireBeat f d (some ⟨0, [], 0⟩) [] (s.dom f d).pos 0).dom f d).flights := by
  refine State.flies_of_issued _ (.inr ?_) (by show _ < (s.dom f d).beat + p.1 - 1; omega)
  obtain ⟨op, rid, addr⟩ := c.run_of (s.env f d) ((courseAccs s.build (some c)).map (s.rowNow f d [])) s.free
  have step : s.courseStep f d [] = some (c.run (s.env f d) ((courseAccs s.build (some c)).map (s.rowNow f d [])) s.free) := by
    unfold State.courseStep liveCourse
    rw [course]
    rfl
  unfold State.courseFlights
  rw [step]
  dsimp only
  rw [op, rid, addr]
  exact List.mem_map.mpr ⟨p, mem, rfl⟩

/-- Settles O21: the flights of a beat's acts and of its course's step are in flight at the beat's end. -/
theorem issuedFlies : Obligations.IssuedFlies := by
  unfold Obligations.IssuedFlies
  refine ⟨?_, ?_, ?_⟩
  · intro s f d o lat e fl x fresh later one acts h
    have due : (s.dom f d).beat < fresh.due := by
      show _ < (s.dom f d).beat + lat - 1
      omega
    refine State.flies_of_act h ?_ due
    rcases one with one | one
    · exact flightsOf_eff (by rw [Except.ok.inj (h.symm.trans one)]; exact List.mem_singleton.mpr rfl)
    · exact flightsOf_hrw (fl := fl) (by rw [Except.ok.inj (h.symm.trans one)]; exact List.mem_singleton.mpr rfl)
  · intro s f d o acts a x v n served row flies h mem
    have read : s.rowNow f d acts a = row := s.rowNow_eq f d acts a
    have act : ∀ lat e, (s.env f d).flight x.rid x.pos o lat e ∈ flightsOf (s.env f d) x.rid x.pos (s.rowNow f d acts)
        (fun a => (s.servedNow f d acts).contains a) o acts → flies lat e := fun lat e mem later =>
      State.flies_of_act h mem (by show _ < (s.dom f d).beat + lat - 1; omega)
    refine ⟨fun i use => act _ _ ?_, fun i width part lo k use lanes => act _ _ ?_, fun b r use => act _ _ ?_, fun off bytes mark use gets => act _ _ ?_⟩
    · rw [← read]
      exact flightsOf_ldn mem use
    · rw [← read]
      exact flightsOf_vld mem use lanes
    · rw [← read]
      exact flightsOf_sld mem use
    · exact flightsOf_store mem use (List.contains_iff_mem.mpr gets)
  · intro s f d c x v b accs rows fl flies course
    have same : rows = accs.map (s.rowNow f d []) := List.map_congr_left fun a _ => by
      rw [s.rowNow_eq f d [] a]
      rfl
    have all : ∀ p ∈ (c.run v rows s.free).effs, flies p.1 p.2 := fun p mem later =>
      State.flies_of_course course (by rw [← same]; exact mem) later
    refine ⟨all, fun p j m q op at' hq cols => ?_, fun i r q op drain row hq cols => ?_⟩
    · intro kl ks feed cells one clean
      have mem := c.mem_run_ws v rows s.free op at' hq cols (feed := feed) rfl clean
      rw [c.mode_eq] at mem
      exact all _ mem
    · intro cell clean
      exact all _ (c.mem_run_drain v rows s.free drain row hq cols clean)

end Sys2Proof.Machine
end

section
/-! PROOFS. A mortar error beside a recovery of the block, on a tick on which the fault ring is full (R232, R325, R332). -/
namespace Sys2Proof.Machine

section
variable {s : State}

/-- A record that finds the fault ring full sets DC_STICKY bit 36 (R332). -/
theorem State.faultRecord_full (on : bitOf s.dc.frCfg 63 = true) (full : ¬ (s.dc.frTail - s.dc.frHead).toNat < 2 ^ fld s.dc.frCfg 0 5)
    (code : Nat) (source : W16) (p0 p1 p2 lev : Nat) : bitOf (s.faultRecord code source p0 p1 p2 lev).dc.sticky 36 = true := by
  rw [State.faultRecord_dc]
  unfold State.ringRecord
  dsimp only
  rw [if_pos on, if_neg full]
  exact bitOf_setBit_true_self (by decide) _

/-- Beside the recovery that has stopped its domain, and with no window of the furrow open, a fault that finds the ring full sets that bit (R325). -/
theorem State.faultBeside_full (on : bitOf s.dc.frCfg 63 = true) (full : ¬ (s.dc.frTail - s.dc.frHead).toNat < 2 ^ fld s.dc.frCfg 0 5)
    {f : Fur} (closed : ∀ e : Dom, s.openRec (.half f e) = none) (d : Dom) (i : FaultInfo) :
    bitOf (s.faultBeside f d i).dc.sticky 36 = true := by
  have recorded := State.faultRecord_full on full i.code i.source i.p0 i.p1 i.p2 (levByte 1 false false)
  have none : s.openRec (s.recDom f d) = none := by
    unfold State.recDom
    split
    · exact closed d
    · exact closed 0
  unfold State.faultBeside State.raise
  rw [none]
  dsimp only
  rw [if_pos rfl]
  split
  · exact recorded
  · exact recorded

end

/-! ### The state of the counterexample -/

/-- A domain in RESET on whose last tick MO_ADV was high. -/
def Domain.stoppedOnBeat : Domain := { Domain.atReset .reset with tick := { (Domain.atReset .reset).tick with adv := true } }

/-- An L3 for the dispatcher's error 0x0508, detected now. -/
def Recov.dispatcherNow : Recov := ⟨.block, 3, 0x0508, srcBlock, .block, 0, 0, 0, State.reset.time, 0, false⟩

/-- The reference build with one mortar unit. -/
def Build.oneMortar : Build := { Build.reference with mortar := 1, mortars := Vector.replicate 4 0x0000000100020502 }

/-- The block after reset, stopped by an L3 on this tick, with 16 records in a fault ring of 16. -/
def State.fullRing : State := State.setDom { State.reset with build := Build.oneMortar, dc := { State.reset.dc with
  l3 := true, recovs := [Recov.dispatcherNow], frCfg := 0x8000000000000004, frTail := 16, frHead := 0 } } 0 0 Domain.stoppedOnBeat

theorem State.fullRing_dom : State.fullRing.dom 0 0 = Domain.stoppedOnBeat := State.dom_setDom _ _ _ _

theorem State.fullRing_split : (State.fullRing.fur 0).split = false := by
  unfold State.fullRing State.setDom
  rw [State.fur_setFur]
  exact congrArg Furrow.split (reset_fur 0)

theorem State.fullRing_recDom : State.fullRing.recDom 0 0 = .half 0 0 := by
  unfold State.recDom
  rw [State.fullRing_split]
  rfl

/-- The dispatcher's L3 is not of the domain, nor risen from it: the domain's own faults have started no recovery. -/
theorem State.fullRing_ownStop : State.fullRing.ownStop 0 0 = none := by
  have apart : State.fullRing.risenFrom 0 0 Recov.dispatcherNow = false := by
    unfold State.risenFrom
    rw [State.fullRing_split]
    decide
  show [Recov.dispatcherNow].find? _ = none
  rw [List.find?_singleton, apart, State.fullRing_recDom]
  rfl

/-- Refutes O27: a mortar error beside an L3 of the same tick starts an L1, as stated, but its record finds the fault ring full, so DC_STICKY
bit 36 is set (R332), and DC_STICKY is not what it was. -/
theorem not_furrowEvents : ¬ Obligations.FurrowEvents := by
  unfold Obligations.FurrowEvents
  intro h
  obtain ⟨-, beside, -⟩ := h 0 0 State.fullRing
  have tick : (State.fullRing.dom 0 0).tick.adv = true := by rw [State.fullRing_dom]; rfl
  have stopped : (State.fullRing.dom 0 0).st = .reset := by rw [State.fullRing_dom]; rfl
  have closed : State.fullRing.openRec (State.fullRing.recDom 0 0) = none := by rw [State.fullRing_recDom]; rfl
  have own : if (State.fullRing.fur 0).split then (0 : Fin 4).val / 2 = (0 : Dom).val else (0 : Dom) = 0 := by rw [State.fullRing_split]; rfl
  obtain ⟨-, second⟩ := beside 0 0 (by decide) own tick
  obtain ⟨runs, l1⟩ := second State.fullRing_ownStop stopped rfl ⟨Recov.dispatcherNow, List.mem_singleton_self _, .inl rfl, by decide, rfl⟩
  obtain ⟨t, same, -, sticky, -⟩ := l1 closed
  rw [runs] at same
  cases same
  have full : bitOf State.fullRing.dc.sticky 36 = true := by
    rw [← sticky]
    exact State.faultBeside_full rfl (by decide) (fun _ => rfl) 0 _
  exact absurd full (by decide)

end Sys2Proof.Machine
end

section
/-! PROOFS. Queue commands without a memory engine, as they are accepted (R48, R90, R94 to R97, R119, R244). -/
namespace Sys2Proof.Machine

section
variable {s : State} {q : QSlot} {op : Nat} {p : Packet}

/-! ### The state in which an accepted command takes effect -/

theorem State.refSegs_changes (is : List Nat) : ∀ s : State, ∃ t, is.foldl State.refSeg s = { s with segs := t } := by
  induction is with
  | nil => exact fun s => ⟨s.segs, rfl⟩
  | cons i r ih =>
    intro s
    obtain ⟨t, e⟩ := ih (s.refSeg i)
    exact ⟨t, e⟩

/-- Acceptance changes the queues, the references of segments and the dispatcher's own counts alone (R242, R246, R266). -/
theorem State.admitted_changes (s : State) (q : QSlot) (op : Nat) (p : Packet) : ∃ qs t rr g n,
    s.admitted q op p = { s with queues := qs, segs := t, dispRR := rr, dispG := g, accepted := n } := by
  unfold State.admitted State.letIn
  dsimp only
  obtain ⟨t, e⟩ := State.refSegs_changes ((handleUses op p.w).map (fun u => hIndex u.handle)) ((s.countAccept q).modQueue q _)
  exact ⟨_, t, _, _, _, e⟩

theorem State.admitted_time (s : State) (q : QSlot) (op : Nat) (p : Packet) : (s.admitted q op p).time = s.time := by
  obtain ⟨qs, t, rr, g, n, e⟩ := s.admitted_changes q op p
  rw [e]

theorem State.admitted_build (s : State) (q : QSlot) (op : Nat) (p : Packet) : (s.admitted q op p).build = s.build := by
  obtain ⟨qs, t, rr, g, n, e⟩ := s.admitted_changes q op p
  rw [e]

/-- What a command does once it has been accepted is what its instruction does. -/
theorem accepts_of_body {c : Instr} {body : State → Packet → CmdRef → State} (run : exec c s = .next (s.accept q op body)) {t : State}
    (h : body (s.admitted q op p) p (refOf q p) = t) : accepts c s q op p t := by
  intro takes
  rw [run, s.accept_of_takes takes body]
  exact congrArg Host.Outcome.next h

/-! ### LOAD_PROGRAM -/

theorem State.loadBody_held {r : CmdRef} (h : s.imageHeld (p.w 2) (p.w 3) s.erasures = true) :
    s.loadBody p r = (s.modCmd r (fun c => { c with stage := 1 })).modFur p.fur (fun x => x.joinLoads (BitVec.allOnes 8) r) := if_pos h

theorem State.loadBody_read {r : CmdRef} (h : s.imageHeld (p.w 2) (p.w 3) s.erasures = false) :
    s.loadBody p r = s.imageChecked p.fur r (s.checkImage (p.w 2) (p.w 3) s.erasures) := if_neg (by rw [h]; exact Bool.false_ne_true)

/-- An image that passes its checks and holds something waits for its segments (R90). -/
theorem State.imageChecked_waits {f : Fur} {r : CmdRef} {img : List Byte} (some : ¬ (imageCount img = 0 ∧ imageMask img = 0)) :
    s.imageChecked f r (.ok img) = (s.modCmd r (fun c => { c with stage := 2, buf := img })).modFur f (fun x => x.joinLoads (imageMask img) r) :=
  if_neg some

/-! ### CONFIGURE -/

theorem State.configBody_eq {r : CmdRef} : s.configBody p r =
    if nfld (p.w 2) 8 9 = 0 ∧ s.configs p.fur p.dom = [] ∧ (s.dom p.fur p.dom).unswapped = false then s.finish r stOk 0 0
    else s.modCmd r (fun c => { c with stage := 2 }) := by
  unfold State.configBody
  simp only [List.isEmpty_iff, Bool.not_eq_true']

/-! ### START and the host CALL -/

/-- A domain's change keeps the entrants that wait. -/
theorem Furrow.enqueue_setDom (x : Furrow) (d : Dom) (y : Domain) (e : Entrant) : (x.setDom d y).enqueue e =
    { x.setDom d y with waiting := x.waiting.filter (fun w => decide (w.order ≤ e.order)) ++
      e :: x.waiting.filter (fun w => decide (e.order < w.order)) } := rfl

/-- The footprint of a domain that begins waits for the scoreboard (R117). -/
theorem State.joinFoot_setDom (s : State) (f : Fur) (d : Dom) (y : Domain) (r : CmdRef) (order : Nat) :
    (s.setDom f d y).joinFoot f d r order = (s.modCmd r (fun c => { c with stage := 1 })).setFur f
      (((s.fur f).setDom d y).enqueue ⟨order, 1 + d.val, r, footRegions y.foot (y.footBank y.isCall)⟩) := by
  have begun : ((s.setDom f d y).modCmd r (fun c => { c with stage := 1 })).fur f = (s.fur f).setDom d y := State.fur_setFur _ _ _
  unfold State.joinFoot State.modFur
  rw [begun]
  dsimp only
  rw [Furrow.dom_setDom]
  exact State.setFur_setFur (s.modCmd r (fun c => { c with stage := 1 })) _ _ _

/-- The state in which a START or CALL makes its checks: the CONFIGUREs that wait have written what they can (R94, log 35). -/
def State.configured (s : State) (p : Packet) : State := s.applyReady (s.configs p.fur p.dom)

/-- The routine that a START or CALL names. -/
def State.started (s : State) (p : Packet) : Routine := ((s.configured p).fur p.fur).routine (nfld (p.w 2) 0 8)

section
variable {isCall : Bool} {r : CmdRef}

/-- A half that has lost its pair since the furrow was split refuses (R50). -/
theorem State.startBody_lost (valid : (s.started p).valid = true)
    (lost : ((s.configured p).fur p.fur).split = true ∧ bitOf ((s.configured p).fur p.fur).halfLost p.dom.val = true) :
    s.startBody isCall p r = (s.configured p).finish r stShape 0 0 := by
  have halved : (((s.configured p).fur p.fur).split && bitOf ((s.configured p).fur p.fur).halfLost p.dom.val) = true := by
    rw [lost.1, lost.2]
    rfl
  unfold State.startBody
  dsimp only
  rw [if_neg (by rw [Bool.not_eq_true']; exact ne_false_of_eq_true valid)]
  split
  · rfl
  · exact if_pos (by rw [Bool.or_eq_true]; exact .inr halved)

variable (valid : (s.started p).valid = true) (placed : (s.started p).placement = placementOf ((s.configured p).fur p.fur).split p.dom)
  (shown : (s.started p).bricks ≤ ((s.configured p).env p.fur p.dom).shown)
  (kept : ¬ (((s.configured p).fur p.fur).split = true ∧ bitOf ((s.configured p).fur p.fur).halfLost p.dom.val = true))
include valid placed shown kept

/-- Past the checks of the routine, a START or CALL begins, and its footprint is formed unless a CONFIGURE still waits for its values (log 97). -/
theorem State.startBody_passes : s.startBody isCall p r =
    if !((s.configured p).configs p.fur p.dom).isEmpty then
      (s.configured p).modDom p.fur p.dom (fun y => y.begin (nfld (p.w 2) 0 8) (s.started p) r isCall)
    else match (s.configured p).footRefused p.fur p.dom isCall (s.started p).foot with
      | some st => (s.configured p).finish r st 0 0
      | none => ((s.configured p).modDom p.fur p.dom (fun y => y.begin (nfld (p.w 2) 0 8) (s.started p) r isCall)).joinFoot p.fur p.dom r
          (s.configured p).accepted := by
  have whole : ¬ ((decide (((s.configured p).env p.fur p.dom).shown < (s.started p).bricks) ||
      (((s.configured p).fur p.fur).split && bitOf ((s.configured p).fur p.fur).halfLost p.dom.val)) = true) := by
    rw [Bool.or_eq_true, Bool.and_eq_true, decide_eq_true_eq]
    exact not_or.mpr ⟨Nat.not_lt.mpr shown, kept⟩
  unfold State.startBody
  dsimp only
  rw [if_neg (by rw [Bool.not_eq_true']; exact ne_false_of_eq_true valid)]
  exact (if_neg (not_not.mpr placed)).trans (if_neg whole)

theorem State.startBody_unread (waits : (s.configured p).configs p.fur p.dom ≠ []) : s.startBody isCall p r =
    (s.configured p).setDom p.fur p.dom (((s.configured p).dom p.fur p.dom).begin (nfld (p.w 2) 0 8) (s.started p) r isCall) := by
  rw [State.startBody_passes valid placed shown kept]
  exact if_pos (by rw [Bool.not_eq_true', List.isEmpty_eq_false_iff]; exact waits)

/-- The footprint waits for the scoreboard, behind the entrants accepted before it (R117). -/
theorem State.startBody_joins (done : (s.configured p).configs p.fur p.dom = [])
    (regions : (footRegions (s.started p).foot (((s.configured p).dom p.fur p.dom).footBank isCall)).any
      (badRegion (s.configured p).build ((s.configured p).fur p.fur) p.dom) = false)
    (rings : isCall = false → (s.configured p).ringCheck p.fur p.dom (((s.configured p).dom p.fur p.dom).footBank isCall) = none) :
    s.startBody isCall p r =
      let a0 := s.configured p
      let x := a0.fur p.fur
      (a0.modCmd r (fun c => { c with stage := 1 })).setFur p.fur
        ((x.setDom p.dom ((x.dom p.dom).begin (nfld (p.w 2) 0 8) (s.started p) r isCall)).enqueue
          ⟨a0.accepted, 1 + p.dom.val, r, footRegions (s.started p).foot ((x.dom p.dom).footBank isCall)⟩) := by
  have formed : (s.configured p).footRefused p.fur p.dom isCall (s.started p).foot = none := by
    unfold State.footRefused
    dsimp only
    rw [show ((s.configured p).fur p.fur).dom p.dom = (s.configured p).dom p.fur p.dom from rfl, regions, if_neg Bool.false_ne_true]
    split
    · rfl
    · exact rings (Bool.eq_false_iff.mpr ‹_›)
  rw [State.startBody_passes valid placed shown kept, done, formed]
  exact (if_neg (by decide)).trans (State.joinFoot_setDom _ _ _ _ _ _)

end

/-! ### SPLIT and FALLOW -/

/-- A furrow in the mode asked for answers OK (log 69). -/
theorem State.splitBody_same {r : CmdRef} (h : (s.fur p.fur).split = decide (nfld (p.w 2) 0 1 = 1)) :
    s.splitBody p r = s.finish r stOk 0 0 := if_pos h

/-- A furrow of four bricks, all in service where it is to be split, waits for its change of mode (R16, R48). -/
theorem State.splitBody_change {r : CmdRef} (other : (s.fur p.fur).split ≠ decide (nfld (p.w 2) 0 1 = 1))
    (four : s.build.bricksOf p.fur.val = 4) (large : 8 ≤ s.build.scratchMib)
    (all : decide (nfld (p.w 2) 0 1 = 1) = true → (s.fur p.fur).inService = 3) :
    s.splitBody p r = s.setFur p.fur { s.fur p.fur with modeChange := some (decide (nfld (p.w 2) 0 1 = 1), r) } := by
  have served : ¬ ((decide (nfld (p.w 2) 0 1 = 1) && (s.fur p.fur).inService != 3) = true) := by
    rw [Bool.and_eq_true, bne_iff_ne]
    exact fun h => h.2 (all h.1)
  unfold State.splitBody
  dsimp only
  rw [if_neg other, if_neg (not_or.mpr ⟨not_not.mpr four, Nat.not_lt.mpr large⟩), if_neg served]

/-- A new mask that puts no used group to sleep is in force, or waits behind the scoreboard and earlier masks (R119, log 78). -/
theorem State.fallowBody_takes {r : CmdRef} (other : (BitVec.ofNat 16 (p.w 2) : BitVec 16) ≠ (s.fur p.fur).fallow)
    (unused : (BitVec.ofNat 16 (p.w 2) &&& ~~~(s.fur p.fur).fallow) &&& (s.fur p.fur).usedGroups = 0) :
    s.fallowBody p r =
      if (s.fur p.fur).fallowWait = [] ∧ (BitVec.ofNat 16 (p.w 2) &&& ~~~(s.fur p.fur).fallow) &&& (s.fur p.fur).boardGroups = 0
      then (s.applyFallow p.fur (BitVec.ofNat 16 (p.w 2)) r).endWakes p.fur
      else s.setFur p.fur { s.fur p.fur with fallowWait := (s.fur p.fur).fallowWait ++ [(BitVec.ofNat 16 (p.w 2), r)] } := by
  unfold State.fallowBody
  dsimp only
  rw [if_neg other, if_neg (by rw [unused]; decide)]

end

/-- A START or CALL, by its three outcomes past the checks that other statements state. -/
theorem accepts_start {s : State} {q : QSlot} {p : Packet} {c : Instr} {op : Nat} {isCall : Bool}
    (run : exec c s = .next (s.accept q op (State.startBody isCall))) :
    let r := refOf q p
    let a0 := (s.admitted q op p).configured p
    let x := a0.fur p.fur
    let y := x.dom p.dom
    let e := (s.admitted q op p).started p
    let regions := footRegions e.foot (y.footBank isCall)
    let lost := x.split = true ∧ bitOf x.halfLost p.dom.val = true
    (e.valid = true → lost → accepts c s q op p (a0.finish r stShape 0 0)) ∧
    (e.valid = true → e.placement = placementOf x.split p.dom → e.bricks ≤ (a0.env p.fur p.dom).shown → ¬ lost →
      let begun := y.begin (nfld (p.w 2) 0 8) e r isCall
      (a0.configs p.fur p.dom ≠ [] → accepts c s q op p (a0.setDom p.fur p.dom begun)) ∧
      (a0.configs p.fur p.dom = [] → regions.any (badRegion a0.build x p.dom) = false →
        (isCall = false → a0.ringCheck p.fur p.dom (y.footBank isCall) = none) →
        accepts c s q op p ((a0.modCmd r (fun c => { c with stage := 1 })).setFur p.fur
          { x.setDom p.dom begun with waiting := x.waiting.filter (fun w => decide (w.order ≤ a0.accepted)) ++
            ⟨a0.accepted, 1 + p.dom.val, r, regions⟩ :: x.waiting.filter (fun w => decide (a0.accepted < w.order)) }))) := by
  refine ⟨fun valid lost => ?_, fun valid placed shown kept => ⟨fun waits => ?_, fun done regions rings => ?_⟩⟩
  · exact accepts_of_body run (State.startBody_lost valid lost)
  · exact accepts_of_body run (State.startBody_unread valid placed shown kept waits)
  · refine accepts_of_body run ((State.startBody_joins valid placed shown kept done regions rings).trans ?_)
    dsimp only
    rw [Furrow.enqueue_setDom]

/-- Settles O28: each command's instruction is its acceptance, and what the command does then is read off its own lemma. -/
theorem immediateCommands : Obligations.ImmediateCommands := by
  unfold Obligations.ImmediateCommands
  intro q s p r takes
  refine ⟨accepts_of_body rfl rfl, accepts_of_body rfl rfl, ?time, ⟨fun img held image some => ?image, fun st held image => ?error, fun held => ?held⟩,
    ?configure, ⟨?start, ?call⟩, fun four large other all => ?split, fun same => ?same, fun other unused => ?fallow⟩
  case time =>
    refine accepts_of_body (body := fun s _ r => s.finish r stOk s.time.toNat 0) rfl ?_
    rw [s.admitted_time]
  case image => exact accepts_of_body rfl ((State.loadBody_read held).trans (by rw [image]; exact State.imageChecked_waits some))
  case error => exact accepts_of_body rfl ((State.loadBody_read held).trans (by rw [image]; rfl))
  case held => exact accepts_of_body rfl (State.loadBody_held held)
  case configure => exact accepts_of_body rfl State.configBody_eq
  case start => exact accepts_start (op := 0x0102) (isCall := false) rfl
  case call => exact accepts_start (op := 0x0103) (isCall := true) rfl
  case split =>
    rw [← s.admitted_build q 0x0104 p] at four large
    exact accepts_of_body rfl (State.splitBody_change other four large all)
  case same => exact accepts_of_body rfl (State.splitBody_same same)
  case fallow =>
    intro accepted
    show Host.Outcome.next (s.oneCycle (s.accept q 0x0105 State.fallowBody)) = _
    rw [s.accept_of_takes accepted]
    exact congrArg (fun t => Host.Outcome.next (s.oneCycle t)) (State.fallowBody_takes other unused)

end Sys2Proof.Machine
end

section
/-! PROOFS. Sparse arrays: what a read finds after a change or a clearing of a range. -/
namespace Sys2Proof.Machine

section
variable {α : Type} {d : α} {t : Tab α} {lo hi k : Nat}

/-- A key not above the bound of the listed ones reads as the default. -/
theorem tget_of_le {l : Nat} (rise : keysRise (some l) t = true) (h : k ≤ l) : tget d t k = d := by
  cases t with
  | nil => rfl
  | cons q r =>
    obtain ⟨k', v⟩ := q
    simp only [keysRise, Bool.and_eq_true, decide_eq_true_eq] at rise
    have above : k < k' := Nat.lt_of_le_of_lt h rise.1
    simp only [tget]
    rw [if_neg (Nat.ne_of_gt above), if_pos above]

/-- A change of the elements of a range changes what its keys read, and no other key's reading. -/
theorem tget_tmap [DecidableEq α] {g : α → α} (hg : g d = d) (h : twf d t = true) :
    tget d (tmap d g t lo hi) k = if lo ≤ k ∧ k < hi then g (tget d t k) else tget d t k := by
  have key : ∀ (t : Tab α) (l : Option Nat), keysRise l t = true →
      tget d (tmap d g t lo hi) k = if lo ≤ k ∧ k < hi then g (tget d t k) else tget d t k := by
    intro t
    induction t with
    | nil => intro _ _; simp [tmap, tget, hg]
    | cons q r ih =>
      obtain ⟨k', v⟩ := q
      intro l rise
      have tail : keysRise (some k') r = true := keysRise_tail rise
      have rest := ih (some k') tail
      have cons : tmap d g ((k', v) :: r) lo hi =
          if lo ≤ k' ∧ k' < hi then (if g v = d then tmap d g r lo hi else (k', g v) :: tmap d g r lo hi) else (k', v) :: tmap d g r lo hi := by
        unfold tmap
        rw [List.filterMap_cons]
        by_cases range : lo ≤ k' ∧ k' < hi
        · by_cases gone : g v = d
          · simp [range, gone]
          · simp [range, gone]
        · simp only [range, if_false]
      rw [cons]
      simp only [tget]
      rcases Nat.lt_trichotomy k k' with below | same | above
      · have none : tget d r k = d := tget_of_le tail (Nat.le_of_lt below)
        rw [none, hg, ite_self] at rest
        rw [if_neg (Nat.ne_of_gt below), if_pos below, hg, ite_self]
        split
        · split
          · exact rest
          · simp [tget, Nat.ne_of_gt below, below]
        · simp [tget, Nat.ne_of_gt below, below]
      · subst same
        have none : tget d r k = d := tget_of_le tail (Nat.le_refl k)
        rw [none, hg, ite_self] at rest
        rw [if_pos rfl]
        split
        · split
          · next gone => exact rest.trans gone.symm
          · simp [tget]
        · simp [tget]
      · rw [if_neg (Nat.ne_of_lt above), if_neg (Nat.lt_asymm above)]
        split
        · split
          · exact rest
          · simpa [tget, Nat.ne_of_lt above, Nat.lt_asymm above] using rest
        · simpa [tget, Nat.ne_of_lt above, Nat.lt_asymm above] using rest
  exact key t none ((twf_iff d t).1 h).1

/-- Clearing a range is changing its elements to the default. -/
theorem tclear_eq_tmap [DecidableEq α] (d : α) (t : Tab α) (lo hi : Nat) : tclear t lo hi = tmap d (fun _ => d) t lo hi := by
  unfold tclear tmap
  rw [← List.filterMap_eq_filter]
  refine List.filterMap_congr fun p _ => ?_
  by_cases range : lo ≤ p.1 ∧ p.1 < hi
  · simp [range, Option.guard]
  · simp [range, Option.guard]

theorem tget_tclear [DecidableEq α] (h : twf d t = true) : tget d (tclear t lo hi) k = if lo ≤ k ∧ k < hi then d else tget d t k := by
  rw [tclear_eq_tmap d]
  exact tget_tmap rfl h

/-- A run reads alike in two arrays that agree on its keys. -/
theorem tgets_congr {u : Tab α} (n : Nat) : ∀ k, (∀ j, k ≤ j → j < k + n → tget d t j = tget d u j) → tgets d t k n = tgets d u k n := by
  induction n with
  | zero => exact fun _ _ => rfl
  | succ n ih =>
    intro k h
    simp only [tgets]
    rw [h k (Nat.le_refl k) (by omega), ih (k + 1) (fun j low high => h j (by omega) (by omega))]

end

end Sys2Proof.Machine
end

section
/-! PROOFS. A load image in the program store and the table (R88, R90). -/
namespace Sys2Proof.Machine

/-! ### Segments of a mask -/

/-- The segments of a mask among the `n` from `k` on. -/
def segsFrom (mask : BitVec 8) (k n : Nat) : Nat := ((List.range' k n).filter (fun i => bitOf mask i)).length

theorem segsFrom_succ (mask : BitVec 8) (k n : Nat) : segsFrom mask k (n + 1) = b2n (bitOf mask k) + segsFrom mask (k + 1) n := by
  unfold segsFrom
  rw [List.range'_succ, List.filter_cons]
  split
  · next h => simp [h, b2n, Nat.add_comm]
  · next h => simp [h, b2n]

theorem popcount_eq_segsFrom {v : Nat} {mask : BitVec 8} : ∀ n k, (∀ i, k ≤ i → i < k + n → bitOf mask i = v.testBit i) →
    popcount (v / 2 ^ k) n = segsFrom mask k n := by
  intro n
  induction n with
  | zero => exact fun _ _ => rfl
  | succ n ih =>
    intro k h
    have bit : v / 2 ^ k % 2 = b2n (bitOf mask k) := by
      rw [h k (Nat.le_refl k) (by omega), Nat.testBit_eq_decide_div_mod_eq]
      unfold b2n
      split <;> simp_all
    rw [segsFrom_succ, popcount, bit, Nat.div_div_eq_div_mul, ← Nat.pow_succ, ih (k + 1) (fun i low high => h i (by omega) (by omega))]

/-- The segments of an image are as many as the bits of its mask (R88). -/
theorem popcount_imageMask (img : List Byte) : popcount (nfld (ofLe (img.take 8)) 16 8) 8 = segsFrom (imageMask img) 0 8 := by
  rw [← popcount_eq_segsFrom (v := nfld (ofLe (img.take 8)) 16 8) 8 0, pow_zero, Nat.div_one]
  intro i _ high
  rw [imageMask, bitOf, BitVec.getLsbD_ofNat, decide_eq_true (show i < 8 by omega), Bool.true_and]

/-! ### The segments' bytes -/

/-- The store holds each segment of the mask as the image gives it, in ascending order, and every other one as it did (R90). -/
theorem tgets_loadSegs {mask : BitVec 8} (n : Nat) : ∀ (st : Tab Byte) (k : Nat) (bs : List Byte), twf 0 st = true →
    bs.length = 32768 * segsFrom mask k n → ∀ j, tgets 0 (loadSegs st mask k n bs) (32768 * j) 32768 =
      if k ≤ j ∧ j < k + n ∧ bitOf mask j = true then (bs.drop (32768 * segsFrom mask k (j - k))).take 32768 else tgets 0 st (32768 * j) 32768 := by
  induction n with
  | zero => intro st k bs _ _ j; rw [if_neg (by omega)]; rfl
  | succ n ih =>
    intro st k bs wf size j
    rw [segsFrom_succ] at size
    unfold loadSegs
    by_cases bit : bitOf mask k = true
    · have one : b2n (bitOf mask k) = 1 := by rw [bit]; rfl
      rw [one] at size
      have first : (bs.take 32768).length = 32768 := by rw [List.length_take]; omega
      rw [if_pos bit, ih _ _ _ (twf_tputs 0 _ st _ wf) (by rw [List.length_drop]; omega)]
      rcases Nat.lt_trichotomy j k with below | same | above
      · rw [if_neg (by omega), if_neg (by omega)]
        exact tgets_congr _ _ fun i low high => tget_tputs_out 0 _ st _ i wf (.inl (by omega))
      · subst same
        rw [if_neg (by omega), if_pos ⟨Nat.le_refl j, by omega, bit⟩, Nat.sub_self]
        have self := tgets_tputs_self 0 (bs.take 32768) st (32768 * j) wf
        rw [first] at self
        exact self
      · have split : segsFrom mask k (j - k) = 1 + segsFrom mask (k + 1) (j - (k + 1)) := by
          rw [show j - k = j - (k + 1) + 1 by omega, segsFrom_succ, one]
        have kept : tgets 0 (tputs 0 st (32768 * k) (bs.take 32768)) (32768 * j) 32768 = tgets 0 st (32768 * j) 32768 :=
          tgets_congr _ _ fun i low high => tget_tputs_out 0 _ st _ i wf (.inr (by omega))
        rw [kept, split, List.drop_drop, Nat.mul_add, Nat.mul_one]
        exact if_congr ⟨fun h => ⟨by omega, by omega, h.2.2⟩, fun h => ⟨by omega, by omega, h.2.2⟩⟩ rfl rfl
    · have none : b2n (bitOf mask k) = 0 := by rw [Bool.not_eq_true] at bit; rw [bit]; rfl
      rw [none, Nat.zero_add] at size
      rw [if_neg bit, ih _ _ _ wf size]
      rcases Nat.lt_trichotomy j k with below | same | above
      · rw [if_neg (by omega), if_neg (by omega)]
      · subst same
        rw [if_neg (by omega), if_neg (fun h => bit h.2.2)]
      · have split : segsFrom mask k (j - k) = segsFrom mask (k + 1) (j - (k + 1)) := by
          rw [show j - k = j - (k + 1) + 1 by omega, segsFrom_succ, none, Nat.zero_add]
        rw [split]
        exact if_congr ⟨fun h => ⟨by omega, by omega, h.2.2⟩, fun h => ⟨by omega, by omega, h.2.2⟩⟩ rfl rfl

section
variable {x : Furrow} {img : List Byte}

theorem Furrow.loadImage_segment (tables : x.tablesOk) (size : img.length = imageSize (ofLe (img.take 8))) {k : Nat} (hk : k < 8) :
    tgets 0 (x.loadImage img).pstore (32768 * k) 32768 =
      if bitOf (imageMask img) k = true then (img.drop (8 + 32 * imageCount img + 32768 * segsFrom (imageMask img) 0 k)).take 32768
      else tgets 0 x.pstore (32768 * k) 32768 := by
  obtain ⟨pstore, -⟩ := tables
  have body : (img.drop (8 + 32 * imageCount img)).length = 32768 * segsFrom (imageMask img) 0 8 := by
    rw [List.length_drop, size, ← popcount_imageMask]
    unfold imageSize imageCount
    omega
  refine (tgets_loadSegs 8 x.pstore 0 _ pstore body k).trans ?_
  rw [List.drop_drop, Nat.sub_zero]
  exact if_congr ⟨fun h => h.2.2, fun h => ⟨Nat.zero_le k, by omega, h⟩⟩ rfl rfl

/-! ### The table's entries -/

/-- The table after the entries of an image with the numbers of `l` have been written to `t`. -/
def imageTable (img : List Byte) (t : Tab Routine) (l : List Nat) : Tab Routine :=
  l.foldl (fun t i => tset Routine.zero t (nfld (imageEntry img i 0) 48 8)
    ⟨w64 (imageEntry img i 0), w64 (imageEntry img i 1), w64 (imageEntry img i 2)⟩) t

theorem tget_imageTable_other (l : List Nat) : ∀ (t : Tab Routine) (k : Nat), twf Routine.zero t = true →
    (∀ j ∈ l, nfld (imageEntry img j 0) 48 8 ≠ k) → tget Routine.zero (imageTable img t l) k = tget Routine.zero t k := by
  induction l with
  | nil => exact fun _ _ _ _ => rfl
  | cons i r ih =>
    intro t k wf other
    refine (ih _ k (twf_tset _ _ t _ wf) fun j hj => other j (List.mem_cons_of_mem i hj)).trans ?_
    exact tget_tset_of_ne _ _ t (other i List.mem_cons_self).symm ((twf_iff _ t).1 wf).1

theorem tget_imageTable_self (l : List Nat) : ∀ (t : Tab Routine) (i : Nat), twf Routine.zero t = true → i ∈ l →
    (∀ j ∈ l, j ≠ i → nfld (imageEntry img j 0) 48 8 ≠ nfld (imageEntry img i 0) 48 8) →
    tget Routine.zero (imageTable img t l) (nfld (imageEntry img i 0) 48 8) =
      ⟨w64 (imageEntry img i 0), w64 (imageEntry img i 1), w64 (imageEntry img i 2)⟩ := by
  induction l with
  | nil => exact fun _ _ _ mem => absurd mem List.not_mem_nil
  | cons j r ih =>
    intro t i wf mem apart
    have wf' : twf Routine.zero (imageTable img t [j]) = true := twf_tset _ _ t _ wf
    by_cases later : i ∈ r
    · exact ih _ i wf' later fun m hm => apart m (List.mem_cons_of_mem j hm)
    · obtain rfl : i = j := (List.mem_cons.mp mem).resolve_right later
      refine (tget_imageTable_other r _ _ wf' fun m hm => apart m (List.mem_cons_of_mem i hm) ?_).trans ?_
      · rintro rfl
        exact later hm
      · exact tget_tset_self _ _ t _ ((twf_iff _ t).1 wf).1

/-- A table entry as a load leaves it that does not write it: VALID cleared where its code touches a target segment (R90). -/
def Routine.unlessLoaded (mask : BitVec 8) (r : Routine) : Routine :=
  if segsTouched r.addr r.length &&& mask != 0 then { r with ctrl := setBit r.ctrl 63 false } else r

theorem Furrow.loadImage_routines : (x.loadImage img).routines =
    imageTable img (tmap Routine.zero (Routine.unlessLoaded (imageMask img)) x.routines 0 256) (List.range (imageCount img)) := rfl

theorem Routine.unlessLoaded_zero (mask : BitVec 8) : Routine.zero.unlessLoaded mask = Routine.zero := by
  have untouched : segsTouched Routine.zero.addr Routine.zero.length &&& mask = 0 := by
    rw [show segsTouched Routine.zero.addr Routine.zero.length = 0 by decide]
    exact BitVec.zero_and
  exact if_neg (by rw [untouched]; decide)

theorem Routine.unlessLoaded_valid (mask : BitVec 8) (r : Routine) :
    (r.unlessLoaded mask).valid = (r.valid && segsTouched r.addr r.length &&& mask == 0) := by
  unfold Routine.unlessLoaded
  cases clear : segsTouched r.addr r.length &&& mask == 0 with
  | true => rw [bne, clear, Bool.and_true]; rfl
  | false =>
    rw [bne, clear, Bool.and_false]
    exact bitOf_setBit_self (by decide) _ false

theorem Furrow.loadImage_entry (tables : x.tablesOk) {i : Nat} (hi : i < imageCount img)
    (apart : ∀ j, j < imageCount img → j ≠ i → nfld (imageEntry img j 0) 48 8 ≠ nfld (imageEntry img i 0) 48 8) :
    (x.loadImage img).routine (nfld (imageEntry img i 0) 48 8) =
      ⟨w64 (imageEntry img i 0), w64 (imageEntry img i 1), w64 (imageEntry img i 2)⟩ := by
  obtain ⟨-, routines, -⟩ := tables
  unfold Furrow.routine
  rw [Furrow.loadImage_routines]
  exact tget_imageTable_self _ _ i (twf_tmap _ _ _ _ _ routines) (List.mem_range.mpr hi) fun j hj => apart j (List.mem_range.mp hj)

theorem Furrow.loadImage_other (tables : x.tablesOk) {k : Nat} (hk : k < 256)
    (other : ∀ j, j < imageCount img → nfld (imageEntry img j 0) 48 8 ≠ k) :
    (x.loadImage img).routine k = (x.routine k).unlessLoaded (imageMask img) := by
  obtain ⟨-, routines, -⟩ := tables
  unfold Furrow.routine
  rw [Furrow.loadImage_routines, tget_imageTable_other _ _ k (twf_tmap _ _ _ _ _ routines) fun j hj => other j (List.mem_range.mp hj),
    tget_tmap (Routine.unlessLoaded_zero _) routines, if_pos ⟨Nat.zero_le k, hk⟩]

end

end Sys2Proof.Machine
end

section
/-! PROOFS. What ends the wait of a LOAD_PROGRAM and of a CONFIGURE (R90, R94). -/
namespace Sys2Proof.Machine

section
variable {s : State} {q : QSlot} {seq : W32} {c : Cmd}

/-! ### PROGRAM_STORE_LOAD -/

/-- An image that has been read is loaded once its segments are free (R90, R91). -/
theorem exec_programStoreLoad_loads (runs : s.stopped = false) (work : s.atWork q seq 0x0100 = some c) (read : c.stage ≠ 1)
    (waits : (s.fur c.fur).loads.any (fun l => l.2 == (⟨q.val, seq⟩ : CmdRef)) = true) (free : imageMask c.buf &&& (s.fur c.fur).heldSegs = 0) :
    exec (.programStoreLoad q seq) s = .next ((s.setFur c.fur { (s.fur c.fur).loadImage c.buf with
      loads := (s.fur c.fur).loads.filter (fun l => l.2 != (⟨q.val, seq⟩ : CmdRef)) }).finish ⟨q.val, seq⟩ stOk (imageCount c.buf) 0) := by
  show execProgramStoreLoad q seq s = _
  unfold execProgramStoreLoad
  rw [work]
  dsimp only
  rw [if_neg (by rw [runs]; exact Bool.false_ne_true), if_neg read, waits, free]
  rfl

/-- An image that waited for its stack is read first (R349). -/
theorem exec_programStoreLoad_unread (runs : s.stopped = false) (work : s.atWork q seq 0x0100 = some c) (unread : c.stage = 1) :
    exec (.programStoreLoad q seq) s = .next (if s.imageHeld (c.w 2) (c.w 3) c.since then s
      else s.imageChecked c.fur ⟨q.val, seq⟩ (s.checkImage (c.w 2) (c.w 3) c.since)) := by
  show execProgramStoreLoad q seq s = _
  unfold execProgramStoreLoad
  rw [work]
  dsimp only
  rw [if_neg (by rw [runs]; exact Bool.false_ne_true), if_pos unread]

/-! ### CONFIGURE_APPLY -/

theorem State.cmd?_of_atWork {op : Nat} (work : s.atWork q seq op = some c) : s.cmd? ⟨q.val, seq⟩ = some c := by
  unfold State.atWork at work
  split at work
  · next k found =>
    split at work
    · rw [found, ← Option.some.inj work]
    · cases work
  · cases work

/-- The oldest waiting CONFIGURE writes its run, and a domain that waited for the values forms its footprint (R94). -/
theorem exec_configureApply_applies (runs : s.stopped = false) (work : s.atWork q seq 0x0101 = some c)
    (oldest : (s.configs c.fur c.dom).head? = some ⟨q.val, seq⟩) (read : s.configHeld c = false) (first : s.afterStart c = false) :
    exec (.configureApply q seq) s = .next ((((s.modDom c.fur c.dom (fun y =>
      { y with next := tputs 0 y.next (nfld (c.w 2) 0 8) (s.configValues c) })).bumpFree).finish ⟨q.val, seq⟩ stOk
        (s.configValues c).length 0).formFoot c.fur c.dom) := by
  show execConfigureApply q seq s = _
  unfold execConfigureApply
  rw [work]
  dsimp only
  rw [if_pos ⟨oldest, by rw [first]; rfl, by rw [read]; rfl, by rw [runs]; rfl⟩]
  unfold State.applyConfig
  rw [State.cmd?_of_atWork work]

section
variable {f : Fur} {d : Dom}

/-- The START or CALL `start` of the domain, named `k`, waits for the values of CONFIGUREs accepted before it (log 97). -/
def State.awaitsValues (s : State) (f : Fur) (d : Dom) (k : CmdRef) (start : Cmd) : Prop :=
  (s.dom f d).st = .starting ∧ (s.dom f d).startLeft = 0 ∧ (s.dom f d).cmd = some k ∧ s.cmd? k = some start ∧ start.stage = 0

/-- With no START or CALL that waits for values nothing is formed. -/
theorem State.formFoot_idle (none : ∀ k start, ¬ s.awaitsValues f d k start) : s.formFoot f d = s := by
  unfold State.formFoot
  dsimp only
  split
  · rfl
  · next r named =>
    split
    · rfl
    · next k found =>
      refine if_neg fun ready => ?_
      simp only [Bool.and_eq_true, beq_iff_eq] at ready
      obtain ⟨⟨⟨starting, left⟩, stage⟩, -⟩ := ready
      exact none r k ⟨starting, left, named, found, stage⟩

/-- Once no CONFIGURE accepted before it waits, the footprint that passes its checks waits for the scoreboard (R117, log 97). -/
theorem State.formFoot_joins {k : CmdRef} {start : Cmd} (waits : s.awaitsValues f d k start)
    (later : ∀ j ∈ s.configs f d, ∀ i, s.cmd? j = some i → start.order < i.order)
    (formed : s.footRefused f d (s.dom f d).isCall (s.dom f d).foot = none) : s.formFoot f d = s.joinFoot f d k start.order := by
  obtain ⟨starting, left, named, found, stage⟩ := waits
  have all : ((s.configs f d).filterMap s.cmd?).all (fun i => decide (start.order < i.order)) = true := by
    rw [List.all_eq_true]
    intro i mem
    obtain ⟨j, hj, hi⟩ := List.mem_filterMap.mp mem
    exact decide_eq_true (later j hj i hi)
  unfold State.formFoot
  dsimp only
  rw [named]
  dsimp only
  rw [found]
  dsimp only
  rw [starting, left, stage, all, formed]
  exact if_pos rfl

end

end

end Sys2Proof.Machine
end

section
/-! PROOFS. A START or CALL enters the scoreboard (R95, R113, R117). -/
namespace Sys2Proof.Machine

/-! ### Rings at the swap of banks -/

/-- A ring once its definition is `w`: as it was where that is the same one, else empty (R113). -/
def Ring.swapped (r : Ring) (w : W64) : Ring := if w = r.defn then r else ⟨w, 0, 0, 0⟩

theorem Ring.swapped_swapped (r : Ring) (w : W64) : (r.swapped w).swapped w = r.swapped w := by
  have defined : w = (r.swapped w).defn := by
    unfold Ring.swapped
    split
    · assumption
    · rfl
  exact if_pos defined

/-- One ring as `bank` becomes live. -/
def Furrow.swapRing (x : Furrow) (bank : Tab W64) (k : Nat) : Furrow :=
  let w := tget 0 bank (240 + k)
  if w = (vat Ring.none x.rings k).defn then x
  else
    { x with
      rings := vput x.rings k ⟨w, 0, 0, 0⟩, full := tclear x.full (fld w 0 16) (fld w 0 16 + fld w 32 16)
      poison := tclear x.poison (fld w 0 16) (fld w 0 16 + fld w 32 16) }

theorem Furrow.swapRings_eq (x : Furrow) (d : Dom) (bank : Tab W64) : x.swapRings d bank =
    (List.range (ringsOwned x.split d).2).foldl (fun y j => y.swapRing bank ((ringsOwned x.split d).1 + j)) x := rfl

section
variable (bank : Tab W64)

/-- A ring's change leaves what is no ring, TAG or POISON. -/
theorem Furrow.swapRing_changes (x : Furrow) (k : Nat) :
    ∃ rs fl po, x.swapRing bank k = { x with rings := rs, full := fl, poison := po } := by
  unfold Furrow.swapRing
  dsimp only
  split
  · exact ⟨_, _, _, rfl⟩
  · exact ⟨_, _, _, rfl⟩

theorem Furrow.swapRing_ring (x : Furrow) (k : Nat) {j : Nat} (hj : j < 16) : vat Ring.none (x.swapRing bank k).rings j =
    if j = k then (vat Ring.none x.rings j).swapped (tget 0 bank (240 + j)) else vat Ring.none x.rings j := by
  unfold Furrow.swapRing Ring.swapped
  dsimp only
  by_cases same : j = k
  · subst same
    rw [if_pos rfl]
    split
    · rfl
    · exact vat_vput_self hj _ _ _
  · rw [if_neg same]
    split
    · rfl
    · exact vat_vput_ne same _ _ _

theorem Furrow.foldl_swapRing (first : Nat) (l : List Nat) : ∀ x : Furrow,
    (∃ rs fl po, l.foldl (fun x j => x.swapRing bank (first + j)) x = { x with rings := rs, full := fl, poison := po }) ∧
    ∀ k, k < 16 → vat Ring.none (l.foldl (fun x j => x.swapRing bank (first + j)) x).rings k =
      if k ∈ l.map (first + ·) then (vat Ring.none x.rings k).swapped (tget 0 bank (240 + k)) else vat Ring.none x.rings k := by
  induction l with
  | nil => exact fun x => ⟨⟨_, _, _, rfl⟩, fun k _ => rfl⟩
  | cons i r ih =>
    intro x
    obtain ⟨rs, fl, po, one⟩ := x.swapRing_changes bank (first + i)
    obtain ⟨⟨rs', fl', po', rest⟩, rings⟩ := ih (x.swapRing bank (first + i))
    refine ⟨⟨rs', fl', po', rest.trans (by rw [one])⟩, fun k hk => (rings k hk).trans ?_⟩
    rw [Furrow.swapRing_ring bank x (first + i) hk]
    by_cases here : k = first + i
    · rw [if_pos here, Ring.swapped_swapped, ite_self]
      exact (if_pos (List.mem_cons.mpr (.inl here))).symm
    · rw [if_neg here]
      exact if_congr (List.mem_cons.trans (or_iff_right here)).symm rfl rfl

theorem Furrow.swapRings_changes (x : Furrow) (d : Dom) :
    ∃ rs fl po, x.swapRings d bank = { x with rings := rs, full := fl, poison := po } := by
  rw [Furrow.swapRings_eq]
  exact (Furrow.foldl_swapRing bank _ _ x).1

/-- Every ring that the domain owns is swapped (R112, R113). -/
theorem Furrow.swapRings_ring (x : Furrow) (d : Dom) {k : Nat} (low : (ringsOwned x.split d).1 ≤ k)
    (high : k < (ringsOwned x.split d).1 + (ringsOwned x.split d).2) :
    vat Ring.none (x.swapRings d bank).rings k = (vat Ring.none x.rings k).swapped (tget 0 bank (240 + k)) := by
  have owned : (ringsOwned x.split d).1 + (ringsOwned x.split d).2 ≤ 16 := by
    unfold ringsOwned
    split
    · dsimp only
      omega
    · split
      · exact Nat.le_refl 16
      · exact Nat.zero_le 16
  rw [Furrow.swapRings_eq, (Furrow.foldl_swapRing bank _ _ x).2 k (by omega)]
  exact if_pos (List.mem_map.mpr ⟨k - (ringsOwned x.split d).1, List.mem_range.mpr (by omega), by omega⟩)

end

/-! ### SCOREBOARD_ENTRY -/

section
variable {s : State} {f : Fur} {e : Entrant}

/-- The furrow's only entrant, of a START or CALL, that nothing refuses or holds back, enters (R117). -/
theorem exec_scoreboardEntry_enters (runs : s.stopped = false) (only : (s.fur f).waiting = [e]) (kind : e.kind = 1 ∨ e.kind = 2)
    (admitted : (s.fur f).admits e = true)
    (awake : e.regions.any (fun g => (groupsOf g.1 g.2.1 &&& ((s.fur f).fallow ||| (s.fur f).waking)) != 0) = false) :
    exec (.scoreboardEntry f) s = .next (s.oneCycle (((s.setFur f ((s.fur f).enter e)).modCmd e.ref (fun c => { c with stage := 2 })).startEntered f
      (domOf (e.kind - 1)) e.ref)) := by
  have enters : s.tryEnter f e = ((s.setFur f ((s.fur f).enter e)).modCmd e.ref (fun c => { c with stage := 2 })).startEntered f
      (domOf (e.kind - 1)) e.ref := by
    unfold State.tryEnter
    dsimp only
    rw [if_neg (by omega), if_neg (by rw [Furrow.gone, awake]; exact Bool.false_ne_true), if_pos admitted]
  show execScoreboardEntry f s = _
  unfold execScoreboardEntry
  rw [if_neg (by rw [runs]; exact Bool.false_ne_true), only, List.foldl_cons, List.foldl_nil, enters]

/-- The furrow once a START or CALL of domain `d` has entered: its rings are swapped for a START, and the fetch ticks follow (R95, R96). -/
theorem State.startEntered_begins (d : Dom) (r : CmdRef) (words : (s.dom f d).pos < (s.dom f d).stop) :
    let y := s.dom f d
    (s.startEntered f d r).fur f = (if y.isCall then (s.fur f).setDom d { y with startLeft := 3 }
      else ((s.fur f).swapRings d y.next).setDom d { y with live := y.next, startLeft := 3 }) := by
  intro y
  unfold State.startEntered
  dsimp only
  have more : ¬ y.stop ≤ y.pos := Nat.not_le.mpr words
  by_cases call : y.isCall = true
  · rw [if_pos (show ((s.fur f).dom d).isCall = true from call), if_pos call, if_neg (show ¬ ((s.fur f).dom d).stop ≤ ((s.fur f).dom d).pos from more)]
    exact s.fur_setFur f _
  · rw [if_neg (show ¬ ((s.fur f).dom d).isCall = true from call), if_neg call, Furrow.dom_setDom,
      if_neg (show ¬ ((s.fur f).dom d).stop ≤ ((s.fur f).dom d).pos from more), Furrow.setDom_setDom]
    exact s.fur_setFur f _

/-- What the domain and its furrow hold then. -/
theorem State.entered_begins (d : Dom) (only : (s.fur f).waiting = [e]) (words : (s.dom f d).pos < (s.dom f d).stop) :
    let x := s.fur f
    let y := x.dom d
    let o := ringsOwned x.split d
    let t := s.oneCycle (((s.setFur f (x.enter e)).modCmd e.ref (fun c => { c with stage := 2 })).startEntered f d e.ref)
    (t.dom f d).startLeft = 3 ∧ (t.dom f d).st = y.st ∧ (t.dom f d).live = (if y.isCall then y.live else y.next) ∧
    (t.dom f d).next = y.next ∧ (t.fur f).waiting = [] ∧
    (t.fur f).board = x.board ++ e.regions.map (fun g => ⟨g.1, g.2.1, g.2.2, e.kind, e.ref⟩) ∧
    ∀ k, o.1 ≤ k → k < o.1 + o.2 → vat Ring.none (t.fur f).rings k =
      (let old := vat Ring.none x.rings k
       if y.isCall = true ∨ tget 0 y.next (240 + k) = old.defn then old else ⟨tget 0 y.next (240 + k), 0, 0, 0⟩) := by
  intro x y o t
  have entered : ((s.setFur f (x.enter e)).modCmd e.ref (fun c => { c with stage := 2 })).fur f = x.enter e := s.fur_setFur f _
  have fur := State.startEntered_begins (s := (s.setFur f (x.enter e)).modCmd e.ref (fun c => { c with stage := 2 })) (f := f) d e.ref
    (by rw [State.dom, entered]; exact words)
  rw [State.dom, entered, ← s.oneCycle_fur] at fur
  have left : (x.enter e).waiting = [] := by
    show x.waiting.filter _ = []
    rw [only]
    simp
  change t.fur f = if y.isCall then (x.enter e).setDom d { y with startLeft := 3 }
    else ((x.enter e).swapRings d y.next).setDom d { y with live := y.next, startLeft := 3 } at fur
  rw [State.dom]
  by_cases call : y.isCall = true
  · rw [if_pos call] at fur
    rw [fur, Furrow.dom_setDom]
    exact ⟨rfl, rfl, (if_pos call).symm, rfl, left, rfl, fun k _ _ => (if_pos (.inl call)).symm⟩
  · obtain ⟨rs, fl, po, swapped⟩ := (x.enter e).swapRings_changes y.next d
    have rings := fun k low high => (x.enter e).swapRings_ring y.next d (k := k) low high
    rw [if_neg call, swapped] at fur
    rw [swapped] at rings
    rw [fur, Furrow.dom_setDom]
    refine ⟨rfl, rfl, (if_neg call).symm, rfl, left, rfl, fun k low high => (rings k low high).trans ?_⟩
    exact if_congr (or_iff_right call).symm rfl rfl

end

end Sys2Proof.Machine
end

section
/-! PROOFS. The change of split mode (R48). -/
namespace Sys2Proof.Machine

/-- A furrow once its mode has changed: what R48 clears is cleared, and domain 1 is IDLE or UNUSED. -/
def Furrow.inMode (x : Furrow) (want : Bool) : Furrow :=
  let y := { x.clearForMode with split := want, modeChange := none }
  y.setDom 1 { y.dom 1 with st := if want then .idle else .unused }

section
variable (x : Furrow) (want : Bool)

theorem Furrow.inMode_dom (d : Dom) : (x.inMode want).dom d = { (x.dom d).clearRegs with
    st := if d = 1 then (if want then .idle else .unused) else (x.dom d).st } := by
  have cleared : ∀ e : Dom, Furrow.dom { x.clearForMode with split := want, modeChange := none } e = (x.dom e).clearRegs := fun e => by
    simp [Furrow.dom, Furrow.clearForMode, Furrow.clearWindrow, Furrow.clearRings, Furrow.resetMortars]
  unfold Furrow.inMode
  dsimp only
  by_cases one : d = 1
  · subst one
    rw [Furrow.dom_setDom, cleared, if_pos rfl]
  · rw [Furrow.dom_setDom_ne _ one, cleared, if_neg one]
    rfl

/-- Every ring of the furrow is undefined (R113). -/
theorem Furrow.inMode_ring (j : Nat) : vat Ring.none (x.inMode want).rings j = Ring.none := by
  have rings : (x.inMode want).rings = x.rings.mapIdx (fun i r => if 0 ≤ i ∧ i < 16 then Ring.none else r) := rfl
  unfold vat
  split
  · next h =>
    rw [rings, Vector.getElem_mapIdx]
    exact if_pos ⟨Nat.zero_le j, h⟩
  · rfl

theorem Furrow.inMode_drill (j : DrillNo) : (x.inMode want).drill j = x.drill j := rfl

theorem Furrow.inMode_went {b e : Nat} (hb : b < 4) (he : e < 1024) : (x.inMode want).went b e = WEntry.zero := by
  refine tget_tclear_in _ _ ?_
  unfold winKey
  omega

end

section
variable {s : State} {f : Fur} {want : Bool} {k : CmdRef}

theorem exec_splitChange_ready (runs : s.stopped = false) (waits : (s.fur f).modeChange = some (want, k)) (ready : (s.fur f).modeReady = true) :
    exec (.splitChange f) s = .next (s.oneCycle ((s.changeMode f want).finish k stOk 0 0)) := by
  show execSplitChange f s = _
  unfold execSplitChange
  rw [waits]
  dsimp only
  rw [ready, runs]
  rfl

/-- Every drill of the furrow is disarmed (R48). -/
theorem State.disarmDrills_work (s : State) (f : Fur) :
    (s.fur f).DrillsWork ((s.disarmDrills f).fur f) ∧ ∀ j : DrillNo, ((s.disarmDrills f).drill f j).st = .idle := by
  have all : ∀ j : DrillNo, j ∈ domDrills false 0 := by decide
  have idles : ∀ (s : State) k, (s.fur f).DrillWork ((s.idleDrill f k stBusy 0 0).fur f) k ∧ ((s.idleDrill f k stBusy 0 0).drill f k).st = .idle :=
    fun s k => by
      obtain ⟨work, same⟩ := s.idleDrill_work f k stBusy 0 0
      exact ⟨work, (congrArg Drill.st same).trans (Drill.toIdle_st _)⟩
  obtain ⟨work, idle⟩ := State.idleAll_work (op := fun (s : State) k => s.idleDrill f k stBusy 0 0) idles (domDrills false 0) s
  exact ⟨work, fun j => idle j (.inl (all j))⟩

/-- The furrow after its change of mode: its drills are disarmed first. -/
theorem State.changedMode_fur (s : State) (f : Fur) (want : Bool) (k : CmdRef) :
    let t := s.oneCycle ((s.changeMode f want).finish k stOk 0 0)
    (∃ ds b w xs, t.fur f = { (s.fur f).inMode want with drills := ds, board := b, waiting := w, xfers := xs }) ∧
    ∀ j : DrillNo, (t.drill f j).st = .idle := by
  intro t
  obtain ⟨⟨ds, b, w, xs, disarmed⟩, idle⟩ := s.disarmDrills_work f
  have changed : (s.changeMode f want).fur f = ((s.disarmDrills f).fur f).inMode want := State.fur_setFur _ f _
  have finished := (s.changeMode f want).finish_sameFurrows k stOk 0 0
  have cycle : t.fur f = ((s.changeMode f want).finish k stOk 0 0).fur f := s.oneCycle_fur _ f
  constructor
  · obtain ⟨b', w', same⟩ := finished.fur f
    refine ⟨ds, b', w', xs, ?_⟩
    rw [cycle, same, changed, disarmed]
    rfl
  · intro j
    have same : t.drill f j = (s.changeMode f want).drill f j := (congrArg (Furrow.drill · j) cycle).trans (finished.drill f j)
    rw [same, State.drill, changed, Furrow.inMode_drill]
    exact idle j

/-- What R48 clears, and what it leaves. -/
theorem State.changedMode_facts (s : State) (f : Fur) (want : Bool) (k : CmdRef) :
    let x := s.fur f
    let t := s.oneCycle ((s.changeMode f want).finish k stOk 0 0)
    (t.fur f).split = want ∧ (t.fur f).halfLost = 0 ∧ (t.fur f).modeChange = none ∧
    (t.dom f 1).st = (if want then .idle else .unused) ∧ (t.dom f 0).st = (x.dom 0).st ∧
    (∀ d : Dom, (t.dom f d).sregs = Vector.replicate 32 0 ∧ (t.dom f d).aregs = Vector.replicate 16 0 ∧ (t.dom f d).flags = 0 ∧
      (t.dom f d).vregs = Vector.replicate 32 VReg.zero ∧ (t.dom f d).live = [] ∧ (t.dom f d).next = []) ∧
    (∀ j : Nat, vat Ring.none (t.fur f).rings j = Ring.none) ∧ (∀ j : DrillNo, (t.drill f j).st = .idle) ∧
    (∀ b e, b < 4 → e < 1024 → (t.fur f).went b e = WEntry.zero) ∧ (t.fur f).data = x.data ∧ (t.fur f).pstore = x.pstore := by
  intro x t
  obtain ⟨⟨ds, b, w, xs, fur⟩, idle⟩ := s.changedMode_fur f want k
  have dom : ∀ d : Dom, t.dom f d = (x.inMode want).dom d := fun d => by rw [State.dom, fur]; rfl
  have zeroed : ∀ d : Dom, (t.dom f d).sregs = Vector.replicate 32 0 ∧ (t.dom f d).aregs = Vector.replicate 16 0 ∧ (t.dom f d).flags = 0 ∧
      (t.dom f d).vregs = Vector.replicate 32 VReg.zero ∧ (t.dom f d).live = [] ∧ (t.dom f d).next = [] := fun d => by
    rw [dom, Furrow.inMode_dom]
    exact ⟨rfl, rfl, rfl, rfl, rfl, rfl⟩
  have one : (t.dom f 1).st = (if want then .idle else .unused) := by rw [dom, Furrow.inMode_dom, if_pos rfl]
  have zero : (t.dom f 0).st = (x.dom 0).st := by rw [dom, Furrow.inMode_dom, if_neg (show (0 : Dom) ≠ 1 by decide)]
  rw [fur]
  exact ⟨rfl, rfl, rfl, one, zero, zeroed, x.inMode_ring want, idle, fun b e hb he => x.inMode_went want hb he, rfl, rfl⟩

end

end Sys2Proof.Machine
end

section
/-! PROOFS. Groups of the scratchpad that sleep and wake (R119). -/
namespace Sys2Proof.Machine

/-! ### Rows of groups at zero -/

/-- A table with the groups of `m` among `l` at the default, `unit` keys to a group. -/
def clearGroups {α : Type} (unit : Nat) (m : BitVec 16) (l : List Nat) (t : Tab α) : Tab α :=
  l.foldl (fun t g => if bitOf m g then tclear t (unit * g) (unit * (g + 1)) else t) t

theorem in_group {unit g a : Nat} (pos : 0 < unit) : unit * g ≤ a ∧ a < unit * (g + 1) ↔ a / unit = g := by
  rw [Nat.mul_comm, ← Nat.le_div_iff_mul_le pos, Nat.mul_comm, ← Nat.div_lt_iff_lt_mul pos]
  omega

theorem tget_clearGroups {α : Type} [DecidableEq α] {d : α} {unit : Nat} (pos : 0 < unit) (m : BitVec 16) (l : List Nat) :
    ∀ (t : Tab α) (a : Nat), twf d t = true →
      tget d (clearGroups unit m l t) a = if a / unit ∈ l ∧ bitOf m (a / unit) = true then d else tget d t a := by
  induction l with
  | nil => intro t a _; rw [if_neg (fun h => List.not_mem_nil h.1)]; rfl
  | cons g r ih =>
    intro t a wf
    have step : clearGroups unit m (g :: r) t = clearGroups unit m r (if bitOf m g then tclear t (unit * g) (unit * (g + 1)) else t) := rfl
    rw [step]
    by_cases bit : bitOf m g = true
    · rw [if_pos bit, ih _ a (twf_tclear d t _ _ wf), tget_tclear wf]
      by_cases here : a / unit = g
      · rw [if_pos ((in_group pos).mpr here), ite_self, if_pos ⟨List.mem_cons.mpr (.inl here), here ▸ bit⟩]
      · rw [if_neg (fun h => here ((in_group pos).mp h))]
        exact if_congr (and_congr_left' (List.mem_cons.trans (or_iff_right here)).symm) rfl rfl
    · rw [if_neg bit, ih t a wf]
      refine if_congr ⟨fun h => ⟨List.mem_cons_of_mem g h.1, h.2⟩, fun h => ⟨?_, h.2⟩⟩ rfl rfl
      exact (List.mem_cons.mp h.1).resolve_left fun here => bit (here ▸ h.2)

theorem Furrow.loseGroups_eq (x : Furrow) (m : BitVec 16) : x.loseGroups m = { x with
    data := clearGroups (2 ^ 21) m (List.range 16) x.data
    full := clearGroups 4096 m (List.range 16) x.full
    poison := clearGroups 4096 m (List.range 16) x.poison } := by
  unfold Furrow.loseGroups
  generalize List.range 16 = l
  induction l generalizing x with
  | nil => rfl
  | cons g r ih =>
    rw [List.foldl_cons, ih]
    unfold clearGroups
    by_cases bit : bitOf m g = true
    · simp only [List.foldl_cons, if_pos bit]
    · simp only [List.foldl_cons, if_neg bit]

section
variable {x : Furrow} {m : BitVec 16} {g a : Nat}

/-- A group that is lost reads zero, empty and clear, and another one as before (R119). -/
theorem Furrow.loseGroups_data (tables : x.tablesOk) (hg : g < 16) (here : a / 2 ^ 21 = g) :
    tget 0 (x.loseGroups m).data a = if bitOf m g then 0 else tget 0 x.data a := by
  obtain ⟨-, -, data, -⟩ := tables
  rw [Furrow.loseGroups_eq]
  refine (tget_clearGroups (by decide) m _ x.data a data).trans ?_
  rw [here]
  exact if_congr (and_iff_right (List.mem_range.mpr hg)) rfl rfl

theorem Furrow.loseGroups_marks (tables : x.tablesOk) (hg : g < 16) (here : a / 4096 = g) :
    (x.loseGroups m).isFull a = (!bitOf m g && x.isFull a) ∧ (x.loseGroups m).isPoison a = (!bitOf m g && x.isPoison a) := by
  obtain ⟨-, -, -, full, poison, -⟩ := tables
  have lost : ∀ t : Tab Bool, twf false t = true →
      tget false (clearGroups 4096 m (List.range 16) t) a = (!bitOf m g && tget false t a) := fun t wf => by
    rw [tget_clearGroups (by decide) m _ t a wf, here]
    cases bit : bitOf m g with
    | true => exact if_pos ⟨List.mem_range.mpr hg, rfl⟩
    | false => exact if_neg fun h => absurd h.2 Bool.false_ne_true
  rw [Furrow.loseGroups_eq]
  exact ⟨lost x.full full, lost x.poison poison⟩

end

/-! ### Wakes that end -/

/-- The mask of the numbers of a list that pass a test. -/
theorem bitOf_foldl_setBit {n : Nat} (p : Nat → Bool) (l : List Nat) (small : ∀ g ∈ l, g < n) (i : Nat) : ∀ m : BitVec n,
    bitOf (l.foldl (fun m g => if p g then setBit m g true else m) m) i = (bitOf m i || (decide (i ∈ l) && p i)) := by
  induction l with
  | nil => intro m; simp
  | cons g r ih =>
    intro m
    rw [List.foldl_cons, ih fun j hj => small j (List.mem_cons_of_mem g hj)]
    by_cases here : i = g
    · subst here
      cases bit : p i with
      | true => simp [bitOf_setBit_self (small i List.mem_cons_self)]
      | false => simp
    · have same : bitOf (if p g then setBit m g true else m) i = bitOf m i := by
        split
        · exact bitOf_setBit_ne here m true
        · rfl
      rw [same]
      simp [here]

/-- Commands whose groups have all woken complete; of the furrow, its wakes and its scoreboard change. -/
theorem State.endWakes_fur (s : State) (f : Fur) : ∃ ws b w, (s.endWakes f).fur f = { s.fur f with wakes := ws, board := b, waiting := w } := by
  unfold State.endWakes
  dsimp only
  have finished := State.finishAll_sameFurrows (((s.fur f).wakes.filter (fun p => p.1 == 0)).map Prod.snd) stOk 0 0
    (s.setFur f { s.fur f with wakes := (s.fur f).wakes.filter (fun p => p.1 != 0) })
  rw [List.foldl_map] at finished
  obtain ⟨b, w, fur⟩ := finished.fur f
  refine ⟨(s.fur f).wakes.filter (fun p => p.1 != 0), b, w, fur.trans ?_⟩
  rw [State.fur_setFur]

section
variable {s : State} {f : Fur} {mask : BitVec 16} {k : CmdRef} {rest : List (BitVec 16 × CmdRef)}

/-- Groups that a new mask puts to sleep. -/
def Furrow.sleeping (x : Furrow) (mask : BitVec 16) : BitVec 16 := mask &&& ~~~x.fallow

theorem exec_fallowSleep_sleeps (runs : s.stopped = false) (first : (s.fur f).fallowWait = (mask, k) :: rest)
    (unused : (s.fur f).sleeping mask &&& (s.fur f).usedGroups = 0) (off : (s.fur f).sleeping mask &&& (s.fur f).boardGroups = 0) :
    exec (.fallowSleep f) s = .next (s.oneCycle ((s.applyFallow f mask k).endWakes f)) := by
  show execFallowSleep f s = _
  unfold execFallowSleep
  dsimp only
  rw [first]
  dsimp only
  unfold Furrow.sleeping at unused off
  rw [if_neg (by rw [runs]; exact Bool.false_ne_true), if_neg (by rw [unused]; decide), if_pos off]

theorem exec_fallowSleep_busy (runs : s.stopped = false) (first : (s.fur f).fallowWait = (mask, k) :: rest)
    (used : (s.fur f).sleeping mask &&& (s.fur f).usedGroups ≠ 0) : exec (.fallowSleep f) s = .next
      ((s.setFur f { s.fur f with fallowWait := (s.fur f).fallowWait.filter (fun p => p.2 != k) }).finish k stBusy 0 0) := by
  show execFallowSleep f s = _
  unfold execFallowSleep
  dsimp only
  rw [first]
  dsimp only
  rw [if_neg (by rw [runs]; exact Bool.false_ne_true)]
  exact if_pos (bne_iff_ne.mpr used)

/-- The furrow once the mask is in force. -/
theorem State.fallen_fur (s : State) (f : Fur) (mask : BitVec 16) (k : CmdRef) : ∃ we fw ws b w,
    (s.oneCycle ((s.applyFallow f mask k).endWakes f)).fur f = { (s.fur f).loseGroups ((s.fur f).sleeping mask) with
      fallow := mask, waking := ((s.fur f).waking &&& ~~~(s.fur f).sleeping mask) ||| ((s.fur f).fallow &&& ~~~mask)
      wakeEnd := we, fallowWait := fw, wakes := ws, board := b, waiting := w } := by
  obtain ⟨ws, b, w, ended⟩ := (s.applyFallow f mask k).endWakes_fur f
  have applied : (s.applyFallow f mask k).fur f = _ := s.fur_setFur f _
  refine ⟨((s.applyFallow f mask k).fur f).wakeEnd, ((s.applyFallow f mask k).fur f).fallowWait, ws, b, w, ((s.oneCycle_fur _ f).trans ended).trans ?_⟩
  rw [applied]
  rfl

/-- A group sleeps or wakes as the mask says: one put to sleep is lost, and one that the mask wakes is WAKING (R119). -/
theorem State.fallen_facts (tables : (s.fur f).tablesOk) (mask : BitVec 16) (k : CmdRef) :
    let x := s.fur f
    let t := s.oneCycle ((s.applyFallow f mask k).endWakes f)
    (t.fur f).fallow = mask ∧ ∀ g a : Nat, g < 16 →
      (bitOf (t.fur f).waking g = true ↔ (bitOf x.waking g = true ∧ bitOf mask g = false) ∨ (bitOf x.fallow g = true ∧ bitOf mask g = false) ∨
        (bitOf x.waking g = true ∧ bitOf x.fallow g = true)) ∧
      (a / 2 ^ 21 = g → tget 0 (t.fur f).data a = (if bitOf (x.sleeping mask) g then 0 else tget 0 x.data a)) ∧
      (a / 4096 = g → (t.fur f).isFull a = (!bitOf (x.sleeping mask) g && x.isFull a) ∧
        (t.fur f).isPoison a = (!bitOf (x.sleeping mask) g && x.isPoison a)) := by
  intro x t
  obtain ⟨we, fw, ws, b, w, fur⟩ := s.fallen_fur f mask k
  rw [fur]
  refine ⟨rfl, fun g a hg => ⟨?_, Furrow.loseGroups_data tables hg, Furrow.loseGroups_marks tables hg⟩⟩
  have bits : bitOf ((x.waking &&& ~~~x.sleeping mask) ||| (x.fallow &&& ~~~mask)) g =
      (bitOf x.waking g && !(bitOf mask g && !bitOf x.fallow g) || bitOf x.fallow g && !bitOf mask g) := by
    simp only [Furrow.sleeping, bitOf, BitVec.getLsbD_or, BitVec.getLsbD_and, BitVec.getLsbD_not, hg, decide_true, Bool.true_and]
  show bitOf ((x.waking &&& ~~~x.sleeping mask) ||| (x.fallow &&& ~~~mask)) g = true ↔ _
  grind

/-- Groups whose 12 µs have passed (R119). -/
def State.wokenGroups (s : State) (f : Fur) : BitVec 16 :=
  (List.range 16).foldl (fun m g => if bitOf (s.fur f).waking g && reached s.time (tget 0 (s.fur f).wakeEnd g) then setBit m g true else m) 0

theorem State.bitOf_wokenGroups (s : State) (f : Fur) {g : Nat} (hg : g < 16) :
    bitOf (s.wokenGroups f) g = (bitOf (s.fur f).waking g && reached s.time (tget 0 (s.fur f).wakeEnd g)) := by
  have clear : bitOf (0 : BitVec 16) g = false := BitVec.getLsbD_zero
  refine (bitOf_foldl_setBit _ (List.range 16) (fun i hi => List.mem_range.mp hi) g 0).trans ?_
  rw [clear, decide_eq_true (List.mem_range.mpr hg), Bool.true_and, Bool.false_or]

/-- The furrow once they have ended WAKING. -/
def State.woken (s : State) (f : Fur) : Furrow := { (s.fur f).loseGroups (s.wokenGroups f) with
  waking := (s.fur f).waking &&& ~~~s.wokenGroups f
  wakeEnd := (s.fur f).wakeEnd.filter (fun (p : Nat × W64) => !bitOf (s.wokenGroups f) p.1)
  wakes := (s.fur f).wakes.map (fun p => (p.1 &&& ~~~s.wokenGroups f, p.2)) }

theorem State.woken_fields (s : State) (f : Fur) : (s.woken f).waking = (s.fur f).waking &&& ~~~s.wokenGroups f ∧
    (s.woken f).data = ((s.fur f).loseGroups (s.wokenGroups f)).data ∧ (s.woken f).full = ((s.fur f).loseGroups (s.wokenGroups f)).full ∧
    (s.woken f).poison = ((s.fur f).loseGroups (s.wokenGroups f)).poison := ⟨rfl, rfl, rfl, rfl⟩

/-- A group whose time has passed ends WAKING, its rows zero, empty and clear (R119). -/
theorem exec_fallowWakeEnd_wakes (runs : s.stopped = false) : let x := s.fur f
    ∃ t, exec (.fallowWakeEnd f) s = .next t ∧ ∀ g : Nat, g < 16 →
      (bitOf (t.fur f).waking g = true ↔ bitOf x.waking g = true ∧ reached s.time (tget 0 x.wakeEnd g) = false) ∧
      (x.tablesOk → bitOf x.waking g = true → reached s.time (tget 0 x.wakeEnd g) = true → ∀ a : Nat,
        (a / 2 ^ 21 = g → tget 0 (t.fur f).data a = 0) ∧ (a / 4096 = g → (t.fur f).isFull a = false ∧ (t.fur f).isPoison a = false)) := by
  intro x
  have run : exec (.fallowWakeEnd f) s = .next (s.oneCycle ((s.setFur f (s.woken f)).endWakes f)) := by
    show execFallowWakeEnd f s = _
    unfold execFallowWakeEnd
    exact congrArg Host.Outcome.next (if_neg (by rw [runs]; exact Bool.false_ne_true))
  obtain ⟨ws, b, w, ended⟩ := (s.setFur f (s.woken f)).endWakes_fur f
  have fur := (s.oneCycle_fur ((s.setFur f (s.woken f)).endWakes f) f).trans ended
  rw [s.fur_setFur] at fur
  obtain ⟨waking, data, full, poison⟩ := s.woken_fields f
  refine ⟨_, run, fun g hg => ?_⟩
  have bit := s.bitOf_wokenGroups f hg
  rw [fur]
  constructor
  · have bits : bitOf (x.waking &&& ~~~s.wokenGroups f) g =
        (bitOf x.waking g && !(bitOf x.waking g && reached s.time (tget 0 x.wakeEnd g))) := by
      rw [← bit]
      simp only [bitOf, BitVec.getLsbD_and, BitVec.getLsbD_not, hg, decide_true, Bool.true_and]
    rw [← waking] at bits
    dsimp only
    grind
  · intro tables waking passed a
    have set : bitOf (s.wokenGroups f) g = true := by rw [bit, Bool.and_eq_true]; exact ⟨waking, passed⟩
    refine ⟨fun here => ?_, fun here => ?_⟩
    · dsimp only
      rw [data, Furrow.loseGroups_data tables hg here, if_pos set]
    · have marks := Furrow.loseGroups_marks (m := s.wokenGroups f) tables hg here
      unfold Furrow.isFull Furrow.isPoison at marks ⊢
      dsimp only
      rw [full, poison, marks.1, marks.2, set]
      exact ⟨rfl, rfl⟩

end

end Sys2Proof.Machine
end

section
/-! PROOFS. What ends the wait of a queue command (R48, R90, R94, R95, R117, R119). -/
namespace Sys2Proof.Machine

/-- Settles O29: each event's equation under its conditions, and what its furrow holds then. -/
theorem commandEvents : Obligations.CommandEvents := by
  unfold Obligations.CommandEvents
  intro q seq f s r x runs
  refine ⟨fun c work read waits free => ?load, fun c work unread => ?unread, fun img tables size => ?image,
    fun c work oldest read => ?configure, fun e only kind admitted awake => ?enter, fun want k waits ready => ?mode,
    fun mask k rest first => ?fallow, ?wake⟩
  case load => exact exec_programStoreLoad_loads runs work read waits free
  case unread =>
    have run := exec_programStoreLoad_unread runs work unread
    refine ⟨fun held => run.trans (congrArg Host.Outcome.next (if_pos held)), fun img held image some => run.trans ?_⟩
    rw [if_neg (by rw [held]; exact Bool.false_ne_true), image]
    exact congrArg Host.Outcome.next (State.imageChecked_waits some)
  case image =>
    refine ⟨fun k hk => ?_, fun i hi apart => Furrow.loadImage_entry tables hi apart, fun k hk other => ?_⟩
    · dsimp only
      rw [List.range_eq_range']
      exact Furrow.loadImage_segment tables size hk
    · exact (congrArg Routine.valid (Furrow.loadImage_other tables hk other)).trans (Routine.unlessLoaded_valid _ _)
  case configure =>
    intro t y waits first
    have run : exec (.configureApply q seq) s = .next (t.formFoot c.fur c.dom) := exec_configureApply_applies runs work oldest read first
    refine ⟨fun none => run.trans (congrArg Host.Outcome.next (State.formFoot_idle none)), fun k start waiting later formed => run.trans ?_⟩
    exact congrArg Host.Outcome.next (State.formFoot_joins waiting later formed)
  case enter =>
    have run := exec_scoreboardEntry_enters runs only kind admitted awake
    exact ⟨run, fun words => ⟨_, run, State.entered_begins _ only words⟩⟩
  case mode =>
    have run := exec_splitChange_ready runs waits ready
    exact ⟨run, _, run, s.changedMode_facts f want k⟩
  case fallow =>
    refine ⟨fun unused off => ?_, fun used => exec_fallowSleep_busy runs first used⟩
    have run := exec_fallowSleep_sleeps runs first unused off
    exact ⟨run, fun tables => ⟨_, run, State.fallen_facts tables mask k⟩⟩
  case wake => exact exec_fallowWakeEnd_wakes runs

end Sys2Proof.Machine
end

section
/-! PROOFS. O7: scalar operations (R66). -/
namespace Sys2Proof.Machine

theorem fld_zero {n : Nat} (w : BitVec n) (len : Nat) : fld w 0 len = w.toNat % 2 ^ len := by
  simp [fld, nfld]

/-- A field at bit 0 of a field of a word. -/
theorem extractLsb'_toNat_mod {n : Nat} (w : BitVec n) (lo : Nat) {len k : Nat} (h : k ≤ len) :
    (w.extractLsb' lo len).toNat % 2 ^ k = (w.extractLsb' lo k).toNat := by
  simp only [BitVec.extractLsb'_toNat]
  exact Nat.mod_mod_of_dvd _ (pow_dvd_pow 2 h)

section
variable {s : State} {f : Fur} {d : Dom} {sl : Fin 2} {op : BitVec 40} {c : Instr} {code : Nat}

/-- Operand A of format S (R61). -/
theorem State.sreg_opA (s : State) (f : Fur) (d : Dom) (op : BitVec 40) : (s.dom f d).sreg (opA op.toNat) = s.opA64 f d op := by
  rw [opA, nfld_toNat]
  rfl

/-- An operation of the scalar ALU writes D what the ALU gives of its operands (R66). -/
theorem issues_alu (beat : exec c s = .next (s.opBeat f d ⟨1 + sl.val, code, op.toNat⟩)) (present : code ≠ 0)
    (alu : ∀ (v : Env) (n : Nat), scaActs v code n = .ok [.eff (v.b.latOf 19) (.sreg (opD n) (scaAlu code (v.x.sreg (opA n)) (scaB v.x n)))]) :
    issues c s f d ⟨1 + sl.val, code, op.toNat⟩ (s.scalarTo op (scaAlu code (s.opA64 f d op) (s.opB64 f d op))) := by
  refine issues_scalar s f d sl code op c _ beat present ?_
  rw [alu, ← s.sreg_opA f d op, ← scaB_eq]
  rfl

/-- The acts of both scalar slots are those of `scaActs`. -/
theorem slotActs_scalar (v : Env) (rid addr : Nat) (mor0 : Option Nat) (sl : Fin 2) (present : code ≠ 0) (n : Nat) :
    slotActs v rid addr mor0 ⟨1 + sl.val, code, n⟩ = scaActs v code n := by
  unfold slotActs
  rw [if_neg present]
  match sl with
  | 0 => rfl
  | 1 => rfl

/-- The immediate of format S as a word of 64 bits. -/
theorem w64_opImm (op : BitVec 40) : w64 (opImm op.toNat) = (op.extractLsb' 0 29).setWidth 64 := by
  rw [opImm, nfld_toNat, w64, BitVec.ofNat_toNat]

/-- The conditions of CMP (R66). -/
theorem cmpCond_iff (cond : BitVec 3) (a b : W64) : cmpCond cond.toNat a b = true ↔
    (if cond = 0 then a = b else if cond = 1 then a ≠ b else if cond = 2 then a.toInt < b.toInt else if cond = 3 then b.toInt ≤ a.toInt
      else if cond = 4 then a.toNat < b.toNat else if cond = 5 then b.toNat ≤ a.toNat else if cond = 6 then a &&& b ≠ 0 else a &&& b = 0) := by
  have each : cond = 0 ∨ cond = 1 ∨ cond = 2 ∨ cond = 3 ∨ cond = 4 ∨ cond = 5 ∨ cond = 6 ∨ cond = 7 := by
    revert cond; decide
  rcases each with rfl | rfl | rfl | rfl | rfl | rfl | rfl | rfl <;>
    simp [cmpCond, BitVec.slt, BitVec.ult]

end

/-- Settles O7: each operation's one act is the write of its value, which the ALU and the operands give. -/
theorem scalarOperations : Obligations.ScalarOperations := by
  unfold Obligations.ScalarOperations
  refine ⟨fun f d sl op s => ?_, fun f d sl op s => ?_⟩
  · intro a b does
    have readA : (s.dom f d).sreg (opA op.toNat) = a := s.sreg_opA f d op
    have readB : scaB (s.dom f d) op.toNat = b := scaB_eq s f d op
    have shift : fld b 0 6 = b.toNat % 64 := fld_zero b 6
    have alu : ∀ (c : Instr) (code : Nat), exec c s = .next (s.opBeat f d ⟨1 + sl.val, code, op.toNat⟩) → code ≠ 0 →
        (∀ (v : Env) (n : Nat), scaActs v code n = .ok [.eff (v.b.latOf 19) (.sreg (opD n) (scaAlu code (v.x.sreg (opA n)) (scaB v.x n)))]) →
        does c code (scaAlu code a b) := fun c code beat present => issues_alu beat present
    refine ⟨?add, ?sub, ?mul, ?and, ?or, ?xor, ?shl, ?shr, ?sar, ?min, ?max, ?ldi, ?shor⟩
    case shl => rw [← shift]; exact alu _ 0x16 rfl (by decide) fun _ _ => rfl
    case shr => rw [← shift]; exact alu _ 0x17 rfl (by decide) fun _ _ => rfl
    case sar => rw [← shift]; exact alu _ 0x18 rfl (by decide) fun _ _ => rfl
    case ldi =>
      refine issues_scalar s f d sl 0x1B op _ _ rfl (by decide) ?_
      rw [← readB]
      rfl
    case shor =>
      refine issues_scalar s f d sl 0x1C op _ _ rfl (by decide) ?_
      rw [← w64_opImm, ← readA]
      rfl
    case add => exact alu _ 0x10 rfl (by decide) fun _ _ => rfl
    case sub => exact alu _ 0x11 rfl (by decide) fun _ _ => rfl
    case mul => exact alu _ 0x12 rfl (by decide) fun _ _ => rfl
    case and => exact alu _ 0x13 rfl (by decide) fun _ _ => rfl
    case or => exact alu _ 0x14 rfl (by decide) fun _ _ => rfl
    case xor => exact alu _ 0x15 rfl (by decide) fun _ _ => rfl
    case min => exact alu _ 0x19 rfl (by decide) fun _ _ => rfl
    case max => exact alu _ 0x1A rfl (by decide) fun _ _ => rfl
  · intro a b x cond holds reads
    have readA : (s.dom f d).sreg (opA op.toNat) = a := s.sreg_opA f d op
    have readB : scaB (s.dom f d) op.toNat = b := scaB_eq s f d op
    refine ⟨⟨cmpCond cond.toNat a b, cmpCond_iff cond a b, ?cmp⟩, ?rdl, ?rdly, ?rda⟩
    case cmp =>
      refine issues_of _ _ _ _ _ _ rfl (by simp) ?_ rfl
      have flag : opD op.toNat / 8 = (op.extractLsb' 38 2).toNat := by
        simp only [opD, nfld, BitVec.extractLsb'_toNat, Nat.shiftRight_eq_div_pow]
        omega
      have condition : opD op.toNat % 8 = cond.toNat := by
        rw [opD, nfld_toNat]
        exact extractLsb'_toNat_mod op 35 (by decide : 3 ≤ 5)
      rw [slotActs_scalar _ _ _ _ sl (by decide), ← flag, ← condition, ← readA, ← readB]
      rfl
    case rdl =>
      refine issues_scalar s f d sl 0x1E op _ _ rfl (by decide) ?_
      have counter : opA op.toNat % 8 = (op.extractLsb' 30 3).toNat := by
        rw [opA, nfld_toNat]
        exact extractLsb'_toNat_mod op 30 (by decide : 3 ≤ 5)
      rw [← counter]
      rfl
    case rdly =>
      refine issues_scalar s f d sl 0x1F op _ _ rfl (by decide) ?_
      have layer : opImm op.toNat % 256 = (op.extractLsb' 0 8).toNat := by
        rw [opImm, nfld_toNat]
        exact extractLsb'_toNat_mod op 0 (by decide : 8 ≤ 29)
      rw [← layer]
      rfl
    case rda =>
      refine issues_scalar s f d sl 0x20 op _ _ rfl (by decide) ?_
      have register : opA op.toNat % 16 = (op.extractLsb' 30 4).toNat := by
        rw [opA, nfld_toNat]
        exact extractLsb'_toNat_mod op 30 (by decide : 4 ≤ 5)
      rw [← register]
      rfl

end Sys2Proof.Machine
end

section
/-! PROOFS. O8: address operations (R67). -/
namespace Sys2Proof.Machine

/-! ### Address registers as fields -/

theorem toNat_append_add {m n : Nat} (x : BitVec m) (y : BitVec n) : (x ++ y).toNat = x.toNat * 2 ^ n + y.toNat := by
  rw [BitVec.toNat_append, ← Nat.shiftLeft_add_eq_or_of_lt y.isLt, Nat.shiftLeft_eq]

theorem sint_toNat {n : Nat} (h : 0 < n) (w : BitVec n) : sint n w.toNat = w.toInt := by
  have half : 2 ^ n = 2 * 2 ^ (n - 1) := by rw [← Nat.pow_succ', Nat.succ_eq_add_one, Nat.sub_add_cancel h]
  simp only [sint, BitVec.toInt, Nat.mod_eq_of_lt w.isLt]
  split <;> split <;> omega

/-- An address register from its STRIDE, TV2 and BASE. -/
theorem aregBase_eq_append (r : W64) (t : BitVec 1) (b : BitVec 25) :
    aregBase r b.toNat t.toNat = (r.extractLsb' 32 32 ++ t ++ (0 : BitVec 6) ++ b).setWidth 64 := by
  refine BitVec.eq_of_toNat_eq ?_
  have ht := t.isLt
  have hb := b.isLt
  simp only [aregBase, w64, at', BitVec.toNat_ofNat, BitVec.toNat_setWidth, toNat_append_add, extractLsb'_toNat_fld, BitVec.ofNat_eq_ofNat]
  omega

/-- Only BASE modulo 2^25 counts. -/
theorem aregBase_mod (r : W64) (n tv2 : Nat) : aregBase r (n % 2 ^ 25) tv2 = aregBase r n tv2 := by
  simp [aregBase]

/-- A step of BASE by `n`, as arithmetic modulo 2^25 (R67). -/
theorem aregBase_stepped (r : W64) (n : Int) : aregBase r (((fld r 0 25 : Nat) + n) % (2 ^ 25 : Int)).toNat (fld r 31 1) = stepped r n := by
  have base : (((fld r 0 25 : Nat) + n) % (2 ^ 25 : Int)).toNat = (BitVec.ofInt 25 ((r.extractLsb' 0 25).toNat + n)).toNat := by
    rw [BitVec.toNat_ofInt, extractLsb'_toNat_fld]
    rfl
  rw [base, ← extractLsb'_toNat_fld r 31 1, aregBase_eq_append]
  rfl

/-- ASTEP moves BASE by a multiple of STRIDE. -/
theorem aregStep_eq (r : W64) (n : Nat) : aregStep r n = stepped r (n * strideOf r) := by
  rw [aregStep, ← aregBase_stepped, strideOf, ← sint_toNat (by decide), extractLsb'_toNat_fld]

/-- ALY clears the bits between BASE and TV2. -/
theorem w64_layer_fields (l : W64) : w64 (at' (fld l 31 33) 31 + fld l 0 25) = l &&& 0xFFFFFFFF81FFFFFF := by
  have fields : w64 (at' (fld l 31 33) 31 + fld l 0 25) = (l.extractLsb' 31 33 ++ (0 : BitVec 6) ++ l.extractLsb' 0 25).setWidth 64 := by
    refine BitVec.eq_of_toNat_eq ?_
    simp only [w64, at', BitVec.toNat_ofNat, BitVec.toNat_setWidth, toNat_append_add, extractLsb'_toNat_fld, BitVec.ofNat_eq_ofNat]
    omega
  have mask : (0xFFFFFFFF81FFFFFF : W64) = (BitVec.allOnes 33 ++ (0 : BitVec 6) ++ BitVec.allOnes 25).setWidth 64 := by decide
  rw [fields, mask]
  refine BitVec.eq_of_getLsbD_eq fun i hi => ?_
  simp only [BitVec.getLsbD_setWidth, BitVec.getLsbD_append, BitVec.getLsbD_and, BitVec.getLsbD_extractLsb', BitVec.getLsbD_allOnes]
  by_cases low : i < 25
  · simp [low, hi]
  · by_cases gap : i - 25 < 6
    · simp [low, gap]
    · have high : 31 + (i - 25 - 6) = i := by omega
      have top : i - 25 - 6 < 33 := by omega
      simp [low, gap, high, top, hi]

/-- ASTR puts STRIDE and TV2 from the operation. -/
theorem w64_stride_fields (op : BitVec 40) (r : W64) :
    w64 (at' (nfld op.toNat 0 32) 32 + fld r 0 32) = (op.extractLsb' 0 32 ++ r.extractLsb' 0 32).setWidth 64 := by
  refine BitVec.eq_of_toNat_eq ?_
  simp only [w64, at', BitVec.toNat_ofNat, BitVec.toNat_setWidth, toNat_append_add, extractLsb'_toNat_fld, nfld_toNat]

theorem nfld_one_eq_zero_iff (op : BitVec 40) (i : Nat) : nfld op.toNat i 1 = 0 ↔ op.getLsbD i = false := by
  simp only [nfld, BitVec.getLsbD, Nat.testBit_eq_decide_div_mod_eq, pow_one, decide_eq_false_iff_not]
  omega

/-! ### The statement -/

/-- An address operation does the acts of slot 3. -/
theorem issues_agu {c : Instr} {s : State} {f : Fur} {d : Dom} {code n : Nat} {acts : List Act}
    (beat : exec c s = .next (s.opBeat f d ⟨3, code, n⟩)) (agu : aguActs (s.env f d) code n = .ok acts) (present : code ≠ 0)
    (effs : ∀ a ∈ acts, a.IsEff) : issues c s f d ⟨3, code, n⟩ acts := by
  refine issues_of c s f d _ acts beat (fun h => nomatch h) ?_ ?_
  · unfold slotActs
    rw [if_neg present]
    exact agu
  · clear agu
    induction acts with
    | nil => rfl
    | cons a r ih =>
      obtain ⟨lat, e, rfl⟩ := effs a (List.mem_cons_self ..)
      exact ih fun b hb => effs b (List.mem_cons_of_mem _ hb)

/-- Settles O8: each operation's acts are the writes of its registers, whose words are those of their fields. -/
theorem addressOperations : Obligations.AddressOperations := by
  unfold Obligations.AddressOperations
  intro f d op s x p q ap aq does
  have fieldP : nfld op.toNat 36 4 = p := nfld_toNat op 36 4
  have fieldQ : nfld op.toNat 32 4 = q := nfld_toNat op 32 4
  have one : ∀ i w, ∀ a ∈ [s.addressTo i w], a.IsEff := fun i w a ha => ⟨_, _, List.mem_singleton.mp ha⟩
  have regP : (s.env f d).x.areg (nfld op.toNat 36 4) = ap := by rw [fieldP]; rfl
  have regQ : (s.env f d).x.areg (nfld op.toNat 32 4) = aq := by rw [fieldQ]; rfl
  have step : aregStep ap 1 = stepped ap (strideOf ap) := by rw [aregStep_eq, Nat.cast_one, one_mul]
  have stepQ : aregStep aq 1 = stepped aq (strideOf aq) := by rw [aregStep_eq, Nat.cast_one, one_mul]
  have twice : aregStep ap 2 = stepped ap (2 * strideOf ap) := by rw [aregStep_eq]; rfl
  refine ⟨?aset, ?astr, ?astep, ?aly, ?aadd, ?amov, ?reserved⟩
  case aset =>
    refine issues_agu rfl ?_ (by decide) (one _ _)
    rw [← aregBase_eq_append, ← nfld_toNat, ← nfld_toNat, ← regP, ← fieldP]
    rfl
  case astr =>
    refine issues_agu rfl ?_ (by decide) (one _ _)
    rw [← w64_stride_fields, ← regP, ← fieldP]
    rfl
  case astep =>
    have acts : aguActs (s.env f d) 0x32 op.toNat = .ok (if nfld op.toNat 31 1 = 0 then [s.addressTo p (aregStep ap 1)]
        else if p = q then [s.addressTo p (aregStep ap 2)] else [s.addressTo p (aregStep ap 1), s.addressTo q (aregStep aq 1)]) := by
      rw [← regP, ← regQ, ← fieldP, ← fieldQ, apply_ite Except.ok, apply_ite Except.ok]
      rfl
    rw [step, stepQ, twice] at acts
    refine issues_agu rfl (acts.trans (congrArg Except.ok ?_)) (by decide) ?_
    · cases two : op.getLsbD 31 with
      | false => rw [if_pos ((nfld_one_eq_zero_iff op 31).mpr two)]; rfl
      | true => rw [if_neg (by rw [nfld_one_eq_zero_iff, two]; decide)]; rfl
    · intro a ha
      split at ha
      · split at ha
        · exact one _ _ a ha
        · rcases List.mem_cons.mp ha with rfl | ha
          · exact ⟨_, _, rfl⟩
          · exact one _ _ a ha
      · exact one _ _ a ha
  case aly =>
    refine issues_agu rfl ?_ (by decide) (one _ _)
    rw [← w64_layer_fields, ← nfld_toNat, ← fieldP]
    rfl
  case aadd =>
    refine issues_agu rfl ?_ (by decide) (one _ _)
    have sum : stepped ap ((x.sreg (op.extractLsb' 31 5).toNat).extractLsb' 0 25).toNat =
        aregBase ap (fld ap 0 25 + fld (x.sreg (nfld op.toNat 31 5)) 0 25) (fld ap 31 1) := by
      rw [← aregBase_stepped, extractLsb'_toNat_fld, ← nfld_toNat, ← aregBase_mod ap (_ + _)]
      rfl
    rw [sum, ← regP, ← fieldP]
    rfl
  case amov =>
    refine issues_agu rfl ?_ (by decide) (one _ _)
    rw [← regQ, ← fieldP]
    rfl
  case reserved =>
    intro h
    have nonzero : nfld op.toNat 25 6 ≠ 0 := by
      rw [nfld_toNat]
      exact fun e => h (BitVec.eq_of_toNat_eq e)
    show zeros [nfld op.toNat 32 4, nfld op.toNat 25 6] = some 2
    simp [zeros, nonzero]

end Sys2Proof.Machine
end

section
/-! PROOFS. O10: windrow operations (R70, R201). -/
namespace Sys2Proof.Machine

section
variable {v : Env} {n code : Nat}

/-- The windrow entry that ENTRY or (AR.BASE + ENTRY) mod WINDROW_DEPTH names (R70). -/
def Env.entryOf (v : Env) (n : Nat) : Nat :=
  if nfld n 28 1 = 1 then nfld n 18 10 else (fld (v.x.areg (nfld n 29 4)) 0 25 + nfld n 18 10) % v.b.depth

/-- An ENTRY taken without an address register lies in the windrow, and the brick is the domain's own and in service. -/
def Env.windrowMine (v : Env) (n : Nat) : Prop :=
  (nfld n 28 1 = 1 → nfld n 18 10 < v.b.depth) ∧ (if v.fu.split then nfld n 33 2 < 2 else nfld n 33 2 < v.act)

/-- An ENTRY or a brick out of its range is reason 10, and one of the other half a violation of R47; neither stands in the way of a windrow
operation that names its own. -/
theorem Env.windrowMine.checks (mine : v.windrowMine n) :
    ((decide (nfld n 28 1 = 1) && decide (v.b.depth ≤ nfld n 18 10)) || (!v.fu.split && decide (v.act ≤ nfld n 33 2))) = false ∧
      (v.fu.split && decide (2 ≤ nfld n 33 2)) = false := by
  obtain ⟨entry, brick⟩ := mine
  have within : (decide (nfld n 28 1 = 1) && decide (v.b.depth ≤ nfld n 18 10)) = false := by
    rw [Bool.and_eq_false_imp]
    exact fun noa => decide_eq_false (Nat.not_le.mpr (entry (of_decide_eq_true noa)))
  rw [within]
  cases split : v.fu.split
  · rw [split] at brick
    exact ⟨decide_eq_false (Nat.not_le.mpr brick), rfl⟩
  · rw [split] at brick
    exact ⟨rfl, decide_eq_false (Nat.not_le.mpr brick)⟩

theorem winActs_wclr (mine : v.windrowMine n) (count : nfld n 7 11 ≤ v.b.depth) : winActs v 0x48 n =
    .ok (if nfld n 7 11 = 0 then [] else [.eff (v.b.latOf 12) (.winClear (v.phys (nfld n 33 2)) (v.entryOf n) (nfld n 7 11))]) := by
  obtain ⟨own, half⟩ := mine.checks
  unfold winActs
  simp only [own, half, Nat.not_lt.mpr count, Env.entryOf, decide_eq_true_eq, decide_false, if_true, Bool.or_false, Bool.false_eq_true, if_false]

theorem winActs_wrd (mine : v.windrowMine n) (part : nfld n 7 3 ≤ 512 / v.h - 1) : winActs v 0x49 n =
    .ok [.eff (v.b.latOf 13) (.vreg (opD n) 0 (tgets 0 (v.fu.went (v.phys (nfld n 33 2)) (v.entryOf n)).lanes (v.h * nfld n 7 3) v.h) (segsOf 0 v.h)
      (if (v.fu.went (v.phys (nfld n 33 2)) (v.entryOf n)).mark then segsOf 0 v.h else 0))] := by
  obtain ⟨own, half⟩ := mine.checks
  unfold winActs
  simp only [own, half, Nat.not_lt.mpr part, Env.entryOf, decide_eq_true_eq, decide_false, Nat.reduceEqDiff, if_false, Bool.or_false,
    Bool.false_eq_true]
  rfl

theorem winActs_wwr (mine : v.windrowMine n) (part : nfld n 7 3 ≤ 512 / v.h - 1) : winActs v 0x4A n =
    .ok [.eff (v.b.latOf 12) (.win (v.phys (nfld n 33 2)) (v.entryOf n) .replace (v.h * nfld n 7 3) ((v.x.vreg (opD n)).vals 0 v.h)
      ((v.x.vreg (opD n)).marks &&& segsOf 0 v.h != 0) 0 false false)] := by
  obtain ⟨own, half⟩ := mine.checks
  unfold winActs
  simp only [own, half, Nat.not_lt.mpr part, Env.entryOf, decide_eq_true_eq, decide_false, Nat.reduceEqDiff, if_false, Bool.or_false,
    Bool.false_eq_true]

end

/-- Settles O10: each of the three does the one act of slot 6, and makes no access. -/
theorem windrowOperations : Obligations.WindrowOperations := by
  unfold Obligations.WindrowOperations
  intro f d op s n v x brick entry mine part e
  have issue : ∀ {c : Instr} {code : Nat} {acts : List Act}, exec c s = .next (s.opBeat f d ⟨6, code, n⟩) → code ≠ 0 →
      winActs v code n = .ok acts → actsHalf v acts = none → issues c s f d ⟨6, code, n⟩ acts := fun beat present win half => by
    refine issues_of _ s f d _ _ beat (fun h => nomatch h) ?_ half
    unfold slotActs
    rw [if_neg present]
    exact win
  refine ⟨fun own count => ?wclr, fun own le => ?wrd, fun own le => ?wwr⟩
  case wclr =>
    refine issue rfl (by decide) (winActs_wclr own count) ?_
    split <;> rfl
  case wrd => exact issue rfl (by decide) (winActs_wrd own le) rfl
  case wwr => exact issue rfl (by decide) (winActs_wwr own le) rfl

end Sys2Proof.Machine
end

section
/-! PROOFS. O17: tile operations, SWAP and SLD (R68, R69, R154). -/
namespace Sys2Proof.Machine

/-! ### Tile operations (R68, R160) -/

/-- The course that a tile operation names by its operand, and the streams that it reads. -/
def Env.tileNamed (v : Env) (rid addr k n : Nat) : Course := tileCourse v k (nfld n 32 8) (nfld n 28 4) (nfld n 24 4) rid addr
def Course.needsA (t : Course) : Bool := !t.emptyRed && !t.emptyOut
def Course.needsB (t : Course) (k : Nat) : Bool := t.needsA && (k == 2 || t.mx)

/-- A tile operation that passes its checks starts the course it names, its streams at the addresses that its operands resolve to. -/
theorem brkActs_tile {v : Env} {rid addr k n a b : Nat} (hk : k < 4) (idle : v.x.course = none)
    (checks : tileFault v k (nfld n 32 8) (nfld n 24 4) (v.tileNamed rid addr k n) = none)
    (fmtA : fmtPresent v.b.formats (v.tileNamed rid addr k n).fmtA = true) (fmtB : fmtPresent v.b.formats (v.tileNamed rid addr k n).fmtB = true)
    (opA : (if (v.tileNamed rid addr k n).needsA then v.resolve (nfld n 28 4) else .ok (v.tileNamed rid addr k n).faBase) = .ok a)
    (opB : (if (v.tileNamed rid addr k n).needsB k then v.resolve (nfld n 24 4) else .ok (v.tileNamed rid addr k n).fbBase) = .ok b) :
    brkActs v rid addr (0x38 + k) n =
      .ok [.tile { v.tileNamed rid addr k n with cost := (v.tileNamed rid addr k n).beatCost v.b, faBase := a, fbBase := b }] := by
  have notSwap : 0x38 + k ≠ 0x3C := by omega
  have kind : 0x38 + k - 0x38 = k := Nat.add_sub_cancel_left _ _
  have free : v.x.busy = false := by rw [Domain.busy, idle]; rfl
  unfold Course.needsB Course.needsA at opB
  unfold Course.needsA at opA
  rw [beq_eq_decide] at opB
  unfold Env.tileNamed at *
  unfold brkActs
  simp only [if_neg notSwap, kind, free, checks, fmtA, fmtB, opA, opB, Bool.not_true, Bool.false_eq_true, if_false]

/-! ### SWAP (R69, R154) -/

/-- The bits that are set one after another where a condition holds. -/
theorem bitOf_foldl_setBit_map {m i : Nat} (hi : i < m) (p : Nat → Prop) [DecidablePred p] (g : Nat → Nat) (l : List Nat) : ∀ w : BitVec m,
    bitOf (l.foldl (fun acc q => if p q then setBit acc (g q) true else acc) w) i = true ↔ bitOf w i = true ∨ ∃ q ∈ l, p q ∧ i = g q := by
  induction l with
  | nil => simp
  | cons q r ih =>
    intro w
    have first : bitOf (if p q then setBit w (g q) true else w) i = true ↔ bitOf w i = true ∨ (p q ∧ i = g q) := by
      by_cases h : p q
      · by_cases hg : i = g q
        · subst hg
          simp [h, bitOf_setBit_self hi]
        · simp [h, hg, bitOf_setBit_ne hg]
      · simp [h]
    rw [List.foldl_cons, ih, first, List.exists_mem_cons_iff, or_assoc]

/-- The physical pairs that PAIRS names. -/
def Env.pairsNamed (v : Env) (pairs : Nat) : BitVec 2 :=
  (List.range 2).foldl (fun acc p => if pairs / 2 ^ p % 2 = 1 then setBit acc (if v.fu.split then p else v.phys (2 * p) / 2) true else acc) 0

theorem bitOf_pairsNamed (v : Env) (pairs i : Nat) (hi : i < 2) : bitOf (v.pairsNamed pairs) i = true ↔
    ∃ p : Nat, p < 2 ∧ nfld pairs p 1 = 1 ∧ i = if v.fu.split then p else v.phys (2 * p) / 2 := by
  have bits := bitOf_foldl_setBit_map hi (fun p => pairs / 2 ^ p % 2 = 1) (fun p => if v.fu.split then p else v.phys (2 * p) / 2) (List.range 2) 0
  refine bits.trans ?_
  simp [bitOf, nfld]

/-- A SWAP whose pairs are in service and of the domain's own half exchanges them. -/
theorem brkActs_swap {v : Env} {rid addr n : Nat}
    (own : ∀ p : Nat, p < 2 → nfld (nfld n 38 2) p 1 = 1 → if v.fu.split then p = v.d.val else 2 * p < v.act) :
    brkActs v rid addr 0x3C n = .ok (if nfld n 38 2 = 0 then [] else [.swapOp (v.pairsNamed (nfld n 38 2)) (BitVec.ofNat 2 (nfld n 38 2))]) := by
  have built : (List.range 2).any (fun p => decide (nfld n 38 2 / 2 ^ p % 2 = 1) && !v.fu.split && decide (v.act ≤ 2 * p)) = false := by
    refine List.any_eq_false.mpr fun p hp => ?_
    have inService := own p (List.mem_range.mp hp)
    rw [Bool.and_eq_true, Bool.and_eq_true, Bool.not_eq_true']
    rintro ⟨⟨named, whole⟩, out⟩
    rw [if_neg (by rw [whole]; exact Bool.false_ne_true)] at inService
    exact Nat.not_le.mpr (inService (of_decide_eq_true named)) (of_decide_eq_true out)
  have half : (List.range 2).find? (fun p => decide (nfld n 38 2 / 2 ^ p % 2 = 1) && v.fu.split && p != v.d.val) = none := by
    refine List.find?_eq_none.mpr fun p hp => ?_
    have ownHalf := own p (List.mem_range.mp hp)
    rw [Bool.and_eq_true, Bool.and_eq_true, bne_iff_ne]
    rintro ⟨⟨named, split⟩, other⟩
    rw [if_pos split] at ownHalf
    exact other (ownHalf (of_decide_eq_true named))
  unfold brkActs
  simp only [if_true, built, half, Bool.false_eq_true, if_false]
  rfl

/-! ### SLD (R69) -/

theorem actsHalf_accs {v : Env} (l : List Acc) (h : ∀ a ∈ l, accFault v a = none) : actsHalf v (l.map .acc) = none := by
  induction l with
  | nil => rfl
  | cons a r ih =>
    have first : accsHalf v [a] = none := by simp [accsHalf, h a (List.mem_cons_self ..)]
    show (match accsHalf v [a] with | some i => some i | none => actsHalf v (r.map .acc)) = none
    rw [first]
    exact ih fun b hb => h b (List.mem_cons_of_mem _ hb)

/-- The bricks that MASK names. -/
def masked (n : Nat) : List Nat := (List.range 4).filter (fun b => nfld n (36 + b) 1 == 1)

theorem masked_eq (n : Nat) : (List.range 4).filter (fun b => decide (nfld n 36 4 / 2 ^ b % 2 = 1)) = masked n := by
  refine List.filter_congr fun b hb => ?_
  have cases : b = 0 ∨ b = 1 ∨ b = 2 ∨ b = 3 := by
    have := List.mem_range.mp hb
    omega
  have bit : nfld n 36 4 / 2 ^ b % 2 = nfld n (36 + b) 1 := by
    rcases cases with rfl | rfl | rfl | rfl <;> simp only [nfld] <;> omega
  rw [bit, beq_eq_decide]

/-- Brick `b` as its course counts it, and the access by which an SLD reads its row. -/
def Env.ownBrick (v : Env) (b : Nat) : Nat := if v.fu.split then b - 2 * v.d.val else b
def Env.standbyRow (v : Env) (n a b : Nat) : Acc :=
  ⟨5, 0x40, 2, ((a + v.ownBrick b * 0x80000 : Nat) : Int), true, 0, .sld (v.phys (v.ownBrick b)) (nfld n 25 7)⟩

/-- An SLD whose bricks are in service and of the domain's own half reads a row for each. -/
theorem stbActs_sld {v : Env} {n a : Nat} (operand : masked n ≠ [] → v.resolve (nfld n 32 4) = .ok a)
    (own : ∀ b ∈ masked n, (v.fu.split = true → b / 2 = v.d.val) ∧ v.ownBrick b < v.act) :
    stbActs v 0x40 n = .ok ((masked n).map (fun b => .acc (v.standbyRow n a b))) := by
  have half : (masked n).find? (otherHalf v) = none := by
    refine List.find?_eq_none.mpr fun b hb => ?_
    have := (own b hb).1
    cases split : v.fu.split <;> simp_all [otherHalf]
  have built : (masked n).any (fun b => !otherHalf v b && decide (v.act ≤ if v.fu.split = true then b - 2 * v.d.val else b)) = false := by
    refine List.any_eq_false.mpr fun b hb => ?_
    have inService : ¬ v.act ≤ if v.fu.split = true then b - 2 * v.d.val else b := Nat.not_le.mpr (own b hb).2
    simp [inService]
  unfold stbActs
  simp only [masked_eq, built, half, Bool.false_eq_true, if_false]
  by_cases none : masked n = []
  · rw [if_pos none, none]
    rfl
  · rw [if_neg none, operand none]
    rfl

/-! ### The statement -/

/-- Settles O17: each operation's acts are those of its slot, its checks passed. -/
theorem brickOperations : Obligations.BrickOperations := by
  unfold Obligations.BrickOperations
  refine ⟨fun f d op s => ?tile, fun f d op s => ⟨fun own => ?swap, fun a operand own => ?sld⟩⟩
  case tile =>
    intro n x does
    have start : ∀ (c : Instr) (k : Nat), k < 4 → exec c s = .next (s.opBeat f d ⟨4, 0x38 + k, n⟩) → does c k := by
      intro c k hk beat a b t needA needB idle checks fmtA fmtB opA opB acts half
      refine issues_of c s f d _ _ beat (fun h => nomatch h) ?_ half
      unfold slotActs
      rw [if_neg (show 0x38 + k ≠ 0 by omega)]
      exact brkActs_tile hk idle checks fmtA fmtB opA opB
    exact ⟨start _ 0 (by decide) rfl, start _ 1 (by decide) rfl, start _ 2 (by decide) rfl, start _ 3 (by decide) rfl⟩
  case swap =>
    refine ⟨(s.env f d).pairsNamed (nfld op.toNat 38 2), fun i hi => bitOf_pairsNamed (s.env f d) _ i hi, ?_⟩
    refine issues_of _ s f d _ _ rfl (fun h => nomatch h) (brkActs_swap (rid := (s.dom f d).rid) (addr := (s.dom f d).pos) own) ?_
    split <;> rfl
  case sld =>
    have sld : stbActs (s.env f d) 0x40 op.toNat = _ := stbActs_sld operand fun b hb => ⟨(own b hb).1, (own b hb).2.1⟩
    refine issues_of _ s f d _ _ rfl (fun h => nomatch h) sld ?_
    have reads := actsHalf_accs ((masked op.toNat).map ((s.env f d).standbyRow op.toNat a)) (fun r hr => by
      obtain ⟨b, hb, rfl⟩ := List.mem_map.mp hr
      exact (own b hb).2.2)
    rwa [List.map_map] at reads

end Sys2Proof.Machine
end

section
/-! PROOFS. O18: MISS (R75, R76, R225 to R231). -/
namespace Sys2Proof.Machine

/-- Marks of a mortar result: every segment where an operand's mark is set, else those that the unit gives. -/
def missMarks (ops pres segs : BitVec 8) : BitVec 8 := if ops != 0 then segs else pres &&& segs

theorem bitOf_missMarks (ops pres segs : BitVec 8) (i : Nat) :
    bitOf (missMarks ops pres segs) i = true ↔ bitOf segs i = true ∧ (ops ≠ 0 ∨ bitOf pres i = true) := by
  unfold missMarks
  split
  · next marked => exact ⟨fun seg => ⟨seg, .inl (bne_iff_ne.mp marked)⟩, And.left⟩
  · next clear =>
    have none : ops = 0 := by simpa using clear
    simp [none, bitOf, and_comm]

section
variable {v : Env} {slot n : Nat}

/-- The register of the unit that a MISS names, and what the unit is given: its operands of H lanes, zero in the lanes beyond, and their marks. -/
def Env.unitReg (v : Env) (n : Nat) : W64 := v.b.mortars.toList.getD (nfld n 38 2) 0
def Env.unitLanes (v : Env) (i : Nat) : List W32 :=
  (v.x.vreg i).vals 0 v.h ++ List.replicate (v.b.lanes - ((v.x.vreg i).vals 0 v.h).length) 0
def Env.unitMarks (v : Env) (i : Nat) : BitVec 8 := (v.x.vreg i).marks &&& segsOf 0 v.h
def Env.unitTwo (v : Env) (n : Nat) : Bool := decide (fld (v.unitReg n) 16 2 = 2)
def Env.unitB (v : Env) (n : Nat) : List W32 := if v.unitTwo n then v.unitLanes (nfld n 28 5) else List.replicate v.b.lanes 0
def Env.unitMarksB (v : Env) (n : Nat) : BitVec 8 := if v.unitTwo n then v.unitMarks (nfld n 28 5) else 0

/-- A MISS to a built unit of the domain's own half, whose issue interval has passed, is handed to the unit (R225, R227). -/
theorem morActs_of_ready (built : nfld n 38 2 < v.b.mortar)
    (interval : ∀ t : W64, vat none v.x.lastMiss (nfld n 38 2) = some t → fld (v.unitReg n) 0 8 ≤ (v.x.beats - t).toNat)
    (half : v.fu.split = true → nfld n 38 2 / 2 = v.d.val) :
    let id := BitVec.ofNat 32 (fld (v.unitReg n) 32 32)
    let ctrl := BitVec.ofNat 23 (nfld n 0 23)
    let a := v.unitLanes (nfld n 33 5)
    let b := v.unitB n
    let ps := (v.unitMarks (nfld n 33 5), v.unitMarksB n)
    let state := vat 0 v.fu.mortarState (nfld n 38 2)
    let marks := missMarks (ps.1 ||| ps.2) (Config.mortarMarks id ctrl a b ps v.fu.split state) (segsOf 0 v.h)
    morActs v slot n true = .ok [.miss (nfld n 38 2) (nfld n 23 5)
      (poisonLanes (v.free + slot) marks ((List.range v.h).map (fun i => (Config.mortarResult id ctrl a b v.fu.split state).getD i 0))) marks
      (Config.mortarNext id ctrl a b ps v.fu.split state)] := by
  intro id ctrl a b ps state marks
  have passed : (match vat none v.x.lastMiss (nfld n 38 2) with
      | some t => decide ((v.x.beats - t).toNat < fld (v.unitReg n) 0 8) | none => false) = false := by
    split
    · next t last => exact decide_eq_false (Nat.not_lt.mpr (interval t last))
    · rfl
  have own : (v.fu.split && decide (nfld n 38 2 / 2 ≠ v.d.val)) = false := by
    rw [Bool.and_eq_false_imp]
    exact fun split => decide_eq_false (not_not.mpr (half split))
  have free : (decide (v.b.mortar ≤ nfld n 38 2) || (match vat none v.x.lastMiss (nfld n 38 2) with
      | some t => decide ((v.x.beats - t).toNat < fld (v.unitReg n) 0 8) | none => false) || !true) = false := by
    rw [passed, decide_eq_false (Nat.not_le.mpr built)]
    rfl
  unfold morActs
  dsimp only
  exact (if_neg fun stops => Bool.false_ne_true (free.symm.trans stops)).trans
    (if_neg fun stops => Bool.false_ne_true (own.symm.trans stops))

end

/-- Settles O18: a MISS that its unit takes is the one act of its slot. -/
theorem mortarIssue : Obligations.MortarIssue := by
  unfold Obligations.MortarIssue
  intro f d sl op s n u h reg two pad id ctrl a b pa pb state pres segs built interval half
  refine ⟨missMarks (pa ||| pb) pres segs, fun i _ => bitOf_missMarks (pa ||| pb) pres segs i, ?_⟩
  have ready : morActs (s.env f d) (13 + sl.val) n true = _ := morActs_of_ready built interval half
  refine issues_of _ s f d _ _ rfl (fun h => by simp at h) ?_ rfl
  match sl with
  | 0 => exact ready
  | 1 => exact ready

end Sys2Proof.Machine
end

section
/-! PROOFS. O25: a sequencer fault freezes its domain before the beat and is recorded (R98, R405). -/
namespace Sys2Proof.Machine

/-! ### The word that faults (R98, R405) -/

section
variable {v : Env} {rid addr next r : Nat} {o : SlotOp}

theorem wordActs_bad_encoding (enc : encFault o = some r) : wordActs v rid addr true next (oneOp o) = .error ⟨o.slot, o.code, .seq r⟩ := by
  unfold wordActs oneOp
  simp only [nfld, encFaults, enc]
  rfl

/-- A rightly encoded operation of the sequencer that cannot issue. -/
theorem wordActs_seqFault (enc : encFault o = none) (slot : o.slot = 0) (seq : seqFault v false next o.code o.op = some r) :
    wordActs v rid addr true next (oneOp o) = .error ⟨o.slot, o.code, .seq r⟩ := by
  unfold wordActs oneOp
  simp only [nfld, encFaults, enc, gather, slot, Word.endBit]
  simp [seq]

/-- A rightly encoded operation of another slot that cannot issue. -/
theorem wordActs_slotFault (enc : encFault o = none) (seq : o.slot = 0 → seqFault v false next o.code o.op = none)
    (fault : slotActs v rid addr none o = .error (.seq r)) : wordActs v rid addr true next (oneOp o) = .error ⟨o.slot, o.code, .seq r⟩ := by
  have passes : (if (decide (o.slot = 0) && true) = true then seqFault v false next o.code o.op else none) = none := by
    split
    · next slot => exact seq (by simpa using slot)
    · rfl
  unfold wordActs oneOp
  simp only [nfld, encFaults, enc, gather, Word.endBit]
  simp only [Nat.zero_div, Nat.zero_mod, ne_eq, not_true_eq_false, if_false, Nat.reduceEqDiff, decide_false, passes, fault]

/-! ### The reasons of R405 -/

theorem seqFault_loop_open {l : Loop} (op : Nat) (mem : l ∈ v.x.loops) (ctr : l.ctr = nfld op 37 3) : seqFault v false next 1 op = some 4 := by
  have held : v.x.loops.any (fun l => l.ctr == nfld op 37 3) = true := List.any_eq_true.mpr ⟨l, mem, beq_iff_eq.mpr ctr⟩
  simp [seqFault, held]

theorem seqFault_call_deep (op : Nat) (deep : 8 ≤ v.x.stack.length) : seqFault v false next 2 op = some 5 := if_pos deep

theorem seqFault_call_invalid (op : Nat) (shallow : v.x.stack.length < 8) (invalid : (v.fu.routine (nfld op 32 8)).valid = false) :
    seqFault v false next 2 op = some 6 := by
  have refused : callRefused v (nfld op 32 8) = true := by simp [callRefused, invalid]
  exact (if_neg (Nat.not_le.mpr shallow)).trans (if_pos refused)

theorem brkActs_busy {code : Nat} (op : Nat) (notSwap : code ≠ 0x3C) (course : v.x.course ≠ none) : brkActs v rid addr code op = .error (.seq 8) := by
  have busy : v.x.busy = true := Option.isSome_iff_ne_none.mpr course
  unfold brkActs
  simp only [if_neg notSwap, busy, if_true]

theorem morActs_not_ready (slot op : Nat) (first : Bool) (refused : v.b.mortar ≤ nfld op 38 2 ∨
      ∃ t, vat none v.x.lastMiss (nfld op 38 2) = some t ∧ (v.x.beats - t).toNat < fld (v.b.mortars.toList.getD (nfld op 38 2) 0) 0 8) :
    morActs v slot op first = .error (.seq 9) := by
  unfold morActs
  refine if_pos ?_
  rcases refused with unbuilt | ⟨t, last, soon⟩
  · simp [unbuilt]
  · simp only [last, soon, decide_true, Bool.or_true, Bool.true_or]

theorem sigActs_not_mine (op : Nat) (other : v.b.furrows ≤ nfld op 36 4 ∨ bitOf v.mine (nfld op 36 4) = false) :
    sigActs v 0xB0 op = .error (.seq 10) := by
  unfold sigActs
  refine (if_neg (by decide)).trans (if_pos ?_)
  rcases other with beyond | foreign
  · simp [beyond]
  · simp [foreign]

theorem winActs_entry_beyond (code : Nat) {op : Nat} (noa : nfld op 28 1 = 1) (beyond : v.b.depth ≤ nfld op 18 10) :
    winActs v code op = .error (.seq 10) := by
  unfold winActs
  refine if_pos ?_
  simp [noa, beyond]

end

/-! ### The freeze (R98, R324) -/

section
variable {s : State} {f : Fur} {d : Dom}

/-- A domain frozen by a fault. -/
def Domain.faulted (x : Domain) : Domain := { x with st := .faulted, causes := 0, frozenSince := none }

/-- A fault record that finds room in the intake queue waits there, and changes no furrow and no HBM (R334, R369). -/
theorem State.faultRecord_room {code : Nat} (source : W16) (p0 p1 p2 lev : Nat) (room : s.gl.intake.length < 256) (fault : code < 0x8000) :
    (s.faultRecord code source p0 p1 p2 lev).furs = s.furs ∧ (s.faultRecord code source p0 p1 p2 lev).hbm = s.hbm ∧
    (s.faultRecord code source p0 p1 p2 lev).gl.intake = s.gl.intake ++ [⟨s.time, BitVec.ofNat 16 code, source, BitVec.ofNat 32 p0,
      BitVec.ofNat 32 p1, BitVec.ofNat 32 p2⟩] := by
  obtain ⟨m, b, c, ring⟩ := s.ringRecord_changes code source p0 p1 p2 lev
  unfold State.faultRecord
  rw [State.offer_room _ _ _ _ _ _ (by rw [ring]; exact room) fault, ring]
  exact ⟨rfl, rfl, rfl⟩

/-- An L1 fault outside every window of its recovery domain freezes the domain, and its record waits for the gleaner (R324, R334). -/
theorem State.freezeDomain_l1 {i : FaultInfo} (closed : s.openRec (s.recDom f d) = none) (room : s.gl.intake.length < 256) (fault : i.code < 0x8000) :
    (s.freezeDomain f d i).furs = (s.modDom f d Domain.faulted).furs ∧ (s.freezeDomain f d i).hbm = s.hbm ∧
    (s.freezeDomain f d i).gl.intake = s.gl.intake ++ [⟨s.time, BitVec.ofNat 16 i.code, i.source, BitVec.ofNat 32 i.p0, BitVec.ofNat 32 i.p1,
      BitVec.ofNat 32 i.p2⟩] := by
  have raised : s.freezeDomain f d i = _ := State.raise_l1 (s.modDom f d Domain.faulted) closed i (masterDom f d)
  rw [raised]
  exact State.faultRecord_room (s := s.modDom f d Domain.faulted) i.source i.p0 i.p1 i.p2 (levByte 1 false false) room fault

/-- Domain `y` is `x` frozen at this beat. -/
def Domain.FrozenBefore (x y : Domain) : Prop := ∃ k, y = ({ x with tick := k } : Domain).faulted

/-- A sequencer fault of reason `r` found in domain `d` freezes it as it stood, with OPCODE set and one record (R98). -/
theorem State.slotFault_seq {rid addr slot code r : Nat} (closed : s.openRec (s.recDom f d) = none) (room : s.gl.intake.length < 256) :
    let t := (s.noteTick f d false false).slotFault f d rid addr ⟨slot, code, .seq r⟩
    bitOf (t.fur f).sticky (8 + d.val) = true ∧ (s.dom f d).FrozenBefore (t.dom f d) ∧ t.hbm = s.hbm ∧
    (⟨s.time, 0x0105, srcDom f d, BitVec.ofNat 32 (posWord rid addr), BitVec.ofNat 32 (slot * 2 ^ 24 + code * 2 ^ 16), BitVec.ofNat 32 r⟩ : GRec) ∈
      t.gl.intake ∧ (∀ e : Dom, e ≠ d → t.dom f e = s.dom f e) ∧ ∀ g : Fur, g ≠ f → t.fur g = s.fur g := by
  intro t
  obtain ⟨k, noted⟩ := s.leaves_noteTick f d false false
  have recs : (s.noteTick f d false false).openRec ((s.noteTick f d false false).recDom f d) = none := by
    obtain ⟨o, w, here⟩ := noted.fur
    unfold State.recDom
    rw [here]
    exact closed
  have frozen := State.freezeDomain_l1 (s := (s.noteTick f d false false).modFur f (fun x => { x with sticky := setBit x.sticky (8 + d.val) true }))
    (f := f) (d := d) (i := ⟨0x0105, srcDom f d, posWord rid addr, at' slot 24 + at' code 16, r⟩) (by
      unfold State.recDom
      rw [State.modFur, State.fur_setFur]
      exact recs) room (show 0x0105 < 0x8000 by decide)
  obtain ⟨furs, hbm, intake⟩ := frozen
  have fur : t.fur f = _ := (State.fur_of_furs furs f).trans (State.fur_setFur _ _ _)
  rw [State.modFur, State.dom, State.fur_setFur] at fur
  obtain ⟨o, w, here⟩ := noted.fur
  rw [here] at fur
  refine ⟨?_, ⟨k, ?_⟩, hbm, ?_, fun e he => ?_, fun g hg => ?_⟩
  · rw [fur]
    exact bitOf_setBit_self (by omega) _ _
  · rw [State.dom, fur, Furrow.dom_setDom]
    exact congrArg Domain.faulted (Furrow.dom_setDom _ _ _)
  · exact intake ▸ List.mem_append_right _ (List.mem_singleton.mpr rfl)
  · rw [State.dom, fur, Furrow.dom_setDom_ne _ he]
    exact Furrow.dom_setDom_ne _ he _
  · refine (State.fur_of_furs furs g).trans ((State.fur_setFur_ne _ hg _).trans ((State.fur_setFur_ne _ hg _).trans ?_))
    exact noted.fur_ne hg

/-- A beat whose word fails a check freezes its domain (R405). -/
theorem State.attempt_of_faulty {word : Option Word} {next : Nat} {e : BFault} (mask : BitVec 4) (h : s.checkedActs f d word next = .error e) :
    s.attempt f d word next mask = (s.noteTick f d false false).slotFault f d (s.dom f d).rid (s.dom f d).pos e := by
  have checked : s.attempt f d word next mask = match s.checkedActs f d word next with
      | .error e => (s.noteTick f d false false).slotFault f d (s.dom f d).rid (s.dom f d).pos e
      | .ok acts => match portFaults (s.env f d) (s.servedNow f d acts) with
        | p :: r => (s.noteTick f d false false).portFault f d (posWord (s.dom f d).rid (s.dom f d).pos) (p :: r)
        | [] => if beatCauses (s.env f d) (s.servedNow f d acts) acts ≠ 0 then s.freezeBeat f d (beatCauses (s.env f d) (s.servedNow f d acts) acts)
          else s.retireBeat f d word acts next mask := rfl
  rw [checked, h]

end

/-- Settles O25: the word with the one operation fails its check with the reason, and the fault freezes the domain as it stands. -/
theorem sequencerFault : Obligations.SequencerFault := by
  unfold Obligations.SequencerFault
  intro s f d c o r x v n late reason slotOp ready stops closed room
  have faulty : wordActs v x.rid x.pos true x.pos (oneOp o) = .error ⟨o.slot, o.code, .seq r⟩ := by
    rcases stops with enc | ⟨enc, late | reason⟩
    · exact wordActs_bad_encoding enc
    · rcases late with ⟨slot, seq⟩ | ⟨seq, fault⟩
      · exact wordActs_seqFault enc slot seq
      · exact wordActs_slotFault enc seq fault
    · obtain ⟨slot, code, op⟩ := o
      rcases reason with ⟨rfl, rfl, rfl, l, mem, ctr⟩ | ⟨rfl, rfl, rfl, deep⟩ | ⟨rfl, rfl, rfl, shallow, invalid⟩ | ⟨rfl, rfl, low, high, course⟩ |
        ⟨rfl, slot13, rfl, refused⟩ | ⟨rfl, rfl, rfl, other⟩ | ⟨rfl, rfl, rfl, noa, beyond⟩
      · exact wordActs_seqFault enc rfl (seqFault_loop_open _ mem ctr)
      · exact wordActs_seqFault enc rfl (seqFault_call_deep _ deep)
      · exact wordActs_seqFault enc rfl (seqFault_call_invalid _ shallow invalid)
      · refine wordActs_slotFault enc (fun h => nomatch h) ?_
        unfold slotActs
        rw [if_neg (Nat.ne_of_gt (Nat.lt_of_lt_of_le (by decide) low))]
        exact brkActs_busy _ (Nat.ne_of_lt high) course
      · rcases slot13 with rfl | rfl
        · exact wordActs_slotFault enc (fun h => nomatch h) (morActs_not_ready _ _ _ refused)
        · exact wordActs_slotFault enc (fun h => nomatch h) (morActs_not_ready _ _ _ refused)
      · exact wordActs_slotFault enc (fun h => nomatch h) (sigActs_not_mine _ other)
      · exact wordActs_slotFault enc (fun h => nomatch h) (winActs_entry_beyond _ noa beyond)
  have run : exec c s = .next ((s.noteTick f d false false).slotFault f d x.rid x.pos ⟨o.slot, o.code, .seq r⟩) := by
    rw [exec_of_slotOp slotOp, State.opBeat_attempts ready]
    refine congrArg _ (State.attempt_of_faulty 0 ?_)
    obtain ⟨-, -, -, done, -⟩ := ready
    unfold State.checkedActs
    dsimp only
    rw [done]
    exact faulty
  obtain ⟨sticky, ⟨k, frozen⟩, hbm, record, doms, furs⟩ := State.slotFault_seq (rid := x.rid) (addr := x.pos) (slot := o.slot) (code := o.code) (r := r)
    closed room
  refine ⟨_, run, sticky, ?_, ?_, ?_, ?_, ?_, ?_, hbm, ⟨_, record, rfl, rfl, rfl, rfl, rfl⟩, doms, furs⟩ <;> rw [frozen] <;> rfl

end Sys2Proof.Machine
end

section
/-! PROOFS. What the issue and the commits of a beat leave as it was: other furrows, the drills, and where the domain stands in its program
(R33, R38, R77). -/
namespace Sys2Proof.Machine

/-! ### Where a domain stands in its program -/

/-- A domain's place in its program, its beat, the layer registers that its sequencer reads, and the rows that it has handed over. -/
structure Way where
  st : DomState
  loops : List Loop
  stack : List CallFrame
  rid : Nat
  pos : Nat
  done : Nat
  idle : Nat
  endAfter : Bool
  stop : Nat
  bricks : Nat
  pairLost : Bool
  live : Tab W64
  beat : Nat
  puts : Nat

def Domain.way (x : Domain) : Way :=
  ⟨x.st, x.loops, x.stack, x.rid, x.pos, x.done, x.idle, x.endAfter, x.stop, x.bricks, x.pairLost, x.live, x.beat, x.puts⟩

/-- Furrow `y` has the drills of `x`, and its domain `d` stands where it stood. -/
structure Furrow.Stays (x y : Furrow) (d : Dom) : Prop where
  drills : y.drills = x.drills
  way : (y.dom d).way = (x.dom d).way

/-- State `t` has the time of `s` and its furrows, but for `f`, whose drills and the place of whose domain `d` are the same. -/
structure State.Stays (s t : State) (f : Fur) (d : Dom) : Prop where
  time : t.time = s.time
  others : ∀ g : Fur, g ≠ f → t.fur g = s.fur g
  furrow : (s.fur f).Stays (t.fur f) d

section
variable {x y z : Furrow} {d : Dom}

theorem Furrow.Stays.refl (x : Furrow) (d : Dom) : x.Stays x d := ⟨rfl, rfl⟩

theorem Furrow.Stays.trans (h : x.Stays y d) (h' : y.Stays z d) : x.Stays z d := ⟨h'.drills.trans h.drills, h'.way.trans h.way⟩

theorem Furrow.Stays.of_doms (doms : y.doms = x.doms) (drills : y.drills = x.drills) : x.Stays y d :=
  ⟨drills, by unfold Furrow.dom; rw [doms]⟩

theorem Furrow.stays_setDom {w : Domain} (way : w.way = (x.dom d).way) : x.Stays (x.setDom d w) d := ⟨rfl, by rw [Furrow.dom_setDom, way]⟩

end

section
variable {s t u : State} {f : Fur} {d : Dom}

theorem State.Stays.refl (s : State) (f : Fur) (d : Dom) : s.Stays s f d := ⟨rfl, fun _ _ => rfl, .refl _ d⟩

theorem State.Stays.trans (h : s.Stays t f d) (h' : t.Stays u f d) : s.Stays u f d :=
  ⟨h'.time.trans h.time, fun g hg => (h'.others g hg).trans (h.others g hg), h.furrow.trans h'.furrow⟩

theorem State.stays_foldl {α : Type} {g : State → α → State} (l : List α) (h : ∀ (s : State) (a : α), s.Stays (g s a) f d) : ∀ s : State,
    s.Stays (l.foldl g s) f d := by
  induction l with
  | nil => exact fun s => .refl s f d
  | cons a r ih => exact fun s => (h s a).trans (ih _)

theorem State.Stays.way (h : s.Stays t f d) : (t.dom f d).way = (s.dom f d).way := h.furrow.way

theorem State.Stays.drill (h : s.Stays t f d) (k : DrillNo) : t.drill f k = s.drill f k := by
  unfold State.drill Furrow.drill
  rw [h.furrow.drills]

/-- What leaves a furrow as it is but for a domain that stays where it stood. -/
theorem State.Leaves.stays {x : Furrow} (h : s.Leaves t f x) (same : (s.fur f).Stays x d) : s.Stays t f d := by
  refine ⟨h.time_build.1, fun g hg => h.fur_ne hg, ?_⟩
  obtain ⟨o, w, e⟩ := h.fur
  rw [e]
  exact same.trans (.of_doms rfl rfl)

variable (s f d)

theorem State.stays_setFur {x : Furrow} (h : (s.fur f).Stays x d) : s.Stays (s.setFur f x) f d := (s.leaves_setFur f x).stays h

theorem State.stays_setDom {y : Domain} (way : y.way = (s.dom f d).way) : s.Stays (s.setDom f d y) f d :=
  s.stays_setFur f d (Furrow.stays_setDom way)

theorem State.stays_modFur {g : Furrow → Furrow} (doms : ∀ x, (g x).doms = x.doms := by exact fun _ => rfl)
    (drills : ∀ x, (g x).drills = x.drills := by exact fun _ => rfl) : s.Stays (s.modFur f g) f d := s.stays_setFur f d (.of_doms (doms _) (drills _))

theorem State.stays_offer (code : Nat) (source : W16) (p0 p1 p2 : Nat) : s.Stays (s.offer code source p0 p1 p2) f d :=
  (s.leaves_offer f code source p0 p1 p2).stays (.refl _ d)

variable {s f d}

/-- What then follows of updates that stay. -/
theorem State.Stays.thenOffer (h : s.Stays t f d) (code : Nat) (source : W16) (p0 p1 p2 : Nat) : s.Stays (t.offer code source p0 p1 p2) f d :=
  h.trans (t.stays_offer f d code source p0 p1 p2)

theorem State.Stays.thenFur (h : s.Stays t f d) {g : Furrow → Furrow} (doms : ∀ x, (g x).doms = x.doms := by exact fun _ => rfl)
    (drills : ∀ x, (g x).drills = x.drills := by exact fun _ => rfl) : s.Stays (t.modFur f g) f d := h.trans (t.stays_modFur f d doms drills)

theorem State.Stays.thenDom (h : s.Stays t f d) {g : Domain → Domain} (way : ∀ y, (g y).way = y.way := by exact fun _ => rfl) :
    s.Stays (t.modDom f d g) f d := h.trans (t.stays_setDom f d (way _))

variable (s f d)

/-! ### The events of an issue -/

theorem State.stays_auditEvent (bit code rid addr slot kind index p2 : Nat) :
    s.Stays (s.auditEvent f d bit code rid addr slot kind index p2) f d := by
  unfold State.auditEvent
  dsimp only
  split
  · exact s.stays_setDom f d rfl
  · refine .thenOffer (.thenFur ?_) _ _ _ _ _
    exact s.stays_setDom f d rfl

theorem State.stays_auditEarly (v : Env) (rid addr slot : Nat) (rs : List (Nat × Nat)) : s.Stays (s.auditEarly f d v rid addr slot rs) f d :=
  State.stays_foldl rs (fun s r => by
    split
    · exact s.stays_auditEvent f d _ _ _ _ _ _ _ _
    · exact .refl s f d) s

theorem State.stays_auditSlots (v : Env) (bs : List (SlotOp × List Act)) : s.Stays (s.auditSlots f d v bs) f d :=
  State.stays_foldl bs (fun s _ => s.stays_auditEarly f d v _ _ _ _) s

theorem State.stays_haFirst (w : W64) : s.Stays (s.modDom f d (fun y => { y with haFirst := w })) f d := s.stays_setDom f d rfl

theorem State.stays_harrowFlags (rid addr slot code : Nat) (fl : Raised) : s.Stays (s.harrowFlags f d rid addr slot code fl) f d := by
  have raised := s.stays_modFur f d (g := fun x => x.haFlags d fl) (fun _ => rfl) (fun _ => rfl)
  unfold State.harrowFlags
  dsimp only
  split
  · exact .refl s f d
  · split
    · exact raised
    · generalize s.modFur f (fun x => x.haFlags d fl) = t at raised ⊢
      exact (raised.trans (t.stays_haFirst f d _)).thenOffer _ _ _ _ _

theorem State.stays_raiseFlags (rid addr : Nat) (bs : List (SlotOp × List Act)) : s.Stays (s.raiseFlags f d rid addr bs) f d :=
  State.stays_foldl bs (fun s p => State.stays_foldl p.2 (fun s a => by
    split
    · exact s.stays_harrowFlags f d _ _ _ _ _
    · exact .refl s f d) s) s

theorem State.stays_clashEvents (p0 : Nat) (cs : List (Acc × Option Acc)) : ∀ s : State, s.Stays (s.clashEvents f d p0 cs) f d := by
  induction cs with
  | nil => exact fun s => .refl s f d
  | cons p r ih =>
    intro s
    obtain ⟨a, b⟩ := p
    cases b with
    | none => exact ih s
    | some b =>
      refine .trans ?_ (ih _)
      exact .thenOffer (.thenFur (.refl s f d)) _ _ _ _ _

theorem State.stays_narrowPoison (p0 : Nat) (x0 : Furrow) (as : List Acc) : s.Stays (s.narrowPoison f d p0 x0 as) f d :=
  State.stays_foldl as (fun s a => by
    split
    · exact .thenOffer (.thenFur (.refl s f d)) _ _ _ _ _
    · exact .refl s f d) s

theorem State.stays_issueEvents (t : State) (w : Option Word) (acts : List Act) : t.Stays (s.issueEvents f d t w acts) f d := by
  have flags : t.Stays (match s.courseStep f d acts with
      | some o => t.modFur f (fun z => z.wrFlags d o.ovf o.inv)
      | none => t) f d := by
    split
    · exact t.stays_modFur f d
    · exact .refl t f d
  have early : ∀ u : State, u.Stays (match liveCourse (s.env f d).x acts with
      | some c => u.auditEarly f d (s.env f d) c.rid c.addr 4 ((courseAccs s.build (liveCourse (s.env f d).x acts)).map (fun a => (4, a.addr.toNat / 512)))
      | none => u) f d := fun u => by
    split
    · exact u.stays_auditEarly f d _ _ _ _ _
    · exact .refl u f d
  have raised := ((flags.trans (State.stays_clashEvents f d (posWord (s.dom f d).rid (s.dom f d).pos) (s.clashesNow f d acts) _)).trans
    (State.stays_narrowPoison _ f d (posWord (s.dom f d).rid (s.dom f d).pos) (s.fur f) (s.servedNow f d acts))).trans
    (State.stays_raiseFlags _ f d (s.dom f d).rid (s.dom f d).pos ((s.env f d).slotsOf w))
  unfold State.issueEvents
  dsimp only
  split
  · exact (raised.trans (early _)).trans (State.stays_auditSlots _ f d _ _)
  · exact raised

theorem Furrow.stays_accTags (as : List Acc) : ∀ x : Furrow, x.Stays (as.foldl Furrow.accTags x) d := by
  have one : ∀ (x : Furrow) (a : Acc), x.Stays (x.accTags a) d := by
    intro x a
    have tag : x.Stays (if (!a.write && decide (a.tag = 2)) = true then { x with full := tset false x.full (a.addr.toNat / 512) false } else x) d := by
      split
      · exact .of_doms rfl rfl
      · exact .refl x d
    unfold Furrow.accTags
    dsimp only
    generalize (if (!a.write && decide (a.tag = 2)) = true then { x with full := tset false x.full (a.addr.toNat / 512) false } else x) = y at tag ⊢
    split
    · exact tag
    · split
      · exact tag.trans (.of_doms rfl rfl)
      · split
        · exact tag.trans (.of_doms rfl rfl)
        · exact tag
  induction as with
  | nil => exact fun x => .refl x d
  | cons a r ih => exact fun x => (one x a).trans (ih _)

theorem State.stays_free (n : Nat) : s.Stays { s with free := n } f d := ⟨rfl, fun _ _ => rfl, .refl _ d⟩

theorem State.stays_launch (w : Option Word) (acts : List Act) : s.Stays (s.launch f d w acts) f d := by
  have tagged : ∀ n, s.Stays (State.setFur { s with free := n } f ((s.servedNow f d acts).foldl Furrow.accTags (s.fur f))) f d := fun n =>
    (s.stays_free f d n).trans (State.stays_setFur _ f d (Furrow.stays_accTags d (s.servedNow f d acts) (s.fur f)))
  unfold State.launch
  dsimp only
  exact (tagged _).thenDom

/-- The state in which the acts of a beat that need no flight take effect. -/
def State.eventsOf (w : Option Word) (acts : List Act) : State := s.issueEvents f d (s.launch f d w acts) w acts

theorem State.stays_eventsOf (w : Option Word) (acts : List Act) : s.Stays (s.eventsOf f d w acts) f d :=
  (s.stays_launch f d w acts).trans (s.stays_issueEvents f d _ w acts)

/-! ### The commits of a beat's end -/

theorem macBrick_stays (fmtA fmtB : Nat) (first sat flush aMark : Bool) (free brick set : Nat) (bs : List Nat) (bMark : Bool) (as : List Nat) (e : Dom) :
    ∀ (k : Nat) (x : Furrow), x.Stays (macBrick fmtA fmtB first sat flush aMark free brick set bs bMark as k x e) d := by
  induction as with
  | nil => exact fun _ x => .refl x d
  | cons a r ih =>
    intro k x
    unfold macBrick
    dsimp only
    refine .trans ?_ (ih _ _)
    exact .of_doms rfl rfl

theorem Furrow.applyEff_stays (x x0 : Furrow) (depth : Nat) (free slot issue : Nat) (e : Effect) :
    x.Stays (x.applyEff x0 depth d free slot issue e).1 d := by
  cases e with
  | sreg | areg | flag | vreg => exact Furrow.stays_setDom rfl
  | win b e' mode lo vals mark sums sat flush =>
    obtain ⟨k, won⟩ := x.commitWin_fst x0 d slot issue b e' mode lo vals mark sat flush
    unfold Furrow.applyEff
    dsimp only
    rw [won]
    exact ⟨rfl, by rw [Furrow.dom_setDom]; rfl⟩
  | winClear => exact ⟨rfl, by unfold Furrow.applyEff; rw [Furrow.dom_setDom]; rfl⟩
  | row a bytes tag mark =>
    show x.Stays (x.writeRow a bytes tag mark) d
    unfold Furrow.writeRow
    dsimp only
    split
    · exact .refl x d
    · exact .of_doms rfl rfl
  | standby | swap | counter => exact .of_doms rfl rfl
  | mac fa fb first sat flush as aMark bs =>
    unfold Furrow.applyEff
    dsimp only
    induction bs generalizing x with
    | nil => exact .refl x d
    | cons q r ih => exact .trans (macBrick_stays d _ _ _ _ _ _ _ _ _ _ _ _ _ _ _) (ih _)

theorem State.stays_overtakenEvent (g : Flight) : s.Stays (s.overtakenEvent f d g) f d := by
  unfold State.overtakenEvent
  split
  · exact .refl s f d
  · split
    · exact s.stays_auditEvent f d _ _ _ _ _ _ _ _
    · exact .refl s f d

theorem State.stays_collide (ps : List (Flight × Flight)) : ∀ s : State, s.Stays (s.collide f d ps) f d := by
  induction ps with
  | nil => exact fun s => .refl s f d
  | cons p r ih =>
    intro s
    obtain ⟨kept, lost⟩ := p
    refine .trans ?_ (ih _)
    exact .thenOffer (.thenFur (.refl s f d)) _ _ _ _ _

theorem State.stays_commitList (x0 : Furrow) (gs : List Flight) : ∀ s : State, s.Stays (s.commitList x0 f d gs) f d := by
  induction gs with
  | nil => exact fun s => .refl s f d
  | cons g r ih =>
    intro s
    have applied := s.stays_setFur f d (Furrow.applyEff_stays d (s.fur f) x0 s.build.depth s.free g.slot g.issue g.eff)
    unfold State.commitList
    dsimp only
    generalize (s.fur f).applyEff x0 s.build.depth d s.free g.slot g.issue g.eff = o at applied
    have freed : s.Stays { s.setFur f o.1 with free := match g.eff with | .mac .. => s.free + 512 | _ => s.free } f d :=
      applied.trans (State.stays_free _ f d _)
    generalize { s.setFur f o.1 with free := match g.eff with | .mac .. => s.free + 512 | _ => s.free } = v at freed ⊢
    refine (freed.trans ?_).trans ((State.stays_overtakenEvent _ f d g).trans (ih _))
    split
    · split
      · exact .refl v f d
      · refine .thenOffer ?_ _ _ _ _ _
        exact v.stays_setDom f d rfl
    · exact .refl v f d

/-- The commits of a beat's end whose residue checks pass. -/
theorem State.stays_commitDue : s.Stays (s.commitDue f d 0) f d := by
  rw [s.commitDue_eq f d 0]
  unfold State.commitLists
  simp only [State.mismatches_zero]
  have flown : s.Stays { s.modDom f d (fun y => { y with flights := (s.dom f d).stillFly }) with free := s.free + (s.dom f d).dueNow.length } f d :=
    ((State.Stays.refl s f d).thenDom (g := fun y => { y with flights := (s.dom f d).stillFly })).trans (State.stays_free _ f d _)
  generalize { s.modDom f d (fun y => { y with flights := (s.dom f d).stillFly }) with free := s.free + (s.dom f d).dueNow.length } = t at flown ⊢
  refine .thenFur (.thenFur ?_)
  refine .trans ?_ (State.stays_foldl _ (fun s g => ?_) _)
  · refine .trans ?_ (State.stays_collide f d _ _)
    refine .trans ?_ (State.stays_foldl _ (fun s (p : Flight × Flight) => s.stays_overtakenEvent f d p.2) _)
    exact (flown.trans (State.stays_commitList f d (s.fur f) _ t)).thenDom
  · split
    · exact s.stays_offer f d _ _ _ _ _
    · exact .refl s f d

end

end Sys2Proof.Machine
end

section
/-! PROOFS. The way of a domain on from a retired beat: loops, calls, returns, and the end of the routine (R65, R77 to R82, R171). -/
namespace Sys2Proof.Machine

/-! ### The close of any beat -/

section
variable {s : State} {f : Fur} {d : Dom} {w : Word} {acts : List Act} {next : Nat}

/-- The sequencer operation that the beat issues, and its operand. -/
def seqOpOf (acts : List Act) : Option (Nat × Nat) := acts.findSome? (fun a => match a with | .seqOp c o => some (c, o) | _ => none)

/-- After the commits of a beat only its domain changes: it is turned, its keeper having run. -/
theorem State.retireBeat_leaves (s : State) (f : Fur) (d : Dom) (w : Option Word) (acts : List Act) (next : Nat) :
    ∃ k, (((s.issueBeat f d w acts).commitDue f d 0).dom f d).Kept k ∧
      ((s.issueBeat f d w acts).commitDue f d 0).Leaves (s.retireBeat f d w acts next 0) f
        ((((s.issueBeat f d w acts).commitDue f d 0).fur f).setDom d (k.turned (s.dom f d) (s.fur f) w next (seqOpOf acts)).cut) := by
  obtain ⟨k, kept, left⟩ := ((s.issueBeat f d w acts).commitDue f d 0).leaves_closeBeat f d (s.env f d) w acts next
  refine ⟨k, kept, left.thenSame ?_⟩
  rw [← s.retireActs_eq f d w acts next 0]
  exact State.leaves_ordered s _ f

theorem Domain.Kept.way {x y : Domain} (h : x.Kept y) : y.way = x.way := by
  obtain ⟨k, a, p, b, t, rfl⟩ := h
  rfl

/-- Domain `z` at the word `next`, the loops that end there advanced (R77, R78). -/
def Domain.advanced (z : Domain) (next : Nat) : Domain :=
  { z with done := 0, pos := (advLoops z.stack.length next z.loops).1, loops := (advLoops z.stack.length next z.loops).2 }

/-- Domain `z` is at the end of a beat where `x` was at its beginning, the beat counted and the flags as `x` had them. -/
structure Domain.EndsBeat (x z : Domain) : Prop where
  way : z.way = { x with beat := x.beat + 1 }.way
  flags : z.flags = x.flags

/-- A running domain whose beat issued a word goes on after it, as the flags at the beginning of the beat say. -/
theorem Domain.turned_word {y x : Domain} {fu : Furrow} {seq : Option (Nat × Nat)} (same : y.way = x.way) (running : x.st = .running) :
    ∃ z b, x.EndsBeat z ∧ y.turned x fu (some w) next seq = { z.afterWord fu w next seq with flags := b } := by
  refine ⟨{ y with ticks := y.ticks + 1, beats := y.beats + 1, runBeats := y.runBeats + 1, beat := y.beat + 1, flags := x.flags }, y.flags,
    ⟨congrArg (fun v : Way => { v with beat := v.beat + 1 }) same, rfl⟩, ?_⟩
  have st : y.st = .running := (congrArg Way.st same).trans running
  unfold Domain.turned
  dsimp only
  rw [if_neg (by rw [st]; decide)]

theorem State.issueBeat_seqOps {word : Option Word} (seqs : ∀ a ∈ acts, ∃ c n, a = .seqOp c n) :
    s.issueBeat f d word acts = s.eventsOf f d word acts := by
  unfold State.issueBeat
  refine foldl_eq_self (fun t a ha => ?_) _
  obtain ⟨c, n, rfl⟩ := seqs a ha
  rfl

/-- Domain `y` after the close of its beat, `b` its flags. -/
def Domain.closed (y : Domain) (b : BitVec 4) : Domain := ({ y with flags := b } : Domain).cut

/-- Where a running domain stands after a beat that issued at most sequencer operations. -/
theorem State.retireBeat_seqOps (running : (s.dom f d).st = .running) (seqs : ∀ a ∈ acts, ∃ c n, a = .seqOp c n) :
    ∃ z b, (s.dom f d).EndsBeat z ∧
      (s.retireBeat f d (some w) acts next 0).dom f d = (z.afterWord (s.fur f) w next (seqOpOf acts)).closed b := by
  obtain ⟨k, kept, left⟩ := s.retireBeat_leaves f d (some w) acts next
  rw [State.issueBeat_seqOps seqs] at kept left
  have stays := (s.stays_eventsOf f d (some w) acts).trans (State.stays_commitDue _ f d)
  obtain ⟨z, b, ends, turned⟩ := Domain.turned_word (w := w) (next := next) (fu := s.fur f) (seq := seqOpOf acts) (kept.way.trans stays.way) running
  exact ⟨z, b, ends, by rw [left.dom, Furrow.dom_setDom, turned]; rfl⟩

section
variable {x z : Domain} (h : x.EndsBeat z)
include h

theorem Domain.EndsBeat.st : z.st = x.st := congrArg Way.st h.way
theorem Domain.EndsBeat.loops : z.loops = x.loops := congrArg Way.loops h.way
theorem Domain.EndsBeat.stack : z.stack = x.stack := congrArg Way.stack h.way
theorem Domain.EndsBeat.rid : z.rid = x.rid := congrArg Way.rid h.way
theorem Domain.EndsBeat.idle : z.idle = x.idle := congrArg Way.idle h.way
theorem Domain.EndsBeat.stop : z.stop = x.stop := congrArg Way.stop h.way
theorem Domain.EndsBeat.bricks : z.bricks = x.bricks := congrArg Way.bricks h.way
theorem Domain.EndsBeat.pairLost : z.pairLost = x.pairLost := congrArg Way.pairLost h.way
theorem Domain.EndsBeat.beat : z.beat = x.beat + 1 := congrArg Way.beat h.way

/-- The count of a LOOP, a field or a live layer register, is that of the beginning of the beat (R77). -/
theorem Domain.EndsBeat.loopCount (op : Nat) : loopCount z op = Machine.loopCount x op := by
  have live : z.live = x.live := congrArg Way.live h.way
  unfold Machine.loopCount Domain.ly
  rw [live]

theorem Domain.EndsBeat.advanced (next : Nat) : (z.advanced next).pos = (advLoops x.stack.length next x.loops).1 ∧
    (z.advanced next).loops = (advLoops x.stack.length next x.loops).2 := by
  rw [← h.stack, ← h.loops]
  exact ⟨rfl, rfl⟩

end

end

/-! ### After a word -/

theorem Domain.closed_running {x y : Domain} {b : BitVec 4} (h : x.st = .running) (same : y.st = x.st := by exact rfl) :
    y.closed b = { y with flags := b } := by
  unfold Domain.closed Domain.cut
  rw [same, h]
  rfl

/-- A paired domain whose routine ends drains without a course (R82, R171). -/
theorem Domain.closed_draining {x y : Domain} {b : BitVec 4} (paired : x.pairLost = false) (h : y.st = .draining := by exact rfl)
    (same : y.pairLost = x.pairLost := by exact rfl) : y.closed b = { y with flags := b, course := none } := by
  unfold Domain.closed Domain.cut
  rw [h, same, paired]
  rfl

section
variable {z : Domain} {fu : Furrow} {o : SlotOp} {next op : Nat}

theorem Domain.afterWord_loop (count : loopCount z op ≠ 0) (body : nfld op 20 16 ≠ 0) : z.afterWord fu (oneOp o) next (some (1, op)) =
    { z with
      done := 0, pos := next
      loops := ⟨nfld op 37 3, z.stack.length, next, (skipWords fu.pstore (2 ^ 18) (nfld op 20 16) next).getD next, loopCount z op⟩ :: z.loops } := by
  unfold Domain.afterWord
  simp [oneOp, Word.extra, count, body]

theorem Domain.afterWord_loop_none (h : loopCount z op = 0 ∨ nfld op 20 16 = 0) : z.afterWord fu (oneOp o) next (some (1, op)) =
    { z.advanced ((skipWords fu.pstore (2 ^ 18) (nfld op 20 16) next).getD next) with idle := 2 } := by
  unfold Domain.afterWord
  simp [oneOp, Word.extra, h, Domain.advanced]

theorem Domain.afterWord_call : z.afterWord fu (oneOp o) next (some (2, op)) =
    (z.advanced next).makeCall (nfld op 32 8) (fu.routine (nfld op 32 8)) (z.advanced next).pos false (z.advanced next).loops := by
  unfold Domain.afterWord
  simp [oneOp, Word.extra, Word.endBit, Domain.advanced]

theorem Domain.afterWord_callif (taken : (bitOf z.flags (nfld op 30 2) == decide (nfld op 29 1 = 1)) = true) :
    z.afterWord fu (oneOp o) next (some (3, op)) = z.afterWord fu (oneOp o) next (some (2, op)) := by
  unfold Domain.afterWord
  simp only [taken, if_true]

theorem Domain.afterWord_callif_not (untaken : (bitOf z.flags (nfld op 30 2) == decide (nfld op 29 1 = 1)) = false) :
    z.afterWord fu (oneOp o) next (some (3, op)) = { z.advanced next with idle := 2, endAfter := false } := by
  unfold Domain.afterWord
  simp [oneOp, Word.extra, Word.endBit, Domain.advanced, untaken]

theorem Domain.afterWord_ret : z.afterWord fu (oneOp o) next (some (4, op)) = (z.advanced next).takeEnd := by
  unfold Domain.afterWord
  simp [oneOp, Word.extra, Domain.advanced]

theorem Domain.afterWord_halt : z.afterWord fu (oneOp o) next (some (5, op)) = (z.advanced next).finishRoutine := by
  unfold Domain.afterWord
  simp [oneOp, Word.extra, Domain.advanced]

theorem Domain.afterWord_end : z.afterWord fu ⟨0x8000, [], 0⟩ next none = (z.advanced next).takeEnd := by
  unfold Domain.afterWord
  simp [Word.extra, Word.endBit, Domain.advanced]

theorem Domain.takeEnd_bottom {y : Domain} (h : y.stack = []) : y.takeEnd = y.finishRoutine := by
  unfold Domain.takeEnd
  rw [h]

theorem Domain.takeEnd_frame {y : Domain} {fr : CallFrame} {r : List CallFrame} (h : y.stack = fr :: r) : y.takeEnd = { y with
    stack := r, rid := fr.rid, pos := fr.ret, stop := fr.stop, bricks := fr.bricks, idle := 2, endAfter := fr.endPending, done := 0
    loops := y.loops.filter (fun l => decide (l.depth < y.stack.length)) } := by
  unfold Domain.takeEnd
  rw [h]

end

/-! ### The obligations -/

section
variable {s : State} {f : Fur} {d : Dom} {op : BitVec 40}

theorem running_of_canAttempt (h : s.canAttempt f d = true) : (s.dom f d).st = .running := by
  unfold State.canAttempt at h
  simp only [Bool.and_eq_true, decide_eq_true_eq] at h
  exact h.1.1

/-- The beat of a sequencer operation that nothing stops retires, and its domain goes on as after the word with it. -/
theorem seqOp_retires {code : Nat} (present : code ≠ 0)
    (ready : s.atBeat f d) (enc : encFault ⟨0, code, op.toNat⟩ = none) (free : s.unblocked f d [.seqOp code op.toNat])
    (legal : seqFault (s.env f d) false (s.dom f d).pos code op.toNat = none) :
    ∃ z b, (s.dom f d).EndsBeat z ∧ (s.opBeat f d ⟨0, code, op.toNat⟩).dom f d =
      (z.afterWord (s.fur f) (oneOp ⟨0, code, op.toNat⟩) (s.dom f d).pos (some (code, op.toNat))).closed b := by
  have acts : slotActs (s.env f d) (s.dom f d).rid (s.dom f d).pos none ⟨0, code, op.toNat⟩ = .ok [.seqOp code op.toNat] := if_neg present
  have retires := opBeat_retires s f d _ _ ready enc (fun _ => legal) acts rfl free
  obtain ⟨z, b, ends, dom⟩ := State.retireBeat_seqOps (w := oneOp ⟨0, code, op.toNat⟩) (next := (s.dom f d).pos)
    (acts := [.seqOp code op.toNat]) (running_of_canAttempt ready.1) (by simp)
  exact ⟨z, b, ends, by rw [retires]; exact dom⟩

/-- Domain `y` is `x` after a call with operand `n` (R80, R86). -/
def Domain.Enters (x y : Domain) (fu : Furrow) (n : Nat) : Prop :=
  let callee := fu.routine (nfld n 32 8)
  let adv := advLoops x.stack.length x.pos x.loops
  y.rid = nfld n 32 8 ∧ y.pos = callee.addr ∧ y.stop = callee.addr + callee.length ∧ y.bricks = callee.bricks ∧ y.idle = 2 ∧ y.loops = adv.2 ∧
    y.stack = ⟨x.rid, adv.1, x.stop, x.bricks, false⟩ :: x.stack

theorem Domain.EndsBeat.calls {x z : Domain} (h : x.EndsBeat z) (running : z.st = .running) (fu : Furrow) (o : SlotOp) (n : Nat) (b : BitVec 4) :
    x.Enters ((z.afterWord fu (oneOp o) x.pos (some (2, n))).closed b) fu n := by
  obtain ⟨pos, loops⟩ := h.advanced x.pos
  rw [Domain.afterWord_call, Domain.closed_running running]
  refine ⟨rfl, rfl, rfl, rfl, rfl, loops, ?_⟩
  rw [← pos, ← h.rid, ← h.stop, ← h.bricks, ← h.stack]
  rfl

/-- Settles O19: each of the five operations turns its domain at the end of its beat as the equations of `Domain.afterWord` say, and the domain
runs on. -/
theorem controlFlow : Obligations.ControlFlow := by
  unfold Obligations.ControlFlow
  intro f d op s
  dsimp only
  refine ⟨fun count body ready enc free legal => ?_, fun none ready enc free legal => ?_, fun ready enc free legal => ?_,
    fun taken ready enc free legal => ?_, fun untaken ready enc free legal => ?_, fun fr r stack ready enc free legal => ?_⟩
  all_goals
    obtain ⟨z, b, ends, dom⟩ := seqOp_retires (by decide) ready enc free legal
    refine ⟨_, exec_of_slotOp rfl s, ?_⟩
    rw [dom]
    have running : z.st = .running := ends.st.trans (running_of_canAttempt ready.1)
  · have count' : loopCount z op.toNat ≠ 0 := by rw [ends.loopCount]; exact count
    rw [Domain.afterWord_loop count' body, Domain.closed_running running]
    refine ⟨rfl, ends.idle.trans ready.2.2.1, ends.stack, ?_⟩
    rw [ends.loopCount, ends.stack, ends.loops]
    rfl
  · have none' : loopCount z op.toNat = 0 ∨ nfld op.toNat 20 16 = 0 := by rw [ends.loopCount]; exact none
    rw [Domain.afterWord_loop_none none', Domain.closed_running running]
    refine ⟨rfl, ends.stack, ?_⟩
    rw [← ends.stack, ← ends.loops]
    rfl
  · exact ends.calls running _ _ _ b
  · rw [Domain.afterWord_callif (by rw [ends.flags]; exact taken)]
    exact ends.calls running _ _ _ b
  · obtain ⟨pos, loops⟩ := ends.advanced (s.dom f d).pos
    rw [Domain.afterWord_callif_not (by rw [ends.flags]; exact untaken), Domain.closed_running running]
    exact ⟨ends.rid, pos, loops, rfl, ends.stack⟩
  · have frame : (z.advanced (s.dom f d).pos).stack = fr :: r := ends.stack.trans stack
    rw [Domain.afterWord_ret, Domain.takeEnd_frame frame, Domain.closed_running running]
    exact ⟨rfl, rfl, rfl, rfl, rfl, rfl, rfl⟩

/-- A routine that ends in a beat of its paired domain: it drains, without loops, calls or a course. -/
theorem Domain.EndsBeat.finishes {x z : Domain} (h : x.EndsBeat z) (paired : x.pairLost = false) (next : Nat) (b : BitVec 4) :
    let y := (z.advanced next).finishRoutine.closed b
    y.st = .draining ∧ y.loops = [] ∧ y.stack = [] ∧ y.course = none ∧ y.beat = x.beat + 1 := by
  dsimp only
  rw [Domain.closed_draining (h.pairLost.trans paired)]
  exact ⟨rfl, rfl, rfl, rfl, h.beat⟩

/-- A beat with the empty word that has END and that nothing stops retires. -/
theorem State.endBeat_retires (ready : s.atBeat f d) (free : s.unblocked f d []) :
    s.emptyBeat f d 0x8000 0 = s.retireBeat f d (some ⟨0x8000, [], 0⟩) [] (s.dom f d).pos 0 := by
  obtain ⟨run, paired, idle, done, before⟩ := ready
  unfold State.emptyBeat
  simp only [run, paired, idle, done, Bool.not_false, Bool.and_self, beq_self_eq_true, if_true]
  rw [issueAttempt_before_end s f d _ _ 0 before]
  exact State.attempt_of_unblocked 0 rfl free

/-- Settles O20: RET and END of an empty call stack and HALT all finish the routine at the end of their beat, and the close cuts the course. -/
theorem routineEnds : Obligations.RoutineEnds := by
  unfold Obligations.RoutineEnds
  intro f d op s
  dsimp only
  intro ready free
  refine ⟨fun bottom zero => ?_, fun zero => ?_, fun bottom => ?_⟩
  · subst zero
    obtain ⟨z, b, ends, dom⟩ := seqOp_retires (op := 0) (code := 4) (by decide) ready rfl free rfl
    refine ⟨_, exec_of_slotOp rfl s, ?_⟩
    have bottom' : (z.advanced (s.dom f d).pos).stack = [] := ends.stack.trans bottom
    rw [dom, Domain.afterWord_ret, Domain.takeEnd_bottom bottom']
    exact ends.finishes ready.2.1 _ b
  · subst zero
    obtain ⟨z, b, ends, dom⟩ := seqOp_retires (op := 0) (code := 5) (by decide) ready rfl free rfl
    refine ⟨_, exec_of_slotOp rfl s, ?_⟩
    rw [dom, Domain.afterWord_halt]
    exact ends.finishes ready.2.1 _ b
  · refine ⟨_, congrArg Host.Outcome.next (State.endBeat_retires ready free), ?_⟩
    obtain ⟨z, b, ends, dom⟩ := State.retireBeat_seqOps (w := ⟨0x8000, [], 0⟩) (next := (s.dom f d).pos) (acts := [])
      (running_of_canAttempt ready.1) (by simp)
    have bottom' : (z.advanced (s.dom f d).pos).stack = [] := ends.stack.trans bottom
    have seq : seqOpOf [] = none := rfl
    rw [dom, seq, Domain.afterWord_end, Domain.takeEnd_bottom bottom']
    exact ends.finishes ready.2.1 _ b

end

end Sys2Proof.Machine
end

section
/-! PROOFS. O16: the operations of the drill slots and of the signal slot, and what they do at the end of their beat (R73, R74, R134 to R139,
R285). -/
namespace Sys2Proof.Machine

/-! ### What the slots issue -/

section
variable {v : Env} {n code : Nat}

/-- The act of a DRI operation on drill `k` (R73). -/
def driAct (code k : Nat) : Act := match code with | 0xA0 => .dgo k false | 0xA1 => .dtile k | _ => .dstop k

/-- How a signal operation changes its counter (R74, R283). -/
def sigChange (code : Nat) : Nat := match code with | 0xB0 => 1 | 0xB1 => 2 | _ => 0

theorem drillOther_of_mine (mine : v.fu.split = true → nfld n 37 3 / 4 = v.d.val) : drillOther v (nfld n 37 3) = false := by
  unfold drillOther
  rw [Bool.and_eq_false_imp]
  exact fun split => decide_eq_false (not_not.mpr (mine split))

/-- A drill of the domain's half that is IDLE or not armed OUT takes the operations of the DRI slot (R73, R134). -/
theorem driActs_of_free (mine : v.fu.split = true → nfld n 37 3 / 4 = v.d.val)
    (free : (v.fu.drill (drillOf (nfld n 37 3))).st = .idle ∨ (v.fu.drill (drillOf (nfld n 37 3))).out = false) :
    driActs v code n = .ok [driAct code (nfld n 37 3)] := by
  have armed : ((v.fu.drill (drillOf (nfld n 37 3))).st != .idle && (v.fu.drill (drillOf (nfld n 37 3))).out) = false := by
    rcases free with h | h <;> rw [h]
    · rfl
    · exact Bool.and_false _
  unfold driActs
  simp only [armed, drillOther_of_mine mine, Bool.false_eq_true, if_false]
  rfl

/-- A drill of the domain's half that is IDLE or not armed IN takes the operations of the DRO slot (R73, R134, R138). -/
theorem droActs_of_free (mine : v.fu.split = true → nfld n 37 3 / 4 = v.d.val)
    (free : (v.fu.drill (drillOf (nfld n 37 3))).st = .idle ∨ (v.fu.drill (drillOf (nfld n 37 3))).out = true) (other : code ≠ 0xA8) :
    droActs v code n = .ok [if code = 0xA9 then .dtend (nfld n 37 3) else .dgo (nfld n 37 3) true] := by
  have armed : ((v.fu.drill (drillOf (nfld n 37 3))).st != .idle && !(v.fu.drill (drillOf (nfld n 37 3))).out) = false := by
    rcases free with h | h <;> rw [h]
    · rfl
    · exact Bool.and_false _
  unfold droActs
  simp only [armed, drillOther_of_mine mine, other, Bool.false_eq_true, if_false]

/-- DPUT hands over the bytes that the lanes form, in a row of zeros. -/
theorem droActs_put (mine : v.fu.split = true → nfld n 37 3 / 4 = v.d.val)
    (free : (v.fu.drill (drillOf (nfld n 37 3))).st = .idle ∨ (v.fu.drill (drillOf (nfld n 37 3))).out = true) {lo m : Nat}
    (lanes : rowLanes v.h (nfld n 30 2) (nfld n 28 2) = some (lo, m)) :
    let r := v.x.vreg (nfld n 32 5)
    let rb := rowOfLanes (r.vals lo m) (nfld n 30 2) (nfld n 28 2)
    droActs v 0xA8 n = .ok [.put (nfld n 37 3) (List.replicate rb.1 0 ++ rb.2 ++ List.replicate (512 - (rb.1 + rb.2.length)) 0)
      (r.marks &&& segsOf lo m != 0)] := by
  have armed : ((v.fu.drill (drillOf (nfld n 37 3))).st != .idle && !(v.fu.drill (drillOf (nfld n 37 3))).out) = false := by
    rcases free with h | h <;> rw [h]
    · rfl
    · exact Bool.and_false _
  unfold droActs
  simp only [armed, lanes, drillOther_of_mine mine, Bool.false_eq_true, if_false, if_true, List.length_append, List.length_replicate]

/-- SADD, SSUB and SSET change a counter of a furrow of the same owner (R74). -/
theorem sigActs_of_mine (built : nfld n 36 4 < v.b.furrows) (owned : bitOf v.mine (nfld n 36 4) = true) (change : code ≠ 0xB3) :
    sigActs v code n = .ok [.sig (nfld n 36 4) (nfld n 28 8) (sigChange code)
      (if nfld n 27 1 = 1 then fld (v.x.sreg (nfld n 22 5)) 0 16 else nfld n 0 16)] := by
  have free : (v.b.furrows ≤ nfld n 36 4 || !bitOf v.mine (nfld n 36 4)) = false := by
    rw [owned, decide_eq_false (Nat.not_le.mpr built)]
    rfl
  unfold sigActs
  simp only [change, free, Bool.false_eq_true, if_false]
  rfl

theorem sigActs_wait (own : nfld n 36 4 = 0) : sigActs v 0xB3 n = .ok [.wait (nfld n 28 8)
    (if nfld n 27 1 = 1 then fld (v.x.sreg (nfld n 22 5)) 0 16 else nfld n 0 16)] := by
  unfold sigActs
  simp only [own, ne_eq, not_true_eq_false, if_true, if_false]

end

section
variable {s : State} {f : Fur} {d : Dom} {c : Instr} {n code : Nat}

theorem issues_dri (slot : slotOpOf c = some (f, d, ⟨10, code, n⟩)) (present : code ≠ 0) (mine : (s.fur f).split = true → nfld n 37 3 / 4 = d.val)
    (free : (s.drill f (drillOf (nfld n 37 3))).st = .idle ∨ (s.drill f (drillOf (nfld n 37 3))).out = false) :
    issues c s f d ⟨10, code, n⟩ [driAct code (nfld n 37 3)] := by
  refine issues_of _ s f d _ _ (exec_of_slotOp slot s) (fun h => absurd h (Nat.succ_ne_zero 9))
    ((if_neg present).trans (driActs_of_free (v := s.env f d) mine free)) ?_
  unfold driAct
  split <;> rfl

theorem issues_dro {acts : List Act} (slot : slotOpOf c = some (f, d, ⟨11, code, n⟩)) (present : code ≠ 0)
    (ok : droActs (s.env f d) code n = .ok acts) (half : actsHalf (s.env f d) acts = none) : issues c s f d ⟨11, code, n⟩ acts :=
  issues_of _ s f d _ _ (exec_of_slotOp slot s) (fun h => absurd h (Nat.succ_ne_zero 10)) ((if_neg present).trans ok) half

theorem issues_sig {acts : List Act} (slot : slotOpOf c = some (f, d, ⟨12, code, n⟩)) (present : code ≠ 0)
    (ok : sigActs (s.env f d) code n = .ok acts) (half : actsHalf (s.env f d) acts = none) : issues c s f d ⟨12, code, n⟩ acts :=
  issues_of _ s f d _ _ (exec_of_slotOp slot s) (fun h => absurd h (Nat.succ_ne_zero 11)) ((if_neg present).trans ok) half

end

/-! ### What the acts do to their drill -/

section
variable (s : State) (f : Fur) (d : Dom) (k : DrillNo) (lastPut : Option Nat) (rid addr : Nat)

/-- Drill `k` after the act `a`. -/
def State.drillAfter (a : Act) : Drill := (s.lateAct f d lastPut rid addr a).drill f k

theorem State.drill_offer (code : Nat) (source : W16) (p0 p1 p2 : Nat) : (s.offer code source p0 p1 p2).drill f k = s.drill f k :=
  (s.stays_offer f 0 code source p0 p1 p2).drill k

theorem State.drill_unrefSegs (is : List Nat) : (s.unrefSegs is).drill f k = s.drill f k :=
  congrArg (Furrow.drill · k) (State.fur_of_furs (s.unrefSegs_furs is) f)

theorem State.endList_drill : (s.endList f k).drill f k =
    if (s.drill f k).persist && (s.drill f k).disarm.isEmpty then (s.drill f k).toParked else (s.drill f k).toIdle := by
  unfold State.endList
  dsimp only
  split
  · exact ((State.finishOpt_sameFurrows _ _ _ _ _).drill f k).trans (s.drill_setDrill f k _)
  · exact (s.idleDrill_work f k _ _ _).2

/-- The list of an ARMED drill starts; one without a block ends at once (R134, R136). -/
theorem State.startList_drill : (s.startList f k).drill f k =
    if (s.drill f k).count = 0 then
      (if (s.drill f k).persist && (s.drill f k).disarm.isEmpty then (s.drill f k).toParked else (s.drill f k).toIdle)
    else { s.drill f k with st := .running, latched := none } := by
  have started : (s.modDrill f k (fun x => { x with st := .running, latched := none })).drill f k =
    { s.drill f k with st := .running, latched := none } := s.drill_setDrill f k _
  unfold State.startList
  dsimp only
  split
  · rw [State.endList_drill, started]
    rfl
  · exact started

theorem drillOf_val : drillOf k.val = k := Fin.ofNat_val_eq_self k

theorem State.drillAfter_dgo_waiting {out : Bool} (h : (s.drill f k).st = .idle ∨ (s.drill f k).st = .parked) :
    s.drillAfter f d k lastPut rid addr (.dgo k.val out) = { s.drill f k with latched := some out } := by
  unfold State.drillAfter State.lateAct
  dsimp only
  rw [drillOf_val]
  rcases h with h | h <;> simp only [h] <;> exact s.drill_setDrill f k _

theorem State.drillAfter_dgo_armed {out : Bool} (h : (s.drill f k).st = .armed) :
    s.drillAfter f d k lastPut rid addr (.dgo k.val out) = (s.startList f k).drill f k := by
  unfold State.drillAfter State.lateAct
  dsimp only
  rw [drillOf_val]
  simp only [h]

theorem State.drillAfter_dgo_busy {out : Bool} (h : (s.drill f k).st = .running ∨ (s.drill f k).st = .stopping ∨ (s.drill f k).st = .frozen) :
    s.drillAfter f d k lastPut rid addr (.dgo k.val out) = s.drill f k := by
  unfold State.drillAfter State.lateAct
  dsimp only
  rw [drillOf_val]
  rcases h with h | h | h <;> simp only [h] <;> exact s.drill_offer f k _ _ _ _ _

theorem State.drillAfter_dtile : s.drillAfter f d k lastPut rid addr (.dtile k.val) = { s.drill f k with credit := (s.drill f k).credit + 1 } := by
  unfold State.drillAfter State.lateAct
  dsimp only
  rw [drillOf_val]
  exact s.drill_setDrill f k _

theorem State.drillAfter_dstop : s.drillAfter f d k lastPut rid addr (.dstop k.val) = if (s.drill f k).st = .running then
    { s.drill f k with st := .stopping, blocks := (s.drill f k).blocks.filter (fun b => !(s.drill f k).untouched b) } else s.drill f k := by
  unfold State.drillAfter State.lateAct State.beginStop
  dsimp only
  rw [drillOf_val]
  split
  · exact (State.drill_unrefSegs _ f k _).trans (s.drill_setDrill f k _)
  · rfl

theorem State.drillAfter_dtend : s.drillAfter f d k lastPut rid addr (.dtend k.val) =
    if (s.drill f k).st = .running ∨ (s.drill f k).st = .stopping then
      { (s.drill f k).endTile with blocks := (s.drill f k).endTile.blocks.filter (fun b => !b.over') } else s.drill f k := by
  unfold State.drillAfter State.lateAct State.endTile State.dropBlocks
  dsimp only
  rw [drillOf_val]
  split
  · rw [State.drill_unrefSegs, State.drill_setDrill, State.drill_setDrill]
  · rfl

theorem State.drillAfter_put (bytes : List Byte) (mark : Bool) : s.drillAfter f d k lastPut rid addr (.put k.val bytes mark) =
    { s.drill f k with putq := (s.drill f k).putq ++ [⟨2 * (s.dom f d).puts + d.val, bytes, mark⟩] } := by
  have same : (s.setDom f d { s.dom f d with puts := (s.dom f d).puts + 1, lastPut := some (2 * (s.dom f d).puts + d.val) }).drill f k = s.drill f k := by
    unfold State.drill State.setDom
    rw [State.fur_setFur]
    rfl
  unfold State.drillAfter State.lateAct
  dsimp only
  rw [drillOf_val, State.modDrill, State.drill_setDrill, same]

end

/-! ### DTEND of an open block (R139) -/

theorem Desc.rows_lt (x : Desc) : x.rows < 2 ^ 16 := Nat.mod_lt _ (by decide)

theorem Desc.rows_withRows (x : Desc) {n : Nat} (h : n < 2 ^ 16) : (x.withRows n).rows = n := by
  have row : (x.withRows n).rows = (x.w2.toNat / 2 ^ 16 * 2 ^ 16 + n % 2 ^ 16) % 2 ^ 64 / 2 ^ 0 % 2 ^ 16 := by
    unfold Desc.withRows Desc.rows fld nfld w64
    rw [BitVec.toNat_ofNat]
  rw [row]
  omega

/-- An OUT drill whose one block, of the put queue, waits for rows ends that block's tile: the block is cut to the rows that it has received. -/
theorem Drill.endTile_open {y : Drill} {b : Block} (one : y.blocks = [b]) (put : b.isPut = true) (open' : b.begun < b.rows) (empty : y.putq = [])
    (tile : y.tilePut = some b.tile) : y.endTile.blocks = [b.cut] := by
  have current : y.currentTile = b.tile := by
    unfold Drill.currentTile
    simp [one, put, open']
  have whole : b.takePuts [] = b := by simp [Block.takePuts]
  unfold Drill.endTile
  simp [current, tile, one, empty, fillPuts, put, whole]

theorem Block.rows_cut {b : Block} (open' : b.begun < b.rows) : b.cut.rows = b.begun := b.desc.rows_withRows (open'.trans b.desc.rows_lt)

theorem Block.filter_cut_over {b : Block} (h : b.cut.rows ≤ b.moved) : [b.cut].filter (fun b => !b.over') = [] :=
  List.filter_cons_of_neg (by simpa [Block.over', Block.cut] using h)

theorem Block.filter_cut_short {b : Block} (h : b.moved < b.cut.rows) : [b.cut].filter (fun b => !b.over') = [b.cut] :=
  List.filter_cons_of_pos (by simpa [Block.over', Block.cut] using h)

/-! ### From the acts to the end of the beat -/

section
variable {s : State} {f : Fur} {d : Dom} {o : SlotOp}

theorem State.Leaves.drill {t : State} {x : Furrow} {k : DrillNo} (h : s.Leaves t f x) : t.drill f k = x.drill k := by
  obtain ⟨b, w, fur⟩ := h.fur
  rw [State.drill, fur]
  rfl

theorem Furrow.drill_setDom (x : Furrow) (d : Dom) (y : Domain) (k : DrillNo) : (x.setDom d y).drill k = x.drill k := rfl

/-- At the end of its beat an act that issues alone has done to a drill what it does to one as it was at the beginning. -/
theorem State.issued_drill (s : State) (f : Fur) (d : Dom) (o : SlotOp) (a : Act) (k : DrillNo) :
    ∃ u : State, u.drill f k = s.drill f k ∧ (u.dom f d).puts = (s.dom f d).puts ∧
      (s.issued f d o [a]).drill f k = u.drillAfter f d k (s.dom f d).lastPut (s.dom f d).rid (s.dom f d).pos a := by
  have stays := s.stays_eventsOf f d (some (oneOp o)) [a]
  refine ⟨s.eventsOf f d (some (oneOp o)) [a], stays.drill k, congrArg Way.puts stays.way, ?_⟩
  obtain ⟨x, -, left⟩ := s.retireBeat_leaves f d (some (oneOp o)) [a] (s.dom f d).pos
  exact (left.drill.trans (Furrow.drill_setDom _ d _ k)).trans ((s.issueBeat f d (some (oneOp o)) [a]).stays_commitDue f d |>.drill k)

theorem State.lateAct_sig_other {g : Fur} (u : State) (c k v : Nat) (other : g ≠ f) (lastPut : Option Nat) (rid addr : Nat) :
    let t := u.lateAct f d lastPut rid addr (.sig g.val c k v)
    (t.fur g).counters = (u.fur g).counters ∧
      ∃ l, ⟨2 * f.val + d.val, c, k, v, lastPut, l⟩ ∈ (t.fur g).changes ∧ (lastPut = none → l = some u.time) := by
  have furOf_g : furOf g.val = g := Fin.ofNat_val_eq_self g
  unfold State.lateAct
  dsimp only
  rw [if_neg (fun h => other (Fin.ext h)), furOf_g]
  generalize joined : u.modFur g (fun x => { x with changes := x.changes ++ [⟨2 * f.val + d.val, c, k, v, lastPut, none⟩] }) = w
  have fur : w.fur g = { u.fur g with changes := (u.fur g).changes ++ [⟨2 * f.val + d.val, c, k, v, lastPut, none⟩] } := by
    rw [← joined]
    exact u.fur_setFur g _
  have time : w.time = u.time := by rw [← joined]; rfl
  have entered : (⟨2 * f.val + d.val, c, k, v, lastPut, none⟩ : Change) ∈ (w.fur g).changes := by rw [fur]; simp
  unfold State.leaveChanges
  rw [if_neg (List.ne_nil_of_mem entered), State.modFur, State.fur_setFur]
  refine ⟨by rw [fur], ?_⟩
  generalize left : (if (none : Option W64).isNone && w.hasLeft ⟨2 * f.val + d.val, c, k, v, lastPut, none⟩ then some w.time else none) = l
  refine ⟨l, List.mem_map.mpr ⟨_, entered, ?_⟩, fun first => ?_⟩
  · rw [← left]
    split <;> rfl
  · rw [← left, ← time, first]
    rfl

/-- A signal to another furrow enters the changes of that furrow, and leaves at once when no row was handed over before (R285). -/
theorem State.issued_sig_other {g : Fur} (c k v : Nat) (other : g ≠ f) :
    ((s.issued f d o [.sig g.val c k v]).fur g).counters = (s.fur g).counters ∧
    ∃ l, ⟨2 * f.val + d.val, c, k, v, (s.dom f d).lastPut, l⟩ ∈ ((s.issued f d o [.sig g.val c k v]).fur g).changes ∧
      ((s.dom f d).lastPut = none → l = some s.time) := by
  have stays := s.stays_eventsOf f d (some (oneOp o)) [.sig g.val c k v]
  obtain ⟨x, -, left⟩ := s.retireBeat_leaves f d (some (oneOp o)) [.sig g.val c k v] (s.dom f d).pos
  have closed := (left.fur_ne other).trans ((State.stays_commitDue _ f d).others g other)
  have acts : s.issueBeat f d (some (oneOp o)) [.sig g.val c k v] =
    (s.eventsOf f d (some (oneOp o)) [.sig g.val c k v]).lateAct f d (s.dom f d).lastPut (s.dom f d).rid (s.dom f d).pos (.sig g.val c k v) := rfl
  have time := stays.time
  have same := stays.others g other
  unfold State.issued
  rw [closed, acts]
  generalize s.eventsOf f d (some (oneOp o)) [.sig g.val c k v] = u at time same
  rw [← same, ← time]
  exact u.lateAct_sig_other c k v other _ _ _

/-! ### A signal to the own furrow (R285) -/

theorem liveCourse_sig {x : Domain} (idle : x.course = none) (t c k v : Nat) : liveCourse x [.sig t c k v] = none := by
  unfold liveCourse
  rw [idle]
  rfl

section
variable {c k v : Nat} (idle : (s.dom f d).course = none)
include idle

theorem State.courseStep_sig (t : Nat) : s.courseStep f d [.sig t c k v] = none := by
  unfold State.courseStep
  rw [liveCourse_sig idle]
  rfl

theorem State.servedNow_sig (t : Nat) : s.servedNow f d [.sig t c k v] = [] := by
  unfold State.servedNow State.courseNow
  rw [liveCourse_sig idle]
  rfl

theorem State.clashesNow_sig (t : Nat) : s.clashesNow f d [.sig t c k v] = [] := by
  unfold State.clashesNow
  rw [liveCourse_sig idle]
  rfl

end

section
variable {c k v : Nat} (idle : (s.dom f d).course = none) (quiet : (s.dom f d).flights = [])
  (acts : slotActs (s.env f d) (s.dom f d).rid (s.dom f d).pos none o = .ok [.sig f.val c k v])
include idle quiet acts

/-- The launch of a signal to the own furrow puts the change of its counter in flight, to commit in the same beat. -/
theorem State.leaves_launch_sig : ∃ y, s.Leaves (s.launch f d (some (oneOp o)) [.sig f.val c k v]) f ((s.fur f).setDom d y) ∧
    y.flights = [s.effFlight f d o 1 (.counter c k v)] ∧ y.beat = (s.dom f d).beat := by
  have step := State.courseStep_sig (c := c) (k := k) (v := v) idle f.val
  have none : s.courseFlights f d [.sig f.val c k v] = [] := by unfold State.courseFlights; rw [step]
  have fresh : s.slotFlights f d (some (oneOp o)) [.sig f.val c k v] = [s.effFlight f d o 1 (.counter c k v)] := by
    unfold State.slotFlights
    rw [Env.slotsOf_one acts]
    simp [flightsOf, State.effFlight, State.env]
  have old : (if (s.build.audit && (s.fur f).auditEn) = true then markOvertaken s.build.depth [] [s.effFlight f d o 1 (.counter c k v)] else []) =
      [] := ite_self _
  unfold State.launch
  simp only [step, none, State.servedNow_sig idle, fresh, quiet, old, List.append_nil, List.nil_append, List.foldl_nil]
  have freed : s.Leaves { s with free := s.freeNow [.sig f.val c k v] } f (s.fur f) :=
    ⟨(s.fur f).ovf, (s.fur f).wRows, s.freeNow [.sig f.val c k v], s.gl, by rw [s.setFur_fur f]⟩
  rw [State.setFur_fur]
  exact ⟨_, freed.thenDom (State.leaves_setDom _ f d _), rfl, rfl⟩

/-- Beside its launch the issue of such a signal changes nothing. -/
theorem State.issueBeat_sig : s.issueBeat f d (some (oneOp o)) [.sig f.val c k v] = s.launch f d (some (oneOp o)) [.sig f.val c k v] := by
  have audited : ∀ u : State, u.auditSlots f d (s.env f d) [(o, [.sig f.val c k v])] = u := fun u => u.auditEarly_none_flying f d quiet _ _ _ _
  have own : ∀ (u : State) (lastPut : Option Nat) (rid addr : Nat), u.lateAct f d lastPut rid addr (.sig f.val c k v) = u := fun u _ _ _ => if_pos rfl
  unfold State.issueBeat State.issueEvents
  simp only [State.courseStep_sig idle, State.clashesNow_sig idle, State.servedNow_sig idle, liveCourse_sig idle, State.clashEvents, State.narrowPoison, State.raiseFlags,
    Env.slotsOf_one acts, List.foldl_nil, List.foldl_cons, audited, own, ite_self]

/-- A signal to the own furrow changes its counter in its beat, and no other counter. -/
theorem State.issued_sig_own : ((s.issued f d o [.sig f.val c k v]).fur f).counters =
    tset 0 (s.fur f).counters c (counterOp k v (tget 0 (s.fur f).counters c)) := by
  obtain ⟨y, issued, flights, beat⟩ := State.leaves_launch_sig idle quiet acts
  rw [← State.issueBeat_sig idle quiet acts] at issued
  obtain ⟨x, -, left⟩ := s.retireBeat_leaves f d (some (oneOp o)) [.sig f.val c k v] (s.dom f d).pos
  generalize s.issueBeat f d (some (oneOp o)) [.sig f.val c k v] = u at issued left
  have here : u.dom f d = y := by rw [issued.dom, Furrow.dom_setDom]
  obtain ⟨n, w, commit⟩ := u.leaves_commitDue_one f d (g := s.effFlight f d o 1 (.counter c k v)) (by rw [here, flights])
    (by rw [here, beat]; exact Nat.le_refl _) rfl
  rw [Furrow.committed_counter _ _ _ _ rfl] at commit
  obtain ⟨_, _, before⟩ := issued.fur
  obtain ⟨_, _, after⟩ := commit.fur
  obtain ⟨_, _, closed⟩ := left.fur
  unfold State.issued
  rw [closed, after, before]
  rfl

end

end

/-- Settles O16: the slots issue their acts by the equations of `driActs`, `droActs` and `sigActs`; at the end of the beat an act has done to its
drill what `State.drillAfter` says; and a signal is a flight of its own beat or a change on its way. -/
theorem drillAndSignalOperations : Obligations.DrillAndSignalOperations := by
  unfold Obligations.DrillAndSignalOperations
  refine ⟨fun f d op s => ⟨fun free => ?_, fun free => ?_⟩, fun f d op s => ?_, fun f d o k s => ?_, fun f g d o c k v s => ?_⟩
  · exact ⟨fun mine => issues_dri rfl (by decide) mine free, fun mine => issues_dri rfl (by decide) mine free,
      fun mine => issues_dri rfl (by decide) mine free⟩
  · exact ⟨fun mine => issues_dro rfl (by decide) (droActs_of_free (v := s.env f d) mine free (by decide)) rfl,
      fun mine => issues_dro rfl (by decide) (droActs_of_free (v := s.env f d) mine free (by decide)) rfl,
      fun lo m lanes mine => issues_dro rfl (by decide) (droActs_put (v := s.env f d) mine free lanes) rfl⟩
  · exact ⟨fun built owned => issues_sig rfl (by decide) (sigActs_of_mine (v := s.env f d) built owned (by decide)) rfl,
      fun built owned => issues_sig rfl (by decide) (sigActs_of_mine (v := s.env f d) built owned (by decide)) rfl,
      fun built owned => issues_sig rfl (by decide) (sigActs_of_mine (v := s.env f d) built owned (by decide)) rfl,
      fun own => issues_sig rfl (by decide) (sigActs_wait (v := s.env f d) own) rfl⟩
  · dsimp only
    refine ⟨fun out => ?_, ?_, fun running => ?_, fun other => ?_, fun run stop => ?_, fun b moving one put _ open' empty tile => ?_,
      fun bytes mark => ?_⟩
    · obtain ⟨u, same, -, after⟩ := s.issued_drill f d o (.dgo k.val out) k
      rw [after, ← same]
      refine ⟨u.drillAfter_dgo_waiting f d k _ _ _, fun armed count => ?_, fun armed count => ?_, u.drillAfter_dgo_busy f d k _ _ _⟩
      · rw [State.drillAfter_dgo_armed u f d k _ _ _ armed, State.startList_drill, if_neg count]
      · rw [State.drillAfter_dgo_armed u f d k _ _ _ armed, State.startList_drill, if_pos count]
    · obtain ⟨u, same, -, after⟩ := s.issued_drill f d o (.dtile k.val) k
      rw [after, State.drillAfter_dtile, same]
    · obtain ⟨u, same, -, after⟩ := s.issued_drill f d o (.dstop k.val) k
      rw [after, State.drillAfter_dstop, same, if_pos running]
    · obtain ⟨u, same, -, after⟩ := s.issued_drill f d o (.dstop k.val) k
      rw [after, State.drillAfter_dstop, same, if_neg other]
    · obtain ⟨u, same, -, after⟩ := s.issued_drill f d o (.dtend k.val) k
      rw [after, State.drillAfter_dtend, same, if_neg (not_or.mpr ⟨run, stop⟩)]
    · obtain ⟨u, same, -, after⟩ := s.issued_drill f d o (.dtend k.val) k
      rw [after, State.drillAfter_dtend, same, if_pos moving]
      dsimp only
      rw [Drill.endTile_open one put open' empty tile]
      exact ⟨fun ended => Block.filter_cut_over (by rw [Block.rows_cut open']; exact ended), fun short =>
        ⟨b.cut, Block.filter_cut_short (by rw [Block.rows_cut open']; exact short), Block.rows_cut open', rfl, rfl⟩⟩
    · obtain ⟨u, same, puts, after⟩ := s.issued_drill f d o (.put k.val bytes mark) k
      rw [after, State.drillAfter_put, same, puts]
  · refine ⟨fun own ok quiet idle acts => ?_, fun other => State.issued_sig_other c k v other⟩
    subst own
    have rise : keysRise none (s.fur g).counters = true := by
      obtain ⟨-, -, -, -, -, counters, -⟩ := ok
      unfold twf at counters
      exact (Bool.and_eq_true_iff.mp counters).1
    rw [State.issued_sig_own idle quiet acts]
    exact ⟨tget_tset_self _ _ _ _ rise, fun c' h => tget_tset_of_ne _ _ _ h rise⟩

end Sys2Proof.Machine
end

section
/-! PROOFS. What a port-S write leaves in the scratchpad (R108, R110, R111). -/
namespace Sys2Proof.Machine

/-! ### Runs of bytes -/

section
variable {α : Type} (d : α)

@[simp] theorem length_tgets (t : Tab α) (n : Nat) : ∀ k, (tgets d t k n).length = n := by
  induction n with
  | zero => exact fun _ => rfl
  | succ n ih => exact fun k => congrArg (· + 1) (ih (k + 1))

theorem getD_tgets (t : Tab α) (n : Nat) : ∀ k i, i < n → (tgets d t k n).getD i d = tget d t (k + i) := by
  induction n with
  | zero => exact fun _ _ h => absurd h (Nat.not_lt_zero _)
  | succ n ih =>
    intro k i h
    cases i with
    | zero => rfl
    | succ i => simpa [tgets, Nat.add_assoc, Nat.add_comm 1 i] using ih (k + 1) i (by omega)

/-- One run written, read at every key. -/
theorem tget_tputs [DecidableEq α] {t : Tab α} (h : twf d t = true) (vs : List α) (k j : Nat) :
    tget d (tputs d t k vs) j = if k ≤ j ∧ j < k + vs.length then vs.getD (j - k) d else tget d t j := by
  split
  · next inside =>
    have key := tget_tputs_in d vs t k (j - k) h (by omega)
    rwa [Nat.add_sub_cancel' inside.1] at key
  · next outside => exact tget_tputs_out d vs t k j h (by omega)

/-- A run copied from another array, read at every key. -/
theorem tget_tputs_tgets [DecidableEq α] {t : Tab α} (h : twf d t = true) (u : Tab α) (k n j : Nat) :
    tget d (tputs d t k (tgets d u k n)) j = if k ≤ j ∧ j < k + n then tget d u j else tget d t j := by
  rw [tget_tputs d h, length_tgets]
  split
  · next inside => rw [getD_tgets d u n k (j - k) (by omega), Nat.add_sub_cancel' inside.1]
  · rfl

end

/-! ### The end of a write transfer -/

section
variable {z : Furrow} {t : Xfer}

/-- The scratchpad once a write transfer has ended: under a port-W write of its tick the bytes of that write stand (R110). -/
def Furrow.written (z : Furrow) (t : Xfer) : Tab Byte :=
  match z.wRow (t.addr / 512) with
  | none => tputs 0 z.data t.addr t.bytes
  | some w => tputs 0 (tputs 0 z.data t.addr t.bytes) w.addr (tgets 0 z.data w.addr w.len)

/-- A write transfer outside the rings that ends in an awake group changes bytes and TAG as R108 and R111 have it, and of the rest of the furrow the
POISON bits and the notes of port S alone. -/
theorem Furrow.sWrite_outside_rings (awake : z.asleep (t.addr / 512) = false) (linear : t.ring = none) :
    ∃ poison xfers wRows, z.sWrite t = { z with
      data := z.written t
      full := if t.tag = 3 || t.tag = 4 then tset false z.full (t.addr / 512) true else z.full
      poison := poison, xfers := xfers, wRows := wRows } := by
  unfold Furrow.sWrite Furrow.written
  simp only [linear, Option.isSome_none, Bool.false_eq_true, if_false]
  cases z.wRow (t.addr / 512) with
  | none =>
    simp only [z.writeRow_awake awake]
    exact ⟨_, _, _, rfl⟩
  | some w =>
    simp only [Furrow.writeUnder, z.writeRow_awake awake]
    exact ⟨_, _, _, rfl⟩

theorem Furrow.tget_written_free (wf : twf 0 z.data = true) (free : z.wRow (t.addr / 512) = none) (a : Nat) :
    tget 0 (z.written t) a = if t.addr ≤ a ∧ a < t.addr + t.bytes.length then t.bytes.getD (a - t.addr) 0 else tget 0 z.data a := by
  simp only [Furrow.written, free, tget_tputs 0 wf]

theorem Furrow.tget_written_under {w : WRow} (wf : twf 0 z.data = true) (meets : z.wRow (t.addr / 512) = some w) (a : Nat) :
    tget 0 (z.written t) a = if w.addr ≤ a ∧ a < w.addr + w.len then tget 0 z.data a
      else if t.addr ≤ a ∧ a < t.addr + t.bytes.length then t.bytes.getD (a - t.addr) 0 else tget 0 z.data a := by
  simp only [Furrow.written, meets, tget_tputs_tgets 0 (twf_tputs 0 t.bytes _ _ wf), tget_tputs 0 wf]

/-- No byte outside the transfer changes, whether port W writes the row or not. -/
theorem Furrow.tget_written_outside (wf : twf 0 z.data = true) {a : Nat} (outside : a < t.addr ∨ t.addr + t.bytes.length ≤ a) :
    tget 0 (z.written t) a = tget 0 z.data a := by
  have out : ¬ (t.addr ≤ a ∧ a < t.addr + t.bytes.length) := by omega
  cases meets : z.wRow (t.addr / 512) with
  | none => rw [Furrow.tget_written_free wf meets, if_neg out]
  | some w => rw [Furrow.tget_written_under wf meets, if_neg out, ite_self]

end

/-- Settles O40: the end of the transfer is an update of bytes, TAG, POISON and the notes of port S, and each clause reads one of its fields. -/
theorem scratchWriteLands : Obligations.ScratchWriteLands := by
  unfold Obligations.ScratchWriteLands
  intro z t data full awake linear _
  obtain ⟨_, _, _, ends⟩ := Furrow.sWrite_outside_rings awake linear
  have tag := tget_full_store z.full full (t.addr / 512) t.tag
  rw [ends]
  refine ⟨fun free i inside => ?_, fun w meets => Furrow.tget_written_under data meets, fun a => Furrow.tget_written_outside data, fun fills => ?_,
    fun row other => ?_, rfl, rfl, rfl⟩
  · show tget 0 (z.written t) (t.addr + i) = _
    rw [Furrow.tget_written_free data free, if_pos (by omega), Nat.add_sub_cancel_left]
  · exact (tag _).trans (if_pos ⟨rfl, fills⟩)
  · exact (tag row).trans (if_neg (by omega))

end Sys2Proof.Machine
end

section
/-! PROOFS. Fetching a packet, and the way of a completion record to its ring (R242, R247, R248, R251). -/
namespace Sys2Proof.Machine

theorem slotOf_val (q : QSlot) : slotOf q.val = q := Fin.ofNat_val_eq_self q

section
variable (s : State) (q : QSlot)

theorem State.cmd?_slot (seq : W32) : s.cmd? ⟨q.val, seq⟩ = (s.queue q).cmd? seq := by
  unfold State.cmd?
  rw [slotOf_val]

theorem exec_commandFetch_fetches (may : s.mayFetch (s.queue q) = true) : exec (.commandFetch q) s = .next (s.fetchPacket q) :=
  congrArg Host.Outcome.next (if_pos may)

/-! ### COMPLETION_RECORD_WRITE -/

theorem Queue.room_eq_zero {x : Queue} : x.room = 0 ↔ 2 ^ fld x.cfg 16 5 ≤ (x.cqTail - x.cqHead).toNat := Nat.sub_eq_zero_iff_le

theorem Queue.room_ne_zero {x : Queue} (free : (x.cqTail - x.cqHead).toNat < 2 ^ fld x.cfg 16 5) : x.room ≠ 0 :=
  mt Queue.room_eq_zero.mp (Nat.not_le.mpr free)

variable {s q}

theorem exec_completionRecordWrite_room {k : Rec} {rest : List Rec} {t : W64} (oldest : (s.queue q).ready = k :: rest) (stamped : k.time = some t)
    (runs : s.stopped = false) (room : (s.queue q).room ≠ 0) : exec (.completionRecordWrite q) s = .next (s.writeRecord q k t) := by
  show execCompletionRecordWrite q s = _
  simp [execCompletionRecordWrite, oldest, stamped, runs, room]

theorem exec_completionRecordWrite_unstamped {k : Rec} {rest : List Rec} (oldest : (s.queue q).ready = k :: rest) (waits : k.time = none) :
    exec (.completionRecordWrite q) s = .next s := by
  show execCompletionRecordWrite q s = _
  simp [execCompletionRecordWrite, oldest, waits]

/-- A ring without room takes no record, whatever waits (R248). -/
theorem exec_completionRecordWrite_full (full : (s.queue q).room = 0) : exec (.completionRecordWrite q) s = .next s := by
  show execCompletionRecordWrite q s = _
  unfold execCompletionRecordWrite
  split
  · rfl
  · split
    · simp [full]
    · rfl

/-! ### What the completion of a command does -/

/-- The queue once its command `seq` has completed (R252). -/
def Queue.completes (x : Queue) (seq : W32) : Queue :=
  let p := retire (mapFirst (fun c => decide (c.seq = seq) && !c.done) (fun c => { c with done := true }) x.cmds) x.retired
  { x with cmds := p.1, retired := p.2 }

theorem State.queue_modQueue (s : State) (q : QSlot) (g : Queue → Queue) : (s.modQueue q g).queue q = g (s.queue q) := s.queue_setQueue q _

theorem State.queue_hostWr (s : State) (q : QSlot) (a : Nat) (bs : List Byte) : (s.hostWr a bs).queue q = s.queue q := rfl

theorem State.fur_hostWr (s : State) (f : Fur) (a : Nat) (bs : List Byte) : (s.hostWr a bs).fur f = s.fur f := rfl

theorem State.queue_modCmd (s : State) (q : QSlot) (seq : W32) (g : Cmd → Cmd) : (s.modCmd ⟨q.val, seq⟩ g).queue q =
    { s.queue q with cmds := mapFirst (fun c => decide (c.seq = seq) && !c.done) g (s.queue q).cmds } := by
  unfold State.modCmd
  rw [slotOf_val, State.queue_modQueue]

theorem State.queue_leaveBoards (s : State) (r : CmdRef) (q : QSlot) : (s.leaveBoards r).queue q = s.queue q := by
  obtain ⟨x, boards⟩ := s.leaveBoards_changes r
  rw [boards]
  rfl

theorem State.queue_unrefSegs (s : State) (is : List Nat) (q : QSlot) : (s.unrefSegs is).queue q = s.queue q := by
  obtain ⟨g, segs⟩ := State.unrefSegs_changes is s
  rw [segs]
  rfl

theorem State.queue_completed (s : State) (q : QSlot) (seq : W32) : (s.completed ⟨q.val, seq⟩).queue q = (s.queue q).completes seq := by
  unfold State.completed
  dsimp only
  rw [slotOf_val, State.queue_modQueue, State.queue_unrefSegs, State.queue_modCmd, State.queue_leaveBoards]
  rfl

/-- The only command of a queue retires with its completion. -/
theorem Queue.completes_only {x : Queue} {c : Cmd} {seq : W32} (only : x.cmds = [c]) (named : c.seq = seq) (open' : c.done = false) :
    (x.completes seq).cmds = [] ∧ (x.completes seq).retired = x.retired + BitVec.ofNat 32 c.units := by
  simp [Queue.completes, only, named, open', mapFirst, retire]

/-- What a command holds on the scoreboards ends with it where it is a COPY, SCRATCH_WRITE or SCRATCH_READ (R116, R118). -/
theorem State.board_completed {r : CmdRef} {c : Cmd} (found : s.cmd? r = some c) (f : Fur) : ((s.completed r).fur f).board =
    if c.holdsBoard then (s.fur f).board.filter (fun e => e.ref != r) else (s.fur f).board := by
  have furs : (s.completed r).furs = (s.leaveBoards r).furs := State.unrefSegs_furs _ _
  rw [State.fur_of_furs furs]
  unfold State.leaveBoards
  rw [found]
  dsimp only
  split
  · rw [s.fur_stopAll f (fun x => x.leaveBoard r)]
    rfl
  · rfl

theorem Cmd.holdsBoard_iff (c : Cmd) : c.holdsBoard = true ↔ c.opcode = 0x0200 ∨ c.opcode = 0x0204 ∨ c.opcode = 0x0205 := by
  simp [Cmd.holdsBoard, or_assoc]

/-- Record `k` is at its place in the ring, and its command has still to complete. -/
def State.recordPut (s : State) (q : QSlot) (k : Rec) (t : W64) : State :=
  (s.hostWr (s.queue q).cqAddr (recordBytes (s.queue q) q t k)).modQueue q (fun x => { x with cqTail := x.cqTail + 1, ready := x.ready.drop 1 })

theorem State.writeRecord_eq (s : State) (q : QSlot) (k : Rec) (t : W64) :
    s.writeRecord q k t = ((s.recordPut q k t).completed ⟨q.val, k.key⟩).freeWatch ⟨q.val, k.key⟩ := by
  simp only [State.writeRecord, State.recordPut]

theorem State.cmd?_recordPut (s : State) (q : QSlot) (k : Rec) (t : W64) (seq : W32) :
    (s.recordPut q k t).cmd? ⟨q.val, seq⟩ = s.cmd? ⟨q.val, seq⟩ := by
  rw [State.cmd?_slot, State.cmd?_slot, State.recordPut, State.queue_modQueue, State.queue_hostWr]
  rfl

theorem State.fur_recordPut (s : State) (q : QSlot) (k : Rec) (t : W64) (f : Fur) : (s.recordPut q k t).fur f = s.fur f := by
  unfold State.recordPut
  rw [State.fur_of_furs (State.modQueue_furs _ _ _), State.fur_hostWr]

theorem State.board_writeRecord {k : Rec} {c : Cmd} (found : s.cmd? ⟨q.val, k.key⟩ = some c) (t : W64) (f : Fur) :
    ((s.writeRecord q k t).fur f).board =
      if c.holdsBoard then (s.fur f).board.filter (fun e => e.ref != ⟨q.val, k.key⟩) else (s.fur f).board := by
  have ends := State.board_completed ((s.cmd?_recordPut q k t k.key).trans found) f
  rw [State.fur_recordPut] at ends
  rw [State.writeRecord_eq]
  exact ends

/-! ### Records that find room (R242, R247, R248) -/

/-- The records of a queue after the room has been given at time `t`, those of QUIET commands among them. -/
def Queue.roomed (x : Queue) (t : W64) : List Rec :=
  readyInOrder (x.ready.takeWhile (fun k => k.time.isSome)).length (stampRecs t x.room x.ready)

theorem State.giveRoom_eq (s : State) (q : QSlot) : s.giveRoom q =
    (((s.queue q).roomed s.time).filter Rec.gone).foldl (fun s k => (s.completed ⟨q.val, k.key⟩).freeWatch ⟨q.val, k.key⟩)
      (s.setQueue q { s.queue q with ready := ((s.queue q).roomed s.time).filter (fun k => !k.gone) }) := rfl

/-- With no QUIET command among them the records wait in the order in which they found room. -/
theorem State.giveRoom_loud (loud : ∀ k ∈ (s.queue q).roomed s.time, k.gone = false) :
    s.giveRoom q = s.setQueue q { s.queue q with ready := (s.queue q).roomed s.time } := by
  have gone : ((s.queue q).roomed s.time).filter Rec.gone = [] := List.filter_eq_nil_iff.mpr fun k hk => by simp [loud k hk]
  have all : ((s.queue q).roomed s.time).filter (fun k => !k.gone) = (s.queue q).roomed s.time :=
    List.filter_eq_self.mpr fun k hk => by simp [loud k hk]
  rw [State.giveRoom_eq, gone, all]
  rfl

/-- The one record of a QUIET command that finds room is not written, and its command completes (R242). -/
theorem State.queue_giveRoom_quiet {k : Rec} (only : (s.queue q).roomed s.time = [k]) (quiet : k.gone = true) :
    (s.giveRoom q).queue q = { s.queue q with ready := [] }.completes k.key := by
  rw [State.giveRoom_eq, only]
  simp only [List.filter_cons, quiet, List.filter_nil, if_true, Bool.not_true, Bool.false_eq_true, if_false, List.foldl_cons, List.foldl_nil]
  exact (State.queue_completed _ q k.key).trans (by rw [State.queue_setQueue])

section
variable {x : Queue} {k l : Rec} (t : W64)

theorem Queue.roomed_one_full (ready : x.ready = [k]) (waits : k.time = none) (full : x.room = 0) : x.roomed t = [k] := by
  simp [Queue.roomed, ready, waits, full, stampRecs, readyInOrder]

theorem Queue.roomed_one (ready : x.ready = [k]) (waits : k.time = none) (room : x.room ≠ 0) : x.roomed t = [{ k with time := some t }] := by
  simp [Queue.roomed, ready, waits, room, stampRecs, readyInOrder, insertReady]

/-- Two records that find room together stand in ascending SEQUENCE (R247). -/
theorem Queue.roomed_two (ready : x.ready = [k, l]) (first : k.time = none) (second : l.time = none) (loud : k.quiet = false) (room : 2 ≤ x.room) :
    x.roomed t = if (l.key - k.key).toNat < 2 ^ 31 then [{ k with time := some t }, { l with time := some t }]
      else [{ l with time := some t }, { k with time := some t }] := by
  have forFirst : x.room ≠ 0 := by omega
  have forSecond : x.room - 1 ≠ 0 := by omega
  simp [Queue.roomed, ready, first, second, loud, forFirst, forSecond, stampRecs, readyInOrder, insertReady]

end

theorem exec_qsCqHeadWrite_takes (takes : s.takesWrites) (q : QSlot) (v : W64) :
    exec (.qsCqHeadWrite q v) s = .next ((s.setQueue q { s.queue q with cqHead := v.setWidth 32 }).giveRoom q) :=
  congrArg Host.Outcome.next (s.hostWrite_of_takes takes _ _ _)

end

/-- Settles O30: the fetch and the record are the equations of their commands, and QS_CQ_HEAD gives its room to one record or to two. -/
theorem fetchAndRecord : Obligations.FetchAndRecord := by
  unfold Obligations.FetchAndRecord
  intro q s x w0 n ws
  refine ⟨fun may whole => ?fetch, fun k rest t oldest stamped runs free => ?record, fun k rest t c oldest stamped runs free found => ?board,
    fun k rest oldest waits => exec_completionRecordWrite_unstamped oldest waits,
    fun full => exec_completionRecordWrite_full (Queue.room_eq_zero.mpr full), fun k l v takes ready first second loud loud' free => ?two,
    fun k v takes ready waits => ?one⟩
  case fetch =>
    exact (exec_commandFetch_fetches s q may).trans (congrArg Host.Outcome.next (if_neg (Nat.not_lt.mpr whole)))
  case record => exact exec_completionRecordWrite_room oldest stamped runs (Queue.room_ne_zero free)
  case board =>
    refine ⟨_, exec_completionRecordWrite_room oldest stamped runs (Queue.room_ne_zero free), fun f => ?_⟩
    rw [State.board_writeRecord found]
    simp only [Cmd.holdsBoard_iff]
  case two =>
    intro now
    let s' := s.setQueue q { x with cqHead := v.setWidth 32 }
    have queue : s'.queue q = { x with cqHead := v.setWidth 32 } := s.queue_setQueue q _
    have roomed : (s'.queue q).roomed s'.time = if (l.key - k.key).toNat < 2 ^ 31 then [now k, now l] else [now l, now k] := by
      rw [queue]
      exact Queue.roomed_two _ ready first second loud (Nat.le_sub_of_add_le' free)
    have none_quiet : ∀ r ∈ (s'.queue q).roomed s'.time, r.gone = false := by
      rw [roomed]
      split <;> simp [now, Rec.gone, loud, loud']
    refine ⟨_, exec_qsCqHeadWrite_takes takes q v, ?_⟩
    rw [State.giveRoom_loud none_quiet, State.queue_setQueue, roomed]
  case one =>
    intro room'
    let s' := s.setQueue q { x with cqHead := v.setWidth 32 }
    have queue : s'.queue q = { x with cqHead := v.setWidth 32 } := s.queue_setQueue q _
    refine ⟨_, exec_qsCqHeadWrite_takes takes q v, ?_⟩
    by_cases free : (x.cqTail - v.setWidth 32).toNat < 2 ^ fld x.cfg 16 5
    · have found : room' = true := decide_eq_true free
      have roomed : (s'.queue q).roomed s'.time = [{ k with time := some s.time }] := by
        rw [queue]
        exact Queue.roomed_one _ ready waits (Queue.room_ne_zero free)
      rw [found]
      cases quiet : k.quiet with
      | true =>
        rw [State.queue_giveRoom_quiet roomed (by simp [Rec.gone, quiet]), queue]
        exact ⟨rfl, rfl, fun _ _ c only => Queue.completes_only (x := { x with cqHead := v.setWidth 32, ready := [] }) only⟩
      | false =>
        rw [State.giveRoom_loud (by rw [roomed]; simp [Rec.gone, quiet]), State.queue_setQueue, roomed, queue]
        exact ⟨rfl, by simp [quiet], fun _ h => absurd h Bool.false_ne_true⟩
    · have full : room' = false := decide_eq_false free
      have roomed : (s'.queue q).roomed s'.time = [k] := by
        rw [queue]
        exact Queue.roomed_one_full _ ready waits (Queue.room_eq_zero.mpr (Nat.not_lt.mp free))
      rw [State.giveRoom_loud (by rw [roomed]; simp [Rec.gone, waits]), State.queue_setQueue, roomed, queue, full]
      exact ⟨rfl, rfl, fun h => absurd h Bool.false_ne_true⟩

end Sys2Proof.Machine
end

section
/-! PROOFS. Rows over port S, of drills and of SCRATCH commands, and the memory side of a drill's rows (R105, R106, R110, R131, R136, R137, R140,
R144, R145, R149, R245, R270). -/
namespace Sys2Proof.Machine

/-! ### A transfer begins (R105, R106) -/

section
variable {s : State} {f : Fur} {t : Xfer}

/-- No agent that has waited longer would be served by the bank (R105). -/
def State.First (s : State) (f : Fur) (t : Xfer) : Prop :=
  ∀ a ∈ (s.fur f).asks.takeWhile (fun a => a != t.agent), ∀ u, s.xferNext f a = some u → bankOf u.addr = bankOf t.addr → s.served f u = false

theorem State.turn_iff : s.turn f t = true ↔ s.First f t := by
  unfold State.turn State.First
  rw [List.all_eq_true]
  refine forall₂_congr fun a _ => ?_
  cases s.xferNext f a with
  | none => simp
  | some u =>
    simp only [Option.some.injEq, forall_eq', Bool.or_eq_true, bne_iff_ne, Bool.not_eq_true']
    exact imp_iff_not_or.symm

/-- Port S takes the transfer, and its check passes (R105, R106). -/
theorem State.served_of_free (awake : (s.fur f).asleep (t.addr / 512) = false) (idle : (s.fur f).bankBusy t.addr = false)
    (serves : s.bankHeld f t.addr = false) (few : ((s.fur f).xfers.filter (fun u => u.agent == t.agent)).length < 2)
    (check : (s.fur f).sCheck (t.addr / 512) t.write t.tag t.ring = true) : s.served f t = true := by
  simp [State.served, State.portFree, awake, idle, serves, few, check]

theorem State.tryXfer_first (awake : (s.fur f).asleep (t.addr / 512) = false) (served : s.served f t = true) (first : s.First f t) :
    s.tryXfer f t = (s.beginXfer f t).noteAsks f := by
  simp [State.tryXfer, awake, served, State.turn_iff.mpr first]

theorem State.tryXfer_behind (awake : (s.fur f).asleep (t.addr / 512) = false) (behind : ¬ s.First f t) : s.tryXfer f t = s := by
  simp [State.tryXfer, awake, mt State.turn_iff.mp behind]

/-- What an agent asks for begins where no other goes before it, and waits otherwise. -/
theorem State.portAsk_cases (next : (s.noteAsks f).xferNext f t.agent = some t)
    (begins : ∀ u : State, u.beginXfer f t = u.modFur f (fun y => y.sBegin t))
    (awake : (s.fur f).asleep (t.addr / 512) = false) (served : s.served f t = true) :
    ((s.noteAsks f).First f t → s.portAsk f t.agent = ((s.noteAsks f).modFur f (fun y => y.sBegin t)).noteAsks f) ∧
      (¬ (s.noteAsks f).First f t → s.portAsk f t.agent = s.noteAsks f) := by
  obtain ⟨a, noted⟩ := s.fur_noteAsks f
  have awake' : ((s.noteAsks f).fur f).asleep (t.addr / 512) = false := by rw [noted]; exact awake
  have asked : s.portAsk f t.agent = (s.noteAsks f).tryXfer f t := by simp only [State.portAsk, next]
  rw [asked]
  refine ⟨fun first => ?_, State.tryXfer_behind awake'⟩
  rw [State.tryXfer_first awake' ((s.served_noteAsks f t).trans served) first, begins]

end

section
variable {s : State} {f : Fur} {k : DrillNo}

theorem State.takePut_of_in (into : (s.drill f k).out = false) : s.takePut f k = s := by
  unfold State.takePut
  dsimp only
  split
  · rw [if_neg (by simp [into])]
  · rfl

theorem exec_portSTransfer_drill (runs : s.stopped = false) (into : (s.drill f k).out = false) :
    exec (.portSTransfer f (.drill k)) s = .next (s.portAsk f (.drill k)) := by
  show execPortSTransfer f (.drill k) s = _
  simp [execPortSTransfer, runs, State.takePut_of_in into]

theorem exec_portSTransfer_host (runs : s.stopped = false) (q : QSlot) (seq : W32) :
    exec (.portSTransfer f (.host q seq)) s = .next (s.portAsk f (.host q seq)) := by
  show execPortSTransfer f (.host q seq) s = _
  simp [execPortSTransfer, runs]

/-- The transfer of landed row `r` of block `b` (R131, R144). -/
def Furrow.landXfer (z : Furrow) (k : DrillNo) (r : LandRow) (b : Block) : Xfer :=
  let p := z.spRow b.desc r.row true
  ⟨.drill k, p.1 * 512, r.bytes.length, true, if r.poison && b.desc.tag == 0 then 4 else b.desc.tag, p.2, r.bytes, r.poison, r.idx, r.row, false⟩

theorem Furrow.drillNext_landed {z : Furrow} {r : LandRow} {b : Block} (moving : (z.drill k).moving = true) (into : (z.drill k).out = false)
    (next : z.nextWrite k = some r) (block : (z.drill k).blocks.find? (fun b => b.idx == r.idx) = some b) :
    z.drillNext k = some (z.landXfer k r b) := by
  simp [Furrow.drillNext, moving, into, next, block, Furrow.landXfer]

/-- Whether a COPY asks does not depend on the furrows. -/
theorem State.copyXfer_noteAsks {q : QSlot} {seq : W32} (f : Fur) (noCopy : s.copyXfer q seq = none) : (s.noteAsks f).copyXfer q seq = none := by
  have jobs : (s.noteAsks f).copies = s.copies := rfl
  have moves : ∀ j, (s.noteAsks f).jobMove j = s.jobMove j := fun _ => rfl
  unfold State.copyXfer at noCopy ⊢
  rw [jobs]
  split
  · rfl
  · next j found =>
    rw [found] at noCopy
    dsimp only at noCopy
    rw [moves]
    split
    · next move => simp [move] at noCopy
    · next move => simp [move] at noCopy
    · rfl

theorem State.hostNext_scratch {q : QSlot} {seq : W32} {c : Cmd} (noCopy : s.copyXfer q seq = none) (found : s.cmd? ⟨q.val, seq⟩ = some c)
    (here : c.fur = f) (idle : (s.fur f).xferOf (.host q seq) = none) : (s.noteAsks f).hostNext f q seq = scratchNext q seq c := by
  obtain ⟨a, noted⟩ := s.fur_noteAsks f
  have idle' : ((s.noteAsks f).fur f).xferOf (.host q seq) = none := by rw [noted]; exact idle
  have found' : (s.noteAsks f).cmd? ⟨q.val, seq⟩ = some c := found
  simp [State.hostNext, idle', State.copyXfer_noteAsks f noCopy, found', here]

end

/-! ### A transfer ends (R106, R110, R149) -/

section
variable {s : State} {f : Fur} {k : DrillNo} {t : Xfer}

theorem Furrow.writeRow_changes (z : Furrow) (a : Nat) (bytes : List Byte) (tag : Nat) (mark : Bool) :
    ∃ data full poison, z.writeRow a bytes tag mark = { z with data := data, full := full, poison := poison } := by
  unfold Furrow.writeRow
  dsimp only
  split
  · exact ⟨z.data, z.full, z.poison, rfl⟩
  · exact ⟨_, _, _, rfl⟩

/-- Whatever it meets, the end of a write transfer changes the row, its ring and the notes of port S. -/
theorem Furrow.sWrite_cases (z : Furrow) (t : Xfer) : ∃ data full poison rings xfers wRows,
    z.sWrite t = { z with data := data, full := full, poison := poison, rings := rings, xfers := xfers, wRows := wRows } := by
  obtain ⟨data, full, poison, row⟩ := z.writeRow_changes t.addr t.bytes (if t.ring.isSome then 3 else t.tag) t.poison
  unfold Furrow.sWrite Furrow.writeUnder
  dsimp only
  rw [row]
  split
  · split <;> exact ⟨_, _, _, _, _, _, rfl⟩
  · split <;> exact ⟨_, _, _, _, _, _, rfl⟩

/-- A port-S write on the tick of a port-W write to its row is counted, and marked for that write's domain (R110). -/
theorem State.portWrite_clash {w : WRow} (meets : (s.fur f).wRow (t.addr / 512) = some w) :
    ((s.portWrite f t).fur f).swClashes = satInc (s.fur f).swClashes ∧ bitOf ((s.portWrite f t).fur f).spSticky (2 + w.dom.val) = true := by
  have noted : (s.swClash f t).fur f = { s.fur f with
      spSticky := setBit (s.fur f).spSticky (2 + w.dom.val) true, swClashes := satInc (s.fur f).swClashes } := by
    unfold State.swClash
    rw [meets]
    exact (State.fur_of_furs (State.offer_furs _ _ _ _ _ _) f).trans (State.fur_setFur _ f _)
  obtain ⟨_, _, _, _, _, _, ends⟩ := ((s.swClash f t).fur f).sWrite_cases t
  rw [State.portWrite, State.modFur, State.fur_setFur, ends, noted]
  exact ⟨rfl, bitOf_setBit_true_self (by have := w.dom.isLt; omega) _⟩

theorem exec_portSCommit_drill (runs : s.stopped = false) :
    exec (.portSCommit f (.drill k)) s = .next ((s.drillCommit f k).noteAsks f) := by
  show execPortSCommit f (.drill k) s = _
  simp [execPortSCommit, runs]

theorem exec_portSCommit_host (runs : s.stopped = false) (q : QSlot) (seq : W32) :
    exec (.portSCommit f (.host q seq)) s = .next ((s.hostCommit f q seq).noteAsks f) := by
  show execPortSCommit f (.host q seq) s = _
  simp [execPortSCommit, runs]

theorem State.drillCommit_write (oldest : (s.fur f).xferOf (.drill k) = some t) (write : t.write = true)
    (awake : (s.fur f).asleep (t.addr / 512) = false) :
    s.drillCommit f k = (s.portWrite f t).settleRow f k t.idx t.row (fun r => { r with written := true }) := by
  simp [State.drillCommit, oldest, write, awake]

theorem State.drillCommit_asleep (oldest : (s.fur f).xferOf (.drill k) = some t) (asleep : (s.fur f).asleep (t.addr / 512) = true) :
    s.drillCommit f k = s.drillFault f k t.idx stBounds (if t.desc then 7 else 4) := by
  simp [State.drillCommit, oldest, asleep, State.asleepFault]

end

/-! ### A SCRATCH command's transfer ends (R140, R245, R270) -/

/-- A change that a test does not see leaves the test its element, changed. -/
theorem find?_mapFirst {α : Type} {p : α → Bool} {g : α → α} (keeps : ∀ a, p (g a) = p a) (l : List α) :
    (mapFirst p g l).find? p = (l.find? p).map g := by
  induction l with
  | nil => rfl
  | cons a r ih =>
    unfold mapFirst
    split
    · next hit => simp [hit, keeps]
    · next miss => simp [miss, ih]

theorem piecesOf_ne_nil {lo hi : Nat} (row : Nat) (h : lo < hi) : piecesOf lo hi row ≠ [] := by
  simp [piecesOf, cutPieces, Nat.not_le.mpr h]

theorem encPieces_ne_nil {lo hi : Nat} (row : Nat) (h : lo < hi) : encPieces lo hi row ≠ [] := by
  have first : lo < min hi ((lo / 2 ^ 21 + 1) * 2 ^ 21) := by omega
  simp only [encPieces, granuleCuts, if_neg (Nat.not_le.mpr h), List.flatMap_cons]
  exact List.append_ne_nil_of_left_ne_nil (List.append_ne_nil_of_right_ne_nil _ (piecesOf_ne_nil row first)) _

section
variable {s : State} {f : Fur} {q : QSlot} {seq : W32} {t : Xfer} {c : Cmd}

theorem State.cmd?_modCmd {g : Cmd → Cmd} (seqs : ∀ c, (g c).seq = c.seq) (dones : ∀ c, (g c).done = c.done) (r : CmdRef) :
    (s.modCmd r g).cmd? r = (s.cmd? r).map g := by
  unfold State.cmd? State.modCmd State.modQueue Queue.cmd?
  rw [State.queue_setQueue]
  exact find?_mapFirst (fun c => by rw [seqs, dones]) _

/-- The place of a command's bytes needs slots in HBM: those of its pieces, with the extra ones of a request to an encrypted segment. -/
theorem Loc.slotPieces_hbm {l : Loc} (hbm : l.host = false) (n : Nat) : l.slotPieces n =
    if l.key = none then piecesOf l.addr (l.addr + n) 0 else encPieces l.addr (l.addr + n) 0 := by
  cases key : l.key <;> simp [Loc.slotPieces, hbm, key]

theorem Loc.slotPieces_ne_nil {l : Loc} (hbm : l.host = false) {n : Nat} (moves : n ≠ 0) : l.slotPieces n ≠ [] := by
  have run : l.addr < l.addr + n := by omega
  rw [Loc.slotPieces_hbm hbm]
  split
  · exact piecesOf_ne_nil 0 run
  · exact encPieces_ne_nil 0 run

theorem State.hostCommit_write (oldest : (s.fur f).xferOf (.host q seq) = some t) (found : s.cmd? ⟨q.val, seq⟩ = some c)
    (write : c.opcode = 0x0204) : s.hostCommit f q seq = (s.portWrite f t).finish ⟨q.val, seq⟩ stOk t.len 0 := by
  simp [State.hostCommit, oldest, found, write]

/-- A SCRATCH_READ's command with what its transfer has read. -/
def Cmd.got (c : Cmd) (x : Furrow) (t : Xfer) : Cmd :=
  { c with
    buf := x.xferBytes t
    bufMark := x.xferPoison t
    r1 := b2n (x.isFull (t.addr / 512)) + 2 * b2n (x.xferPoison t) }

/-- The state once a SCRATCH_READ's transfer has left the port. -/
def State.scratchGot (s : State) (f : Fur) (r : CmdRef) (t : Xfer) : State :=
  (s.setFur f ((s.fur f).sRead t)).modCmd r (fun c => c.got (s.fur f) t)

theorem State.hostCommit_read (oldest : (s.fur f).xferOf (.host q seq) = some t) (found : s.cmd? ⟨q.val, seq⟩ = some c)
    (read : c.opcode = 0x0205) : s.hostCommit f q seq = ((s.scratchGot f ⟨q.val, seq⟩ t).askPieces ⟨q.val, seq⟩
      ((s.locOf (c.w 3) (c.w 4)).slotPieces ((s.fur f).xferBytes t).length)).scratchOut ⟨q.val, seq⟩ := by
  simp [State.hostCommit, oldest, found, read, State.scratchGot, Cmd.got]

theorem State.cmd?_scratchGot {r : CmdRef} (found : s.cmd? r = some c) (f : Fur) (t : Xfer) :
    (s.scratchGot f r t).cmd? r = some (c.got (s.fur f) t) := by
  have here : (s.setFur f ((s.fur f).sRead t)).cmd? r = some c := found
  unfold State.scratchGot
  rw [State.cmd?_modCmd (g := fun c => c.got (s.fur f) t) (fun _ => rfl) (fun _ => rfl) r, here]
  rfl

/-- The queue's priority is not the command's to change. -/
theorem State.prio_modCmd (r : CmdRef) (g : Cmd → Cmd) (q : QSlot) : ((s.modCmd r g).queue q).prio = (s.queue q).prio := by
  unfold State.modCmd State.modQueue
  by_cases same : q = slotOf r.q
  · rw [same, State.queue_setQueue]
    rfl
  · rw [State.queue_setQueue_ne _ same]

theorem Furrow.sRead_data (z : Furrow) (t : Xfer) : (z.sRead t).data = z.data := by
  unfold Furrow.sRead Furrow.dropXfer
  dsimp only
  split
  · split <;> rfl
  · split <;> rfl

theorem State.fur_scratchGot_data (r : CmdRef) : ((s.scratchGot f r t).fur f).data = (s.fur f).data := by
  have fur : (s.scratchGot f r t).fur f = (s.fur f).sRead t := s.fur_setFur f _
  rw [fur, Furrow.sRead_data]

theorem State.scratchOut_waits {r : CmdRef} (asks : s.fences.any (fun j => j.ref == r) = true) : s.scratchOut r = s := by
  unfold State.scratchOut
  split
  · rfl
  · simp [asks]

/-- The bytes that a SCRATCH_READ has read go to host memory at once, and it finishes. -/
theorem State.scratchOut_host {r : CmdRef} (found : s.cmd? r = some c) (read : c.opcode = 0x0205) (work : c.stage = 2) (got : c.buf ≠ [])
    (free : s.fences.any (fun j => j.ref == r) = false) (host : (s.locOf (c.w 3) (c.w 4)).host = true) :
    s.scratchOut r = (s.hostWr (s.locOf (c.w 3) (c.w 4)).addr c.buf).finish r (if c.bufMark then stPoisoned else stOk) c.buf.length c.r1 := by
  have written : s.memWrite ((s.locOf (c.w 3) (c.w 4)).checked c.since) c.buf c.bufMark (hIndex (c.w 3)) =
      (s.hostWr (s.locOf (c.w 3) (c.w 4)).addr c.buf, false) := if_pos host
  simp [State.scratchOut, found, read, work, got, free, written]

/-- A command that finishes leaves host memory and the scratchpads. -/
theorem State.finish_keeps (s : State) (f : Fur) (r : CmdRef) (status r0 r1 : Nat) :
    ((s.finish r status r0 r1).noteAsks f).hostMem = s.hostMem ∧ (((s.finish r status r0 r1).noteAsks f).fur f).data = (s.fur f).data := by
  obtain ⟨_, _, _, _, finished⟩ := s.finish_changes r status r0 r1
  obtain ⟨_, noted⟩ := (s.finish r status r0 r1).fur_noteAsks f
  have mem : (s.finish r status r0 r1).hostMem = s.hostMem := by rw [finished]
  refine ⟨mem, ?_⟩
  rw [noted, s.finish_sameFurrows r status r0 r1 f]

/-- A SCRATCH_READ into host memory has its bytes there with the end of its transfer (R245). -/
theorem exec_portSCommit_scratchRead_host (runs : s.stopped = false) (oldest : (s.fur f).xferOf (.host q seq) = some t)
    (found : s.cmd? ⟨q.val, seq⟩ = some c) (read : c.opcode = 0x0205) (work : c.stage = 2) (got : (s.fur f).xferBytes t ≠ [])
    (host : (s.locOf (c.w 3) (c.w 4)).host = true) (free : s.fences.any (fun j => j.ref == (⟨q.val, seq⟩ : CmdRef)) = false) :
    ∃ u, exec (.portSCommit f (.host q seq)) s = .next u ∧
      u.hostMem = tputs 0 s.hostMem (s.locOf (c.w 3) (c.w 4)).addr ((s.fur f).xferBytes t) ∧ (u.fur f).data = (s.fur f).data := by
  have noSlots : (s.locOf (c.w 3) (c.w 4)).slotPieces ((s.fur f).xferBytes t).length = [] := if_pos host
  have out := State.scratchOut_host (s := s.scratchGot f ⟨q.val, seq⟩ t) (State.cmd?_scratchGot found f t) read work got free host
  refine ⟨_, exec_portSCommit_host runs q seq, ?_⟩
  rw [State.hostCommit_read oldest found read, noSlots, State.askPieces, if_pos rfl, out]
  obtain ⟨mem, data⟩ := ((s.scratchGot f ⟨q.val, seq⟩ t).hostWr (s.locOf (c.w 3) (c.w 4)).addr ((s.fur f).xferBytes t)).finish_keeps f ⟨q.val, seq⟩
    (if (c.got (s.fur f) t).bufMark then stPoisoned else stOk) ((s.fur f).xferBytes t).length (c.got (s.fur f) t).r1
  exact ⟨mem, data.trans (State.fur_scratchGot_data ⟨q.val, seq⟩)⟩

/-- A SCRATCH_READ into HBM asks for the slots of its pieces first (R140, R270). -/
theorem exec_portSCommit_scratchRead_hbm (runs : s.stopped = false) (oldest : (s.fur f).xferOf (.host q seq) = some t)
    (found : s.cmd? ⟨q.val, seq⟩ = some c) (read : c.opcode = 0x0205) (got : ((s.fur f).xferBytes t).length ≠ 0)
    (hbm : (s.locOf (c.w 3) (c.w 4)).host = false) :
    ∃ u, exec (.portSCommit f (.host q seq)) s = .next u ∧ u.hbm = s.hbm ∧ u.requests = s.requests + 1 ∧
      u.fences = s.fences ++ [⟨⟨q.val, seq⟩, (s.queue q).prio, s.requests,
        (s.locOf (c.w 3) (c.w 4)).slotPieces ((s.fur f).xferBytes t).length⟩] := by
  have prio : ((s.scratchGot f ⟨q.val, seq⟩ t).queue (slotOf q.val)).prio = (s.queue q).prio := by
    rw [slotOf_val]
    exact State.prio_modCmd _ _ q
  refine ⟨_, exec_portSCommit_host runs q seq, ?_⟩
  rw [State.hostCommit_read oldest found read, State.askPieces, if_neg (Loc.slotPieces_ne_nil hbm got), State.scratchOut_waits (by simp), prio]
  exact ⟨rfl, rfl, rfl⟩

end

/-! ### Rows that land from memory (R131, R137, R140, R144) -/

theorem tany_iff (t : Tab Bool) (lo hi : Nat) : tany t lo hi = true ↔ ∃ p ∈ t, lo ≤ p.1 ∧ p.1 < hi ∧ p.2 = true := by
  simp [tany, and_assoc]

section
variable {b : Block} {i : Nat}

/-- Row `i` of a block whose rows follow each other lies in the block's run. -/
theorem Block.row_in_run (contig : b.contig = true) (h : i < b.rows) :
    b.mem ≤ b.rowAddr i ∧ b.rowAddr i + b.desc.bytes ≤ b.mem + b.rows * b.desc.bytes := by
  have stride : b.desc.stride = (b.desc.bytes : Int) := of_decide_eq_true contig
  have addr : b.rowAddr i = b.mem + i * b.desc.bytes := by
    unfold Block.rowAddr
    rw [stride]
    exact Int.toNat_natCast _
  have last : (i + 1) * b.desc.bytes ≤ b.rows * b.desc.bytes := Nat.mul_le_mul_right _ h
  rw [Nat.add_one_mul] at last
  omega

/-- Every byte of a row is carried by one of the row's requests (R140). -/
theorem Block.request_of_byte (h : i < b.rows) {p : Nat} (low : b.rowAddr i ≤ p) (high : p < b.rowAddr i + b.desc.bytes) :
    ∃ r ∈ b.requests i, r.1 ≤ p ∧ p < r.2 := by
  let run := if b.contig then (b.mem, b.mem + b.rows * b.desc.bytes) else (b.rowAddr i, b.rowAddr i + b.desc.bytes)
  have inRun : run.1 ≤ p ∧ p < run.2 := by
    cases contig : b.contig with
    | true =>
      have row := Block.row_in_run contig h
      simp only [run, contig, if_true]
      omega
    | false =>
      simp only [run, contig, Bool.false_eq_true, if_false]
      omega
  refine ⟨(max run.1 (p / 2 ^ 21 * 2 ^ 21), min run.2 ((p / 2 ^ 21 + 1) * 2 ^ 21)), ?_, ?_, ?_⟩
  · refine List.mem_map.mpr ⟨p / 2 ^ 21 - b.rowAddr i / 2 ^ 21, ?_, ?_⟩
    · rw [List.mem_range, if_neg (by omega)]
      omega
    · rw [Nat.add_sub_cancel' (Nat.div_le_div_right low)]
  · exact Nat.max_le.mpr ⟨inRun.1, Nat.div_mul_le_self _ _⟩
  · exact Nat.lt_min.mpr ⟨inRun.2, by omega⟩

/-- A row of which no request meets a bad byte has none. -/
theorem Block.row_good {bad : Tab Bool} (h : i < b.rows) (good : ∀ r ∈ b.requests i, tany bad r.1 (r.1 + (r.2 - r.1)) = false) :
    tany bad (b.rowAddr i) (b.rowAddr i + b.desc.bytes) = false := by
  rw [Bool.eq_false_iff]
  intro hit
  obtain ⟨p, mem, low, high, mark⟩ := (tany_iff _ _ _).mp hit
  obtain ⟨r, request, first, last⟩ := b.request_of_byte h low high
  exact Bool.eq_false_iff.mp (good r request) ((tany_iff _ _ _).mpr ⟨p, mem, first, by omega, mark⟩)

/-- The row that memory returns next is one of its block. -/
theorem Drill.nextLanding_lt {x : Drill} (next : x.nextLanding = some (b, i)) : i < b.rows := by
  unfold Drill.nextLanding at next
  obtain ⟨c, found, same⟩ := Option.map_eq_some_iff.mp next
  cases same
  have short : decide (b.landed < b.rows) = true := List.find?_some (p := fun b : Block => decide (b.landed < b.rows)) found
  exact of_decide_eq_true short

variable {s : State} {f : Fur} {k : DrillNo} {o : ReadOutcome}

theorem exec_rowsLand_granted (runs : s.stopped = false) (clocked : (s.fur f).gated = false) (moving : (s.drill f k).moving = true)
    (into : (s.drill f k).out = false) (mode : (s.drill f k).mode.toNat < 2) (next : (s.drill f k).nextLanding = some (b, i))
    (granted : b.rowWaits i = false) : exec (.rowsLand f k o) s = .next (s.landRow f k b i o) := by
  show execRowsLand f k o s = _
  simp [execRowsLand, runs, clocked, moving, into, Drill.isRecv, mode, next, granted]

/-- How memory answers to a run of an unencrypted block in HBM (R144). -/
theorem State.memRead_good (hbm : b.host = false) (plain : b.enc = none) {a n : Nat} (good : tany s.hbmBad a (a + n) = false) :
    s.memRead (b.loc a) n = (s.hbmRd a n, .good) := by
  simp [State.memRead, Block.loc, hbm, plain, good]

theorem State.memRead_bad (hbm : b.host = false) (plain : b.enc = none) {a n : Nat} (bad : tany s.hbmBad a (a + n) = true) :
    (s.memRead (b.loc a) n).2 = .uncorrectable := by
  simp [State.memRead, Block.loc, hbm, plain, bad]

theorem State.requestFault_good (hbm : b.host = false) (plain : b.enc = none) (fresh : b.failed = []) {r : Nat × Nat}
    (good : tany s.hbmBad r.1 (r.1 + (r.2 - r.1)) = false) : s.requestFault b i .good r = none := by
  simp [State.requestFault, fresh, State.memRead_good hbm plain good]

theorem State.requestFault_bad (hbm : b.host = false) (plain : b.enc = none) (fresh : b.failed = []) {r : Nat × Nat}
    (bad : tany s.hbmBad r.1 (r.1 + (r.2 - r.1)) = true) : s.requestFault b i o r = some false := by
  simp [State.requestFault, fresh, State.memRead_bad hbm plain bad]

/-- The requests of row `i` that fail, each with whether translation failed. -/
def State.faultsOf (s : State) (b : Block) (i : Nat) (o : ReadOutcome) : List ((Nat × Nat) × Bool) :=
  (b.requests i).filterMap (fun r => (s.requestFault b i o r).map (fun t => (r, t)))

/-- Where memory is good and the environment says no otherwise, no request of the row fails. -/
theorem State.faultsOf_good (hbm : b.host = false) (plain : b.enc = none) (fresh : b.failed = [])
    (good : ∀ r ∈ b.requests i, tany s.hbmBad r.1 (r.1 + (r.2 - r.1)) = false) : s.faultsOf b i .good = [] := by
  refine List.filterMap_eq_nil_iff.mpr fun r mem => ?_
  rw [State.requestFault_good hbm plain fresh (good r mem)]
  rfl

theorem State.faultsOf_bad (hbm : b.host = false) (plain : b.enc = none) (fresh : b.failed = []) {r : Nat × Nat} (mem : r ∈ b.requests i)
    (bad : tany s.hbmBad r.1 (r.1 + (r.2 - r.1)) = true) : s.faultsOf b i o ≠ [] := by
  have fault : (s.requestFault b i o r).map (fun t => (r, t)) = some (r, false) := by
    rw [State.requestFault_bad hbm plain fresh bad]
    rfl
  exact List.ne_nil_of_mem (List.mem_filterMap.mpr ⟨r, mem, fault⟩)

/-- The requests of a row fail one after another, those that an earlier row has seen fail apart. -/
def State.requestsFail (s : State) (f : Fur) (k : DrillNo) (b : Block) (l : List ((Nat × Nat) × Bool)) : State :=
  l.foldl (fun s p => if b.failed.any (fun g => g.1 == p.1.1) then s else s.requestFails f k b p.1 p.2) s

theorem State.landRow_eq (s : State) (f : Fur) (k : DrillNo) (b : Block) (i : Nat) (o : ReadOutcome) : s.landRow f k b i o =
    (let s1 := s.requestsFail f k b (s.faultsOf b i o)
     let bad := s.faultsOf b i o != []
     let bytes := if bad then s1.freeBytes 512 else (s1.memRead (b.loc (b.rowAddr i)) b.desc.bytes).1
     s1.bumpFree.modDrill f k (fun x => { x with
      landing := x.landing ++ [⟨b.idx, i, bytes, bad, false, false⟩]
      blocks := mapFirst (fun c => c.idx == b.idx) (fun c => { c with landed := c.landed + 1 }) x.blocks })) := rfl

/-- A row none of whose requests fails lands with the bytes of memory. -/
theorem State.landRow_good (noFault : s.faultsOf b i o = []) : s.landRow f k b i o = s.bumpFree.modDrill f k (fun x => { x with
    landing := x.landing ++ [⟨b.idx, i, (s.memRead (b.loc (b.rowAddr i)) b.desc.bytes).1, false, false, false⟩]
    blocks := mapFirst (fun c => c.idx == b.idx) (fun c => { c with landed := c.landed + 1 }) x.blocks }) := by
  rw [State.landRow_eq, noFault]
  rfl

/-- A failing request is marked in DL_STICKY.POISON, and leaves the landed rows (R144). -/
theorem State.requestFails_marks (s : State) (r : Nat × Nat) (tr : Bool) :
    ((s.requestFails f k b r tr).drill f k).landing = (s.drill f k).landing ∧
      bitOf ((s.requestFails f k b r tr).fur f).dlSticky (16 + k.val) = true := by
  have fur : (s.requestFails f k b r tr).fur f = ({ s.fur f with dlSticky := setBit (s.fur f).dlSticky (16 + k.val) true } : Furrow).setDrill k
      { s.drill f k with
        blocks := mapFirst (fun c => c.idx == b.idx) (fun c => { c with failed := c.failed ++ [(r.1, r.2, tr)] }) (s.drill f k).blocks } := by
    refine (State.fur_of_furs (State.offer_furs _ _ _ _ _ _) f).trans ?_
    simp only [State.modFur, State.modDrill, State.setDrill, State.drill, State.fur_setFur]
    rfl
  rw [State.drill, fur, Furrow.drill_setDrill]
  exact ⟨rfl, bitOf_setBit_true_self (by have := k.isLt; omega) _⟩

theorem State.requestsFail_marks (fresh : b.failed = []) (l : List ((Nat × Nat) × Bool)) : ∀ s : State,
    ((s.requestsFail f k b l).drill f k).landing = (s.drill f k).landing ∧
      (l ≠ [] → bitOf ((s.requestsFail f k b l).fur f).dlSticky (16 + k.val) = true) := by
  simp only [State.requestsFail, fresh, List.any_nil, Bool.false_eq_true, if_false]
  induction l with
  | nil => exact fun _ => ⟨rfl, fun h => absurd rfl h⟩
  | cons p rest ih =>
    intro s
    obtain ⟨landing, mark⟩ := State.requestFails_marks (f := f) (k := k) (b := b) s p.1 p.2
    obtain ⟨landing', mark'⟩ := ih (s.requestFails f k b p.1 p.2)
    refine ⟨landing'.trans landing, fun _ => ?_⟩
    cases rest with
    | nil => exact mark
    | cons p' rest' => exact mark' (List.cons_ne_nil _ _)

/-- A row of which a request fails lands poisoned, and its failure is marked (R144). -/
theorem State.landRow_bad (fresh : b.failed = []) (fails : s.faultsOf b i o ≠ []) :
    ∃ w, ((s.landRow f k b i o).drill f k).landing = (s.drill f k).landing ++ [w] ∧ w.idx = b.idx ∧ w.row = i ∧ w.poison = true ∧
      bitOf ((s.landRow f k b i o).fur f).dlSticky (16 + k.val) = true := by
  obtain ⟨landing, mark⟩ := State.requestsFail_marks (f := f) (k := k) fresh (s.faultsOf b i o) s
  rw [State.landRow_eq, bne_iff_ne.mpr fails]
  dsimp only
  rw [State.modDrill, State.drill_setDrill, State.setDrill, State.fur_setFur]
  exact ⟨_, congrArg (· ++ _) landing, rfl, rfl, rfl, mark fails⟩

end

/-! ### Rows that memory acknowledges (R136, R145) -/

section
variable {s : State} {f : Fur} {k : DrillNo} {b : Block} {bytes : List Byte} {poison : Bool}

theorem exec_writeAcknowledge_one {rest : List Block} (runs : s.stopped = false) (clocked : (s.fur f).gated = false)
    (moving : (s.drill f k).moving = true) (out : (s.drill f k).out = true) (blocks : (s.drill f k).blocks = b :: rest)
    (row : b.outRows = [(b.moved, bytes, poison)]) (granted : b.rowWaits b.moved = false) :
    exec (.writeAcknowledge f k) s =
      .next ((List.range 16).foldl (fun u i => u.leaveChanges (furOf i)) (s.ackRow f k b b.moved bytes poison)) := by
  show execWriteAcknowledge f k s = _
  simp [execWriteAcknowledge, runs, clocked, moving, out, blocks, row, State.ackRows, granted]

/-- Changes that leave their furrows leave the memories and the drills. -/
theorem State.leaveChanges_keeps (s : State) (g : Fur) : (s.leaveChanges g).hbm = s.hbm ∧ (s.leaveChanges g).hbmBad = s.hbmBad ∧
    (s.leaveChanges g).drill f k = s.drill f k := by
  unfold State.leaveChanges
  split
  · exact ⟨rfl, rfl, rfl⟩
  · refine ⟨rfl, rfl, ?_⟩
    unfold State.drill State.modFur
    by_cases same : f = g
    · rw [same, State.fur_setFur]
      rfl
    · rw [State.fur_setFur_ne _ same]

theorem State.changesLeave_keep (l : List Nat) : ∀ s : State,
    let u := l.foldl (fun u i => u.leaveChanges (furOf i)) s
    u.hbm = s.hbm ∧ u.hbmBad = s.hbmBad ∧ u.drill f k = s.drill f k := by
  induction l with
  | nil => exact fun _ => ⟨rfl, rfl, rfl⟩
  | cons i rest ih =>
    intro s
    obtain ⟨hbm, bad, drill⟩ := s.leaveChanges_keeps (f := f) (k := k) (furOf i)
    obtain ⟨hbm', bad', drill'⟩ := ih (s.leaveChanges (furOf i))
    exact ⟨hbm'.trans hbm, bad'.trans bad, drill'.trans drill⟩

/-- A drill that has let go of a row's bytes counts it. -/
theorem State.onlyDrill_rowMoved_modDrill {g : Drill → Drill} (rows : ∀ x, (g x).rows = x.rows) (landing : ∀ x, (g x).landing = x.landing) (idx : Nat) :
    s.OnlyDrill ((s.modDrill f k g).rowMoved f k idx poison) f k ((s.drill f k).rows + 1) (s.drill f k).landing := by
  have counted := State.onlyDrill_rowMoved (s.setDrill f k (g (s.drill f k))) f k idx poison
  rw [State.drill_setDrill, rows, landing] at counted
  exact (s.onlyDrill_setDrill f k (g (s.drill f k))).trans counted

/-- A row of an unencrypted block that memory has is written there, and counted by its drill (R136, R145). -/
theorem State.onlyDrill_ackRow (hbm : b.host = false) (plain : b.enc = none) (i : Nat) :
    (s.hbmWr (b.rowAddr i) (bytes.take b.desc.bytes) poison).OnlyDrill (s.ackRow f k b i bytes poison) f k ((s.drill f k).rows + 1)
      (s.drill f k).landing := by
  have written : s.memWrite (b.loc (b.rowAddr i)) (bytes.take b.desc.bytes) poison (b.seg.getD 0) =
      (s.hbmWr (b.rowAddr i) (bytes.take b.desc.bytes) poison, false) := by
    simp [State.memWrite, Block.loc, hbm, plain]
  unfold State.ackRow
  dsimp only
  rw [written, hbm, Bool.and_false, if_neg Bool.false_ne_true]
  refine State.onlyDrill_rowMoved_modDrill (s := s.hbmWr (b.rowAddr i) (bytes.take b.desc.bytes) poison) ?_ ?_ b.idx
  · exact fun _ => rfl
  · exact fun _ => rfl

theorem State.OnlyDrill.hbm {s t : State} {rows : W64} {landing : List LandRow} (h : s.OnlyDrill t f k rows landing) :
    t.hbm = s.hbm ∧ t.hbmBad = s.hbmBad := by
  obtain ⟨x, g, rfl, -, -⟩ := h
  exact ⟨rfl, rfl⟩

/-- The error marks of a run just written are those it was written with (R145). -/
theorem State.tget_hbmBad_hbmWr (wf : twf false s.hbmBad = true) {a i : Nat} (inside : i < bytes.length) :
    tget false (s.hbmWr a bytes poison).hbmBad (a + i) = poison := by
  cases poison with
  | true =>
    refine (tget_tputs_in false _ _ a i wf (by simpa using inside)).trans ?_
    simp [inside]
  | false => exact tget_tclear_in false _ ⟨by omega, by omega⟩

/-- Once a row of an unencrypted block is acknowledged, HBM holds its bytes and its error pattern, and no other byte has changed (R136, R145). -/
theorem State.acknowledged_hbm (hbm : b.host = false) (plain : b.enc = none) (wf : twf 0 s.hbm = true) (marks : twf false s.hbmBad = true)
    (whole : b.desc.bytes ≤ bytes.length) (i : Nat) :
    let t := (List.range 16).foldl (fun u i => u.leaveChanges (furOf i)) (s.ackRow f k b i bytes poison)
    t.hbmRd (b.rowAddr i) b.desc.bytes = bytes.take b.desc.bytes ∧
      (∀ j, j < b.desc.bytes → tget false t.hbmBad (b.rowAddr i + j) = poison) ∧
      (∀ j, (j < b.rowAddr i ∨ b.rowAddr i + b.desc.bytes ≤ j) → tget 0 t.hbm j = tget 0 s.hbm j) ∧
      (t.drill f k).rows = (s.drill f k).rows + 1 := by
  intro t
  have counts := State.onlyDrill_ackRow (s := s) (f := f) (k := k) (bytes := bytes) (poison := poison) hbm plain i
  obtain ⟨hbm', bad', drill⟩ := State.changesLeave_keep (f := f) (k := k) (List.range 16) (s.ackRow f k b i bytes poison)
  have length : (bytes.take b.desc.bytes).length = b.desc.bytes := List.length_take_of_le whole
  have put : t.hbm = tputs 0 s.hbm (b.rowAddr i) (bytes.take b.desc.bytes) := hbm'.trans counts.hbm.1
  have marked : t.hbmBad = (s.hbmWr (b.rowAddr i) (bytes.take b.desc.bytes) poison).hbmBad := bad'.trans counts.hbm.2
  refine ⟨?_, fun j inside => ?_, fun j out => ?_, ?_⟩
  · have read := tgets_tputs_self 0 (bytes.take b.desc.bytes) s.hbm (b.rowAddr i) wf
    rwa [length, ← put] at read
  · rw [marked]
    exact State.tget_hbmBad_hbmWr marks (by rwa [length])
  · rw [put]
    exact tget_tputs_out 0 _ _ _ _ wf (by rwa [length])
  · rw [drill]
    exact counts.drill.1

end

/-- Settles O39: each transfer, each end of one, and each row to or from memory is the equation of its command under the clause's conditions. -/
theorem portSTransfers : Obligations.PortSTransfers := by
  unfold Obligations.PortSTransfers
  intro f k q seq s z x runs s1 first asks
  have asks_of : ∀ t : Xfer, s1.xferNext f t.agent = some t → (∀ u : State, u.beginXfer f t = u.modFur f (fun y => y.sBegin t)) →
      exec (.portSTransfer f t.agent) s = .next (s.portAsk f t.agent) → asks t := by
    intro t next begins asked awake idle serves few check
    obtain ⟨ahead, behind⟩ := State.portAsk_cases next begins awake (State.served_of_free awake idle serves few check)
    rw [asked]
    exact ⟨fun h => congrArg _ (ahead h), fun h => congrArg _ (behind h)⟩
  refine ⟨fun r b moving into next block => ?landed, fun t oldest => ⟨fun write awake => ?written, fun asleep => ?asleep⟩,
    fun t => ⟨State.portWrite_of_free s f, fun w meets => State.portWrite_clash meets⟩, fun c noCopy found here work idle => ?scratch,
    fun t c oldest found write => ?scratchWrite, fun t c oldest found read work got host canonical free => ?toHost,
    fun t c oldest found read work got hbm => ?toHbm, fun b i o clocked moving into mode next granted => ?land,
    fun b rest bytes poison clocked moving out blocks row granted => ?acknowledge⟩
  case landed =>
    refine asks_of (z.landXfer k r b) ?_ (fun _ => rfl) (exec_portSTransfer_drill runs into)
    obtain ⟨a, noted⟩ := s.fur_noteAsks f
    show ((s.noteAsks f).fur f).drillNext k = some (z.landXfer k r b)
    rw [noted]
    exact Furrow.drillNext_landed moving into next block
  case written => rw [exec_portSCommit_drill runs, State.drillCommit_write oldest write awake]
  case asleep => rw [exec_portSCommit_drill runs, State.drillCommit_asleep oldest asleep]
  case scratch =>
    have next : s1.xferNext f (.host q seq) = scratchNext q seq c := State.hostNext_scratch noCopy found here idle
    refine ⟨fun write => ?_, fun read fresh => ?_⟩
    · exact asks_of _ (next.trans (by simp [scratchNext, work, write])) (fun _ => rfl) (exec_portSTransfer_host runs q seq)
    · exact asks_of _ (next.trans (by simp [scratchNext, work, read, fresh])) (fun _ => rfl) (exec_portSTransfer_host runs q seq)
  case scratchWrite => rw [exec_portSCommit_host runs, State.hostCommit_write oldest found write]
  case toHost =>
    obtain ⟨u, commits, mem, data⟩ := exec_portSCommit_scratchRead_host runs oldest found read work got host free
    refine ⟨u, commits, ?_, fun i out => ?_, data⟩
    · rw [State.hostRd, mem]
      exact tgets_tputs_self 0 _ _ _ canonical
    · rw [mem]
      exact tget_tputs_out 0 _ _ _ _ canonical out
  case toHbm =>
    obtain ⟨u, commits, mem, requests, fences⟩ := exec_portSCommit_scratchRead_hbm runs oldest found read got hbm
    rw [Loc.slotPieces_hbm hbm] at fences
    exact ⟨u, commits, mem, requests, fences⟩
  case land =>
    have lands := exec_rowsLand_granted (o := o) runs clocked moving into mode next granted
    refine ⟨lands, fun hbm plain fresh => ⟨fun good quiet => ?_, fun bad => ?_⟩⟩
    · have row := s.memRead_good hbm plain (Block.row_good (Drill.nextLanding_lt next) good)
      refine ⟨_, lands, ?_⟩
      rw [quiet, State.landRow_good (State.faultsOf_good hbm plain fresh good), row, State.modDrill, State.drill_setDrill]
      refine ⟨rfl, rfl, rfl, ?_⟩
      rw [State.setDrill, State.fur_setFur]
      rfl
    · obtain ⟨r, mem, marked⟩ := bad
      obtain ⟨w, landing, fields⟩ := State.landRow_bad (f := f) (k := k) fresh (State.faultsOf_bad (o := o) hbm plain fresh mem marked)
      exact ⟨_, w, lands, landing, fields⟩
  case acknowledge =>
    have acks := exec_writeAcknowledge_one runs clocked moving out blocks row granted
    exact ⟨acks, fun hbm plain wf marks whole => ⟨_, acks, State.acknowledged_hbm hbm plain wf marks whole b.moved⟩⟩

end Sys2Proof.Machine
end

section
/-! PROOFS. ARM_DRILL, REARM_DRILL and DISARM_DRILL as they are accepted (R127, R128, R134 to R136, R148). -/
namespace Sys2Proof.Machine

@[simp] theorem State.setDrill_setDrill (s : State) (f : Fur) (k : DrillNo) (x y : Drill) : (s.setDrill f k x).setDrill f k y = s.setDrill f k y := by
  simp [State.setDrill, Furrow.setDrill]

/-! ### Starting and stopping a list (R133, R134) -/

section
variable {s : State} {f : Fur} {k : DrillNo} {y : Drill}

/-- A list starts as it is armed where a DGO is latched (R134). -/
theorem State.startLatched_of_latched {o : Option Bool} (latched : (s.drill f k).latched = o) :
    s.startLatched f k = if o = none then s else s.startList f k := by
  unfold State.startLatched
  rw [latched]
  cases o <;> rfl

/-- No block of a running list begins any more, and those that have begun nothing end (R133, log 76). -/
theorem State.beginStop_running (running : y.st = .running) : (s.setDrill f k y).beginStop f k =
    (s.setDrill f k { y with st := .stopping, blocks := y.blocks.filter (fun b => !y.untouched b) }).unrefSegs
      ((y.blocks.filter y.untouched).filterMap Block.seg) := by
  unfold State.beginStop
  simp only [State.drill_setDrill, State.setDrill_setDrill]
  exact if_pos running

theorem State.beginStop_stopping (stopping : y.st = .stopping) : (s.setDrill f k y).beginStop f k = s.setDrill f k y := by
  unfold State.beginStop
  rw [State.drill_setDrill]
  exact if_neg (by rw [stopping]; decide)

end

section
variable {s : State} {q : QSlot} {p : Packet} {r : CmdRef}

/-! ### The three commands -/

/-- Copying a list into the descriptor store keeps the drill's latched DGO. -/
theorem State.copyList_latched (s : State) (f : Fur) (x : Drill) : (s.copyList f x).latched = x.latched := by
  unfold State.copyList
  split <;> rfl

/-- The drill as ARM_DRILL sets it (R127, R128). -/
def State.armedDrill (s : State) (p : Packet) (r : CmdRef) : Drill :=
  s.copyList p.fur ((s.drill p.fur p.drillNo).armed p.w (s.queue (slotOf r.q)).prio r)

theorem State.armBody_takes (idle : s.armRefused p.fur p.drillNo (decide (nfld (p.w 1) 12 1 = 1)) (nfld (p.w 1) 13 2) = none) :
    s.armBody p r =
      let b := ((s.modCmd r (fun c => { c with stage := 2 })).setDrill p.fur p.drillNo (s.armedDrill p r)).bumpFree
      if (s.drill p.fur p.drillNo).latched = none then b else b.startList p.fur p.drillNo := by
  unfold State.armBody
  dsimp only
  rw [idle]
  exact State.startLatched_of_latched ((congrArg Drill.latched (State.drill_setDrill _ _ _ _)).trans (s.copyList_latched _ _))

/-- The drill as REARM_DRILL arms it again (R148). -/
def State.rearmedDrill (s : State) (p : Packet) (r : CmdRef) : Drill :=
  { s.drill p.fur p.drillNo with st := .armed, bases := packetBases p.w, prio := (s.queue (slotOf r.q)).prio, cmd := some r }

theorem State.rearmBody_parked (parked : (s.drill p.fur p.drillNo).st = .parked) :
    s.rearmBody p r =
      let b := (s.modCmd r (fun c => { c with stage := 2 })).setDrill p.fur p.drillNo (s.rearmedDrill p r)
      if (s.drill p.fur p.drillNo).latched = none then b else b.startList p.fur p.drillNo :=
  (if_pos parked).trans (State.startLatched_of_latched (by rw [State.drill_setDrill]))

theorem State.disarmBody_idle (idle : (s.drill p.fur p.drillNo).st = .idle) : s.disarmBody p r = s.finish r stOk 0 0 := by
  simp [State.disarmBody, idle]

theorem State.disarmBody_armed (armed : (s.drill p.fur p.drillNo).st = .armed) :
    s.disarmBody p r = (s.idleDrill p.fur p.drillNo stBusy 0 0).finish r stOk 0 0 := by
  simp [State.disarmBody, armed]

theorem State.disarmBody_parked (parked : (s.drill p.fur p.drillNo).st = .parked) :
    s.disarmBody p r = (s.idleDrill p.fur p.drillNo stOk 0 0).finish r stOk 0 0 := by
  simp [State.disarmBody, parked]

/-- A drill that moves rows notes the command, which waits for its end (R135). -/
theorem State.disarmBody_moving (moving : (s.drill p.fur p.drillNo).moving = true) :
    s.disarmBody p r = ((s.modCmd r (fun c => { c with stage := 2 })).setDrill p.fur p.drillNo { s.drill p.fur p.drillNo with
      disarm := (s.drill p.fur p.drillNo).disarm ++ [r] }).beginStop p.fur p.drillNo := by
  have states : (s.drill p.fur p.drillNo).st = .running ∨ (s.drill p.fur p.drillNo).st = .stopping := by
    simpa [Drill.moving] using moving
  rcases states with running | stopping
  · simp [State.disarmBody, running]
  · simp [State.disarmBody, stopping]

theorem State.disarmBody_running (running : (s.drill p.fur p.drillNo).st = .running) :
    let x := s.drill p.fur p.drillNo
    s.disarmBody p r = ((s.modCmd r (fun c => { c with stage := 2 })).setDrill p.fur p.drillNo { x with
      st := .stopping, disarm := x.disarm ++ [r], blocks := x.blocks.filter (fun b => !x.untouched b) }).unrefSegs
        ((x.blocks.filter x.untouched).filterMap Block.seg) :=
  (State.disarmBody_moving (by simp [Drill.moving, running])).trans (State.beginStop_running running)

theorem State.disarmBody_stopping (stopping : (s.drill p.fur p.drillNo).st = .stopping) :
    let x := s.drill p.fur p.drillNo
    s.disarmBody p r = (s.modCmd r (fun c => { c with stage := 2 })).setDrill p.fur p.drillNo { x with
      st := .stopping, disarm := x.disarm ++ [r] } := by
  dsimp only
  rw [← stopping]
  exact (State.disarmBody_moving (by simp [Drill.moving, stopping])).trans (State.beginStop_stopping stopping)

/-- What a DISARM_DRILL does once it has been accepted is one dispatcher cycle. -/
theorem accepts_disarmDrill {t : State} (h : (s.admitted q 0x0206 p).disarmBody p (refOf q p) = t) :
    accepts (.disarmDrill q) s q 0x0206 p (s.oneCycle t) := by
  intro takes
  show Host.Outcome.next (s.oneCycle (s.accept q 0x0206 State.disarmBody)) = _
  rw [s.accept_of_takes takes, ← h]
  rfl

end

/-! ### The statement -/

/-- Settles O37: each command's instruction is its acceptance, and what the command does then follows the state of the drill. -/
theorem drillArming : Obligations.DrillArming := by
  unfold Obligations.DrillArming
  intro q s p r f k run takes
  have slot : slotOf r.q = q := slotOf_val q
  refine ⟨fun idle => ?arm, fun parked => ?rearm, fun idle => ?idle, fun armed => ?armed, fun parked => ?parked, fun running => ?running,
    fun stopping => ?stopping⟩
  case arm =>
    refine accepts_of_body rfl ((State.armBody_takes idle).trans ?_)
    rw [State.armedDrill, slot]
    rfl
  case rearm =>
    refine accepts_of_body rfl ((State.rearmBody_parked parked).trans ?_)
    rw [State.rearmedDrill, slot]
    rfl
  case idle => exact accepts_disarmDrill (State.disarmBody_idle idle)
  case armed => exact accepts_disarmDrill (State.disarmBody_armed armed)
  case parked => exact accepts_disarmDrill (State.disarmBody_parked parked)
  case running => exact accepts_disarmDrill (State.disarmBody_running running)
  case stopping => exact accepts_disarmDrill (State.disarmBody_stopping stopping)

end Sys2Proof.Machine
end

section
/-! PROOFS. A drill's descriptors, the beginning of its blocks, and the end of its list (R128, R130, R132, R136, R137, R139, R149, R384). -/
namespace Sys2Proof.Machine

/-! ### Descriptors (R128) -/

section
variable {s : State} {f : Fur} {k : DrillNo}

/-- A descriptor of a list in a segment is read once its stacks give slots (R349). -/
theorem exec_descriptorFetch_segment (runs : s.stopped = false) (clocked : (s.fur f).gated = false) (fetches : (s.drill f k).fetches = true)
    (segment : (s.drill f k).listScratch = false) (slots : s.stackHeld (s.descLoc (s.drill f k) (s.drill f k).fetchIdx) 32 = false) :
    exec (.descriptorFetch f k) s = .next ((s.setDrill f k ((s.drill f k).gotDesc (s.listDesc f (s.drill f k) (s.drill f k).fetchIdx))).bumpFree) := by
  show execDescriptorFetch f k s = _
  simp [execDescriptorFetch, runs, clocked, fetches, segment, slots]

/-- One of a list in the scratchpad is asked for at port S. -/
theorem exec_descriptorFetch_scratch (runs : s.stopped = false) (clocked : (s.fur f).gated = false) (fetches : (s.drill f k).fetches = true)
    (scratch : (s.drill f k).listScratch = true) {t : Xfer} (next : (s.fur f).descNext k = some t) :
    exec (.descriptorFetch f k) s = .next ((s.noteAsks f).tryXfer f t) := by
  obtain ⟨a, noted⟩ := s.fur_noteAsks f
  have next' : ((s.noteAsks f).fur f).descNext k = some t := by rw [noted]; exact next
  show execDescriptorFetch f k s = _
  simp [execDescriptorFetch, runs, clocked, fetches, scratch, next']

theorem exec_descriptorFetch_gated (gated : (s.fur f).gated = true) : exec (.descriptorFetch f k) s = .next s := by
  show execDescriptorFetch f k s = _
  simp [execDescriptorFetch, gated]

/-- The port-S read of the next descriptor of drill `k` (R128). -/
def Furrow.descXfer (z : Furrow) (k : DrillNo) : Xfer :=
  ⟨.drill k, (z.drill k).listOffset + 32 * (z.drill k).fetchIdx, 32, false, 0, none, [], false, (z.drill k).fetchIdx, 0, true⟩

theorem Furrow.descNext_idle {z : Furrow} (fetches : (z.drill k).fetches = true) (scratch : (z.drill k).listScratch = true)
    (idle : z.xfers = []) : z.descNext k = some (z.descXfer k) := by
  simp [Furrow.descNext, scratch, fetches, idle, Furrow.descXfer]

/-- The read is at its turn, and begins: nothing of the furrow changes but its transfers and what port S notes (R105, R106). -/
theorem exec_descriptorFetch_begins (runs : s.stopped = false) (fetches : (s.drill f k).fetches = true)
    (scratch : (s.drill f k).listScratch = true) (idle : (s.fur f).xfers = []) {t : Xfer} (asked : (s.fur f).descXfer k = t)
    (bank : s.bankHeld f t.addr = false) (awake : (s.fur f).asleep (t.addr / 512) = false) (settled : (s.fur f).isPending (t.addr / 512) = false)
    (turn : (s.noteAsks f).turn f t = true) :
    ∃ u a w, exec (.descriptorFetch f k) s = .next u ∧ u.fur f = { s.fur f with
      asks := a, wRows := w, xfers := [{ t with bytes := tgets 0 (s.fur f).data t.addr 32, poison := (s.fur f).isPoison (t.addr / 512) }] } := by
  obtain ⟨a, noted⟩ := s.fur_noteAsks f
  have read : t.write = false := asked ▸ rfl
  have check : (s.fur f).sCheck (t.addr / 512) t.write t.tag t.ring = true := by
    have tag : t.tag = 0 := asked ▸ rfl
    have ring : t.ring = none := asked ▸ rfl
    simp [Furrow.sCheck, settled, read, tag, ring]
  have clocked : (s.fur f).gated = false := (Bool.or_eq_false_iff.mp bank).1
  have awake' : ((s.noteAsks f).fur f).asleep (t.addr / 512) = false := by rw [noted]; exact awake
  have served : (s.noteAsks f).served f t = true := (s.served_noteAsks f t).trans (s.served_of_idle_port f idle bank awake check)
  have begins : (s.noteAsks f).beginXfer f t = (s.noteAsks f).setFur f (((s.noteAsks f).fur f).sBegin t) := by
    have agent : t.agent = .drill k := asked ▸ rfl
    have desc : t.desc = true := asked ▸ rfl
    simp [State.beginXfer, State.drillBegins, agent, desc]
  have length : min t.len 256 = 32 := asked ▸ rfl
  obtain ⟨a', noted'⟩ := State.fur_noteAsks ((s.noteAsks f).beginXfer f t) f
  refine ⟨_, a', (s.fur f).wRows.filter (fun w => w.addr / 512 != t.addr / 512), exec_descriptorFetch_scratch runs clocked fetches scratch
    ((Furrow.descNext_idle fetches scratch idle).trans (congrArg some asked)), ?_⟩
  rw [State.tryXfer_first awake' served (State.turn_iff.mp turn), noted', begins, State.fur_setFur, noted]
  simp [Furrow.sBegin, idle, read, length, Furrow.isPoison]

theorem Furrow.sRead_drills (z : Furrow) (t : Xfer) : (z.sRead t).drills = z.drills := by
  unfold Furrow.sRead
  dsimp only
  split
  · split <;> rfl
  · dsimp only
    split <;> rfl

/-- The read of a descriptor ends: a list that is not persistent has it fetched, and the scratchpad is as it was (R128). -/
theorem exec_portSCommit_desc (runs : s.stopped = false) {t : Xfer} (oldest : (s.fur f).xferOf (.drill k) = some t) (read : t.write = false)
    (desc : t.desc = true) (awake : (s.fur f).asleep (t.addr / 512) = false) :
    ∃ u, exec (.portSCommit f (.drill k)) s = .next u ∧ u.drill f k = (s.drill f k).gotDesc (descOf ((s.fur f).xferBytes t)) ∧
      (u.fur f).data = (s.fur f).data := by
  have commit : s.drillCommit f k = (s.setFur f ((s.fur f).sRead t)).modDrill f k (fun z => z.gotDesc (descOf ((s.fur f).xferBytes t))) := by
    simp [State.drillCommit, oldest, read, desc, awake]
  have drill : (s.setFur f ((s.fur f).sRead t)).drill f k = s.drill f k := by
    rw [State.drill, State.fur_setFur]
    exact congrArg (fun v : Vector Drill 8 => v[k]) ((s.fur f).sRead_drills t)
  obtain ⟨a, noted⟩ := (s.drillCommit f k).fur_noteAsks f
  refine ⟨_, exec_portSCommit_drill runs, ?_, ?_⟩
  · rw [State.drill, noted]
    show (s.drillCommit f k).drill f k = _
    rw [commit, State.modDrill, State.drill_setDrill, drill]
  · rw [noted, commit, State.modDrill, State.setDrill, State.fur_setFur, State.fur_setFur]
    exact (s.fur f).sRead_data t

end

/-! ### Blocks (R130, R132, R137, R139) -/

section
variable {s : State} {f : Fur} {k : DrillNo} {d : Desc}

/-- The next block of a running list begins where its tile has credit. -/
theorem exec_drillBlockBegin_credit (runs : s.stopped = false) (clocked : (s.fur f).gated = false) (next : (s.drill f k).blockNext = some d)
    (credit : (s.drill f k).hasCredit = true) : exec (.drillBlockBegin f k) s = .next (s.oneCycle (s.beginBlock f k d)) := by
  show execDrillBlockBegin f k s = _
  simp [execDrillBlockBegin, runs, clocked, next, credit]

/-- A tile without credit waits (R137), and so does a drill whose beat clock is gated (R384). -/
theorem exec_drillBlockBegin_waits (waits : (s.fur f).gated = true ∨ (s.drill f k).hasCredit = false) :
    exec (.drillBlockBegin f k) s = .next s := by
  show execDrillBlockBegin f k s = _
  unfold execDrillBlockBegin
  dsimp only
  split
  · rfl
  · rcases waits with gated | broke
    · simp [gated]
    · simp [broke]

theorem Drill.blockNext_running {x : Drill} (running : x.st = .running) (more : x.lastSeen = false) (may : x.mayBegin = true) :
    x.blockNext = x.nextDesc := if_pos ⟨running, by rw [more]; rfl, may⟩

/-- A block of a tile that has ended without rows for it is passed over (R139). -/
theorem State.beginBlock_ended (ended : (s.drill f k).endedRows = some 0) :
    s.beginBlock f k d = s.setDrill f k ((s.drill f k).advance d) := by
  simp [State.beginBlock, ended]

/-- A block that passes its checks joins the drill's, and references its segment (R130, R132). -/
theorem State.beginBlock_passes (here : (s.drill f k).endedRows = none) (good : descBad (s.drill f k) d = false)
    (moves : movesNothing (s.drill f k) d = false) (memory : (s.drill f k).mode.toNat < 2 → s.memRefused f (s.drill f k) d = none)
    (side : spRefused s.build (s.fur f) (s.drill f k) k d = none) :
    s.beginBlock f k d =
      let b := s.newBlock (s.drill f k) d
      let t := s.setDrill f k { (s.drill f k).advance d with blocks := (s.drill f k).blocks ++ [b] }
      match b.seg with | some i => t.refSeg i | none => t := by
  have allowed : (if (s.drill f k).isRecv then none else s.memRefused f (s.drill f k) d) = none := by
    split
    · rfl
    · next own => exact memory (by simpa [Drill.isRecv] using own)
  cases segment : (s.newBlock (s.drill f k) d).seg with
  | none => simp [State.beginBlock, here, good, moves, allowed, side, segment]
  | some i => simp [State.beginBlock, here, good, moves, allowed, side, segment]

end

/-! ### The end of a list (R133, R136, R149) -/

section
variable {s : State} {f : Fur} {k : DrillNo}

theorem Drill.quiet_of_nil {x : Drill} (blocks : x.blocks = []) (landing : x.landing = []) : x.quiet = true := by
  simp [Drill.quiet, blocks, landing]

theorem exec_drillListEnd_ends (runs : s.stopped = false) (clocked : (s.fur f).gated = false) (running : (s.drill f k).st = .running)
    (last : (s.drill f k).lastSeen = true ∨ (s.drill f k).count ≤ (s.drill f k).next) (quiet : (s.drill f k).quiet = true) :
    exec (.drillListEnd f k) s = .next (s.oneCycle (s.endList f k)) :=
  if_pos ⟨running, last, quiet, by rw [clocked]; rfl, by rw [runs]; rfl⟩

theorem exec_drillStopped_ends (runs : s.stopped = false) (clocked : (s.fur f).gated = false) (stopping : (s.drill f k).st = .stopping)
    (quiet : (s.drill f k).quiet = true) : exec (.drillStopped f k) s = .next (s.oneCycle (s.endList f k)) :=
  if_pos ⟨stopping, quiet, by rw [clocked]; rfl, by rw [runs]; rfl⟩

theorem exec_drillListEnd_gated (gated : (s.fur f).gated = true) : exec (.drillListEnd f k) s = .next s :=
  if_neg (by simp [gated])

theorem exec_drillStopped_gated (gated : (s.fur f).gated = true) : exec (.drillStopped f k) s = .next s :=
  if_neg (by simp [gated])

/-- The one drill that a mask names is the one thawed. -/
theorem foldl_domDrills_twoPow {α : Type} (g : α → DrillNo → α) (x : α) (k : DrillNo) :
    (domDrills false 0).foldl (fun y j => if bitOf (BitVec.twoPow 8 k.val) j.val then g y j else y) x = g x k := by
  have named : ∀ k : DrillNo, (domDrills false 0).filter (fun j => bitOf (BitVec.twoPow 8 k.val) j.val) = [k] := by decide
  rw [← List.foldl_filter, named]
  rfl

theorem exec_drillThaw_one (takes : s.takesWrites) (built : f.val < s.build.furrows) :
    exec (.drillThaw f (BitVec.twoPow 8 k.val)) s = .next (s.oneCycle (s.thawDrill f k)) := by
  show Host.Outcome.next (s.oneCycle (s.furrowWrite f 0x30000 _)) = _
  rw [s.furrowWrite_of_takes takes f built, foldl_domDrills_twoPow (fun s j => State.thawDrill s f j)]

/-- A FROZEN drill whose sticky bits BOUNDS, DESC and RELAY are clear is IDLE again. -/
theorem State.thawDrill_clear (frozen : (s.drill f k).st = .frozen) (clear : ∀ b ∈ [0, 8, 24], bitOf (s.fur f).dlSticky (b + k.val) = false) :
    s.thawDrill f k = (s.idleDrill f k stOk 0 0).masterThawed (masterDrill f k) := by
  have bits : bitOf (s.fur f).dlSticky k.val = false ∧ bitOf (s.fur f).dlSticky (8 + k.val) = false ∧
      bitOf (s.fur f).dlSticky (24 + k.val) = false := by simpa using clear
  obtain ⟨bounds, desc, relay⟩ := bits
  exact if_pos ⟨frozen, by rw [bounds, desc, relay]; rfl⟩

end

/-! ### The statement -/

/-- Settles O38: each event of a list is the equation of its command where its conditions hold, and leaves the state where they do not. -/
theorem drillLists : Obligations.DrillLists := by
  unfold Obligations.DrillLists
  intro f k s z x status ended
  refine ⟨fun runs => ⟨fun clocked st list more empty index segment slots => ?segment, fun clocked fetches scratch idle => ?scratch,
    fun d oldest read desc list awake => ?commit, fun d next running more may credit clocked ended => ?passed,
    fun d next running more may credit clocked here good moves memory side => ?begins, fun d _ waits => exec_drillBlockBegin_waits waits,
    fun clocked running last blocks landing => ?ends, fun clocked stopping blocks landing => ?stops, fun gated c mem => ?gated⟩,
    fun mask takes built named frozen clear => ?thaw⟩
  case segment =>
    have fetches : x.fetches = true := by
      simp [Drill.fetches, index, list, more, empty, st]
    rw [exec_descriptorFetch_segment runs clocked fetches segment slots]
    simp [Drill.gotDesc, list, empty, x]
  case scratch =>
    intro a d bank awake settled turn
    obtain ⟨u, asks, rows, begins, fur⟩ := exec_descriptorFetch_begins runs fetches scratch idle (t := d) rfl bank awake settled turn
    refine ⟨u, begins, ?_, ?_, ?_⟩
    · rw [State.drill, fur]
      rfl
    · rw [fur]
    · rw [fur]
  case commit =>
    obtain ⟨u, commits, drill, data⟩ := exec_portSCommit_desc runs oldest read desc awake
    refine ⟨u, commits, ?_, ?_, data⟩
    · rw [drill]
      simp [Drill.gotDesc, list, x, z]
    · rw [drill]
      rfl
  case passed =>
    rw [exec_drillBlockBegin_credit runs clocked ((Drill.blockNext_running running more may).trans next) credit, State.beginBlock_ended ended]
  case begins =>
    exact (exec_drillBlockBegin_credit runs clocked ((Drill.blockNext_running running more may).trans next) credit).trans
      (congrArg (fun t => Host.Outcome.next (s.oneCycle t)) (State.beginBlock_passes here good moves memory side))
  case ends => exact exec_drillListEnd_ends runs clocked running last (Drill.quiet_of_nil blocks landing)
  case stops => exact exec_drillStopped_ends runs clocked stopping (Drill.quiet_of_nil blocks landing)
  case gated =>
    simp only [List.mem_cons, List.not_mem_nil, or_false] at mem
    rcases mem with rfl | rfl | rfl
    · exact exec_descriptorFetch_gated gated
    · exact exec_drillListEnd_gated gated
    · exact exec_drillStopped_gated gated
  case thaw =>
    rw [named, exec_drillThaw_one takes built, State.thawDrill_clear frozen clear]

end Sys2Proof.Machine
end

section
/-! PROOFS. Which piece a slot of a stack port goes to, and what it does (R140 to R142, R277). -/
namespace Sys2Proof.Machine

/-! ### The requesters in their order (R141) -/

section
variable (s : State) (st : Nat)

@[simp] theorem mem_insertAsk (a b : Nat × Cand) (l : List (Nat × Cand)) : b ∈ insertAsk a l ↔ b = a ∨ b ∈ l := by
  induction l with
  | nil => simp [insertAsk]
  | cons c r ih =>
    unfold insertAsk
    split
    · simp
    · simp only [List.mem_cons, ih]
      tauto

/-- Requests in their order are those that were made. -/
theorem mem_orderedAsks {c : Cand} {l : List (Nat × Cand)} (h : c ∈ (l.foldr insertAsk []).map Prod.snd) : ∃ n, (n, c) ∈ l := by
  have all : ∀ l : List (Nat × Cand), ∀ b, b ∈ l.foldr insertAsk [] ↔ b ∈ l := by
    intro l b
    induction l with
    | nil => rfl
    | cons a r ih => simp [ih]
  obtain ⟨⟨n, b⟩, mem, rfl⟩ := List.mem_map.mp h
  exact ⟨n, (all l _).mp mem⟩

/-- The pieces of requester `n`: drill n, the dispatcher, or the mesh's engine. -/
def State.candsOf (n : Nat) : List Cand :=
  if n < 128 then s.drillCands st n else if n = 128 then s.dispatchCands st else s.remoteCands st

theorem State.cands_eq : s.cands st = ((List.range 130).map (s.candsOf st)).filter (fun l => !l.isEmpty) := by
  have drills : (List.range 128).map (s.candsOf st) = (List.range 128).map (s.drillCands st) :=
    List.map_congr_left fun n mem => if_pos (List.mem_range.mp mem)
  have all : (List.range 130).map (s.candsOf st) = (List.range 128).map (s.drillCands st) ++ [s.dispatchCands st, s.remoteCands st] := by
    rw [show (130 : Nat) = 128 + 1 + 1 from rfl, List.range_succ, List.range_succ, List.map_append, List.map_append, drills, List.append_assoc]
    rfl
  rw [all]
  rfl

variable {s st}

theorem State.rq_drillCands {n : Nat} {c : Cand} (mem : c ∈ s.drillCands st n) : c.rq = n := by
  unfold State.drillCands at mem
  dsimp only at mem
  split at mem
  · obtain ⟨b, -, found⟩ := List.mem_filterMap.mp mem
    obtain ⟨p, -, rfl⟩ := Option.map_eq_some_iff.mp found
    rfl
  · exact absurd mem List.not_mem_nil

theorem State.rq_dispatchCands {c : Cand} (mem : c ∈ s.dispatchCands st) : c.rq = 128 := by
  obtain ⟨n, asked⟩ := mem_orderedAsks mem
  rcases List.mem_append.mp asked with copy | fence
  · obtain ⟨j, -, found⟩ := List.mem_filterMap.mp copy
    split at found
    · obtain ⟨-, e⟩ := Option.ite_none_right_eq_some.mp found
      cases e
      rfl
    · cases found
  · obtain ⟨j, -, found⟩ := List.mem_filterMap.mp fence
    obtain ⟨p, -, e⟩ := Option.map_eq_some_iff.mp found
    cases e
    rfl

theorem State.rq_remoteCands {c : Cand} (mem : c ∈ s.remoteCands st) : c.rq = 129 := by
  obtain ⟨n, asked⟩ := mem_orderedAsks mem
  rcases List.mem_append.mp asked with job | signal
  · obtain ⟨j, -, found⟩ := List.mem_filterMap.mp job
    obtain ⟨p, -, e⟩ := Option.map_eq_some_iff.mp found
    cases e
    rfl
  · obtain ⟨j, -, found⟩ := List.mem_filterMap.mp signal
    obtain ⟨a, -, piece⟩ := Option.bind_eq_some_iff.mp found
    obtain ⟨p, -, e⟩ := Option.map_eq_some_iff.mp piece
    cases e
    rfl

theorem State.rq_candsOf {n : Nat} (few : n < 130) {c : Cand} (mem : c ∈ s.candsOf st n) : c.rq = n := by
  unfold State.candsOf at mem
  split at mem
  · exact State.rq_drillCands mem
  · split at mem
    · next e => exact (State.rq_dispatchCands mem).trans e.symm
    · exact (State.rq_remoteCands mem).trans (by omega)

/-- Each requester's first piece: the requesters ascend (R141). -/
theorem State.heads_ascend : ((s.cands st).filterMap List.head?).Pairwise (fun c d => c.rq < d.rq) := by
  have ascend : ((List.range 130).filterMap (fun n => (s.candsOf st n).head?)).Pairwise (fun c d => c.rq < d.rq) := by
    have order : (List.range 130).Pairwise (fun m n => m < n ∧ n < 130) :=
      List.pairwise_lt_range.imp_of_mem fun _ hn lt => ⟨lt, List.mem_range.mp hn⟩
    refine List.Pairwise.filterMap _ (fun m n lt c hc d hd => ?_) order
    rw [State.rq_candsOf (by omega) (List.mem_of_mem_head? hc), State.rq_candsOf lt.2 (List.mem_of_mem_head? hd)]
    exact lt.1
  have heads : ∀ L : List (List Cand), (L.filter (fun l => !l.isEmpty)).filterMap List.head? = L.filterMap List.head? := fun L => by
    rw [List.filterMap_filter]
    exact List.filterMap_congr fun l _ => by cases l <;> rfl
  rw [s.cands_eq, heads, List.filterMap_map]
  exact ascend

theorem State.rq_le {l : List Cand} (mem : l ∈ s.cands st) {c : Cand} (hc : c ∈ l) : c.rq ≤ 129 := by
  rw [s.cands_eq] at mem
  obtain ⟨n, hn, rfl⟩ := List.mem_map.mp (List.mem_of_mem_filter mem)
  rw [State.rq_candsOf (List.mem_range.mp hn) hc]
  exact Nat.le_of_lt_succ (List.mem_range.mp hn)

end

/-! ### The level and the piece (R141, R142) -/

section
variable {p : StackPort} {cs : List (List Cand)} {want : Nat}

/-- Below a guard count of 15 the level is the highest priority of a first piece. -/
theorem slotLevel_highest (few : p.g < 15) (level : slotLevel p cs = some want) :
    ∀ l ∈ cs, ∀ d, l.head? = some d → d.prio ≤ want := by
  intro l mem d head
  have listed : d.prio ∈ cs.filterMap (fun l => l.head?.map Cand.prio) := List.mem_filterMap.mpr ⟨l, mem, by rw [head]; rfl⟩
  unfold slotLevel at level
  dsimp only at level
  split at level
  · next h hs _ _ heads _ =>
    rw [if_neg (Nat.not_le.mpr few)] at level
    rw [heads] at listed
    exact (List.max?_eq_some_iff.mp (List.max?_cons'.trans level)).2 _ listed
  · cases level

/-- From 15 on it is the lowest priority of any piece. -/
theorem slotLevel_lowest (many : 15 ≤ p.g) (level : slotLevel p cs = some want) : ∀ d ∈ cs.flatten, want ≤ d.prio := by
  intro d mem
  have listed : d.prio ∈ cs.flatten.map Cand.prio := List.mem_map_of_mem mem
  unfold slotLevel at level
  dsimp only at level
  split at level
  · next a as _ pieces =>
    rw [if_pos many] at level
    rw [pieces] at listed
    exact (List.min?_eq_some_iff.mp (List.min?_cons'.trans level)).2 _ listed
  · cases level

/-- The first pieces among which the slot of level `want` goes round. -/
def StackPort.eligible (p : StackPort) (cs : List (List Cand)) (want : Nat) : List Cand :=
  (cs.filter (fun l => if 15 ≤ p.g then l.any (fun c => c.prio == want) else l.head?.any (fun c => c.prio == want))).filterMap List.head?

theorem StackPort.mem_eligible_few (few : p.g < 15) {d : Cand} :
    d ∈ p.eligible cs want ↔ (∃ l ∈ cs, l.head? = some d) ∧ d.prio = want := by
  simp only [StackPort.eligible, if_neg (Nat.not_le.mpr few), List.mem_filterMap, List.mem_filter]
  constructor
  · rintro ⟨l, ⟨mem, level⟩, head⟩
    rw [head] at level
    exact ⟨⟨l, mem, head⟩, by simpa using level⟩
  · rintro ⟨⟨l, mem, head⟩, level⟩
    exact ⟨l, ⟨mem, by rw [head]; simpa using level⟩, head⟩

theorem StackPort.mem_eligible_many (many : 15 ≤ p.g) {d : Cand} :
    d ∈ p.eligible cs want ↔ ∃ l ∈ cs, l.head? = some d ∧ ∃ e ∈ l, e.prio = want := by
  simp only [StackPort.eligible, if_pos many, List.mem_filterMap, List.mem_filter, List.any_eq_true, beq_iff_eq]
  constructor
  · rintro ⟨l, ⟨mem, level⟩, head⟩
    exact ⟨l, mem, head, level⟩
  · rintro ⟨l, mem, head, level⟩
    exact ⟨l, ⟨mem, level⟩, head⟩

/-- The slot goes to the first of them at or past the round-robin position, or to the first of all. -/
theorem pickCand_cases {c : Cand} (picked : pickCand p cs = some c) : ∃ want, slotLevel p cs = some want ∧
    ((p.eligible cs want).find? (fun d => decide (vat 0 p.rr want ≤ d.rq)) = some c ∨
      ((p.eligible cs want).find? (fun d => decide (vat 0 p.rr want ≤ d.rq)) = none ∧ (p.eligible cs want).head? = some c)) := by
  unfold pickCand at picked
  split at picked
  · cases picked
  · next want level =>
    refine ⟨want, level, ?_⟩
    dsimp only at picked
    split at picked
    · next found => exact .inl (found.trans picked)
    · next found => exact .inr ⟨found, picked⟩

end

/-- In a list whose requesters ascend, the first one at or past a position is the lowest there, and the head the lowest of all. -/
theorem roundRobin_lowest {l : List Cand} (ascend : l.Pairwise (fun c d => c.rq < d.rq)) {pos : Nat} {c : Cand}
    (first : l.find? (fun d => decide (pos ≤ d.rq)) = some c ∨ (l.find? (fun d => decide (pos ≤ d.rq)) = none ∧ l.head? = some c)) :
    c ∈ l ∧ (∀ d ∈ l, pos ≤ d.rq → pos ≤ c.rq ∧ c.rq ≤ d.rq) ∧ ((∀ d ∈ l, d.rq < pos) → ∀ d ∈ l, c.rq ≤ d.rq) := by
  rcases first with found | ⟨absent, head⟩
  · obtain ⟨reached, before, after, rfl, passed⟩ := List.find?_eq_some_iff_append.mp found
    have reached : pos ≤ c.rq := of_decide_eq_true reached
    have behind : ∀ d ∈ after, c.rq < d.rq := (List.pairwise_cons.mp (List.pairwise_append.mp ascend).2.1).1
    have mem : c ∈ before ++ c :: after := by simp
    refine ⟨mem, fun d hd past => ⟨reached, ?_⟩, fun all => absurd (all c mem) (Nat.not_lt.mpr reached)⟩
    rcases List.mem_append.mp hd with early | late
    · exact absurd past (by simpa using passed d early)
    · rcases List.mem_cons.mp late with rfl | later
      · exact Nat.le_refl _
      · exact Nat.le_of_lt (behind d later)
  · obtain ⟨rest, rfl⟩ := List.head?_eq_some_iff.mp head
    have behind := (List.pairwise_cons.mp ascend).1
    refine ⟨List.mem_cons_self, fun d hd past => absurd past (by simpa using List.find?_eq_none.mp absent d hd), fun _ d hd => ?_⟩
    rcases List.mem_cons.mp hd with rfl | later
    · exact Nat.le_refl _
    · exact Nat.le_of_lt (behind d later)

/-! ### The slot -/

section
variable {s : State} {st : StackNo} {c : Cand}

/-- What is told of the piece that a slot goes to holds of the one picked. -/
theorem State.pick_spec {p : StackPort} {n : Nat} (picked : pickCand p (s.cands n) = some c) : ∃ want, slotLevel p (s.cands n) = some want ∧
    c ∈ p.eligible (s.cands n) want ∧
    (∀ d ∈ p.eligible (s.cands n) want, vat 0 p.rr want ≤ d.rq → vat 0 p.rr want ≤ c.rq ∧ c.rq ≤ d.rq) ∧
    ((∀ d ∈ p.eligible (s.cands n) want, d.rq < vat 0 p.rr want) → ∀ d ∈ p.eligible (s.cands n) want, c.rq ≤ d.rq) := by
  obtain ⟨want, level, first⟩ := pickCand_cases picked
  have ascend : (p.eligible (s.cands n) want).Pairwise (fun c d => c.rq < d.rq) := s.heads_ascend.sublist (List.filter_sublist.filterMap _)
  exact ⟨want, level, roundRobin_lowest ascend first⟩

theorem StackPort.granted_of_level {p : StackPort} {cs : List (List Cand)} {want : Nat} (level : slotLevel p cs = some want) (c : Cand) :
    p.granted cs c = { p with
      g := if cs.flatten.all (fun d => decide (c.prio ≤ d.prio)) || decide (15 ≤ p.g) then 0 else p.g + 1
      rr := vput p.rr want ((c.rq + 1) % 130) } := by
  unfold StackPort.granted
  rw [level]

/-- The state once the port has counted the slot. -/
def State.slotCounted (s : State) (st : StackNo) (c : Cand) : State :=
  { s with stackPorts := s.stackPorts.set st (s.stackPorts[st].granted (s.cands st.val) c) }

variable (runs : s.stopped = false) (trained : s.stackPorts[st].retraining = false) (works : s.stackPorts[st].failed = false)
  (picked : pickCand s.stackPorts[st] (s.cands st.val) = some c)
include runs trained works picked

theorem exec_stackSlotGrant_picked : exec (.stackSlotGrant st) s = .next (
    if c.rq < 128 then (s.slotCounted st c).grantDrill st.val c
    else if c.rq = 128 then
      if s.fences.any (fun j => j.ref == c.ref) then (s.slotCounted st c).grantFence c else (s.slotCounted st c).grantCopy c.ref
    else if c.idx ≠ 0 then (s.slotCounted st c).grantSignal c
    else State.formFrames { s.slotCounted st c with remotes := dropPiece c s.remotes } c.ref
      (1 + match s.cmd? c.ref with | some d => d.w 6 / 4096 | none => 0)) := by
  have grants : exec (.stackSlotGrant st) s = .next (s.grant st) := if_neg (by rw [trained, works, runs]; decide)
  rw [grants]
  unfold State.grant
  dsimp only
  rw [picked]
  rfl

theorem exec_stackSlotGrant_drill (drill : c.rq < 128) : exec (.stackSlotGrant st) s = .next ((s.slotCounted st c).grantDrill st.val c) :=
  (exec_stackSlotGrant_picked runs trained works picked).trans (congrArg _ (if_pos drill))

variable (dispatcher : c.rq = 128)
include dispatcher in
theorem exec_stackSlotGrant_fence (fence : s.fences.any (fun j => j.ref == c.ref) = true) :
    exec (.stackSlotGrant st) s = .next ((s.slotCounted st c).grantFence c) := by
  rw [exec_stackSlotGrant_picked runs trained works picked, if_neg (by omega), if_pos dispatcher, if_pos fence]

include dispatcher in
theorem exec_stackSlotGrant_copy (noFence : s.fences.any (fun j => j.ref == c.ref) = false) :
    exec (.stackSlotGrant st) s = .next ((s.slotCounted st c).grantCopy c.ref) := by
  rw [exec_stackSlotGrant_picked runs trained works picked, if_neg (by omega), if_pos dispatcher, if_neg (by rw [noFence]; decide)]

variable (mesh : c.rq = 129)
include mesh in
theorem exec_stackSlotGrant_signal (signal : c.idx ≠ 0) :
    exec (.stackSlotGrant st) s = .next ((s.slotCounted st c).grantSignal c) := by
  rw [exec_stackSlotGrant_picked runs trained works picked, if_neg (by omega), if_neg (by omega), if_pos signal]

include mesh in
theorem exec_stackSlotGrant_remote (remote : c.idx = 0) : exec (.stackSlotGrant st) s = .next (
    State.formFrames { s.slotCounted st c with remotes := dropPiece c s.remotes } c.ref
      (1 + match s.cmd? c.ref with | some d => d.w 6 / 4096 | none => 0)) := by
  rw [exec_stackSlotGrant_picked runs trained works picked, if_neg (by omega), if_neg (by omega), if_neg (not_not.mpr remote)]

end

section
variable {s : State} {c : Cand}

/-- A slot of a home stack is counted in its furrow (R151). -/
theorem State.homeSlots_grantDrill {st : Nat} (drill : c.rq < 128) (home : st / 2 = c.rq / 8) :
    vat 0 ((s.grantDrill st c).fur (furOf (c.rq / 8))).homeSlots (st % 2) = vat 0 (s.fur (furOf (c.rq / 8))).homeSlots (st % 2) + 1 := by
  have own : st / 2 = (furOf (c.rq / 8)).val := home.trans (Nat.mod_eq_of_lt (by omega)).symm
  have port : st % 2 < 2 := Nat.mod_lt _ (by decide)
  unfold State.grantDrill
  dsimp only
  rw [if_pos own, State.modFur, State.fur_setFur, State.modDrill, State.setDrill, State.fur_setFur]
  simp [vat, vput, port, Furrow.setDrill]

/-- A SCRATCH_READ that has slots to come, or a fence signal, writes nothing with a slot. -/
theorem State.scratchOut_still {r : CmdRef} (waits : s.fences.any (fun j => j.ref == r) = true ∨ ∀ k, s.cmd? r = some k → k.opcode ≠ 0x0205) :
    s.scratchOut r = s := by
  rcases waits with asks | other
  · exact State.scratchOut_waits asks
  · unfold State.scratchOut
    split
    · rfl
    · next k found => exact if_pos (by rw [decide_eq_true (other k found)]; rfl)

/-- The slot of a fence signal that arrived over the mesh is one that its pair no longer asks for. -/
theorem State.recvLane_grantSignal {n : Nat} {ps : List Piece} (asks : (s.ms.recvLane (c.idx - 1)).slots = some (n, ps))
    (canonical : twf RecvLane.clear s.ms.recv = true) :
    ((s.grantSignal c).ms.recvLane (c.idx - 1)).slots = some (n, eraseFirst (fun p => p == c.piece) ps) := by
  have rise : keysRise none s.ms.recv = true := (Bool.and_eq_true_iff.mp canonical).1
  unfold State.grantSignal Mesh.setRecv Mesh.recvLane at *
  rw [State.setMs_ms]
  dsimp only
  rw [tget_tset_self _ _ _ _ rise, asks]
  rfl

end

/-! ### The statement -/

/-- Settles O42: the piece picked is the round robin's among those of the level, and its slot is the equation of its requester. -/
theorem stackSlots : Obligations.StackSlots := by
  unfold Obligations.StackSlots
  intro st s c p cs trained works runs picked same pos
  obtain ⟨want, level, mem, past, wrapped⟩ := State.pick_spec picked
  have highest : p.g < 15 → want = c.prio := fun few => ((StackPort.mem_eligible_few few).mp mem).2.symm
  refine ⟨?guard, fun few => ?robin, ?requester, fun want' high low => ?slot⟩
  case guard =>
    rcases Nat.lt_or_ge p.g 15 with few | many
    · obtain ⟨⟨l, hl, head⟩, -⟩ := (StackPort.mem_eligible_few few).mp mem
      exact ⟨l, hl, head, fun many => absurd few (Nat.not_lt.mpr many)⟩
    · obtain ⟨l, hl, head, d, hd, lowest⟩ := (StackPort.mem_eligible_many many).mp mem
      exact ⟨l, hl, head, fun _ => ⟨d, hd, lowest ▸ slotLevel_lowest many level⟩⟩
  case robin =>
    have among : ∀ d, same d → d ∈ p.eligible cs want := fun d ⟨head, prio⟩ =>
      (StackPort.mem_eligible_few few).mpr ⟨head, prio.trans (highest few).symm⟩
    have those : ∀ d ∈ p.eligible cs want, same d := fun d hd =>
      ⟨((StackPort.mem_eligible_few few).mp hd).1, ((StackPort.mem_eligible_few few).mp hd).2.trans (highest few)⟩
    rw [highest few] at among those past wrapped
    refine ⟨fun l hl d head => ?_, fun d hd => past d (among d hd), fun before d hd => wrapped (fun e he => before e (those e he)) d (among d hd)⟩
    exact highest few ▸ slotLevel_highest few level l hl d head
  case requester =>
    have listed : ∃ l ∈ cs, c ∈ l := by
      obtain ⟨l, hl, head⟩ := List.mem_filterMap.mp mem
      exact ⟨l, List.mem_of_mem_filter hl, List.mem_of_mem_head? head⟩
    obtain ⟨l, hl, hc⟩ := listed
    exact State.rq_le hl hc
  case slot =>
    have one_level : want = want' := by
      rcases Nat.lt_or_ge p.g 15 with few | many
      · exact (highest few).trans (high few).symm
      · obtain ⟨l, hl, -, e, he, level_e⟩ := (StackPort.mem_eligible_many many).mp mem
        obtain ⟨⟨d, hd, level_d⟩, least⟩ := low many
        exact Nat.le_antisymm (level_d ▸ slotLevel_lowest many level d hd) (level_e ▸ least e (List.mem_flatten.mpr ⟨l, hl, he⟩))
    intro low t
    have counted : s.slotCounted st c = t := by
      unfold State.slotCounted
      rw [StackPort.granted_of_level (one_level ▸ level)]
    rw [← counted]
    refine ⟨fun drill => ?drill, fun dispatcher fence => ?fence, fun dispatcher noFence => ?copy, fun mesh signal => ?signal,
      fun mesh remote => exec_stackSlotGrant_remote runs trained works picked mesh remote⟩
    case drill =>
      have grants := exec_stackSlotGrant_drill runs trained works picked drill
      exact ⟨grants, _, grants, fun home => State.homeSlots_grantDrill drill home⟩
    case fence =>
      have grants := exec_stackSlotGrant_fence runs trained works picked dispatcher fence
      exact ⟨grants, fun still => grants.trans (congrArg Host.Outcome.next (State.scratchOut_still still))⟩
    case copy => exact exec_stackSlotGrant_copy runs trained works picked dispatcher noFence
    case signal =>
      have grants := exec_stackSlotGrant_signal runs trained works picked mesh signal
      exact ⟨grants, _, grants, fun n ps asks canonical => State.recvLane_grantSignal asks canonical⟩

end Sys2Proof.Machine
end

section
/-! PROOFS. What a fault raised beside a furrow leaves of it, and the records that it makes (R321 to R334, R369). -/
namespace Sys2Proof.Machine

/-! ### Furrows whose domains a recovery stops -/

/-- Furrow `y` is `x` but for its scoreboard and for where its domains stand. -/
def Furrow.Stops (x y : Furrow) : Prop :=
  (∃ ds b w, y = { x with doms := ds, board := b, waiting := w }) ∧
    ∀ d : Dom, ∃ st causes since, y.dom d = { x.dom d with st := st, causes := causes, frozenSince := since }

theorem Furrow.Stops.refl (x : Furrow) : x.Stops x := ⟨⟨_, _, _, rfl⟩, fun _ => ⟨_, _, _, rfl⟩⟩

theorem Furrow.Stops.trans {x y z : Furrow} (h : x.Stops y) (h' : y.Stops z) : x.Stops z := by
  obtain ⟨⟨ds, b, w, rfl⟩, doms⟩ := h
  obtain ⟨⟨ds', b', w', e⟩, doms'⟩ := h'
  refine ⟨⟨ds', b', w', e⟩, fun d => ?_⟩
  obtain ⟨st, causes, since, first⟩ := doms d
  obtain ⟨st', causes', since', second⟩ := doms' d
  exact ⟨st', causes', since', by rw [second, first]⟩

theorem Furrow.stops_setDom (x : Furrow) (d : Dom) (st : DomState) (causes : BitVec 8) (since : Option W64) :
    x.Stops (x.setDom d { x.dom d with st := st, causes := causes, frozenSince := since }) := by
  refine ⟨⟨_, _, _, rfl⟩, fun e => ?_⟩
  by_cases same : e = d
  · subst same
    exact ⟨st, causes, since, Furrow.dom_setDom _ _ _⟩
  · exact ⟨_, _, _, Furrow.dom_setDom_ne _ same _⟩

theorem Furrow.stops_stopDoms (ds : List Dom) : ∀ x : Furrow, x.Stops (x.stopDoms ds) := by
  induction ds with
  | nil => exact Furrow.Stops.refl
  | cons d r ih =>
    intro x
    refine Furrow.Stops.trans ?_ (ih _)
    dsimp only
    split
    · exact .refl x
    · exact x.stops_setDom d _ _ _

theorem sameFurrows.stops {s t : State} (h : sameFurrows s t) (f : Fur) : (s.fur f).Stops (t.fur f) := by
  obtain ⟨b, w, e⟩ := h.fur f
  rw [e]
  exact ⟨⟨_, _, _, rfl⟩, fun _ => ⟨_, _, _, rfl⟩⟩

/-! ### Records while the intake queue has room (R369) -/

/-- State `t` has offered the gleaner at most `n` records more than `s`, at the same time and under the same mask. -/
structure State.Records (s t : State) (n : Nat) : Prop where
  time : t.time = s.time
  mask : t.gl.imask = s.gl.imask
  few : t.gl.intake.length ≤ s.gl.intake.length + n
  kept : s.gl.intake.length + n ≤ 256 → t.gl.refused = s.gl.refused

theorem State.Records.of_same {s t : State} (gl : t.gl = s.gl) (time : t.time = s.time) (n : Nat) : s.Records t n where
  time := time
  mask := by rw [gl]
  few := by rw [gl]; exact Nat.le_add_right _ _
  kept := fun _ => by rw [gl]

theorem State.Records.trans {s t u : State} {m n : Nat} (h : s.Records t m) (h' : t.Records u n) : s.Records u (m + n) where
  time := h'.time.trans h.time
  mask := h'.mask.trans h.mask
  few := by have := h.few; have := h'.few; omega
  kept := fun room => by
    have := h.few
    rw [h'.kept (by omega), h.kept (by omega)]

theorem State.records_offer (s : State) (code : Nat) (source : W16) (p0 p1 p2 : Nat) : s.Records (s.offer code source p0 p1 p2) 1 := by
  unfold State.offer
  dsimp only
  split
  · exact .of_same rfl rfl 1
  · split
    · exact ⟨rfl, rfl, by simp, fun _ => rfl⟩
    · exact ⟨rfl, rfl, Nat.le_succ _, fun room => absurd room (by omega)⟩

theorem State.records_faultRecord (s : State) (code : Nat) (source : W16) (p0 p1 p2 lev : Nat) :
    s.Records (s.faultRecord code source p0 p1 p2 lev) 1 := by
  obtain ⟨m, b, c, ring⟩ := s.ringRecord_changes code source p0 p1 p2 lev
  have offered := (s.ringRecord code source p0 p1 p2 lev).records_offer code source p0 p1 p2
  rw [ring] at offered
  unfold State.faultRecord
  rw [ring]
  exact ⟨offered.time, offered.mask, offered.few, offered.kept⟩

/-! ### A fault raised (R323 to R329) -/

/-- State `t` is `s` once a fault has been raised: one record, and domains that a recovery has stopped. -/
structure State.Raised (s t : State) : Prop where
  stops : ∀ f, (s.fur f).Stops (t.fur f)
  records : s.Records t 1

section
variable {s u t : State}

/-- After the record only recovery registers change, and where domains stand. -/
theorem State.Raised.then_stops (h : s.Raised u) (gl : t.gl = u.gl) (time : t.time = u.time) (stops : ∀ f, (u.fur f).Stops (t.fur f)) :
    s.Raised t where
  stops := fun f => (h.stops f).trans (stops f)
  records := h.records.trans (.of_same gl time 0)

theorem State.Raised.then_registers (h : s.Raised u) (gl : t.gl = u.gl) (time : t.time = u.time) (furs : t.furs = u.furs) : s.Raised t :=
  h.then_stops gl time fun f => by rw [State.fur_of_furs furs f]; exact .refl _

theorem State.Raised.then_stopAll (h : s.Raised u) {ds : List Dom} (gl : t.gl = u.gl) (time : t.time = u.time)
    (furs : t.furs = u.furs.map (fun x => x.stopDoms ds)) : s.Raised t :=
  h.then_stops gl time fun f => by
    have stopped : t.fur f = (u.fur f).stopDoms ds :=
      (congrArg (fun v : Vector Furrow 16 => v[f]) furs).trans (u.fur_stopAll f (fun x => x.stopDoms ds))
    rw [stopped]
    exact Furrow.stops_stopDoms ds _

theorem State.Raised.then_modFur (h : s.Raised u) (f : Fur) {g : Furrow → Furrow} (stops : ∀ x : Furrow, x.Stops (g x)) : s.Raised (u.modFur f g) :=
  h.then_stops rfl rfl fun f' => by
    by_cases named : f' = f
    · rw [named, State.modFur, State.fur_setFur]
      exact stops _
    · rw [State.modFur, State.fur_setFur_ne _ named]
      exact .refl _

end

section
variable (s : State)

theorem State.faultRecord_raised (code : Nat) (source : W16) (p0 p1 p2 lev : Nat) : s.Raised (s.faultRecord code source p0 p1 p2 lev) where
  stops := fun f => by rw [State.fur_of_furs (s.faultRecord_furs code source p0 p1 p2 lev) f]; exact .refl _
  records := s.records_faultRecord code source p0 p1 p2 lev

theorem State.startL4_raised (i : FaultInfo) (esc req : Bool) : s.Raised (s.startL4 i esc req) := by
  have recorded := s.faultRecord_raised i.code i.source i.p0 i.p1 i.p2 (levByte 4 esc req)
  unfold State.startL4
  dsimp only
  generalize s.faultRecord i.code i.source i.p0 i.p1 i.p2 (levByte 4 esc req) = u at recorded
  exact recorded.then_stopAll (ds := [0, 1]) rfl rfl rfl

theorem State.startL3_raised (i : FaultInfo) (esc conc req : Bool) : s.Raised (s.startL3 i esc conc req) := by
  have recorded := s.faultRecord_raised i.code i.source i.p0 i.p1 i.p2 (levByte 3 (esc || conc) req)
  unfold State.startL3
  dsimp only
  generalize s.faultRecord i.code i.source i.p0 i.p1 i.p2 (levByte 3 (esc || conc) req) = u at recorded
  split
  · exact s.startL4_raised i true req
  · exact recorded.then_stopAll (ds := [0, 1]) rfl rfl rfl

/-- A recovery that gives way to another leaves nothing behind but the registers. -/
theorem State.Raised.of_dropRec {r : RecDomain} {t : State} (h : (s.dropRec r).Raised t) : s.Raised t where
  stops := h.stops
  records := ⟨h.records.time, h.records.mask, h.records.few, h.records.kept⟩

theorem State.startL2_raised (r : RecDomain) (i : FaultInfo) (esc req byDebug : Bool) : s.Raised (s.startL2 r i esc req byDebug) := by
  have recorded := s.faultRecord_raised i.code i.source i.p0 i.p1 i.p2 (levByte 2 esc req)
  unfold State.startL2
  dsimp only
  generalize s.faultRecord i.code i.source i.p0 i.p1 i.p2 (levByte 2 esc req) = u at recorded
  split
  · exact .of_dropRec s ((s.dropRec r).startL3_raised i esc true req)
  · refine State.Raised.then_modFur ?_ _ (Furrow.stops_stopDoms _)
    exact recorded.then_registers rfl rfl rfl

/-- A fault raised, whatever it escalates to, makes one record and stops domains (R321 to R329). -/
theorem State.raise_raised (level : Nat) (r : RecDomain) (i : FaultInfo) (master : Nat) : s.Raised (s.raise level r i master) := by
  have recorded := s.faultRecord_raised i.code i.source i.p0 i.p1 i.p2 (levByte 1 false false)
  unfold State.raise
  generalize s.faultRecord i.code i.source i.p0 i.p1 i.p2 (levByte 1 false false) = u at recorded
  split
  · dsimp only
    split
    · exact s.startL2_raised r i true false false
    · split
      · exact .of_dropRec s ((s.dropRec r).startL3_raised i true false false)
      · exact s.startL4_raised i true false
  · split
    · exact recorded.then_registers rfl rfl rfl
    · split
      · exact s.startL2_raised r i false false false
      · exact s.startL3_raised i false false false

end

/-! ### The intake queue after a cycle without a refusal (R369) -/

/-- The records of a cycle stand in the order of R369 at its end. -/
theorem State.oneCycle_gl (s t : State) : (s.oneCycle t).gl = (s.ordered (s.ringOrdered t)).gl := by
  unfold State.oneCycle
  dsimp only

theorem State.ringOrdered_gl (s t : State) : (s.ringOrdered t).gl = t.gl := by
  obtain ⟨m, b, l, ring⟩ := s.ringOrdered_changes t
  rw [ring]

section
variable {s t : State} (kept : t.gl.refused = s.gl.refused)
include kept

/-- A cycle in which no record was refused refuses none by ordering them. -/
theorem State.refused_ordered : (s.ordered t).gl.refused = s.gl.refused := by
  unfold State.ordered
  dsimp only
  split
  · exact kept
  · have sorted : ((t.gl.intake.drop s.gl.intake.length ++ t.gl.refused.drop s.gl.refused.length).foldr insertRec []).length =
        t.gl.intake.length - s.gl.intake.length := by
      rw [length_sortedRecs, kept, List.drop_length, List.append_nil, List.length_drop]
    dsimp only
    rw [List.drop_eq_nil_of_le (Nat.le_of_eq sorted), kept, List.take_length, List.append_nil]

theorem State.refused_oneCycle : (s.oneCycle t).gl.refused = s.gl.refused := by
  rw [s.oneCycle_gl]
  exact State.refused_ordered (by rw [s.ringOrdered_gl, kept])

/-- A cycle in which no record was refused holds those that were offered. -/
theorem State.mem_intake_oneCycle (r : GRec) : r ∈ (s.oneCycle t).gl.intake ↔ r ∈ t.gl.intake := by
  rw [s.oneCycle_gl, s.mem_ordered _ (by rw [s.ringOrdered_gl, kept, List.drop_length]), s.ringOrdered_gl]

end

end Sys2Proof.Machine
end

section
/-! PROOFS. Context slots, and the change of a furrow's owner (R147, R254 to R256, R322). -/
namespace Sys2Proof.Machine

/-! ### Context slots and requests (R254, R255, R322) -/

section
variable {s : State} {c : CSlot} {f : Fur} {v : W64}

theorem exec_cxCfgWrite_takes (takes : s.takesWrites) : exec (.cxCfgWrite c v) s = .next (s.writeCtx c v) :=
  congrArg Host.Outcome.next (s.hostWrite_of_takes takes _ _ _)

theorem exec_cxThaw_takes (takes : s.takesWrites) : exec (.cxThaw c) s = .next (s.setCtx c.val { s.ctx c.val with frozen := false }) :=
  congrArg Host.Outcome.next (s.hostWrite_of_takes takes _ _ _)

theorem exec_cxAssignWrite_takes (takes : s.takesWrites) : exec (.cxAssignWrite f v) s = .next (s.writeAssign f v) :=
  congrArg Host.Outcome.next (s.hostWrite_of_takes takes _ _ _)

theorem bitOf_and {n : Nat} (a b : BitVec n) (i : Nat) : bitOf (a &&& b) i = (bitOf a i && bitOf b i) := BitVec.getLsbD_and

/-- PROTECTED and VALID of a written CX_CFG are those of the value. -/
theorem bitOf_cxMask : bitOf (v &&& cxMask) 62 = bitOf v 62 ∧ bitOf (v &&& cxMask) 63 = bitOf v 63 := by
  have protect : bitOf cxMask 62 = true := by decide
  have valid : bitOf cxMask 63 = true := by decide
  rw [bitOf_and, bitOf_and, protect, valid, Bool.and_true, Bool.and_true]
  exact ⟨rfl, rfl⟩

/-- A slot without queue or furrow takes its configuration, where no other VALID slot has the CONTEXT_ID (R254). -/
theorem State.writeCtx_free (allowed : ¬ (s.debugOn = true ∧ bitOf v 62 = true)) (noQueue : s.boundQueues c.val = [])
    (noFurrow : s.ownsFurrow c.val = false) (free : bitOf v 63 = true → s.idTaken c.val (fld (v &&& cxMask) 0 12) = false) :
    s.writeCtx c v = s.setCtx c.val { s.ctx c.val with cfg := v &&& cxMask } := by
  obtain ⟨protect, valid⟩ := bitOf_cxMask (v := v)
  have taken : (bitOf v 63 && s.idTaken c.val (fld (v &&& cxMask) 0 12)) = false := Bool.and_eq_false_imp.mpr free
  unfold State.writeCtx
  dsimp only
  rw [protect, valid, noQueue, noFurrow, taken, if_neg (by rwa [Bool.and_eq_true])]
  rfl

/-- A release, or a request of a context slot that is VALID and not barred, is recorded (R255, R361). -/
theorem State.writeAssign_taken (built : f.val < s.build.furrows)
    (named : bitOf v 6 = true ∨ ((s.ctx (v.setWidth 6 : BitVec 6).toNat).valid = true ∧ (v.setWidth 6 : BitVec 6).toNat < 48 ∧
      ¬ (s.debugOn = true ∧ bitOf (s.ctx (v.setWidth 6 : BitVec 6).toNat).cfg 62 = true))) :
    s.writeAssign f v = s.setFur f { s.fur f with
      release := bitOf v 6, target := v.setWidth 6
      pendingAssign := (s.fur f).assignZeroing ||
        (if bitOf v 6 then (s.fur f).owned else !((s.fur f).owned && (s.fur f).owner == (v.setWidth 6 : BitVec 6))) } := by
  have slot : (BitVec.ofNat 6 v.toNat : BitVec 6) = v.setWidth 6 := BitVec.ofNat_toNat 6 v
  unfold State.writeAssign
  dsimp only
  rw [slot]
  rcases named with release | ⟨valid, inRange, allowed⟩
  · simp [Nat.not_le.mpr built, release]
  · simp only [not_and] at allowed
    simp only [Nat.not_le.mpr built, valid, inRange, decide_true, decide_false, Bool.and_true, Bool.not_true, Bool.and_false,
      Bool.or_false, Bool.false_eq_true, if_false]
    rw [if_neg (by
      simp only [Bool.and_eq_true, not_and]
      exact fun on => allowed on.1)]

end

/-! ### The relay of a furrow that changes hands (R147) -/

section
variable (s : State) (f : Fur)

/-- State `t` is `s` once drills of furrow `g` have lost their receiver: of the other furrows domains may have stopped, the rows on the link are as
they were, and at most `n` records have been made. -/
structure State.LosesRelay (s t : State) (g : Fur) (n : Nat) : Prop where
  others : ∀ f, f ≠ g → (s.fur f).Stops (t.fur f)
  link : (t.fur g).relayOut = (s.fur g).relayOut
  records : s.Records t n

theorem State.LosesRelay.trans {s t u : State} {g : Fur} {m n : Nat} (h : s.LosesRelay t g m) (h' : t.LosesRelay u g n) :
    s.LosesRelay u g (m + n) where
  others := fun f ne => (h.others f ne).trans (h'.others f ne)
  link := h'.link.trans h.link
  records := h.records.trans h'.records

theorem Furrow.Stops.relayOut {x y : Furrow} (h : x.Stops y) : y.relayOut = x.relayOut := by
  obtain ⟨⟨ds, b, w, rfl⟩, -⟩ := h
  rfl

theorem State.Raised.losesRelay {s t : State} (h : s.Raised t) (g : Fur) : s.LosesRelay t g 1 :=
  ⟨fun f _ => h.stops f, (h.stops g).relayOut, h.records⟩

theorem Furrow.returnRelay_relayOut (z : Furrow) (k : DrillNo) : (z.returnRelay k).relayOut = z.relayOut := by
  unfold Furrow.returnRelay
  split <;> rfl

theorem Furrow.dropDrill_relayOut (z : Furrow) (k : DrillNo) : (z.dropDrill k).relayOut = z.relayOut := by
  unfold Furrow.dropDrill
  dsimp only
  split <;> rfl

/-- A drill that freezes leaves the rows on its furrow's link (R146, R149). -/
theorem State.freezeDrill_losesRelay (g : Fur) (k : DrillNo) (idx status reason : Nat) :
    s.LosesRelay (s.freezeDrill g k idx status reason) g 0 := by
  unfold State.freezeDrill
  dsimp only
  generalize froze : State.modFur s g _ = u
  have finished := u.finishOpt_sameFurrows (s.drill g k).cmd status (s.drill g k).listRows (s.drill g k).listPois
  refine ⟨fun f ne => ?_, ?_, ?_⟩
  · have same : u.fur f = s.fur f := by rw [← froze, State.modFur, State.fur_setFur_ne _ ne]
    rw [← same]
    exact finished.stops f
  · rw [(finished.stops g).relayOut, ← froze, State.modFur, State.fur_setFur]
    dsimp only [Furrow.setDrill]
    rw [Furrow.dropDrill_relayOut, Furrow.returnRelay_relayOut]
  · obtain ⟨x, q, t, w, e⟩ := u.finishOpt_changes (s.drill g k).cmd status (s.drill g k).listRows (s.drill g k).listPois
    have gl : u.gl = s.gl := by rw [← froze]; rfl
    have time : u.time = s.time := by rw [← froze]; rfl
    rw [e]
    exact ⟨time, by rw [gl], by rw [gl]; exact Nat.le_refl _, fun _ => by rw [gl]⟩

/-- The drills that send to furrow `f` freeze, one after another, each with a fault (R147, R149). -/
theorem State.relayLost_losesRelay (n : Nat) : s.LosesRelay (s.relayLost f n) (furOf (f.val - 1)) 8 := by
  have none : ∀ (s : State) g m, s.LosesRelay s g m := fun s g m => ⟨fun _ _ => .refl _, rfl, .of_same rfl rfl m⟩
  have each : ∀ (op : State → DrillNo → State) (g : Fur), (∀ (s : State) k, s.LosesRelay (op s k) g 1) → ∀ (ks : List DrillNo) (s : State),
      s.LosesRelay (ks.foldl op s) g ks.length := by
    intro op g one ks
    induction ks with
    | nil => exact fun s => none s g 0
    | cons k r ih =>
      intro s
      rw [List.length_cons, Nat.add_comm]
      exact (one s k).trans (ih (op s k))
  unfold State.relayLost
  split
  · exact none s _ 8
  · refine each _ _ (fun s k => ?_) (domDrills false 0) s
    dsimp only
    split
    · exact (s.freezeDrill_losesRelay _ k _ _ _).trans ((State.raise_raised _ _ _ _ _).losesRelay _)
    · exact none s _ 1

/-- What is buffered at the relay input and on the link to it is discarded. -/
theorem State.dropRelay_fur : (s.dropRelay f).1.fur f = ({ s.fur f with relayIn := [] } : Furrow).dropXfers .relay := by
  unfold State.dropRelay
  dsimp only
  rw [State.modFur, State.fur_setFur]
  split
  · rfl
  · next sender => rw [State.modFur, State.fur_setFur_ne _ (furOf_pred_ne sender).symm]

theorem State.dropRelay_link (sender : f.val ≠ 0) : ((s.dropRelay f).1.fur (furOf (f.val - 1))).relayOut = [] := by
  unfold State.dropRelay
  dsimp only
  rw [if_neg sender, State.modFur, State.fur_setFur_ne _ (furOf_pred_ne sender), State.modFur, State.fur_setFur]

theorem State.dropRelay_records : s.Records (s.dropRelay f).1 0 := by
  have gl : (s.dropRelay f).1.gl = s.gl := by
    unfold State.dropRelay
    dsimp only
    split <;> rfl
  have time : (s.dropRelay f).1.time = s.time := by
    unfold State.dropRelay
    dsimp only
    split <;> rfl
  exact .of_same gl time 0

/-- The state once the relay of furrow `f` is empty and its sender frozen (R147). -/
def State.cutRelay (s : State) (f : Fur) : State := (s.dropRelay f).1.relayLost f (s.dropRelay f).2

theorem State.cutRelay_fur : (({ s.fur f with relayIn := [] } : Furrow).dropXfers .relay).Stops ((s.cutRelay f).fur f) := by
  by_cases first : f.val = 0
  · have still : s.cutRelay f = (s.dropRelay f).1 := if_pos first
    rw [still, s.dropRelay_fur]
    exact .refl _
  · rw [← s.dropRelay_fur]
    exact (State.relayLost_losesRelay _ f _).others f (furOf_pred_ne first).symm

theorem State.cutRelay_link (sender : f.val ≠ 0) : ((s.cutRelay f).fur (furOf (f.val - 1))).relayOut = [] :=
  (State.relayLost_losesRelay _ f _).link.trans (s.dropRelay_link f sender)

theorem State.cutRelay_records : s.Records (s.cutRelay f) 8 := by
  exact (s.dropRelay_records f).trans (State.relayLost_losesRelay _ f _).records

end

end Sys2Proof.Machine
end

section
/-! PROOFS. O32: context slots and the ownership of furrows (R147, R254 to R256, R322). -/
namespace Sys2Proof.Machine

/-! ### A furrow leaves its context (R256) -/

section
variable (x : Furrow)

theorem Furrow.leaveContext_dom (d : Dom) : x.leaveContext.dom d = { (x.dom d).clearRegs with
    st := if d = 1 then .unused else (x.dom d).st } := by
  have cleared : ∃ y : Furrow, x.leaveContext = y.setDom 1 { y.dom 1 with st := .unused } ∧ y.doms = x.doms.map Domain.clearRegs :=
    ⟨_, rfl, rfl⟩
  obtain ⟨y, left, doms⟩ := cleared
  have regs : ∀ e : Dom, y.dom e = (x.dom e).clearRegs := fun e => by simp [Furrow.dom, doms]
  rw [left]
  by_cases one : d = 1
  · subst one
    rw [Furrow.dom_setDom, regs, if_pos rfl]
  · rw [Furrow.dom_setDom_ne _ one, regs, if_neg one]
    rfl

/-- All windows of the furrow are closed. -/
theorem Furrow.leaveContext_window (j : Nat) : (vat Window.closed x.leaveContext.windows j).isOpen = false := by
  have windows : x.leaveContext.windows = x.windows.map Window.shut := rfl
  unfold vat
  split
  · rw [windows, Vector.getElem_map]
    rfl
  · rfl

end

section
variable (s : State) (f : Fur)

/-- What a furrow of another owner, or of none, holds of its work: drills, transfers, the relay input and the scoreboard may have changed, and where
its domains stand. -/
theorem State.cutDisarmed_fur : ∃ doms ds b w xs, ((s.disarmDrills f).cutRelay f).fur f =
    { s.fur f with doms := doms, drills := ds, board := b, waiting := w, xfers := xs, relayIn := [] } := by
  obtain ⟨⟨ds, b, w, xs, disarmed⟩, -⟩ := s.disarmDrills_work f
  obtain ⟨⟨doms, b', w', cut⟩, -⟩ := (s.disarmDrills f).cutRelay_fur f
  refine ⟨doms, ds, b', w', xs.filter (fun t => t.agent != .relay), ?_⟩
  rw [cut, disarmed]
  rfl

/-- The furrow while it is zeroed (R256, log 17). -/
theorem State.beginLeave_fur : ∃ doms ds b w xs, (s.beginLeave f).fur f =
    { Furrow.leaveContext { s.fur f with doms := doms, drills := ds, board := b, waiting := w, xfers := xs, relayIn := [] } with
      owned := false, zeroing := true, assignZeroing := true, zeroAt := s.time } := by
  obtain ⟨doms, ds, b, w, xs, cut⟩ := s.cutDisarmed_fur f
  refine ⟨doms, ds, b, w, xs, ?_⟩
  have left : (s.leaveContext f).fur f = (((s.disarmDrills f).cutRelay f).fur f).leaveContext := State.fur_setFur _ f _
  unfold State.beginLeave
  rw [State.modFur, State.fur_setFur, State.oneCycle_fur, left, cut]

end

/-! ### A furrow is handed on (R255, R256) -/

section
variable (s : State) (f : Fur)

/-- The furrow in the hands of the context that was asked for, or of none. -/
def Furrow.reassigned (x : Furrow) : Furrow :=
  { x with
    owned := x.pendingAssign && !x.release
    owner := if x.release || !x.pendingAssign then 0 else x.target
    pendingAssign := false, zeroing := false, assignZeroing := false }

theorem State.reassign_fur : (s.reassign f).fur f = (s.fur f).reassigned := by
  have asked : (!((s.fur f).release || !(s.fur f).pendingAssign)) = ((s.fur f).pendingAssign && !(s.fur f).release) := by
    rw [Bool.not_or, Bool.not_not, Bool.and_comm]
  unfold State.reassign
  dsimp only
  rw [State.fur_of_furs (State.offer_furs _ _ _ _ _ _) f, State.modFur, State.fur_setFur, asked]
  rfl

theorem State.reassign_fur_ne {g : Fur} (other : g ≠ f) : (s.reassign f).fur g = s.fur g := by
  unfold State.reassign
  dsimp only
  rw [State.fur_of_furs (State.offer_furs _ _ _ _ _ _) g, State.modFur, State.fur_setFur_ne _ other]

theorem State.handOver_eq : s.handOver f = s.oneCycle ((s.cutRelay f).reassign f) := rfl

theorem State.handOver_fur (g : Fur) : (s.handOver f).fur g = ((s.cutRelay f).reassign f).fur g := by
  rw [s.handOver_eq, State.oneCycle_fur]

/-- Whatever orders the records of the change, the furrow is as R255 leaves it, and its relay input and the link to it are empty (R147). -/
theorem State.handedOn {t : State} (fur : ∀ g, t.fur g = ((s.cutRelay f).reassign f).fur g) :
    let z := s.fur f
    (t.fur f).owned = (z.pendingAssign && !z.release) ∧ (t.fur f).pendingAssign = false ∧ (t.fur f).zeroing = false ∧
      (t.fur f).assignZeroing = false ∧ ((t.fur f).owned = true → (t.fur f).owner = z.target) ∧ (t.fur f).data = z.data ∧
      (∀ d : Dom, ∃ st causes since, (t.fur f).dom d = { z.dom d with st := st, causes := causes, frozenSince := since }) ∧
      (t.fur f).relayIn = [] ∧ (f.val ≠ 0 → (t.fur (furOf (f.val - 1))).relayOut = []) := by
  intro z
  obtain ⟨⟨doms, b, w, cut⟩, stops⟩ := s.cutRelay_fur f
  have own : t.fur f = ((s.cutRelay f).fur f).reassigned := (fur f).trans (State.reassign_fur _ f)
  have dom : ∀ d, (t.fur f).dom d = ((s.cutRelay f).fur f).dom d := fun d => by rw [own]; rfl
  refine ⟨?_, ?_, ?_, ?_, fun owned => ?_, ?_, fun d => ?_, ?_, fun sender => ?_⟩
  · rw [own, cut]; rfl
  · rw [own]; rfl
  · rw [own]; rfl
  · rw [own]; rfl
  · rw [own, cut] at owned ⊢
    obtain ⟨asked, kept⟩ := Bool.and_eq_true_iff.mp owned
    exact if_neg (by rw [asked, Bool.not_true, Bool.or_false]; exact (Bool.not_eq_true' _).mp kept ▸ Bool.false_ne_true)
  · rw [own, cut]; rfl
  · rw [dom]
    exact stops d
  · rw [own, cut]; rfl
  · rw [fur, State.reassign_fur_ne _ f (furOf_pred_ne sender)]
    exact s.cutRelay_link f sender

/-- An informational record that is not masked is in the intake queue while that has room (R369, R370). -/
theorem State.offer_unmasked (code : Nat) (source : W16) (p0 p1 p2 : Nat) (room : s.gl.intake.length < 256)
    (shown : bitOf s.gl.imask (nfld code 8 7) = false) : s.offer code source p0 p1 p2 = { s with gl := { s.gl with
      intake := s.gl.intake ++ [⟨s.time, BitVec.ofNat 16 code, source, BitVec.ofNat 32 p0, BitVec.ofNat 32 p1, BitVec.ofNat 32 p2⟩] } } := by
  simp [State.offer, shown, room]

/-- The change ends with its event. -/
theorem State.reassign_offers : ∃ (v : State) (p1 : Nat), s.reassign f =
    v.offer 0x8505 srcBlock f.val p1 (if (s.fur f).assignZeroing then s.since (s.fur f).zeroAt else 0) ∧ v.gl = s.gl := by
  unfold State.reassign
  exact ⟨_, _, rfl, rfl⟩

/-- The event of a change whose zeroing is over tells its time (R256), and no record of it is refused. -/
theorem State.reassign_record (zeroed : (s.fur f).assignZeroing = true) (room : s.gl.intake.length < 240) (shown : bitOf s.gl.imask 5 = false) :
    let u := (s.cutRelay f).reassign f
    u.gl.refused = s.gl.refused ∧ ∃ r ∈ u.gl.intake, r.code = 0x8505 ∧ r.source = srcBlock ∧ r.p0.toNat = f.val ∧
      r.p2 = BitVec.ofNat 32 (s.since (s.fur f).zeroAt) := by
  intro u
  obtain ⟨time, mask, few, kept⟩ := s.cutRelay_records f
  obtain ⟨⟨doms, b, w, cut⟩, -⟩ := s.cutRelay_fur f
  have zeroing : ((s.cutRelay f).fur f).assignZeroing = true := by rw [cut]; exact zeroed
  have since : (s.cutRelay f).since ((s.cutRelay f).fur f).zeroAt = s.since (s.fur f).zeroAt := by
    unfold State.since
    rw [time, cut]
    rfl
  obtain ⟨v, p1, offered, gl⟩ := (s.cutRelay f).reassign_offers f
  rw [if_pos zeroing, since] at offered
  unfold u
  rw [offered, v.offer_unmasked _ _ _ _ _ (by rw [gl]; omega) (by rw [gl, mask]; exact shown)]
  refine ⟨by rw [gl]; exact kept (by omega), _, List.mem_append_right _ (List.mem_singleton_self _), rfl, rfl, ?_, rfl⟩
  exact (BitVec.toNat_ofNat ..).trans (Nat.mod_eq_of_lt (Nat.lt_trans f.isLt (by decide)))

/-- The event is in the intake queue once the change and its cycle are over. -/
theorem State.handOver_record (zeroed : (s.fur f).assignZeroing = true) (room : s.gl.intake.length < 240) (shown : bitOf s.gl.imask 5 = false) :
    ∃ r ∈ (s.oneCycle (s.handOver f)).gl.intake, r.code = 0x8505 ∧ r.source = srcBlock ∧ r.p0.toNat = f.val ∧
      r.p2 = BitVec.ofNat 32 (s.since (s.fur f).zeroAt) := by
  obtain ⟨kept, r, offered, event⟩ := s.reassign_record f zeroed room shown
  rw [s.handOver_eq]
  generalize (s.cutRelay f).reassign f = u at kept offered
  exact ⟨r, (State.mem_intake_oneCycle (State.refused_oneCycle kept) r).mpr ((State.mem_intake_oneCycle kept r).mpr offered), event⟩

end

/-! ### FURROW_OWNERSHIP_CHANGE (R255, R256) -/

section
variable {s : State} {f : Fur}

theorem State.dropBarred_clear (clear : s.assignBarred f = false) : s.dropBarred f = s := if_neg (by rw [clear]; decide)

variable (runs : s.stopped = false)
include runs

/-- The zeroing is over. -/
theorem exec_furrowOwnershipChange_zeroed (clear : s.assignBarred f = false) (zeroed : (s.fur f).assignZeroing = true) :
    exec (.furrowOwnershipChange f) s = .next (s.oneCycle (s.handOver f)) := by
  show execFurrowOwnershipChange f s = _
  simp [execFurrowOwnershipChange, runs, State.dropBarred_clear clear, zeroed]

/-- The change of a quiet furrow takes effect. -/
theorem exec_furrowOwnershipChange_ready (clear : s.assignBarred f = false) (fresh : (s.fur f).assignZeroing = false)
    (asked : (s.fur f).pendingAssign = true) (quiet : s.mayReassign f = true) :
    exec (.furrowOwnershipChange f) s = .next (if (s.fur f).owned then s.beginLeave f else s.handOver f) := by
  show execFurrowOwnershipChange f s = _
  simp [execFurrowOwnershipChange, runs, State.dropBarred_clear clear, fresh, asked, quiet]

/-- A furrow whose zeroing is over, or that no context owns, is handed on, after the zeroing with the event of R256. -/
theorem exec_furrowOwnershipChange_handed (clear : s.assignBarred f = false)
    (cause : (s.fur f).assignZeroing = true ∨ ((s.fur f).pendingAssign = true ∧ (s.fur f).owned = false ∧ s.mayReassign f = true)) :
    ∃ t, exec (.furrowOwnershipChange f) s = .next t ∧ (∀ g, t.fur g = ((s.cutRelay f).reassign f).fur g) ∧
      ((s.fur f).assignZeroing = true → s.gl.intake.length < 240 → bitOf s.gl.imask 5 = false →
        ∃ r ∈ t.gl.intake, r.code = 0x8505 ∧ r.source = srcBlock ∧ r.p0.toNat = f.val ∧ r.p2 = BitVec.ofNat 32 (s.since (s.fur f).zeroAt)) := by
  by_cases zeroed : (s.fur f).assignZeroing = true
  · exact ⟨s.oneCycle (s.handOver f), exec_furrowOwnershipChange_zeroed runs clear zeroed,
      fun g => (State.oneCycle_fur _ _ g).trans (s.handOver_fur f g), s.handOver_record f⟩
  · obtain ⟨asked, unowned, quiet⟩ := cause.resolve_left zeroed
    refine ⟨s.handOver f, ?_, s.handOver_fur f, fun zeroed' => absurd zeroed' zeroed⟩
    rw [exec_furrowOwnershipChange_ready runs clear ((Bool.not_eq_true _).mp zeroed) asked quiet, unowned, if_neg Bool.false_ne_true]

/-- A request that debug has come to bar is dropped (R361, log 17). -/
theorem exec_furrowOwnershipChange_barred (barred : s.assignBarred f = true) (fresh : (s.fur f).assignZeroing = false) :
    ∃ t, exec (.furrowOwnershipChange f) s = .next t ∧ t.fur f = { s.fur f with pendingAssign := false } := by
  have dropped : (s.dropBarred f).fur f = { s.fur f with pendingAssign := false } := by
    unfold State.dropBarred
    rw [if_pos barred, State.fur_of_furs (State.offer_furs _ _ _ _ _ _) f, State.modFur, State.fur_setFur]
  refine ⟨s.dropBarred f, ?_, dropped⟩
  show execFurrowOwnershipChange f s = _
  simp [execFurrowOwnershipChange, runs, dropped, fresh]

end

/-! ### The statement -/

/-- Settles O32: the writes of the context registers, and the change of an owner in its two steps: the furrow leaves its context and is cleared, and
is then handed on. -/
theorem contextControl : Obligations.ContextControl := by
  unfold Obligations.ContextControl
  intro c f v s x new z target
  refine ⟨fun takes => ⟨fun allowed noQueue noFurrow free => ?config, exec_cxThaw_takes takes, fun built release => ?release,
    fun built named valid inRange allowed => ?request⟩, fun runs clear => ⟨fun fresh asked owned quiet => ?leaves, fun cause => ?handed⟩,
    fun runs on asked named prot fresh => ?barred⟩
  case config => exact (exec_cxCfgWrite_takes takes).trans (congrArg _ (State.writeCtx_free allowed noQueue noFurrow free))
  case release =>
    rw [exec_cxAssignWrite_takes takes, State.writeAssign_taken built (.inl release), release]
    rfl
  case request =>
    rw [exec_cxAssignWrite_takes takes, State.writeAssign_taken built (.inr ⟨valid, inRange, allowed⟩), named]
    rfl
  case leaves =>
    obtain ⟨doms, ds, b, w, xs, fur⟩ := s.beginLeave_fur f
    refine ⟨s.beginLeave f, (exec_furrowOwnershipChange_ready runs clear fresh asked quiet).trans (congrArg _ (if_pos owned)), ?_⟩
    have shut : ∀ j : Fin 16, ((s.beginLeave f).window f j).isOpen = false := fun j => by
      unfold State.window
      rw [fur]
      exact Furrow.leaveContext_window _ j
    rw [fur]
    exact ⟨rfl, rfl, rfl, asked, rfl, rfl, rfl, rfl, rfl, rfl, rfl, rfl, shut, fun d => congrArg Domain.sregs (Furrow.leaveContext_dom _ d)⟩
  case handed =>
    obtain ⟨t, changes, fur, event⟩ := exec_furrowOwnershipChange_handed runs clear cause
    obtain ⟨owned, pending, zeroing, done, owner, data, doms, input, link⟩ := s.handedOn f fur
    exact ⟨t, changes, owned, pending, zeroing, done, owner, data, doms, input, link, event⟩
  case barred =>
    have barred : s.assignBarred f = true := by simp [State.assignBarred, on, asked, named, prot, z]
    obtain ⟨t, drops, fur⟩ := exec_furrowOwnershipChange_barred runs barred fresh
    exact ⟨t, drops, by rw [fur], by rw [fur], by rw [fur]⟩

end Sys2Proof.Machine
end

section
/-! PROOFS. What a harrow operation issues: its lanes, its latency byte and its marks (R207, R208). -/
namespace Sys2Proof.Machine

/-- The byte of the latency sheet (R71). -/
def hrwByte (code : Nat) : Nat :=
  if code ≤ 0x55 then 14 else if code ≤ 0x69 then 15 else if code ≤ 0x73 then 16 else if code ≤ 0x7D then 18 else 17

/-- Which vector operands a harrow operation reads (R207, R208). -/
def hrwReadsA (code n : Nat) : Bool := !(code == 0x5C && opSB n)
def hrwReadsB (code n : Nat) : Bool :=
  !(opSB n && decide (code < 0x70)) && (code ≤ 0x59 || code == 0x5D || code == 0x5E || (0x60 ≤ code && code ≤ 0x69) ||
    (code == 0x73 && fmtMx (nfld (opMod n) 2 4)))
def hrwReadsC (code : Nat) : Bool := decide (code ≤ 0x52) || code == 0x59

theorem hrwReadsA_of_ne {code : Nat} (other : code ≠ 0x5C) (n : Nat) : hrwReadsA code n = true := by
  rw [hrwReadsA, beq_eq_false_iff_ne.mpr other]
  rfl

theorem hrwReadsC_of_ne {code : Nat} (other : 0x52 < code ∧ code ≠ 0x59) : hrwReadsC code = false := by
  obtain ⟨notMulAdd, notSel⟩ := other
  rw [hrwReadsC, decide_eq_false (Nat.not_le.mpr notMulAdd), beq_eq_false_iff_ne.mpr notSel]
  rfl

/-- Operations below CVT that have an operand B read it as a register unless it is a scalar. -/
theorem hrwReadsB_binary {code : Nat} (binary : code ≤ 0x59 ∨ code = 0x5D ∨ code = 0x5E ∨ (0x60 ≤ code ∧ code ≤ 0x69)) (n : Nat) :
    hrwReadsB code n = !opSB n := by
  have low : code < 0x70 := by omega
  have reads : (decide (code ≤ 0x59) || code == 0x5D || code == 0x5E || (decide (0x60 ≤ code) && decide (code ≤ 0x69))) = true := by
    simpa [or_assoc] using binary
  rw [hrwReadsB, reads, decide_eq_true low, Bool.and_true, Bool.true_or, Bool.and_true]

theorem hrwReadsB_unary {code : Nat} (unary : 0x5A ≤ code ∧ code ≤ 0x5C ∨ 0x70 ≤ code ∧ code ≤ 0x72 ∨ 0x78 ≤ code) (n : Nat) :
    hrwReadsB code n = false := by
  have none : (decide (code ≤ 0x59) || code == 0x5D || code == 0x5E || (decide (0x60 ≤ code) && decide (code ≤ 0x69)) ||
      (code == 0x73 && fmtMx (nfld (opMod n) 2 4))) = false := by
    simp only [Bool.or_eq_false_iff, Bool.and_eq_false_imp, decide_eq_false_iff_not, beq_eq_false_iff_ne, decide_eq_true_eq, beq_iff_eq]
    omega
  rw [hrwReadsB, none, Bool.and_false]

section
variable (s : State) (f : Fur) (d : Dom) (code n : Nat)

/-- The marks of the vector operands that the operation reads, and those of its result. -/
def State.readMarks : BitVec 8 :=
  (if hrwReadsA code n then s.marksOf f d (opA n) else 0) ||| (if hrwReadsB code n then s.marksOf f d (opB n) else 0) |||
    (if hrwReadsC code then s.marksOf f d (opC n) else 0)
def State.resultMarks : BitVec 8 :=
  if mixesSegs code (opMod n) n then (if s.readMarks f d code n = 0 then 0 else segsOf 0 (s.env f d).h) else s.readMarks f d code n

/-- Operand B, which only the operations below CVT broadcast from a scalar. -/
def State.hrwLanesB : List W32 := if code < 0x70 then s.opBLanes f d n else s.lanesOf f d (opB n)

/-- Lanes and flags of the result. -/
def State.hrwResult : List W32 × Machine.Raised :=
  hrwLanes (s.env f d).h code n (opMod n) (s.lanesOf f d (opA n)) (s.hrwLanesB f d code n) (s.lanesOf f d (opC n))
    ((s.dom f d).sreg (opB n)) ((s.dom f d).sreg (opSI n))

theorem State.length_opBLanes : (s.opBLanes f d n).length = (s.env f d).h := by
  unfold State.opBLanes
  split
  · exact List.length_replicate
  · exact length_tgets ..

theorem State.hrwLanesB_eq : (if (opSB n && decide (code < 0x70)) = true then List.replicate (s.env f d).h (w32 (fld ((s.dom f d).sreg (opSI n)) 0 32))
    else s.lanesOf f d (opB n)) = s.hrwLanesB f d code n := by
  have scalar : w32 (fld ((s.dom f d).sreg (opSI n)) 0 32) = ((s.dom f d).sreg (opSI n)).setWidth 32 := by
    rw [fld_zero]
    exact BitVec.eq_of_toNat_eq (by simp [w32])
  unfold State.hrwLanesB State.opBLanes
  rw [scalar]
  by_cases low : code < 0x70 <;> simp [low]

/-- The marks read are those of the operands' segments that the domain has. -/
theorem State.readMarks_eq :
    ((if hrwReadsA code n then ((s.dom f d).vreg (opA n)).marks else 0) ||| (if hrwReadsB code n then ((s.dom f d).vreg (opB n)).marks else 0) |||
      (if hrwReadsC code then ((s.dom f d).vreg (opC n)).marks else 0)) &&& segsOf 0 (s.env f d).h = s.readMarks f d code n := by
  have seg : ∀ (p : Bool) (m : BitVec 8), segsOf 0 (s.env f d).h &&& (if p then m else 0) = if p then m &&& segsOf 0 (s.env f d).h else 0 := by
    intro p m
    cases p
    · exact BitVec.and_zero
    · exact BitVec.and_comm ..
  rw [BitVec.and_comm, BitVec.and_or_distrib_left, BitVec.and_or_distrib_left, seg, seg, seg]
  rfl

/-- A harrow operation whose MOD is defined, of a format that is built, has one act: the write of D (R208, R218). -/
theorem State.hrwActs_defined (slot : Nat) (defined : hrwModBad code (opMod n) = false)
    (built : 0x70 ≤ code ∧ code ≤ 0x73 → fmtPresent s.build.formats (nfld (opMod n) 2 4) = true) :
    hrwActs (s.env f d) slot code n = .ok (s.vectorTo f d slot n (hrwByte code) (s.hrwResult f d code n) (s.resultMarks f d code n)) := by
  have present : ¬ (0x70 ≤ code ∧ (decide (code ≤ 0x73) && !fmtPresent s.build.formats (nfld (opMod n) 2 4)) = true) := by
    rintro ⟨from70, upTo73⟩
    obtain ⟨upTo73, absent⟩ := Bool.and_eq_true_iff.mp upTo73
    rw [built ⟨from70, of_decide_eq_true upTo73⟩] at absent
    exact Bool.false_ne_true absent
  have marks : ∀ m : BitVec 8, (if (m != 0) = true then segsOf 0 (s.env f d).h else 0) = if m = 0 then 0 else segsOf 0 (s.env f d).h := by
    intro m
    simp only [bne_iff_ne, ne_eq, ite_not]
  unfold hrwActs
  refine (if_neg (by rw [defined]; exact Bool.false_ne_true)).trans ((if_neg present).trans ?_)
  unfold State.vectorTo State.resultMarks State.hrwResult
  rw [← s.readMarks_eq f d code n, ← s.hrwLanesB_eq f d code n, ← marks]
  rfl

end

/-- A harrow operation of either slot, whose MOD is defined, writes D its result and its marks when its row's beat retires. -/
theorem issues_harrow {s : State} {f : Fur} {d : Dom} {sl : Fin 2} {code n : Nat} {c : Instr} {byte : Nat} {r : List W32 × Raised}
    {m : BitVec 8} (beat : exec c s = .next (s.opBeat f d ⟨7 + sl.val, code, n⟩)) (present : code ≠ 0) (defined : hrwModBad code (opMod n) = false)
    (built : 0x70 ≤ code ∧ code ≤ 0x73 → fmtPresent s.build.formats (nfld (opMod n) 2 4) = true)
    (sheet : hrwByte code = byte) (lanes : s.hrwResult f d code n = r) (marks : s.resultMarks f d code n = m) :
    issues c s f d ⟨7 + sl.val, code, n⟩ (s.vectorTo f d (7 + sl.val) n byte r m) := by
  subst sheet lanes marks
  refine issues_of _ _ _ _ _ _ beat (by simp) ?_ rfl
  rw [← s.hrwActs_defined f d code n _ defined built]
  unfold slotActs
  rw [if_neg present]
  match sl with
  | 0 => rfl
  | 1 => rfl

/-! ### Marks by the operands read -/

section
variable {s : State} {f : Fur} {d : Dom} {code n : Nat}

theorem State.readMarks_unary (a : hrwReadsA code n = true) (b : hrwReadsB code n = false) (c : hrwReadsC code = false) :
    s.readMarks f d code n = s.marksOf f d (opA n) := by
  simp [State.readMarks, a, b, c]

theorem State.opBMarks_eq : s.opBMarks f d n = if !opSB n then s.marksOf f d (opB n) else 0 := by
  unfold State.opBMarks
  cases opSB n <;> rfl

theorem State.readMarks_binary (a : hrwReadsA code n = true) (b : hrwReadsB code n = !opSB n) (c : hrwReadsC code = false) :
    s.readMarks f d code n = s.marksOf f d (opA n) ||| s.opBMarks f d n := by
  simp only [State.readMarks, State.opBMarks_eq, a, b, c, if_true, Bool.false_eq_true, if_false, BitVec.ofNat_eq_ofNat, BitVec.or_zero]

theorem State.readMarks_registers (a : hrwReadsA code n = true) (b : hrwReadsB code n = true) (c : hrwReadsC code = false) :
    s.readMarks f d code n = s.marksOf f d (opA n) ||| s.marksOf f d (opB n) := by
  simp only [State.readMarks, a, b, c, if_true, Bool.false_eq_true, if_false, BitVec.ofNat_eq_ofNat, BitVec.or_zero]

theorem State.readMarks_ternary (a : hrwReadsA code n = true) (b : hrwReadsB code n = !opSB n) (c : hrwReadsC code = true) :
    s.readMarks f d code n = s.marksOf f d (opA n) ||| s.opBMarks f d n ||| s.marksOf f d (opC n) := by
  simp only [State.readMarks, State.opBMarks_eq, a, b, c, if_true]

theorem State.resultMarks_laneWise {m : BitVec 8} (own : mixesSegs code (opMod n) n = false) (read : s.readMarks f d code n = m) :
    s.resultMarks f d code n = m := by
  rw [State.resultMarks, own, if_neg Bool.false_ne_true, read]

theorem State.resultMarks_mixed {m : BitVec 8} (mixed : mixesSegs code (opMod n) n = true) (read : s.readMarks f d code n = m) :
    s.resultMarks f d code n = if m = 0 then 0 else segsOf 0 (s.env f d).h := by
  rw [State.resultMarks, mixed, if_pos rfl, read]

end

/-! ### Lane-wise operations -/

/-- A TYPE above 1 is the one MOD that these leave undefined (R209). -/
theorem hrwModBad_type {code : Nat} (typed : code < 0x5C ∨ (0x78 ≤ code ∧ code ≤ 0x7D)) {n : Nat} (type : tyOf n ≤ 1) :
    hrwModBad code (opMod n) = false := by
  unfold hrwModBad
  simp (disch := omega) only [if_neg, Bool.or_eq_true, decide_eq_true_eq]
  exact decide_eq_false (Nat.not_lt.mpr type)

/-- An IW or GRAIN of 3 is the one MOD that these leave undefined (R209). -/
theorem hrwModBad_grain {code : Nat} (grained : 0x5D ≤ code ∧ code ≤ 0x69) {n : Nat} (grain : tyOf n ≤ 2) :
    hrwModBad code (opMod n) = false := by
  unfold hrwModBad
  rw [if_neg (by omega), if_pos grained]
  exact decide_eq_false (fun three => absurd (three ▸ grain : 3 ≤ 2) (by decide))

theorem mixesSegs_of_laneWise {code : Nat} (laneWise : code < 0x5D ∨ (0x60 ≤ code ∧ code ≤ 0x71) ∨ (0x78 ≤ code ∧ code ≤ 0x7D)) (md n : Nat) :
    mixesSegs code md n = false := by
  have other : ∀ k : Nat, (k = 0x5D ∨ k = 0x5E ∨ k = 0x72 ∨ k = 0x73 ∨ k = 0x7E ∨ k = 0x7F) → (code == k) = false := fun k hk =>
    beq_eq_false_iff_ne.mpr (by omega)
  simp [mixesSegs, other]

theorem laneWise_eq (h : Nat) (g : W32 → W32 → W32 → W32 × Raised) (a b c : List W32) :
    laneWise h g a b c = (((List.range h).map (fun i => g (a.getD i 0) (b.getD i 0) (c.getD i 0))).map Prod.fst,
      ((List.range h).map (fun i => g (a.getD i 0) (b.getD i 0) (c.getD i 0))).foldl (fun fl r => fl ||| r.2) 0) := by
  rw [List.map_map, List.foldl_map]
  rfl

end Sys2Proof.Machine
end

section
/-! PROOFS. O11: harrow arithmetic (R209, R210). -/
namespace Sys2Proof.Machine

theorem hrwLanes_arith {k : Nat} (hk : k < 6) (h n : Nat) (a b c : List W32) (stream seed : W64) :
    hrwLanes h (0x50 + k) n (opMod n) a b c stream seed = laneWise h (laneOp (tyOf n) (fpArith fp32 k (rmOf n) (satOf n) (flushOf n))
      (fpArith bf16 k (rmOf n) (satOf n) (flushOf n))) a b c := by
  rw [laneWise_eq]
  unfold hrwLanes
  refine (if_pos (by omega)).trans ?_
  rw [Nat.add_sub_cancel_left]
  rfl

/-- Settles O11: one equation of `hrwLanes` gives the lanes of all six, which differ in the operands whose marks they take. -/
theorem harrowArithmetic : Obligations.HarrowArithmetic := by
  unfold Obligations.HarrowArithmetic
  intro f d sl op s n h a b c ma mb mc does
  have arith : ∀ {i : Instr} {k : Nat} {m : BitVec 8}, k < 6 → exec i s = .next (s.opBeat f d ⟨7 + sl.val, 0x50 + k, n⟩) →
      s.readMarks f d (0x50 + k) n = m → does i (0x50 + k) k m := by
    intro i k m hk beat read type
    have lanesB : s.hrwLanesB f d (0x50 + k) n = b := if_pos (by omega)
    refine issues_harrow beat (by omega) (hrwModBad_type (by omega) type) (by omega) (if_pos (by omega)) ?_
      (State.resultMarks_laneWise (mixesSegs_of_laneWise (by omega) _ _) read)
    rw [State.hrwResult, lanesB, hrwLanes_arith hk]
  have three : ∀ k : Nat, k < 3 → s.readMarks f d (0x50 + k) n = ma ||| mb ||| mc := fun k hk =>
    State.readMarks_ternary (hrwReadsA_of_ne (by omega) n) (hrwReadsB_binary (by omega) n) (Bool.or_eq_true_iff.mpr (.inl (decide_eq_true (by omega))))
  have two : ∀ k : Nat, 3 ≤ k → k < 6 → s.readMarks f d (0x50 + k) n = ma ||| mb := fun k from3 hk =>
    State.readMarks_binary (hrwReadsA_of_ne (by omega) n) (hrwReadsB_binary (by omega) n) (hrwReadsC_of_ne (by omega))
  refine ⟨?fma, ?fms, ?fnma, ?fadd, ?fsub, ?fmul⟩
  case fma => exact arith (k := 0) (by decide) rfl (three 0 (by decide))
  case fms => exact arith (k := 1) (by decide) rfl (three 1 (by decide))
  case fnma => exact arith (k := 2) (by decide) rfl (three 2 (by decide))
  case fadd => exact arith (k := 3) (by decide) rfl (two 3 (by decide) (by decide))
  case fsub => exact arith (k := 4) (by decide) rfl (two 4 (by decide) (by decide))
  case fmul => exact arith (k := 5) (by decide) rfl (two 5 (by decide) (by decide))

end Sys2Proof.Machine
end

section
/-! PROOFS. O12: harrow comparisons, selections and sign operations (R211). -/
namespace Sys2Proof.Machine

/-! ### Operations on the bits of an element -/

/-- Two elements of 16 bits are the lane of their bits. -/
theorem w32_halves (lo hi : BitVec 16) : w32 (lo.toNat + 65536 * hi.toNat) = hi ++ lo := by
  refine BitVec.eq_of_toNat_eq ?_
  have := lo.isLt
  have := hi.isLt
  rw [toNat_append_add, w32, BitVec.toNat_ofNat]
  omega

theorem append_halves (x : W32) : x.extractLsb' 16 16 ++ x.extractLsb' 0 16 = x :=
  (BitVec.extractLsb'_append_extractLsb'_eq_extractLsb' rfl).trans BitVec.extractLsb'_eq_self

/-- An operation that acts on the bits of each element, and raises no flag. -/
theorem laneOp_bits {g32 g16 : Nat → Nat → Nat → Val} {word : W32 → W32 → W32 → W32} {half : BitVec 16 → BitVec 16 → BitVec 16 → BitVec 16}
    (onWord : ∀ x y z : W32, g32 x.toNat y.toNat z.toNat = ⟨(word x y z).toNat, 0⟩)
    (onHalf : ∀ x y z : BitVec 16, g16 x.toNat y.toNat z.toNat = ⟨(half x y z).toNat, 0⟩) (ty : Nat) (x y z : W32) :
    laneOp ty g32 g16 x y z = if ty = 0 then (word x y z, 0) else
      (half (x.extractLsb' 16 16) (y.extractLsb' 16 16) (z.extractLsb' 16 16) ++
        half (x.extractLsb' 0 16) (y.extractLsb' 0 16) (z.extractLsb' 0 16), 0) := by
  unfold laneOp
  split
  · rw [onWord]
    exact Prod.ext (w32_toNat _) rfl
  · simp only [← extractLsb'_toNat_fld, onHalf, w32_halves]
    rfl

theorem selected_toNat {m : Nat} (x y z : BitVec m) : (if z.toNat ≠ 0 then x.toNat else y.toNat) = (if z ≠ 0 then x else y).toNat := by
  have zero : z.toNat ≠ 0 ↔ z ≠ 0 := not_congr (by simp [← BitVec.toNat_inj])
  by_cases h : z ≠ 0
  · rw [if_pos (zero.mpr h), if_pos h]
  · rw [if_neg (zero.not.mpr h), if_neg h]

/-- SEL picks by the bits of C. -/
theorem laneOp_sel (ty : Nat) (x y z : W32) :
    laneOp ty (fun x y z => ⟨if z ≠ 0 then x else y, 0⟩) (fun x y z => ⟨if z ≠ 0 then x else y, 0⟩) x y z =
      if ty = 0 then (if z ≠ 0 then x else y, 0) else ((if z.extractLsb' 16 16 ≠ 0 then x.extractLsb' 16 16 else y.extractLsb' 16 16) ++
        (if z.extractLsb' 0 16 ≠ 0 then x.extractLsb' 0 16 else y.extractLsb' 0 16), 0) :=
  laneOp_bits (word := fun x y z => if z ≠ 0 then x else y) (half := fun x y z => if z ≠ 0 then x else y)
    (fun x y z => congrArg (Val.mk · 0) (selected_toNat x y z)) (fun x y z => congrArg (Val.mk · 0) (selected_toNat x y z)) ty x y z

/-- FABS clears the sign bit of each element. -/
theorem laneOp_abs (ty : Nat) (x y z : W32) :
    laneOp ty (fun x _ _ => ⟨x % 2 ^ 31, 0⟩) (fun x _ _ => ⟨x % 2 ^ 15, 0⟩) x y z =
      (if ty = 0 then x &&& 0x7FFFFFFF else x &&& 0x7FFF7FFF, 0) := by
  have each := laneOp_bits (g32 := fun x _ _ => ⟨x % 2 ^ 31, 0⟩) (g16 := fun x _ _ => ⟨x % 2 ^ 15, 0⟩) (word := fun x _ _ => x &&& 0x7FFFFFFF)
    (half := fun x _ _ => x &&& 0x7FFF) (fun x _ _ => congrArg (Val.mk · 0) (Nat.and_two_pow_sub_one_eq_mod x.toNat 31).symm)
    (fun x _ _ => congrArg (Val.mk · 0) (Nat.and_two_pow_sub_one_eq_mod x.toNat 15).symm) ty x y z
  rw [each, ← BitVec.and_append, append_halves]
  split <;> rfl

/-- FNEG inverts it. -/
theorem laneOp_neg (ty : Nat) (x y z : W32) :
    laneOp ty (fun x _ _ => ⟨x ^^^ 2 ^ 31, 0⟩) (fun x _ _ => ⟨x ^^^ 2 ^ 15, 0⟩) x y z =
      (if ty = 0 then x ^^^ 0x80000000 else x ^^^ 0x80008000, 0) := by
  have each := laneOp_bits (g32 := fun x _ _ => ⟨x ^^^ 2 ^ 31, 0⟩) (g16 := fun x _ _ => ⟨x ^^^ 2 ^ 15, 0⟩) (word := fun x _ _ => x ^^^ 0x80000000)
    (half := fun x _ _ => x ^^^ 0x8000) (fun x _ _ => congrArg (Val.mk · 0) (BitVec.toNat_xor x 0x80000000#32).symm)
    (fun x _ _ => congrArg (Val.mk · 0) (BitVec.toNat_xor x 0x8000#16).symm) ty x y z
  rw [each, ← BitVec.xor_append, append_halves]
  split <;> rfl

/-! ### The statement -/

/-- Settles O12: each operation is lane-wise, its element function as R211 has it, and differs in the operands whose marks it takes. -/
theorem harrowCompareAndSelect : Obligations.HarrowCompareAndSelect := by
  unfold Obligations.HarrowCompareAndSelect
  intro f d sl op s n h a b c ma mb mc does
  have moves : ∀ {i : Instr} {code : Nat} {g : W32 → W32 → W32 → W32 × Raised} {m : BitVec 8}, 0x56 ≤ code ∧ code ≤ 0x5C →
      exec i s = .next (s.opBeat f d ⟨7 + sl.val, code, n⟩) → hrwModBad code (opMod n) = false →
      (∀ stream seed : W64, hrwLanes h code n (opMod n) a b c stream seed = laneWise h g a b c) → s.readMarks f d code n = m →
      issues i s f d ⟨7 + sl.val, code, n⟩ (s.vectorTo f d (7 + sl.val) n 15 (laneWise h g a b c) m) := by
    rintro i code g m ⟨from56, upTo5C⟩ beat defined lanes read
    have lanesB : s.hrwLanesB f d code n = b := if_pos (by omega)
    have sheet : hrwByte code = 15 := (if_neg (by omega)).trans (if_pos (by omega))
    refine issues_harrow beat (by omega) defined (by omega) sheet ?_ (State.resultMarks_laneWise (mixesSegs_of_laneWise (by omega) _ _) read)
    rw [State.hrwResult, lanesB, lanes]
  have typed : ∀ {i : Instr} {code : Nat} {g : W32 → W32 → W32 → W32 × Raised} {m : BitVec 8}, 0x56 ≤ code ∧ code < 0x5C →
      exec i s = .next (s.opBeat f d ⟨7 + sl.val, code, n⟩) →
      (∀ stream seed : W64, hrwLanes h code n (opMod n) a b c stream seed = laneWise h g a b c) → s.readMarks f d code n = m → does i code g m :=
    fun range beat lanes read type => moves ⟨range.1, Nat.le_of_lt range.2⟩ beat (hrwModBad_type (.inl range.2) type) lanes read
  have two : ∀ {code : Nat}, 0x56 ≤ code ∧ code ≤ 0x58 → s.readMarks f d code n = ma ||| mb := fun range =>
    State.readMarks_binary (hrwReadsA_of_ne (by omega) n) (hrwReadsB_binary (by omega) n) (hrwReadsC_of_ne (by omega))
  have one : ∀ {code : Nat}, 0x5A ≤ code ∧ code ≤ 0x5B → s.readMarks f d code n = ma := fun range =>
    State.readMarks_unary (hrwReadsA_of_ne (by omega) n) (hrwReadsB_unary (by omega) n) (hrwReadsC_of_ne (by omega))
  have lanes : ∀ {g g' : W32 → W32 → W32 → W32 × Raised}, (∀ x y z, g x y z = g' x y z) → laneWise h g a b c = laneWise h g' a b c :=
    fun same => congrArg (laneWise h · a b c) (funext₃ same)
  refine ⟨?fmin, ?fmax, ?fcmp, ?sel, ?fabs, ?fneg, ?mov⟩
  case fmin => exact typed (by decide) rfl (fun _ _ => (laneWise_eq ..).symm) (two (by decide))
  case fmax => exact typed (by decide) rfl (fun _ _ => (laneWise_eq ..).symm) (two (by decide))
  case fcmp => exact typed (by decide) rfl (fun _ _ => (laneWise_eq ..).symm) (two (by decide))
  case sel =>
    exact typed (by decide) rfl (fun _ _ => (laneWise_eq ..).symm.trans (lanes (laneOp_sel _)))
      (State.readMarks_ternary rfl (hrwReadsB_binary (by decide) n) rfl)
  case fabs => exact typed (by decide) rfl (fun _ _ => (laneWise_eq ..).symm.trans (lanes (laneOp_abs _))) (one (by decide))
  case fneg => exact typed (by decide) rfl (fun _ _ => (laneWise_eq ..).symm.trans (lanes (laneOp_neg _))) (one (by decide))
  case mov =>
    refine moves (by decide) rfl rfl (fun _ _ => by rw [laneWise_eq]; rfl) ?_
    have noB : hrwReadsB 0x5C n = false := hrwReadsB_unary (by decide) n
    unfold State.readMarks hrwReadsA
    cases opSB n <;> simp [noB, hrwReadsC, ma]

end Sys2Proof.Machine
end

section
/-! PROOFS. O13: harrow permutation, rotation and integer operations (R211, R212). -/
namespace Sys2Proof.Machine

/-! ### Fields packed into a word -/

/-- The first `k` fields of `w` bits. -/
def packed (w : Nat) (e : Nat → Nat) (k : Nat) : Nat := (List.range k).foldl (fun acc i => acc + at' (e i) (w * i)) 0

theorem packed_succ (w : Nat) (e : Nat → Nat) (k : Nat) : packed w e (k + 1) = packed w e k + e k * 2 ^ (w * k) := by
  unfold packed
  rw [List.range_succ, List.foldl_append]
  rfl

section
variable {w : Nat} {e : Nat → Nat}

theorem packed_lt {k : Nat} (small : ∀ i < k, e i < 2 ^ w) : packed w e k < 2 ^ (w * k) := by
  induction k with
  | zero => exact Nat.one_pos
  | succ k ih =>
    have low := ih fun i hi => small i (Nat.lt_succ_of_lt hi)
    have last : (e k + 1) * 2 ^ (w * k) ≤ 2 ^ w * 2 ^ (w * k) := Nat.mul_le_mul_right _ (small k (Nat.lt_succ_self k))
    rw [packed_succ, Nat.mul_succ, Nat.add_comm (w * k), Nat.pow_add]
    rw [Nat.succ_mul] at last
    omega

theorem packed_field {k : Nat} (small : ∀ i < k, e i < 2 ^ w) {j : Nat} (hj : j < k) : nfld (packed w e k) (w * j) w = e j := by
  induction k with
  | zero => exact absurd hj (Nat.not_lt_zero j)
  | succ k ih =>
    have smaller : ∀ i < k, e i < 2 ^ w := fun i hi => small i (Nat.lt_succ_of_lt hi)
    unfold nfld at *
    rw [packed_succ]
    by_cases last : j = k
    · subst last
      rw [Nat.add_mul_div_right _ _ (Nat.two_pow_pos _), Nat.div_eq_of_lt (packed_lt smaller), Nat.zero_add, Nat.mod_eq_of_lt (small j hj)]
    · have below : j < k := by omega
      obtain ⟨r, rfl⟩ : ∃ r, k = j + 1 + r := ⟨k - (j + 1), by omega⟩
      have later : e (j + 1 + r) * 2 ^ (w * (j + 1 + r)) = e (j + 1 + r) * 2 ^ (w * r) * 2 ^ w * 2 ^ (w * j) := by
        rw [Nat.mul_add, Nat.mul_add, Nat.mul_one, Nat.pow_add, Nat.pow_add]
        ring
      rw [later, Nat.add_mul_div_right _ _ (Nat.two_pow_pos _), Nat.add_mul_mod_self_right]
      exact ih smaller below

end

/-! ### Elements of lanes -/

/-- Element `i` of `w` bits of a register. -/
def laneElem (w : Nat) (vs : List W32) (i : Nat) : Nat := fld (vs.getD (i / (32 / w)) 0) (w * (i % (32 / w))) w

section
variable {w : Nat}

theorem laneElem_lt (vs : List W32) (i : Nat) : laneElem w vs i < 2 ^ w := Nat.mod_lt _ (Nat.two_pow_pos w)

theorem length_elemsOf (vs : List W32) : (elemsOf w vs).length = vs.length * (32 / w) := by
  simp [elemsOf, List.length_flatMap]

theorem getD_elemsOf (fits : 0 < 32 / w) (vs : List W32) : ∀ i, (elemsOf w vs).getD i 0 = laneElem w vs i := by
  induction vs with
  | nil => intro i; simp [elemsOf, laneElem, fld, nfld]
  | cons v vs ih =>
    intro i
    have parts : elemsOf w (v :: vs) = (List.range (32 / w)).map (fun j => fld v (w * j) w) ++ elemsOf w vs := rfl
    rw [parts]
    unfold laneElem at ih ⊢
    by_cases first : i < 32 / w
    · rw [List.getD_append _ _ _ _ (by simpa using first), Nat.div_eq_of_lt first, Nat.mod_eq_of_lt first]
      simp [first]
    · have after : 32 / w ≤ i := Nat.not_lt.mp first
      rw [List.getD_append_right _ _ _ _ (by simpa using after), List.length_map, List.length_range, ih, Nat.div_eq_sub_div fits after,
        Nat.mod_eq_sub_mod after, List.getD_cons_succ]

theorem laneElem_beyond (fits : 0 < 32 / w) {vs : List W32} {i : Nat} (beyond : vs.length * (32 / w) ≤ i) : laneElem w vs i = 0 := by
  rw [← getD_elemsOf fits, List.getD_eq_default _ _ (by rwa [length_elemsOf])]

@[simp] theorem length_lanesOf (es : List Nat) (h : Nat) : (lanesOf w es h).length = h := by
  simp [lanesOf]

/-- The elements of gathered lanes are those gathered. -/
theorem laneElem_lanesOf (fits : w * (32 / w) = 32) {es : List Nat} {h : Nat} {e : Nat → Nat} (elems : ∀ i < h * (32 / w), es.getD i 0 = e i)
    (small : ∀ i, e i < 2 ^ w) {i : Nat} (hi : i < h * (32 / w)) : laneElem w (lanesOf w es h) i = e i := by
  have per : 0 < 32 / w := Nat.pos_of_ne_zero fun none => by simp [none] at fits
  have lane : i / (32 / w) < h := Nat.div_lt_of_lt_mul (by rwa [Nat.mul_comm])
  have slot : i % (32 / w) < 32 / w := Nat.mod_lt _ per
  have own : ∀ j < 32 / w, es.getD (i / (32 / w) * (32 / w) + j) 0 = e (i / (32 / w) * (32 / w) + j) := fun j hj =>
    elems _ (Nat.lt_of_lt_of_le (Nat.add_lt_add_left hj _) (by rw [← Nat.succ_mul]; exact Nat.mul_le_mul_right _ lane))
  have bounded : ∀ j < 32 / w, es.getD (i / (32 / w) * (32 / w) + j) 0 < 2 ^ w := fun j hj => own j hj ▸ small _
  have value : (lanesOf w es h).getD (i / (32 / w)) 0 = w32 (packed w (fun j => es.getD (i / (32 / w) * (32 / w) + j) 0) (32 / w)) := by
    rw [List.getD_eq_getElem _ _ (by rwa [length_lanesOf])]
    simp only [lanesOf, List.getElem_map, List.getElem_range]
    rfl
  have whole := packed_lt (w := w) (k := 32 / w) bounded
  rw [fits] at whole
  unfold laneElem fld
  rw [value, w32, BitVec.toNat_ofNat, Nat.mod_eq_of_lt whole, packed_field bounded slot, own _ slot, Nat.mul_comm, Nat.div_add_mod]

end

theorem iwOf_cases (n : Nat) : iwOf n = 32 ∨ iwOf n = 16 ∨ iwOf n = 8 := by
  unfold iwOf
  split
  · exact .inl rfl
  · split
    · exact .inr (.inl rfl)
    · exact .inr (.inr rfl)

theorem iwOf_fits (n : Nat) : iwOf n * (32 / iwOf n) = 32 := by
  rcases iwOf_cases n with w | w | w <;> rw [w]

theorem iwOf_per (n : Nat) : 0 < 32 / iwOf n := by
  rcases iwOf_cases n with w | w | w <;> rw [w] <;> decide

/-! ### PERM and ROT (R211) -/

/-- The elements that PERM and ROT gather. -/
def permElems (w h : Nat) (a b : List W32) : List Nat :=
  if w = 8 then (List.range (4 * h)).map (fun i => (elemsOf 8 a).getD (i / 256 * 256 + (elemsOf 8 b).getD i 0) 0)
  else (elemsOf w b).map (fun j => (elemsOf w a).getD (j % 2048) 0)
def rotElems (w r : Nat) (a : List W32) : List Nat :=
  (List.range (elemsOf w a).length).map (fun i => (elemsOf w a).getD ((i + r) % (elemsOf w a).length) 0)

section
variable {n : Nat}

theorem iwOf_eq_eight_iff (grain : tyOf n ≤ 2) : iwOf n = 8 ↔ tyOf n = 2 := by
  unfold iwOf
  split
  · omega
  · split <;> omega

theorem hrwLanes_perm (grain : tyOf n ≤ 2) (h : Nat) (a b c : List W32) (stream seed : W64) :
    hrwLanes h 0x5D n (opMod n) a b c stream seed = (lanesOf (iwOf n) (permElems (iwOf n) h a b) h, 0) := by
  unfold hrwLanes iwOf
  unfold tyOf at grain ⊢
  generalize nfld (opMod n) 4 2 = type at grain ⊢
  match type, grain with
  | 0, _ => rfl
  | 1, _ => rfl
  | 2, _ => rfl

theorem hrwLanes_rot (h : Nat) (a b c : List W32) (stream seed : W64) :
    hrwLanes h 0x5E n (opMod n) a b c stream seed = (lanesOf (iwOf n) (rotElems (iwOf n) (fld (b.getD 0 0) 0 11) a) h, 0) := rfl

end

section
variable {w h : Nat} {a b : List W32} (per : 0 < 32 / w) (la : a.length = h) (lb : b.length = h)
include per la

theorem getD_rotElems (r : Nat) {i : Nat} (hi : i < h * (32 / w)) :
    (rotElems w r a).getD i 0 = laneElem w a ((i + r) % (h * (32 / w))) := by
  have count : (elemsOf w a).length = h * (32 / w) := by rw [length_elemsOf, la]
  unfold rotElems
  rw [count, List.getD_eq_getElem _ _ (by simpa using hi), List.getElem_map, List.getElem_range, getD_elemsOf per]

include lb

theorem getD_permElems {i : Nat} (hi : i < h * (32 / w)) : (permElems w h a b).getD i 0 =
    if w = 8 then laneElem w a (i / 256 * 256 + laneElem w b i)
    else if laneElem w b i % 2048 < h * (32 / w) then laneElem w a (laneElem w b i % 2048) else 0 := by
  unfold permElems
  by_cases byte : w = 8
  · subst byte
    have hi : i < 4 * h := by omega
    rw [if_pos rfl, if_pos rfl, List.getD_eq_getElem _ _ (by simpa using hi), List.getElem_map, List.getElem_range, getD_elemsOf per, getD_elemsOf per]
  · have hi : i < (elemsOf w b).length := by rwa [length_elemsOf, lb]
    rw [if_neg byte, if_neg byte, List.getD_eq_getElem _ _ (by simpa using hi), List.getElem_map, getD_elemsOf per,
      ← List.getD_eq_getElem _ 0 hi, getD_elemsOf per]
    split
    · rfl
    · next beyond => exact laneElem_beyond per (by rw [la]; exact Nat.not_lt.mp beyond)

end

/-- PERM of bytes moves them within a segment, and is lane-wise (R207). -/
theorem mixesSegs_perm {n : Nat} (grain : tyOf n ≤ 2) : mixesSegs 0x5D (opMod n) n = decide (iwOf n ≠ 8) := by
  have type : opMod n / 16 = tyOf n := by
    unfold tyOf opMod nfld
    omega
  have only : mixesSegs 0x5D (opMod n) n = (opMod n / 16 != 2) := by simp [mixesSegs]
  rw [only, type, bne, beq_eq_decide, ← decide_not, decide_eq_decide]
  exact not_congr (iwOf_eq_eight_iff grain).symm

/-! ### Integers (R212) -/

theorem hrwLanes_int {k : Nat} (hk : k < 10) (h n : Nat) (a b c : List W32) (stream seed : W64) :
    hrwLanes h (0x60 + k) n (opMod n) a b c stream seed =
      laneWise h (fun x y _ => (laneElems (iwOf n) (intOp k (iwOf n) (opMod n % 2 = 1)) x y, 0)) a b c := by
  rw [laneWise_eq]
  unfold hrwLanes
  simp (disch := omega) only [if_neg, if_pos, Bool.or_eq_true, decide_eq_true_eq, Nat.add_sub_cancel_left]
  rfl

/-- IMIN and IMAX take the lesser as UNS has it. -/
theorem intOp_less (w : Nat) (uns : Prop) [Decidable uns] (x y : Nat) :
    (if decide uns then decide (x < y) else decide (sint w x < sint w y)) = if uns then decide (x < y) else decide (sint w x < sint w y) := by
  simp only [decide_eq_true_eq]

/-! ### The statement -/

/-- Settles O13: PERM and ROT gather elements of A, and the integer operations are lane-wise, each of its elements as R212 has it. -/
theorem harrowLanesAndIntegers : Obligations.HarrowLanesAndIntegers := by
  unfold Obligations.HarrowLanesAndIntegers
  refine ⟨fun f d sl op s => ?moves, fun f d sl op s => ?integers⟩
  case moves =>
    intro n h segs a b m all w count elem
    have la : a.length = h := length_tgets ..
    have lb : b.length = h := s.length_opBLanes f d n
    have per : 0 < 32 / w := iwOf_per n
    refine ⟨fun grain => ⟨lanesOf w (permElems w h a b) h, length_lanesOf _ _, fun i hi => ?perm, ?permIssues⟩,
      fun grain => ⟨lanesOf w (rotElems w (fld (b.getD 0 0) 0 11) a) h, length_lanesOf _ _, fun i hi => ?rot, ?rotIssues⟩⟩
    case perm =>
      refine laneElem_lanesOf (iwOf_fits n) (fun j hj => getD_permElems per la lb hj) (fun j => ?_) hi
      split
      · exact laneElem_lt _ _
      · split
        · exact laneElem_lt _ _
        · exact Nat.two_pow_pos w
    case permIssues =>
      have read : s.readMarks f d 0x5D n = m := State.readMarks_binary rfl (hrwReadsB_binary (by decide) n) rfl
      refine issues_harrow rfl (by decide) (hrwModBad_grain (by decide) grain) (by omega) rfl (hrwLanes_perm grain ..) ?_
      by_cases byte : w = 8
      · rw [if_pos byte]
        exact State.resultMarks_laneWise ((mixesSegs_perm grain).trans (decide_eq_false (not_not.mpr byte))) read
      · rw [if_neg byte]
        exact State.resultMarks_mixed ((mixesSegs_perm grain).trans (decide_eq_true byte)) read
    case rot =>
      exact laneElem_lanesOf (iwOf_fits n) (fun j hj => getD_rotElems per la _ hj) (fun j => laneElem_lt _ _) hi
    case rotIssues =>
      exact issues_harrow rfl (by decide) (hrwModBad_grain (by decide) grain) (by omega) rfl (hrwLanes_rot ..)
        (State.resultMarks_mixed rfl (State.readMarks_binary rfl (hrwReadsB_binary (by decide) n) rfl))
  case integers =>
    intro n h w less does
    have int : ∀ {i : Instr} {k : Nat} {g : Nat → Nat → Nat}, k < 10 → exec i s = .next (s.opBeat f d ⟨7 + sl.val, 0x60 + k, n⟩) →
        (∀ x y, intOp k w (opMod n % 2 = 1) x y = g x y) → does i (0x60 + k) g := by
      intro i k g hk beat elem width
      have lanesB : s.hrwLanesB f d (0x60 + k) n = s.opBLanes f d n := if_pos (by omega)
      have same : intOp k w (opMod n % 2 = 1) = g := funext₂ elem
      refine issues_harrow beat (by omega) (hrwModBad_grain (by omega) width) (by omega) ((if_neg (by omega)).trans (if_pos (by omega))) ?_
        (State.resultMarks_laneWise (mixesSegs_of_laneWise (by omega) _ _)
          (State.readMarks_binary (hrwReadsA_of_ne (by omega) n) (hrwReadsB_binary (by omega) n) (hrwReadsC_of_ne (by omega))))
      rw [State.hrwResult, lanesB, hrwLanes_int hk, ← same]
    refine ⟨?iadd, ?isub, ?iand, ?ior, ?ixor, ?ishl, ?ishr, ?isar, ?imin, ?imax⟩
    case iadd => exact int (k := 0) (by decide) rfl fun _ _ => rfl
    case isub => exact int (k := 1) (by decide) rfl fun _ _ => rfl
    case iand => exact int (k := 2) (by decide) rfl fun _ _ => rfl
    case ior => exact int (k := 3) (by decide) rfl fun _ _ => rfl
    case ixor => exact int (k := 4) (by decide) rfl fun _ _ => rfl
    case ishl => exact int (k := 5) (by decide) rfl fun _ _ => rfl
    case ishr => exact int (k := 6) (by decide) rfl fun _ _ => rfl
    case isar => exact int (k := 7) (by decide) rfl fun _ _ => rfl
    case imin => exact int (k := 8) (by decide) rfl fun x y => congrArg (fun lt : Bool => if lt then x else y) (intOp_less w _ x y)
    case imax => exact int (k := 9) (by decide) rfl fun x y => congrArg (fun lt : Bool => if lt then y else x) (intOp_less w _ x y)

end Sys2Proof.Machine
end

section
/-! PROOFS. O14: harrow conversions (R213 to R215). -/
namespace Sys2Proof.Machine

/-! ### Lanes converted one by one -/

/-- Lanes converted one by one, each by its index and bits, with the flags of all. -/
def convertEach (h : Nat) (a : List W32) (g : Nat → Nat → Val) : List W32 × Raised :=
  ((List.range h).map (fun i => w32 (g i (a.getD i 0).toNat).bits), (List.range h).foldl (fun fl i => fl ||| (g i (a.getD i 0).toNat).fl) 0)

theorem convertEach_eq (h : Nat) (a : List W32) (g : Nat → Nat → Val) :
    convertEach h a g = (((List.range h).map (fun i => g i (a.getD i 0).toNat)).map (fun v => w32 v.bits),
      ((List.range h).map (fun i => g i (a.getD i 0).toNat)).foldl (fun fl v => fl ||| v.fl) 0) := by
  rw [List.map_map, List.foldl_map]
  rfl

/-- Where the index does not count, such a conversion is a lane-wise operation. -/
theorem convertEach_eq_laneWise (h : Nat) (a : List W32) (g : Nat → Val) (b c : List W32) :
    convertEach h a (fun _ x => g x) = laneWise h (fun x _ _ => (w32 (g x.toNat).bits, (g x.toNat).fl)) a b c := rfl

section
variable (h n : Nat) (a b c : List W32) (stream seed : W64)

theorem hrwLanes_cvt : hrwLanes h 0x70 n (opMod n) a b c stream seed =
    convertEach h a (fun _ x => cvtElem (nfld (opMod n) 2 4) (rmOf n) (nfld n 24 1 == 1) (nfld n 23 1 == 1) x) := by
  rw [convertEach_eq_laneWise h a _ b c, laneWise_eq]
  rfl

theorem hrwLanes_cvtsr : hrwLanes h 0x71 n (opMod n) a b c stream seed = convertEach h a
    (fun i x => cvtElem (nfld (opMod n) 2 4) (.sr (srDraw seed (fld stream 48 16) (fld stream 0 48 + i))) (nfld n 24 1 == 1) (nfld n 23 1 == 1) x) := by
  rw [convertEach_eq]
  rfl

/-- The E8M0 scales of the blocks of 32 lanes (R214). -/
def blockScales : List Nat :=
  (List.range (h / 32)).map (fun i => mxScale (nfld (opMod n) 2 4) (nfld n 23 1 == 1) (((a.drop (32 * i)).take 32).map BitVec.toNat))

theorem hrwLanes_cvtmx (elements : nfld n 29 1 = 0) : hrwLanes h 0x72 n (opMod n) a b c stream seed = convertEach h a
    (fun i x => cvtmxElem (nfld (opMod n) 2 4) (rmOf n) (nfld n 24 1 == 1) (nfld n 23 1 == 1) ((blockScales h n a).getD (i / 32) 0) x) := by
  rw [convertEach_eq]
  exact if_neg (by rw [elements]; decide)

theorem hrwLanes_cvtmx_scales (scales : nfld n 29 1 = 1) : hrwLanes h 0x72 n (opMod n) a b c stream seed =
    ((List.range h).map (fun i => w32 ((blockScales h n a).getD i 0)),
      (if (blockScales h n a).any (fun k => k == 0xFF) then fScaleNan else 0) ||| flushedOf fp32 (nfld n 23 1 == 1) (a.map BitVec.toNat)) :=
  if_pos scales

theorem hrwLanes_cvtin : hrwLanes h 0x73 n (opMod n) a b c stream seed = convertEach h a
    (fun i x => cvtinElem (nfld (opMod n) 2 4) (nfld n 24 1 == 1) (nfld n 23 1 == 1)
      (if fmtMx (nfld (opMod n) 2 4) then fld (b.getD (i / 32) 0) 0 8 else 0x7F) x) := by
  rw [convertEach_eq]
  rfl

end

/-! ### Formats that the conversions take (R213) -/

theorem hrwModBad_cvt {code n : Nat} (cvt : code = 0x70 ∨ code = 0x71) (allowed : nfld (opMod n) 2 4 ∈ [0, 1, 5, 9, 10, 11]) :
    hrwModBad code (opMod n) = false := by
  have listed : (nfld (opMod n) 2 4 == 0 || nfld (opMod n) 2 4 == 1 || nfld (opMod n) 2 4 == 5 || nfld (opMod n) 2 4 == 9 ||
      nfld (opMod n) 2 4 == 10 || nfld (opMod n) 2 4 == 11) = true := by
    simpa [or_assoc] using allowed
  rcases cvt with rfl | rfl
  · exact congrArg not listed
  · exact congrArg not listed

theorem hrwReadsB_cvtin (n : Nat) : hrwReadsB 0x73 n = fmtMx (nfld (opMod n) 2 4) := by
  simp [hrwReadsB]

theorem mixesSegs_cvtin (n : Nat) : mixesSegs 0x73 (opMod n) n = fmtMx (nfld (opMod n) 2 4) := by
  simp [mixesSegs]

theorem mixesSegs_cvtmx (md n : Nat) : mixesSegs 0x72 md n = (nfld n 29 1 == 1) := by
  simp [mixesSegs]

/-! ### The statement -/

/-- Settles O14: the conversions go lane by lane, or write the block scales; those of MX formats with scales mix the segments. -/
theorem harrowConversions : Obligations.HarrowConversions := by
  unfold Obligations.HarrowConversions
  intro f d sl op s n h a fmt sat flush ma ib seed segs scale scales does each
  have converts : ∀ {i : Instr} {code : Nat} {r : List W32 × Raised} {m : BitVec 8}, 0x70 ≤ code ∧ code ≤ 0x73 →
      exec i s = .next (s.opBeat f d ⟨7 + sl.val, code, n⟩) → hrwModBad code (opMod n) = false →
      hrwLanes h code n (opMod n) a (s.lanesOf f d (opB n)) (s.lanesOf f d (opC n)) ib seed = r → s.resultMarks f d code n = m → does i code r m := by
    rintro i code r m ⟨from70, upTo73⟩ beat defined lanes marks built
    have lanesB : s.hrwLanesB f d code n = s.lanesOf f d (opB n) := if_neg (by omega)
    have sheet : hrwByte code = 16 := (if_neg (by omega)).trans ((if_neg (by omega)).trans (if_pos upTo73))
    refine issues_harrow beat (by omega) defined (fun _ => built) sheet ?_ marks
    rw [State.hrwResult, lanesB, lanes]
  refine ⟨fun allowed => ?cvt, fun allowed => ?cvtsr, fun mx elements => ?cvtmx, fun mx scaled => ?scales, fun plain le => ?cvtin, fun mx le => ?cvtinMx⟩
  case cvt =>
    exact converts (by decide) rfl (hrwModBad_cvt (.inl rfl) allowed) (hrwLanes_cvt ..)
      (State.resultMarks_laneWise (mixesSegs_of_laneWise (by decide) _ _) (State.readMarks_unary rfl (hrwReadsB_unary (by decide) n) rfl))
  case cvtsr =>
    exact converts (by decide) rfl (hrwModBad_cvt (.inr rfl) allowed) (hrwLanes_cvtsr ..)
      (State.resultMarks_laneWise (mixesSegs_of_laneWise (by decide) _ _) (State.readMarks_unary rfl (hrwReadsB_unary (by decide) n) rfl))
  case cvtmx =>
    refine converts (by decide) rfl (congrArg not mx) (hrwLanes_cvtmx _ _ _ _ _ _ _ elements)
      (State.resultMarks_laneWise ?_ (State.readMarks_unary rfl (hrwReadsB_unary (by decide) n) rfl))
    rw [mixesSegs_cvtmx, elements]
    rfl
  case scales =>
    refine converts (by decide) rfl (congrArg not mx) (hrwLanes_cvtmx_scales _ _ _ _ _ _ _ scaled)
      (State.resultMarks_mixed ?_ (State.readMarks_unary rfl (hrwReadsB_unary (by decide) n) rfl))
    rw [mixesSegs_cvtmx, scaled]
    rfl
  case cvtin =>
    refine converts (by decide) rfl (decide_eq_false (Nat.not_lt.mpr le)) ((hrwLanes_cvtin ..).trans ?_)
      (State.resultMarks_laneWise ((mixesSegs_cvtin n).trans plain) (State.readMarks_unary rfl ((hrwReadsB_cvtin n).trans plain) rfl))
    simp only [show fmtMx (nfld (opMod n) 2 4) = false from plain, Bool.false_eq_true, if_false]
    rfl
  case cvtinMx =>
    refine converts (by decide) rfl (decide_eq_false (Nat.not_lt.mpr le)) ((hrwLanes_cvtin ..).trans ?_)
      (State.resultMarks_mixed ((mixesSegs_cvtin n).trans mx) (State.readMarks_registers rfl ((hrwReadsB_cvtin n).trans mx) rfl))
    simp only [show fmtMx (nfld (opMod n) 2 4) = true from mx, if_true]
    rfl

end Sys2Proof.Machine
end

section
/-! PROOFS. O15: harrow transcendental functions and segment reductions (R216, R217). -/
namespace Sys2Proof.Machine

section
variable (h n : Nat) (a b c : List W32) (stream seed : W64)

theorem hrwLanes_trans {k : Nat} (hk : k < 6) : hrwLanes h (0x78 + k) n (opMod n) a b c stream seed =
    laneWise h (laneOp (tyOf n) (fun x _ _ => transElem fp32 k (satOf n) (flushOf n) x) (fun x _ _ => transElem bf16 k (satOf n) (flushOf n) x)) a a a := by
  rw [laneWise_eq]
  unfold hrwLanes
  simp (disch := omega) only [if_neg, if_pos, Bool.or_eq_true, decide_eq_true_eq, Nat.add_sub_cancel_left]
  rfl

/-- The segments of A reduced in the fixed tree: segment `i` in lane `i`, zero in the other lanes, and the flags of all (R217). -/
def reduceSegs (g : Nat → Nat → Val) : List W32 × Raised :=
  let r := fun (k : Nat) => treeReduce 6 g (((a.drop (64 * k)).take 64).map BitVec.toNat) 0
  ((List.range h).map (fun i => if i < h / 64 then w32 (r i).1 else 0), (List.range (h / 64)).foldl (fun fl k => fl ||| (r k).2) 0)

theorem reduceSegs_eq (g : Nat → Nat → Val) :
    let rs := (List.range (h / 64)).map (fun k => treeReduce 6 g (((a.drop (64 * k)).take 64).map BitVec.toNat) 0)
    reduceSegs h a g = ((List.range h).map (fun i => w32 (rs.getD i (0, 0)).1), rs.foldl (fun fl r => fl ||| r.2) 0) := by
  intro rs
  have lane : ∀ i : Nat, (if i < h / 64 then w32 (treeReduce 6 g (((a.drop (64 * i)).take 64).map BitVec.toNat) 0).1 else 0) =
      w32 (rs.getD i (0, 0)).1 := by
    intro i
    have count : rs.length = h / 64 := by rw [List.length_map, List.length_range]
    split
    · next seg =>
      rw [List.getD_eq_getElem _ _ (by rwa [count]), List.getElem_map, List.getElem_range]
    · next beyond =>
      rw [List.getD_eq_default _ _ (by rw [count]; exact Nat.not_lt.mp beyond)]
      rfl
  unfold reduceSegs
  simp only [lane]
  rw [List.foldl_map]

theorem hrwLanes_rsum : hrwLanes h 0x7E n (opMod n) a b c stream seed = reduceSegs h a (add32 (satOf n) (flushOf n)) := by
  rw [reduceSegs_eq]
  rfl

theorem hrwLanes_rmax : hrwLanes h 0x7F n (opMod n) a b c stream seed = reduceSegs h a (fpMinMax fp32 true (flushOf n)) := by
  rw [reduceSegs_eq]
  rfl

end

/-- Settles O15: one equation of `hrwLanes` gives the six functions, lane by lane; the reductions mix the segments. Both are operations of slot 8. -/
theorem harrowTranscendentalsAndReductions : Obligations.HarrowTranscendentalsAndReductions := by
  unfold Obligations.HarrowTranscendentalsAndReductions
  intro f d op s n h a ma does reduces
  have read : ∀ {code : Nat}, 0x78 ≤ code → s.readMarks f d code n = ma := fun from78 =>
    State.readMarks_unary (hrwReadsA_of_ne (by omega) n) (hrwReadsB_unary (.inr (.inr from78)) n) (hrwReadsC_of_ne (by omega))
  have trans : ∀ {i : Instr} {k : Nat}, k < 6 → exec i s = .next (s.opBeat f d ⟨8, 0x78 + k, n⟩) → does i (0x78 + k) k := by
    intro i k hk beat type
    have sheet : hrwByte (0x78 + k) = 18 := by
      unfold hrwByte
      simp (disch := omega) only [if_neg, if_pos]
    exact issues_harrow (sl := 1) beat (by omega) (hrwModBad_type (by omega) type) (by omega) sheet (hrwLanes_trans _ _ _ _ _ _ _ hk)
      (State.resultMarks_laneWise (mixesSegs_of_laneWise (by omega) _ _) (read (by omega)))
  refine ⟨?exp2, ?log2, ?rsqrt, ?rcp, ?tanh, ?sigm, ?rsum, ?rmax⟩
  case exp2 => exact trans (k := 0) (by decide) rfl
  case log2 => exact trans (k := 1) (by decide) rfl
  case rsqrt => exact trans (k := 2) (by decide) rfl
  case rcp => exact trans (k := 3) (by decide) rfl
  case tanh => exact trans (k := 4) (by decide) rfl
  case sigm => exact trans (k := 5) (by decide) rfl
  case rsum =>
    exact issues_harrow (sl := 1) rfl (by decide) rfl (by omega) rfl (hrwLanes_rsum ..) (State.resultMarks_mixed rfl (read (by decide)))
  case rmax =>
    exact issues_harrow (sl := 1) rfl (by decide) rfl (by omega) rfl (hrwLanes_rmax ..) (State.resultMarks_mixed rfl (read (by decide)))

end Sys2Proof.Machine
end

section
/-! PROOFS. QS_CTRL and the doorbells of a queue slot (R248, R250, R251, R280). -/
namespace Sys2Proof.Machine

section
variable {s : State} {q : QSlot}

/-! ### QS_CTRL (R250) -/

theorem State.enableQueue_ready (idle : (s.queue q).st = .free ∨ (s.queue q).st = .stopped) (cfg : s.cfgOk (s.queue q) = true)
    (tail : (s.queue q).tailOk (s.queue q).tail = true) : s.enableQueue q = s.setQueue q { s.queue q with st := .active } := by
  unfold State.enableQueue
  dsimp only
  rw [if_neg (not_and_or.mpr (idle.imp not_not.mpr not_not.mpr)), cfg, tail]
  rfl

theorem State.disableQueue_open (open' : (s.queue q).st = .active ∨ (s.queue q).st = .frozen) :
    s.disableQueue q = (s.endWaits q).setQueue q { s.queue q with st := .draining } := if_pos open'

theorem State.thawQueue_frozen (frozen : (s.queue q).st = .frozen) :
    s.thawQueue q = s.setQueue q { s.queue q with st := .active } := if_pos frozen

theorem State.unbindQueue_stopped (stopped : (s.queue q).st = .stopped) :
    s.unbindQueue q = s.setQueue q { s.queue q with st := .free } := if_pos stopped

/-! ### Registers that the host writes (R248, R250, R251) -/

theorem State.writeTail_takes {t : W32} (takes : (s.queue q).st = .free ∨ (s.queue q).st = .stopped ∨ (s.queue q).tailOk t = true) :
    s.writeTail q t = s.setQueue q { s.queue q with tail := t } := if_pos takes

theorem State.writeHead_idle (idle : (s.queue q).st = .free ∨ (s.queue q).st = .stopped) (v : W64) :
    s.writeHead q v = s.setQueue q { s.queue q with head := v.setWidth 32, retired := v.setWidth 32 } := if_pos idle

theorem State.setQueue_queue (s : State) (q : QSlot) : s.setQueue q (s.queue q) = s := by simp [State.setQueue, State.queue]

/-- Without records that wait there is no use for room. -/
theorem State.giveRoom_none (none : (s.queue q).ready = []) : s.giveRoom q = s := by
  have roomed : (s.queue q).roomed s.time = [] := by simp [Queue.roomed, none, stampRecs, readyInOrder]
  rw [State.giveRoom_loud (by simp [roomed]), roomed, ← none]
  exact s.setQueue_queue q

/-! ### A doorbell that fails its checks (R251) -/

/-- A freeze that counts against a context changes that context, and with a fault of it the fault ring, the recovery registers and the gleaner
(R322). -/
theorem State.widenFreeze_changes (s : State) (c : Nat) :
    ∃ x m b d g, s.widenFreeze c = { s with ctxs := x, hostMem := m, hostBad := b, dc := d, gl := g } := by
  refine iteInduction (motive := fun t : State => ∃ x m b d g, t = { s with ctxs := x, hostMem := m, hostBad := b, dc := d, gl := g })
    (fun _ => ⟨_, _, _, _, _, rfl⟩) (fun _ => ?_)
  obtain ⟨m, b, d, g, record⟩ := State.faultRecord_changes (State.setCtx _ _ _) 0x0510 _ _ _ _ _
  exact ⟨_, m, b, d, g, record⟩

/-- A queue that a failure has frozen, with what QS_FAULT shows of it. -/
def Queue.frozenBy (x : Queue) (seq : W32) (status opcode : Nat) : Queue :=
  { x with st := .frozen, fault := w64 (at' seq.toNat 32 + at' status 16 + opcode) }

/-- A queue that freezes shows the failure in QS_FAULT; other queues, the furrows and the segments stay (R250, R280). -/
theorem State.freezeQueue_changes (s : State) (q : QSlot) (seq : W32) (status opcode : Nat) : ∃ x m b d g w, s.freezeQueue q seq status opcode =
    { s.setQueue q ((s.queue q).frozenBy seq status opcode) with
      ctxs := x, hostMem := m, hostBad := b, dc := d, gl := g, watches := w } := by
  unfold State.freezeQueue
  dsimp only
  obtain ⟨m, b, d, g, record⟩ := State.faultRecord_changes (State.modQueue (s.endWaits q) q _) 0x0504 (srcQueue q) q.val seq.toNat
    (at' status 16 + opcode) (levByte 1 false false)
  obtain ⟨x, m', b', d', g', wide⟩ := State.widenFreeze_changes (State.faultRecord _ _ _ _ _ _ _) (s.queue q).ctxSlot
  rw [wide, record]
  exact ⟨x, m', b', d', g', _, rfl⟩

/-- A doorbell that an ACTIVE or DRAINING queue refuses freezes it, and QS_TAIL stays (R251). -/
theorem State.writeTail_bad {t : W32} (open' : (s.queue q).st = .active ∨ (s.queue q).st = .draining) (bad : (s.queue q).tailOk t = false) :
    ∃ x m b d g w, s.writeTail q t =
      { s.setQueue q ((s.queue q).frozenBy (s.queue q).seq stBadParam 0xFFFF) with
        ctxs := x, hostMem := m, hostBad := b, dc := d, gl := g, watches := w } := by
  have refused : s.writeTail q t =
      (s.offer 0x0503 (srcQueue q) q.val t.toNat (s.queue q).retired.toNat).freezeQueue q (s.queue q).seq stBadParam 0xFFFF := by
    rcases open' with active | draining
    · simp [State.writeTail, State.refuseTail, active, bad]
    · simp [State.writeTail, State.refuseTail, draining, bad]
  obtain ⟨g, event⟩ := s.offer_changes 0x0503 (srcQueue q) q.val t.toNat (s.queue q).retired.toNat
  rw [refused, event]
  exact State.freezeQueue_changes _ q (s.queue q).seq stBadParam 0xFFFF

end

/-! ### The statement -/

/-- Settles O31: each write has its register's effect while the block takes writes, which the lemmas of the registers give. -/
theorem queueControl : Obligations.QueueControl := by
  unfold Obligations.QueueControl
  intro q v s x ending
  refine ⟨fun takes => ?writes, fun draining done runs => ?stopped⟩
  case stopped => exact if_pos ⟨draining, done, by rw [runs]; rfl⟩
  case writes =>
    have write : ∀ {c : Instr} {off : Nat} {body : State → State} {t : State}, exec c s = .next (s.hostWrite off 8 body) → body s = t →
        exec c s = .next t := fun run effect => run.trans (congrArg _ ((s.hostWrite_of_takes takes _ _ _).trans effect))
    refine ⟨fun idle cfg tail => ?enable, fun open' => ?disable, fun frozen => ?thaw, fun stopped => ?unbind, fun ok => ?tail, fun idle => ?head,
      exec_qsCqHeadWrite_takes takes q v, fun none => ?cqHead, fun open' bad => ?doorbell⟩
    case enable => exact write rfl (State.enableQueue_ready idle cfg tail)
    case disable => exact write rfl (State.disableQueue_open open')
    case thaw => exact write rfl (State.thawQueue_frozen frozen)
    case unbind => exact write rfl (State.unbindQueue_stopped stopped)
    case tail => exact write rfl (State.writeTail_takes ok)
    case head => exact write rfl (State.writeHead_idle idle v)
    case cqHead =>
      rw [exec_qsCqHeadWrite_takes takes q v, State.giveRoom_none (by rw [State.queue_setQueue]; exact none)]
    case doorbell =>
      obtain ⟨ctxs, m, b, d, g, w, refused⟩ := State.writeTail_bad open' bad
      have queue : ∀ q', (s.writeTail q (v.setWidth 32)).queue q' = (s.setQueue q (x.frozenBy x.seq stBadParam 0xFFFF)).queue q' := fun q' => by
        rw [refused]
        rfl
      refine ⟨_, write rfl rfl, ?_, ?_, ?_, fun q' other => ?_, by rw [refused]; rfl, by rw [refused]; rfl⟩
      · rw [queue, State.queue_setQueue]
        rfl
      · rw [queue, State.queue_setQueue]
        rfl
      · rw [queue, State.queue_setQueue]
        rfl
      · rw [queue, State.queue_setQueue_ne _ other]

end Sys2Proof.Machine
end

section
/-! PROOFS. Directed routes: MGMT frames, and the MS_ registers that they reach (R301, R302, R319, R243). -/
namespace Sys2Proof.Machine

/-! ### MESH_DR_READ and MESH_DR_WRITE (R301, R302) -/

section
variable {s : State}

theorem drOffsetOk_iff {off : Nat} : drOffsetOk off = true ↔ 0x40000 ≤ off ∧ off ≤ 0xFFFFF := by simp [drOffsetOk]

theorem drOffsetOk_outside {off : Nat} (h : off < 0x40000 ∨ 0xFFFFF < off) : drOffsetOk off = false := by
  rw [Bool.eq_false_iff, ne_eq, drOffsetOk_iff]
  omega

theorem exec_meshDrRead_begins (asks : s.mbxHas 0x0F40 = true) (free : s.ms.mgmt = none) : exec .meshDrRead s = .next (s.drBegin false) :=
  if_pos (by rw [asks, free]; rfl)

theorem exec_meshDrWrite_begins (asks : s.mbxHas 0x0F41 = true) (free : s.ms.mgmt = none) : exec .meshDrWrite s = .next (s.drBegin true) :=
  if_pos (by rw [asks, free]; rfl)

theorem State.drBegin_refused (write : Bool) (outside : drOffsetOk (s.rv.w 2) = false) : s.drBegin write = s.mbxDone stBadParam 0 0 :=
  if_pos (by rw [outside]; rfl)

/-- A request without a hop is served at the device itself. -/
theorem State.drBegin_own (write : Bool) (inside : drOffsetOk (s.rv.w 2) = true) (here : fld (w64 (s.rv.w 1)) 60 4 = 0) : s.drBegin write =
    if write then (s.msWrite (s.rv.w 2) (w64 (s.rv.w 3)) true).mbxDone stOk 0 0 else s.mbxDone stOk (s.msRead (s.rv.w 2)) 0 := by
  unfold State.drBegin
  dsimp only
  rw [if_neg (by rw [inside]; decide), if_pos here]

section
variable (write : Bool) (inside : drOffsetOk (s.rv.w 2) = true) (hops : fld (w64 (s.rv.w 1)) 60 4 ≠ 0)
include inside hops

theorem State.drBegin_down (down : (s.port (portOf (mgmtPort (w64 (s.rv.w 1)) 0))).st ≠ .up) : s.drBegin write = s.mbxDone stTimeout 0 0 := by
  unfold State.drBegin
  dsimp only
  rw [if_neg (by rw [inside]; decide), if_neg hops, if_pos down]

/-- A request with hops goes out of the first port of its path, and waits for its answer. -/
theorem State.drBegin_sent (up : (s.port (portOf (mgmtPort (w64 (s.rv.w 1)) 0))).st = .up) : s.drBegin write =
    let t := s.queueMgmt (portOf (mgmtPort (w64 (s.rv.w 1)) 0)) (mgmtFrame (w64 (s.rv.w 1)) (s.rv.w 2) 0 1 (if write then 0x0F41 else 0x0F40)
      (toLe 8 (if write then (w64 (s.rv.w 3)).toNat else 0)))
    t.setMs { t.ms with mgmt := some (if write then 0x0F41 else 0x0F40, s.time) } := by
  unfold State.drBegin
  dsimp only
  rw [if_neg (by rw [inside]; decide), if_neg hops, if_neg (not_not.mpr up)]

end

/-- A request as its sender forms it: no answer, the first hop. -/
theorem mgmtFrame_request (h2 : W64) (off op v : Nat) :
    mgmtFrame h2 off 0 1 op (toLe 8 v) = ⟨mkH0 10 0 0 0 8, 0, h2, w64 (op * 2 ^ 48 + 2 ^ 36 + off), toLe 8 v⟩ := by
  have fields : at' op 48 + at' 1 36 + at' 0 32 + off = op * 2 ^ 48 + 2 ^ 36 + off := by simp only [at']; omega
  unfold mgmtFrame
  rw [fields]
  rfl

theorem exec_mgmtTimeout_due {op : W16} {t0 : W64} (waits : s.ms.mgmt = some (op, t0)) (runs : s.meshRuns = true) (due : 1000000 ≤ s.since t0) :
    exec .mgmtTimeout s = .next ((s.setMs { s.ms with mgmt := none }).mbxDone stTimeout 0 0) := by
  show execMgmtTimeout s = _
  simp [execMgmtTimeout, waits, runs, due]

/-! ### MGMT_FRAME (R301) -/

/-- The oldest MGMT frame leaves the ingress buffer of its port, and the reeve takes it one step. -/
theorem exec_mgmtFrame_first {p : PortNo} {fr : Frame} {rest : List Frame} (first : (s.port p).ingress = fr :: rest) (type : fr.type = 10)
    (runs : s.reeveRuns = true) : exec (.mgmtFrame p) s = .next ((s.setPort p { s.port p with ingress := rest }).mgmtStep p fr) := by
  show execMgmtFrame p s = _
  simp [execMgmtFrame, first, fMgmt, type, runs, eraseFirst]

section
variable {p : PortNo} {fr : Frame}

section
variable (answer : bitOf fr.h3 32 = true)
include answer

theorem State.mgmtStep_answered (last : fld fr.h3 36 4 = 0) : s.mgmtStep p fr = s.drAnswer fr := by
  simp [State.mgmtStep, answer, last]

theorem State.mgmtStep_returns (more : fld fr.h3 36 4 ≠ 0) : s.mgmtStep p fr =
    s.queueMgmt (portOf (mgmtPort fr.h2 (fld fr.h3 36 4 - 1)))
      (mgmtFrame fr.h2 (fld fr.h3 0 24) 1 (fld fr.h3 36 4 - 1) (fld fr.h3 48 16) fr.payload) := by
  simp [State.mgmtStep, answer, more]

end

theorem State.drAnswer_none (none : s.ms.mgmt = none) : s.drAnswer fr = s := by simp [State.drAnswer, none]

theorem State.drAnswer_waits {op : W16} {t0 : W64} (waits : s.ms.mgmt = some (op, t0)) : s.drAnswer fr =
    (s.setMs { s.ms with mgmt := none }).mbxDone (fld fr.h3 48 16)
      (if fld fr.h3 48 16 = stOk ∧ op = 0x0F40 then ofLe fr.payload else 0) 0 := by
  simp [State.drAnswer, waits]

section
variable (request : bitOf fr.h3 32 = false) (onPath : fld fr.h3 36 4 ≠ 0)
include request onPath

/-- At its last hop a request is served, and its answer returns by the port that it came by. -/
theorem State.mgmtStep_served (last : fld fr.h3 36 4 = fld fr.h2 60 4) : s.mgmtStep p fr =
    (s.drServe p fr).1.queueMgmt p (mgmtFrame (withPathPort fr.h2 (fld fr.h3 36 4 - 1) p.val) (fld fr.h3 0 24) 1 (fld fr.h3 36 4 - 1)
      (s.drServe p fr).2.1 (toLe 8 (s.drServe p fr).2.2)) := by
  unfold State.mgmtStep
  dsimp only
  rw [if_neg (by rw [request]; decide), if_neg (by omega), if_pos last]

variable (more : fld fr.h3 36 4 < fld fr.h2 60 4)
include more

theorem State.mgmtStep_forwarded (up : (s.port (portOf (mgmtPort fr.h2 (fld fr.h3 36 4)))).st = .up) : s.mgmtStep p fr =
    s.queueMgmt (portOf (mgmtPort fr.h2 (fld fr.h3 36 4))) (mgmtFrame (withPathPort fr.h2 (fld fr.h3 36 4 - 1) p.val) (fld fr.h3 0 24) 0
      (fld fr.h3 36 4 + 1) (fld fr.h3 48 16) fr.payload) := by
  unfold State.mgmtStep
  dsimp only
  rw [if_neg (by rw [request]; decide), if_neg (by omega), if_neg (by omega), if_pos up]

theorem State.mgmtStep_stuck (down : (s.port (portOf (mgmtPort fr.h2 (fld fr.h3 36 4)))).st ≠ .up) : s.mgmtStep p fr =
    s.queueMgmt p (mgmtFrame (withPathPort fr.h2 (fld fr.h3 36 4 - 1) p.val) (fld fr.h3 0 24) 1 (fld fr.h3 36 4 - 1) stTimeout (toLe 8 0)) := by
  unfold State.mgmtStep
  dsimp only
  rw [if_neg (by rw [request]; decide), if_neg (by omega), if_neg (by omega), if_neg down]

end

/-! ### A request at its last hop (R301, R302) -/

theorem State.drServe_outside (outside : drOffsetOk (fld fr.h3 0 24) = false) : s.drServe p fr = (s, stBadParam, 0) :=
  if_pos (by rw [outside]; rfl)

section
variable (inside : drOffsetOk (fld fr.h3 0 24) = true)
include inside

theorem State.drServe_read (read : fld fr.h3 48 16 ≠ 0x0F41) : s.drServe p fr = (s, stOk, s.msRead (fld fr.h3 0 24)) := by
  simp [State.drServe, inside, read]

theorem State.drServe_write (write : fld fr.h3 48 16 = 0x0F41) (unlocked : s.ms.lock = false) :
    s.drServe p fr = (s.msWrite (fld fr.h3 0 24) (w64 (ofLe fr.payload)) true, stOk, 0) := by
  simp [State.drServe, inside, write, unlocked]

theorem State.drServe_locked (write : fld fr.h3 48 16 = 0x0F41) (locked : s.ms.lock = true) :
    s.drServe p fr = (s.offer 0x0807 srcReeve (fld fr.h3 0 24) p.val 0, stPermission, 0) := by
  simp [State.drServe, inside, write, locked]

end

end

end

/-! ### MS_ registers (R319) -/

section
variable (s : State)

theorem State.msRead_id : s.msRead 0x40000 = b2n s.ms.lock * 2 ^ 17 + b2n s.ms.valid * 2 ^ 16 + s.ms.id.toNat := rfl

theorem State.msRead_serial : s.msRead 0x40008 = Config.serial.toNat := rfl

theorem State.msRead_transport : s.msRead 0x40010 = s.ms.hops.toNat * 2 ^ 32 + s.ms.retries.toNat * 2 ^ 24 + s.ms.rto.toNat := rfl

theorem State.msRead_sticky : s.msRead 0x40018 = s.ms.sticky.toNat := rfl

theorem State.msRead_drops : s.msRead 0x40028 = s.ms.drops.toNat := rfl

/-- The register of a route lies 8 bytes after that of the route before it. -/
theorem State.msRead_route {n : Nat} (h : n < 4096) : s.msRead (0x48000 + 8 * n) = (tget 0 s.ms.routes n).toNat := by
  unfold State.msRead
  dsimp only
  rw [if_neg (by omega), if_neg (by omega), if_neg (by omega), if_neg (by omega), if_neg (by omega), if_neg (by omega), if_neg (by omega),
    if_neg (by omega), if_pos (by omega), show (0x48000 + 8 * n - 0x40000 - 0x8000) / 8 = n by omega]

/-- The registers of a window lie in a block of 0x40 bytes, those of a furrow's 16 windows one after another. -/
theorem State.msRead_window (f : Fur) (j : Fin 16) {r : Nat} (inBlock : r < 0x40) (aligned : r % 8 = 0) :
    s.msRead (0x41000 + 0x40 * (16 * f.val + j.val) + r) = (s.window f j.val).reg r := by
  have hf := f.isLt
  have hj := j.isLt
  have number : (0x41000 + 0x40 * (16 * f.val + j.val) + r - 0x40000 - 0x1000) / 0x40 = 16 * f.val + j.val := by omega
  have offset : (0x41000 + 0x40 * (16 * f.val + j.val) + r - 0x40000) % 0x40 = r := by omega
  have furrow : furOf ((16 * f.val + j.val) / 16) = f := by
    rw [show (16 * f.val + j.val) / 16 = f.val by omega]
    exact Fin.ofNat_val_eq_self f
  unfold State.msRead
  dsimp only
  rw [if_neg (by omega), if_neg (by omega), if_neg (by omega), if_neg (by omega), if_neg (by omega), if_neg (by omega), if_neg (by omega),
    if_pos (by omega), number, offset, furrow, show (16 * f.val + j.val) % 16 = j.val by omega]
  rfl

/-- The registers of a port lie in a block of 0x40 bytes. -/
theorem State.msRead_port (p : PortNo) {r : Nat} (inBlock : r < 0x40) (aligned : r % 8 = 0) :
    s.msRead (0x40100 + 0x40 * p.val + r) = s.portReg p r := by
  have hp := p.isLt
  have number : portOf ((0x40100 + 0x40 * p.val + r - 0x40000 - 0x100) / 0x40) = p := by
    rw [show (0x40100 + 0x40 * p.val + r - 0x40000 - 0x100) / 0x40 = p.val by omega]
    exact Fin.ofNat_val_eq_self p
  unfold State.msRead
  dsimp only
  rw [if_neg (by omega), if_neg (by omega), if_neg (by omega), if_neg (by omega), if_neg (by omega), if_neg (by omega), if_pos (by omega),
    number, show (0x40100 + 0x40 * p.val + r - 0x40000) % 0x40 = r by omega]

section
variable (v : W64) (remote : Bool)

theorem State.msWrite_id : s.msWrite 0x40000 v remote = s.judgeHeads.setMs (s.ms.writeId v remote) := rfl

theorem Mesh.writeId_reserved (m : Mesh) {v : W64} (reserved : fld v 12 4 ≠ 0) : m.writeId v remote = m := if_pos reserved

theorem Mesh.writeId_zero (m : Mesh) {v : W64} (zero : fld v 12 4 = 0) : m.writeId v remote =
    { m with id := v.setWidth 16, valid := bitOf v 16, lock := bitOf v 17 || (remote && m.lock) } := by
  unfold Mesh.writeId
  rw [if_neg (not_not.mpr zero), BitVec.ofNat_toNat]

theorem State.msWrite_transport : s.msWrite 0x40010 v remote =
    s.setMs { s.ms with hops := byteOf (fld v 32 8), retries := BitVec.ofNat 4 (fld v 24 4), rto := v.setWidth 16 } := by
  have low : BitVec.ofNat 16 (fld v 0 16) = v.setWidth 16 := by
    apply BitVec.eq_of_toNat_eq
    simp [fld_zero]
  rw [← low]
  rfl

theorem State.msWrite_route {n : Nat} (h : n < 4096) :
    s.msWrite (0x48000 + 8 * n) v remote = s.judgeHeads.setMs { s.ms with routes := tset 0 s.ms.routes n (v &&& 0x1F1F) } := by
  unfold State.msWrite
  dsimp only
  rw [if_neg (by omega), if_neg (by omega), if_neg (by omega), if_neg (by omega), if_neg (by omega), if_pos (by omega),
    show (0x48000 + 8 * n - 0x40000 - 0x8000) / 8 = n by omega]
  rfl

end

end

/-! ### The statement -/

/-- Settles O48: the commands and frames act by the equations of their steps, and each register stands at its offset. -/
theorem directedRoutes : Obligations.DirectedRoutes := by
  unfold Obligations.DirectedRoutes
  intro p s h2 off first sent
  refine ⟨fun free low high => ?begins, fun free outside => ?refused, fun op t0 waits runs due => exec_mgmtTimeout_due waits runs due,
    fun fr rest oldest type runs => ?frames, ?registers⟩
  case begins =>
    have inside : drOffsetOk off = true := drOffsetOk_iff.mpr ⟨low, high⟩
    have queued : ∀ op v, s.queueMgmt first (mgmtFrame h2 off 0 1 op (toLe 8 v)) = sent op v := fun op v => by
      rw [mgmtFrame_request]
      rfl
    refine ⟨fun asks => ?read, fun asks => ?write⟩
    case read =>
      rw [exec_meshDrRead_begins asks free]
      refine ⟨fun own => congrArg Host.Outcome.next (State.drBegin_own false inside own), fun hops up => ?_,
        fun hops down => congrArg Host.Outcome.next (State.drBegin_down false inside hops down)⟩
      rw [State.drBegin_sent false inside hops up, ← queued]
      rfl
    case write =>
      rw [exec_meshDrWrite_begins asks free]
      refine ⟨fun own => congrArg Host.Outcome.next ((State.drBegin_own true inside own).trans (if_pos rfl)), fun hops up => ?_,
        fun hops down => congrArg Host.Outcome.next (State.drBegin_down true inside hops down)⟩
      rw [State.drBegin_sent true inside hops up, ← queued]
      rfl
  case refused =>
    have no : drOffsetOk off = false := drOffsetOk_outside outside
    exact ⟨fun asks => (exec_meshDrRead_begins asks free).trans (congrArg Host.Outcome.next (State.drBegin_refused false no)),
      fun asks => (exec_meshDrWrite_begins asks free).trans (congrArg Host.Outcome.next (State.drBegin_refused true no))⟩
  case frames =>
    intro t hop count reg status
    have steps : ∀ {u : State}, t.mgmtStep p fr = u → exec (.mgmtFrame p) s = .next u := fun step =>
      (exec_mgmtFrame_first oldest type runs).trans (congrArg Host.Outcome.next step)
    refine ⟨fun answer last => ?answered, fun answer more => steps (State.mgmtStep_returns answer more), fun request onPath within => ?request⟩
    case answered =>
      have answers : t.mgmtStep p fr = t.drAnswer fr := State.mgmtStep_answered answer last
      refine ⟨fun none => steps (answers.trans (State.drAnswer_none (s := t) none)), fun t0 waits => steps ?_, fun t0 waits => steps ?_⟩
      · rw [answers, State.drAnswer_waits (s := t) waits]
        simp [stOk, status]
      · rw [answers, State.drAnswer_waits (s := t) waits]
        simp [status]
    case request =>
      intro back
      have serve : ∀ {u : State} {st v : Nat}, hop = count → t.drServe p fr = (u, st, v) → exec (.mgmtFrame p) s =
          .next (u.queueMgmt p (mgmtFrame back reg 1 (hop - 1) st (toLe 8 v))) := fun last served => steps (by
        rw [State.mgmtStep_served request onPath last, served])
      exact ⟨fun last outside => serve last (State.drServe_outside (drOffsetOk_outside outside)),
        fun last low high read => serve last (State.drServe_read (drOffsetOk_iff.mpr ⟨low, high⟩) read),
        fun last low high write unlocked => serve last (State.drServe_write (drOffsetOk_iff.mpr ⟨low, high⟩) write unlocked),
        fun last low high write locked => serve last (State.drServe_locked (drOffsetOk_iff.mpr ⟨low, high⟩) write locked),
        fun more up => steps (State.mgmtStep_forwarded request onPath more up),
        fun more down => steps (State.mgmtStep_stuck request onPath more down)⟩
  case registers =>
    refine ⟨s.msRead_id, s.msRead_serial, s.msRead_transport, s.msRead_sticky, s.msRead_drops, fun n few => s.msRead_route few,
      fun f j => s.msRead_window f j (r := 0x18) (by decide) rfl, ?serial, ?tx, fun v remote => ⟨fun zero => ?id, fun reserved => ?idKept,
        fun q => ⟨_, s.judgeHeads_queue q⟩, s.msWrite_transport v remote, fun n few => s.msWrite_route v remote few⟩⟩
    case serial =>
      rw [show 0x40108 + 0x40 * p.val = 0x40100 + 0x40 * p.val + 0x08 by omega, s.msRead_port p (by decide) rfl]
      rfl
    case tx =>
      rw [show 0x40118 + 0x40 * p.val = 0x40100 + 0x40 * p.val + 0x18 by omega, s.msRead_port p (by decide) rfl]
      rfl
    case id => rw [s.msWrite_id, Mesh.writeId_zero remote s.ms zero]
    case idKept =>
      rw [s.msWrite_id, Mesh.writeId_reserved remote s.ms reserved]
      rfl

end Sys2Proof.Machine
end

section
/-! PROOFS. Runs of bytes that a COPY or FILL reads and writes, piece by piece (R140, R144, R145, R245). -/
namespace Sys2Proof.Machine

/-! ### Runs of a table -/

section
variable {α : Type} (d : α) (t : Tab α)

/-- A run is its first part and the run behind it. -/
theorem tgets_add (m n : Nat) : ∀ k, tgets d t k (m + n) = tgets d t k m ++ tgets d t (k + m) n := by
  induction m with
  | zero => intro k; rw [Nat.zero_add]; rfl
  | succ m ih =>
    intro k
    rw [Nat.succ_add, tgets, tgets, ih (k + 1), List.cons_append, Nat.add_right_comm, Nat.add_assoc k m 1]

end

/-- A part of a run without an error mark has none. -/
theorem tany_part {t : Tab Bool} {lo hi a b : Nat} (clean : tany t lo hi = false) (low : lo ≤ a) (high : b ≤ hi) : tany t a b = false := by
  rw [Bool.eq_false_iff] at clean ⊢
  intro hit
  obtain ⟨p, mem, first, last, mark⟩ := (tany_iff _ _ _).mp hit
  exact clean ((tany_iff _ _ _).mpr ⟨p, mem, Nat.le_trans low first, Nat.lt_of_lt_of_le last high, mark⟩)

theorem getD_toLe (n : Nat) : ∀ x i, i < n → (toLe n x).getD i 0 = BitVec.ofNat 8 (x / 256 ^ i) := by
  induction n with
  | zero => exact fun _ _ h => absurd h (Nat.not_lt_zero _)
  | succ n ih =>
    intro x i h
    cases i with
    | zero => simp [toLe]
    | succ i => rw [toLe, List.getD_cons_succ, ih (x / 256) i (Nat.lt_of_succ_lt_succ h), Nat.div_div_eq_div_mul, Nat.pow_succ']

/-- The bytes of a run, none of them poisoned. -/
def unpoisoned (bs : List Byte) : List (Byte × Bool) := bs.map (fun b => (b, false))

theorem zip_unpoisoned (bs : List Byte) : bs.zip (List.replicate bs.length false) = unpoisoned bs := by
  induction bs with
  | nil => rfl
  | cons b r ih => exact congrArg ((b, false) :: ·) ih

theorem unpoisoned_fst (bs : List Byte) : (unpoisoned bs).map Prod.fst = bs := by simp [unpoisoned, Function.comp_def]

/-! ### Reading (R144) -/

section
variable {s : State} {l : Loc}

theorem State.memRead_host {n : Nat} (host : l.host = true) (clean : tany s.hostBad l.addr (l.addr + n) = false) :
    s.memRead l n = (s.hostRd l.addr n, .good) := by
  simp [State.memRead, host, clean]

theorem State.memRead_plain {n : Nat} (hbm : l.host = false) (plain : l.key = none) (clean : tany s.hbmBad l.addr (l.addr + n) = false) :
    s.memRead l n = (s.hbmRd l.addr n, .good) := by
  simp [State.memRead, hbm, plain, clean]

/-- Pieces of a run that all read well give the run, and take no free value. -/
theorem State.readMarked_cutPieces {tab : Tab Byte} (row : Nat) (fuel : Nat) : ∀ {lo hi : Nat},
    (∀ a n, lo ≤ a → a + n ≤ hi → s.memRead { l with addr := a } n = (tgets 0 tab a n, .good)) → hi ≤ max lo ((lo / 4096 + fuel) * 4096) →
    s.readMarked l (cutPieces fuel lo hi row) = (s, unpoisoned (tgets 0 tab lo (hi - lo))) := by
  induction fuel with
  | zero =>
    intro lo hi _ enough
    rw [show hi - lo = 0 by omega]
    rfl
  | succ fuel ih =>
    intro lo hi reads enough
    unfold cutPieces
    split
    · next empty =>
      rw [Nat.sub_eq_zero_of_le empty]
      rfl
    · next more =>
      let e := min hi ((lo / 4096 + 1) * 4096)
      have first := reads lo (e - lo) (Nat.le_refl lo) (by omega)
      have rest := ih (lo := e) (hi := hi) (fun a n low high => reads a n (by omega) high) (by omega)
      have run : hi - lo = (e - lo) + (hi - e) := by omega
      have whole := zip_unpoisoned (tgets 0 tab lo (e - lo))
      rw [length_tgets] at whole
      unfold State.readMarked
      dsimp only
      rw [first]
      dsimp only
      rw [rest, whole, run, tgets_add, show lo + (e - lo) = e by omega]
      simp only [unpoisoned, List.map_append]

theorem State.readMarked_run {tab : Tab Byte} {n : Nat}
    (reads : ∀ a m, l.addr ≤ a → a + m ≤ l.addr + n → s.memRead { l with addr := a } m = (tgets 0 tab a m, .good)) :
    s.readMarked l (l.runs n) = (s, unpoisoned (tgets 0 tab l.addr n)) := by
  have run := State.readMarked_cutPieces (s := s) 0 ((l.addr + n - l.addr) / 4096 + 2) reads (by omega)
  rw [Nat.add_sub_cancel_left] at run
  unfold Loc.runs piecesOf
  rw [Nat.add_sub_cancel_left]
  exact run

theorem State.readSide_host {off n : Nat} (host : l.host = true)
    (clean : tany s.hostBad (l.addr + off) (l.addr + off + n) = false) (seg : Nat) :
    s.readSide (.mem l seg) off n = (s, unpoisoned (s.hostRd (l.addr + off) n)) :=
  State.readMarked_run (l := l.at off) fun _ _ low high => State.memRead_host host (tany_part clean low high)

theorem State.readSide_plain {off n : Nat} (hbm : l.host = false) (plain : l.key = none)
    (clean : tany s.hbmBad (l.addr + off) (l.addr + off + n) = false) (seg : Nat) :
    s.readSide (.mem l seg) off n = (s, unpoisoned (s.hbmRd (l.addr + off) n)) :=
  State.readMarked_run (l := l.at off) fun _ _ low high => State.memRead_plain hbm plain (tany_part clean low high)

/-- The first `n` bytes of a FILL: its 64-bit pattern, over and over (R244). -/
def patternBytes (v n : Nat) : List Byte := (List.range n).map (fun i => BitVec.ofNat 8 (v / 256 ^ (i % 8)))

theorem patternBytes_length (v n : Nat) : (patternBytes v n).length = n := by simp [patternBytes]

theorem getD_patternBytes (v : Nat) {n i : Nat} (h : i < n) : (patternBytes v n).getD i 0 = BitVec.ofNat 8 (v / 256 ^ (i % 8)) := by
  simp [patternBytes, List.getD_eq_getElem?_getD, h]

theorem State.readSide_fill (v n : Nat) : s.readSide (.fill v) 0 n = (s, unpoisoned (patternBytes v n)) := by
  unfold State.readSide unpoisoned patternBytes
  rw [List.map_map]
  refine congrArg (s, ·) (List.map_congr_left fun i _ => ?_)
  rw [Function.comp_apply, Nat.zero_add, getD_toLe 8 v (i % 8) (Nat.mod_lt _ (by decide))]

/-- A read may take free values, and changes nothing else. -/
theorem State.readMarked_changes (l : Loc) (ps : List Piece) : ∀ s : State, ∃ n, (s.readMarked l ps).1 = { s with free := n } := by
  induction ps with
  | nil => exact fun s => ⟨s.free, rfl⟩
  | cons p r ih =>
    intro s
    unfold State.readMarked
    dsimp only
    split
    · exact ih s
    · obtain ⟨n, rest⟩ := ih s.bumpFree
      exact ⟨n, rest⟩

theorem State.readSide_changes (s : State) (x : Side) (off n : Nat) : ∃ k, (s.readSide x off n).1 = { s with free := k } := by
  cases x with
  | mem l seg => exact State.readMarked_changes _ _ s
  | fill v => exact ⟨s.free, rfl⟩
  | scratch f a => exact ⟨s.free, rfl⟩

/-! ### Writing (R145) -/

theorem State.writeSide_changes (s : State) (x : Side) (off : Nat) (bs : List (Byte × Bool)) :
    ∃ m b h k g, (s.writeSide x off bs).1 = { s with hostMem := m, hostBad := b, hbm := h, hbmBad := k, gl := g } := by
  cases x with
  | mem l seg =>
    obtain ⟨m, b, h, k, g, written⟩ := s.memWrite_changes (l.at off) (bs.map Prod.fst) false seg
    unfold State.writeSide State.writeMarked
    dsimp only
    split
    · exact ⟨m, b, h, k, g, written⟩
    · split
      · exact ⟨m, b, h, k, g, written⟩
      · exact ⟨m, b, h, _, g, by rw [written]⟩
  | fill v => exact ⟨_, _, _, _, _, rfl⟩
  | scratch f a => exact ⟨_, _, _, _, _, rfl⟩

theorem State.writeSide_host (host : l.host = true) (seg off : Nat) (bs : List (Byte × Bool)) :
    (s.writeSide (.mem l seg) off bs).1 = s.hostWr (l.addr + off) (bs.map Prod.fst) := by
  simp [State.writeSide, State.writeMarked, State.memWrite, host, Loc.at]

/-- A write to an unencrypted place of HBM: the bytes, and error marks on the poisoned ones. -/
theorem State.writeSide_plain (hbm : l.host = false) (plain : l.key = none) (seg off : Nat) (bs : List (Byte × Bool)) :
    (s.writeSide (.mem l seg) off bs).1 = { s.hbmWr (l.addr + off) (bs.map Prod.fst) false with
      hbmBad := markBad (tclear s.hbmBad (l.addr + off) (l.addr + off + bs.length)) (l.addr + off) (bs.map Prod.snd) } := by
  simp [State.writeSide, State.writeMarked, State.memWrite, hbm, plain, Loc.at, State.hbmWr]

/-- Error marks of a run are added to those that are there. -/
theorem tget_markBad (ms : List Bool) : ∀ {t : Tab Bool} {a j : Nat}, twf false t = true → a ≤ j →
    tget false (markBad t a ms) j = (tget false t j || ms.getD (j - a) false) := by
  have below : ∀ (ms : List Bool) {t : Tab Bool} {a j : Nat}, twf false t = true → j < a → tget false (markBad t a ms) j = tget false t j := by
    intro ms
    induction ms with
    | nil => intros; rfl
    | cons m r ih =>
      intro t a j wf lt
      have rise := ((twf_iff false t).1 wf).1
      cases m with
      | false => exact ih wf (Nat.lt_succ_of_lt lt)
      | true => exact (ih (twf_tset false true t a wf) (Nat.lt_succ_of_lt lt)).trans (tget_tset_of_ne false true t (Nat.ne_of_lt lt) rise)
  induction ms with
  | nil => intros; simp [markBad]
  | cons m r ih =>
    intro t a j wf le
    have rise := ((twf_iff false t).1 wf).1
    have marked : twf false (if m then tset false t a true else t) = true := by
      split
      · exact twf_tset false true t a wf
      · exact wf
    unfold markBad
    rcases Nat.eq_or_lt_of_le le with rfl | lt
    · rw [below r marked (Nat.lt_succ_self a), Nat.sub_self, List.getD_cons_zero]
      cases m with
      | false => simp
      | true => simp [tget_tset_self false true t a rise]
    · rw [ih marked lt, show j - a = (j - (a + 1)) + 1 by omega, List.getD_cons_succ]
      cases m with
      | false => rfl
      | true => rw [if_pos rfl, tget_tset_of_ne false true t (Nat.ne_of_gt lt) rise]

end

end Sys2Proof.Machine
end

section
/-! PROOFS. COPY, FILL, SCRATCH_WRITE and SCRATCH_READ: engines, units and completion (R140, R244, R245). -/
namespace Sys2Proof.Machine

/-! ### Acceptance (R244, R245) -/

section
variable {s : State} {p : Packet} {r : CmdRef}

theorem State.copyBody_moves (some : p.w 6 ≠ 0) (apart : sidesOverlap (s.copySrc p.w) (s.copyDst p.w) (p.w 6) = false) :
    s.copyBody p r =
      let regions := (s.copySrc p.w).region (p.w 6) false ++ (s.copyDst p.w).region (p.w 6) true
      (((s.modCmd r (fun c => { c with stage := if regions = [] then 2 else 1 })).addJob r).joinBoards r regions).noteRequests := by
  unfold State.copyBody
  dsimp only
  rw [if_neg some, if_neg (by rw [apart]; decide)]

theorem State.fillBody_moves (some : p.w 4 ≠ 0) :
    s.fillBody p r = ((s.modCmd r (fun c => { c with stage := 2 })).addJob r).noteRequests := if_neg some

theorem State.scratchBody_write (some : nfld (p.w 2) 32 7 ≠ 0) : s.scratchBody true p r =
    ((s.modCmd r (fun c => { c with stage := 1, buf := payloadBytes p.words (nfld (p.w 2) 32 7) })).addJob r).joinBoards r
      [(p.fur, nfld (p.w 2) 0 25, nfld (p.w 2) 32 7, true)] := if_neg some

theorem State.scratchBody_read (some : nfld (p.w 2) 32 10 ≠ 0) : s.scratchBody false p r =
    ((s.modCmd r (fun c => { c with stage := 1, buf := [] })).addJob r).joinBoards r
      [(p.fur, nfld (p.w 2) 0 25, nfld (p.w 2) 32 10, false)] := if_neg some

end

/-! ### Requests of the engines (R141) -/

/-- A job without the number of its request at the stack ports. -/
def CopyJob.work (j : CopyJob) : CopyJob := { j with ask := none }

theorem CopyJob.fields_of_work {i k : CopyJob} (same : i.work = k.work) : i.ref = k.ref ∧ i.wr = k.wr ∧ i.buf = k.buf := by
  simp only [CopyJob.work, CopyJob.mk.injEq] at same
  obtain ⟨ref, -, -, wr, -, -, buf⟩ := same
  exact ⟨ref, wr, buf⟩

theorem map_work_mapFirst_ask (p : CopyJob → Bool) (a : Option Nat) (l : List CopyJob) :
    (mapFirst p (fun j => { j with ask := a }) l).map CopyJob.work = l.map CopyJob.work := by
  induction l with
  | nil => rfl
  | cons j r ih =>
    unfold mapFirst
    split
    · rfl
    · exact congrArg (j.work :: ·) ih

/-- Requests that come up are numbered, and what the jobs have done stays. -/
theorem State.noteRequests_changes (s : State) :
    ∃ cs n, s.noteRequests = { s with copies := cs, requests := n } ∧ cs.map CopyJob.work = s.copies.map CopyJob.work := by
  have key : ∀ (l : List CopyJob) (s : State), ∃ cs n, l.foldl (fun s j =>
      if j.ask.isNone && (s.jobPiece j).isSome then
        { s.modJob j.ref (fun j => { j with ask := some s.requests }) with requests := s.requests + 1 }
      else s) s = { s with copies := cs, requests := n } ∧ cs.map CopyJob.work = s.copies.map CopyJob.work := by
    intro l
    induction l with
    | nil => exact fun s => ⟨s.copies, s.requests, rfl, rfl⟩
    | cons j l ih =>
      intro s
      rw [List.foldl_cons]
      split
      · obtain ⟨cs, n, rest, works⟩ := ih { s.modJob j.ref (fun j => { j with ask := some s.requests }) with requests := s.requests + 1 }
        exact ⟨cs, n, rest, works.trans (map_work_mapFirst_ask _ _ _)⟩
      · exact ih s
  exact key (s.copies.take 8) s

section
variable {s : State} {r : CmdRef} {j : CopyJob}

/-- A job that a move has changed is there, whatever requests are numbered then. -/
theorem State.job_moved (found : s.copies.find? (fun j => j.ref == r) = some j) {g : CopyJob → CopyJob} (refs : ∀ j, (g j).ref = j.ref) :
    ∃ j' ∈ (s.modJob r g).noteRequests.copies, j'.ref = j.ref ∧ j'.wr = (g j).wr ∧ j'.buf = (g j).buf := by
  obtain ⟨cs, n, noted, works⟩ := (s.modJob r g).noteRequests_changes
  have changed : (s.modJob r g).copies.find? (fun j => j.ref == r) = some (g j) :=
    (find?_mapFirst (p := fun j : CopyJob => j.ref == r) (fun j => by rw [refs]) s.copies).trans (congrArg (Option.map g) found)
  have listed : (g j).work ∈ cs.map CopyJob.work := works ▸ List.mem_map_of_mem (List.mem_of_find?_eq_some changed)
  obtain ⟨j', mem, work⟩ := List.mem_map.mp listed
  obtain ⟨ref, wr, buf⟩ := CopyJob.fields_of_work work
  exact ⟨j', by rw [noted]; exact mem, ref.trans (refs j), wr, buf⟩

/-! ### A slot of an engine (R140, R245) -/

section
variable {c : Cmd} {a b : Side} {off n : Nat} (found : s.copies.find? (fun j => j.ref == r) = some j)
include found

theorem State.grantCopy_read (move : s.jobMove j = some (c, a, b, .read off n)) :
    s.grantCopy r = ((s.readSide a off n).1.copyGot r b off (s.readSide a off n).2).noteRequests := by
  simp [State.grantCopy, found, move]

section
variable (move : s.jobMove j = some (c, a, b, .write off n))
include move

/-- A request that writes part of an encrypted unit takes its extra slot first (R270). -/
theorem State.grantCopy_extra (extra : (needsExtra b (s.copyWork c).2.2 off && !j.extra) = true) :
    s.grantCopy r = (s.modJob r (fun j => { j with ask := none, extra := true })).noteRequests := by
  simp only [State.grantCopy, found, move, extra, if_true]

theorem State.grantCopy_write (whole : (needsExtra b (s.copyWork c).2.2 off && !j.extra) = false) : s.grantCopy r =
    let o := s.copyBytes j a off n
    let t := o.1.writeSide b off o.2
    (t.1.copyPut r b (s.copyWork c).2.2 n t.2).noteRequests := by
  simp only [State.grantCopy, found, move, whole, Bool.false_eq_true, if_false]

end

/-- A read is held until it is written, where its destination waits for slots or port S. -/
theorem State.grantCopy_read_held (move : s.jobMove j = some (c, a, b, .read off n)) (waits : b.isNow = false) :
    (s.grantCopy r).hbm = s.hbm ∧
      ∃ j' ∈ (s.grantCopy r).copies, j'.ref = j.ref ∧ j'.wr = j.wr ∧ j'.buf = j.buf ++ (s.readSide a off n).2 := by
  obtain ⟨k, read⟩ := s.readSide_changes a off n
  have got : (s.readSide a off n).1.copyGot r b off (s.readSide a off n).2 =
      (s.readSide a off n).1.modJob r (fun j => { j with ask := none, buf := j.buf ++ (s.readSide a off n).2 }) :=
    if_neg (by rw [waits]; decide)
  have kept : (s.readSide a off n).1.copies.find? (fun j => j.ref == r) = some j := by rw [read]; exact found
  rw [State.grantCopy_read found move, got]
  refine ⟨?_, State.job_moved kept (fun _ => rfl)⟩
  obtain ⟨cs, m, noted, -⟩ := State.noteRequests_changes ((s.readSide a off n).1.modJob r _)
  rw [noted, read]
  rfl

/-- A read for host memory is written there at once. -/
theorem State.grantCopy_read_now (move : s.jobMove j = some (c, a, b, .read off n)) (now : b.isNow = true) :
    ∃ j' ∈ (s.grantCopy r).copies, j'.ref = j.ref := by
  obtain ⟨k, read⟩ := s.readSide_changes a off n
  obtain ⟨m, d, h, e, g, written⟩ := (s.readSide a off n).1.writeSide_changes b off (s.readSide a off n).2
  have kept : ((s.readSide a off n).1.writeSide b off (s.readSide a off n).2).1.copies.find? (fun j => j.ref == r) = some j := by
    rw [written, read]
    exact found
  rw [State.grantCopy_read found move, State.copyGot, if_pos now]
  obtain ⟨j', mem, ref, -⟩ := State.job_moved kept (g := fun j => { j with
    ask := none, wr := j.wr + (s.readSide a off n).2.length
    pois := j.pois + ((s.readSide a off n).1.writeSide b off (s.readSide a off n).2).2 }) (fun _ => rfl)
  exact ⟨j', mem, ref⟩

/-- A write takes the bytes that it writes from those held. -/
theorem State.grantCopy_written (move : s.jobMove j = some (c, a, b, .write off n))
    (whole : (needsExtra b (s.copyWork c).2.2 off && !j.extra) = false) :
    ∃ j' ∈ (s.grantCopy r).copies, j'.ref = j.ref ∧ j'.wr = j.wr + n ∧ j'.buf = j.buf.drop n := by
  have bytes : ∃ k, (s.copyBytes j a off n).1 = { s with free := k } := by
    unfold State.copyBytes
    split
    · exact s.readSide_changes a off n
    · exact ⟨s.free, rfl⟩
  obtain ⟨k, bytes⟩ := bytes
  obtain ⟨m, d, h, e, g, written⟩ := (s.copyBytes j a off n).1.writeSide_changes b off (s.copyBytes j a off n).2
  have kept : ((s.copyBytes j a off n).1.writeSide b off (s.copyBytes j a off n).2).1.copies.find? (fun j => j.ref == r) = some j := by
    rw [written, bytes]
    exact found
  rw [State.grantCopy_write found move whole]
  dsimp only
  unfold State.copyPut
  exact State.job_moved kept (fun _ => rfl)

/-- A unit of an unencrypted destination in HBM is there with its slot, an error mark on each poisoned byte, and no other byte changes (R145). -/
theorem State.grantCopy_write_plain {l : Loc} {seg : Nat} (move : s.jobMove j = some (c, a, .mem l seg, .write off n))
    (whole : needsExtra (.mem l seg) (s.copyWork c).2.2 off = false) (waits : a.isNow = false) (hbm : l.host = false) (plain : l.key = none)
    (held : n ≤ j.buf.length) (wf : twf 0 s.hbm = true) (wfBad : twf false s.hbmBad = true) :
    (s.grantCopy r).hbmRd (l.addr + off) n = (j.buf.take n).map Prod.fst ∧
      (∀ i, i < n → tget false (s.grantCopy r).hbmBad (l.addr + off + i) = (j.buf.getD i (0, false)).2) ∧
      ∀ i, (i < l.addr + off ∨ l.addr + off + n ≤ i) → tget 0 (s.grantCopy r).hbm i = tget 0 s.hbm i := by
  have bytes : s.copyBytes j a off n = (s, j.buf.take n) := if_neg (by rw [waits]; decide)
  have written := State.writeSide_plain (s := s) hbm plain seg off (j.buf.take n)
  have taken : (j.buf.take n).length = n := List.length_take_of_le held
  have length : ((j.buf.take n).map Prod.fst).length = n := (List.length_map _).trans taken
  have mem : (s.grantCopy r).hbm = tputs 0 s.hbm (l.addr + off) ((j.buf.take n).map Prod.fst) ∧
      (s.grantCopy r).hbmBad = markBad (tclear s.hbmBad (l.addr + off) (l.addr + off + n)) (l.addr + off) ((j.buf.take n).map Prod.snd) := by
    rw [State.grantCopy_write found move (by rw [whole]; rfl), bytes]
    dsimp only
    obtain ⟨cs, m, noted, -⟩ := State.noteRequests_changes ((s.writeSide (.mem l seg) off (j.buf.take n)).1.copyPut r (.mem l seg)
      (s.copyWork c).2.2 n (s.writeSide (.mem l seg) off (j.buf.take n)).2)
    rw [taken] at written
    rw [noted]
    exact ⟨congrArg State.hbm written, congrArg State.hbmBad written⟩
  obtain ⟨data, bad⟩ := mem
  refine ⟨?_, fun i inside => ?_, fun i outside => ?_⟩
  · have back := tgets_tputs_self 0 ((j.buf.take n).map Prod.fst) s.hbm (l.addr + off) wf
    rw [length, ← data] at back
    exact back
  · rw [bad, tget_markBad _ (twf_tclear false _ _ _ wfBad) (Nat.le_add_right _ _), Nat.add_sub_cancel_left,
      tget_tclear_in false _ ⟨Nat.le_add_right _ _, Nat.add_lt_add_left inside _⟩]
    simp [List.getD_eq_getElem?_getD, inside, Nat.lt_of_lt_of_le inside held]
  · rw [data]
    exact tget_tputs_out 0 _ _ _ _ wf (by rw [length]; exact outside)

/-- Whatever a slot moves, its job is still there. -/
theorem State.job_grantCopy {m : Move} (move : s.jobMove j = some (c, a, b, m)) : ∃ j' ∈ (s.grantCopy r).copies, j'.ref = j.ref := by
  cases m with
  | read off n =>
    cases now : b.isNow with
    | true => exact State.grantCopy_read_now found move now
    | false =>
      obtain ⟨-, j', mem, ref, -⟩ := State.grantCopy_read_held found move now
      exact ⟨j', mem, ref⟩
  | write off n =>
    cases extra : needsExtra b (s.copyWork c).2.2 off && !j.extra with
    | true =>
      rw [State.grantCopy_extra found move extra]
      obtain ⟨j', mem, ref, -⟩ := State.job_moved found (g := fun j => { j with ask := none, extra := true }) (fun _ => rfl)
      exact ⟨j', mem, ref⟩
    | false =>
      obtain ⟨j', mem, ref, -⟩ := State.grantCopy_written found move extra
      exact ⟨j', mem, ref⟩

end

end

/-! ### COPY_DONE (R244, R245) -/

section
variable {s : State} {q : QSlot} {seq : W32} {j : CopyJob} {c : Cmd}

theorem State.hostMem_copyEnds (s : State) (r : CmdRef) (n pois : Nat) : (s.copyEnds r n pois).hostMem = s.hostMem := by
  obtain ⟨_, _, _, _, finished⟩ := (s.endJob r).finish_changes r (if pois = 0 then stOk else stPoisoned) n pois
  obtain ⟨_, _, noted, -⟩ := State.noteRequests_changes { s with
    copies := s.copies.filter (fun j => j.ref != r)
    furs := s.furs.map (fun x => { x with waiting := x.waiting.filter (fun e => e.ref != r) }) }
  unfold State.copyEnds
  rw [finished]
  unfold State.endJob
  rw [noted]

variable (engine : (s.copies.take 8).find? (fun j => j.ref == ⟨q.val, seq⟩) = some j) (cmd : s.cmd? ⟨q.val, seq⟩ = some c) (work : c.stage = 2)
  (runs : s.stopped = false) (some : (s.copyWork c).2.2 ≠ 0)
include engine cmd work runs some

theorem exec_copyDone_written (waits : ((s.copyWork c).1.isNow && (s.copyWork c).2.1.isNow) = false) (all : (s.copyWork c).2.2 ≤ j.wr) :
    exec (.copyDone q seq) s = .next (s.copyEnds ⟨q.val, seq⟩ (s.copyWork c).2.2 j.pois) := by
  show execCopyDone q seq s = _
  simp [execCopyDone, engine, cmd, work, runs, some, waits, all]

theorem exec_copyDone_now (source : (s.copyWork c).1.isNow = true) (sink : (s.copyWork c).2.1.isNow = true) : exec (.copyDone q seq) s = .next (
    let a := s.readSide (s.copyWork c).1 0 (s.copyWork c).2.2
    let b := a.1.writeSide (s.copyWork c).2.1 0 a.2
    b.1.copyEnds ⟨q.val, seq⟩ (s.copyWork c).2.2 b.2) := by
  show execCopyDone q seq s = _
  simp [execCopyDone, engine, cmd, work, runs, some, source, sink]

/-- What is read at once for host memory is there with COPY_DONE, and no other byte changes. -/
theorem exec_copyDone_toHost {b : Loc} {seg : Nat} {bs : List Byte} (source : (s.copyWork c).1.isNow = true)
    (dest : (s.copyWork c).2.1 = .mem b seg) (host : b.host = true)
    (read : s.readSide (s.copyWork c).1 0 (s.copyWork c).2.2 = (s, unpoisoned bs)) (wf : twf 0 s.hostMem = true) :
    ∃ t, exec (.copyDone q seq) s = .next t ∧ t.hostRd b.addr bs.length = bs ∧
      (∀ i, i < bs.length → tget 0 t.hostMem (b.addr + i) = bs.getD i 0) ∧
      ∀ i, (i < b.addr ∨ b.addr + bs.length ≤ i) → tget 0 t.hostMem i = tget 0 s.hostMem i := by
  have mem := congrArg State.hostMem (State.writeSide_host (s := s) host seg 0 (unpoisoned bs))
  rw [unpoisoned_fst] at mem
  refine ⟨_, exec_copyDone_now engine cmd work runs some source ((congrArg Side.isNow dest).trans host), ?_⟩
  dsimp only
  rw [State.hostRd, State.hostMem_copyEnds, read, dest, mem]
  exact ⟨tgets_tputs_self 0 bs _ _ wf, fun i inside => tget_tputs_in 0 bs _ _ i wf inside, fun i outside => tget_tputs_out 0 bs _ _ i wf outside⟩

end

/-! ### The statement -/

/-- Settles O34: acceptance is the bodies of the four commands; COPY_DONE and the slot of an engine are their equations. -/
theorem copyCommands : Obligations.CopyCommands := by
  unfold Obligations.CopyCommands
  intro q seq s p r k takes
  refine ⟨?copy, fun some => ?fill, fun some => ?scratchWrite, fun some => ?scratchRead, fun j c engine cmd work runs => ?done,
    fun st x j c a b m runs trained works picked dispatcher noFence found move wf wfBad => ?slot⟩
  case copy =>
    intro a src dst regions some apart
    exact accepts_of_body (body := State.copyBody) rfl (State.copyBody_moves some apart)
  case fill => exact accepts_of_body (body := State.fillBody) rfl (State.fillBody_moves some)
  case scratchWrite => exact accepts_of_body (body := State.scratchBody true) rfl (State.scratchBody_write some)
  case scratchRead => exact accepts_of_body (body := State.scratchBody false) rfl (State.scratchBody_read some)
  case done =>
    intro o n
    refine ⟨fun some waits all => exec_copyDone_written engine cmd work runs some waits all,
      fun a b seg seg' some source dest fromHost toHost wf clean => ?copied, fun v b seg some source dest toHost wf => ?filled⟩
    case copied =>
      have read : s.readSide o.1 0 n = (s, unpoisoned (s.hostRd a.addr n)) := by
        rw [source]
        exact State.readSide_host (off := 0) fromHost clean seg
      obtain ⟨t, ends, back, -, kept⟩ := exec_copyDone_toHost engine cmd work runs some ((congrArg Side.isNow source).trans fromHost) dest toHost
        read wf
      rw [State.hostRd, State.hostRd, length_tgets] at back
      rw [State.hostRd, length_tgets] at kept
      exact ⟨t, ends, back, kept⟩
    case filled =>
      have read : s.readSide o.1 0 n = (s, unpoisoned (patternBytes v n)) := by
        rw [source]
        exact State.readSide_fill v n
      obtain ⟨t, ends, -, filled, kept⟩ := exec_copyDone_toHost engine cmd work runs some (congrArg Side.isNow source) dest toHost read wf
      rw [patternBytes_length] at filled kept
      exact ⟨t, ends, fun i inside => (filled i inside).trans (getD_patternBytes v inside), kept⟩
  case slot =>
    let u := s.slotCounted st x
    have there : u.copies.find? (fun j => j.ref == x.ref) = some j := found
    have moves : u.jobMove j = some (c, a, b, m) := move
    have ref : j.ref = x.ref := by simpa using List.find?_some found
    refine ⟨u.grantCopy x.ref, exec_stackSlotGrant_copy runs trained works picked dispatcher noFence, ?_⟩
    cases m with
    | read off n =>
      cases now : b.isNow with
      | true =>
        obtain ⟨j', mem, ref'⟩ := State.job_grantCopy there moves
        exact ⟨j', mem, ref'.trans ref, fun _ _ _ _ _ _ _ _ _ _ waits => absurd waits (by decide), nofun⟩
      | false =>
        obtain ⟨hbm, j', mem, ref', wr, buf⟩ := State.grantCopy_read_held there moves now
        refine ⟨j', mem, ref'.trans ref, fun l seg off' n' same source device plain clean _ _ => ⟨wr, ?_, hbm⟩, nofun⟩
        obtain ⟨rfl, rfl⟩ := Move.read.inj same
        rw [buf, source, State.readSide_plain (s := u) device plain clean]
        rfl
    | write off n =>
      cases extra : needsExtra b (u.copyWork c).2.2 off && !j.extra with
      | true =>
        obtain ⟨j', mem, ref'⟩ := State.job_grantCopy there moves
        refine ⟨j', mem, ref'.trans ref, nofun, fun l seg off' n' same _ _ _ _ _ whole => ?_⟩
        obtain ⟨rfl, rfl⟩ := Move.write.inj same
        exact absurd extra (by rw [show needsExtra b (u.copyWork c).2.2 off = false from whole]; exact Bool.false_ne_true)
      | false =>
        obtain ⟨j', mem, ref', wr, buf⟩ := State.grantCopy_written there moves extra
        refine ⟨j', mem, ref'.trans ref, nofun, fun l seg off' n' same dest waits device plain held whole => ?_⟩
        obtain ⟨rfl, rfl⟩ := Move.write.inj same
        subst dest
        exact ⟨wr, buf, State.grantCopy_write_plain there moves whole waits device plain held wf wfBad⟩

end Sys2Proof.Machine
end

section
/-! PROOFS. Writes and ops of the segment table (R259, R260, R266, R268). -/
namespace Sys2Proof.Machine

/-! ### Fields of a register -/

/-- A field of a word, read as a number or cut out as a word. -/
theorem ofNat_fld {n : Nat} (v : BitVec n) (lo len : Nat) : BitVec.ofNat len (fld v lo len) = (v >>> lo).setWidth len := by
  apply BitVec.eq_of_toNat_eq
  simp [fld, nfld, Nat.shiftRight_eq_div_pow]

theorem Seg.withBase_eq (g : Seg) (v : W64) : g.withBase v = { g with base := (v >>> 21).setWidth 43, host := bitOf v 0 } := by
  simp only [Seg.withBase, ofNat_fld]

theorem Seg.withSize_eq (g : Seg) (v : W64) : g.withSize v = { g with granules := v.setWidth 24 } := by
  simp only [Seg.withSize, ofNat_fld, BitVec.ushiftRight_zero]

theorem Seg.withAccess_eq (g : Seg) (v : W64) : g.withAccess v = { g with
    enc := bitOf v 39, keySlot := (v >>> 32).setWidth 6, owner := (v >>> 16).setWidth 12
    xF := bitOf v 3, oF := bitOf v 2, oW := bitOf v 1, oR := bitOf v 0 } := by
  simp only [Seg.withAccess, ofNat_fld]

/-- The entry once `v` is written to its first, second or third register (R258). -/
def Seg.withReg (g : Seg) (reg : Fin 3) (v : W64) : Seg :=
  if reg = 0 then { g with base := (v >>> 21).setWidth 43, host := bitOf v 0 }
  else if reg = 1 then { g with granules := v.setWidth 24 }
  else { g with enc := bitOf v 39, keySlot := (v >>> 32).setWidth 6, owner := (v >>> 16).setWidth 12,
                xF := bitOf v 3, oF := bitOf v 2, oW := bitOf v 1, oR := bitOf v 0 }

section
variable {s : State} {i : Nat}

/-! ### Writes and ops of an entry other than 0 -/

/-- The entry takes a field write: any in FREE; in VALID without references BASE and GRANULES, where the result satisfies R260 (R268). -/
def Seg.takesField (g new : Seg) (reg : Fin 3) : Prop :=
  g.st = 0 ∨ (g.st = 1 ∧ g.refs = 0 ∧ reg.val ≤ 1 ∧ new.createOk = true ∧ new.host = g.host)

/-- One equation for the three registers: the entry takes the write, or refuses it with event 0x0602 (R268). -/
theorem State.writeSeg_eq (s : State) (i : Nat) (reg : Fin 3) (v : W64) :
    s.writeSeg i reg.val v = if i ≠ 0 ∧ ((s.seg i).st == 0 || ((s.seg i).st == 1 && (s.seg i).refs == 0 && decide (reg.val ≤ 1) &&
        ((s.seg i).withReg reg v).createOk && ((s.seg i).withReg reg v).host == (s.seg i).host)) = true
      then s.setSeg i ((s.seg i).withReg reg v) else s.segRefuse i (8 * reg.val) v.toNat := by
  match reg with
  | 0 => rw [show (s.seg i).withReg 0 v = (s.seg i).withBase v from ((s.seg i).withBase_eq v).symm]; rfl
  | 1 => rw [show (s.seg i).withReg 1 v = (s.seg i).withSize v from ((s.seg i).withSize_eq v).symm]; rfl
  | 2 => rw [show (s.seg i).withReg 2 v = (s.seg i).withAccess v from ((s.seg i).withAccess_eq v).symm]; rfl

theorem State.writeSeg_taken (used : i ≠ 0) {reg : Fin 3} {v : W64}
    (takes : (s.seg i).takesField ((s.seg i).withReg reg v) reg) : s.writeSeg i reg.val v = s.setSeg i ((s.seg i).withReg reg v) := by
  rw [State.writeSeg_eq]
  refine if_pos ⟨used, ?_⟩
  rcases takes with free | ⟨valid, unused, moves, ok, kind⟩
  · simp [free]
  · simp [valid, unused, moves, ok, kind]

theorem State.createSeg_free (used : i ≠ 0) (free : (s.seg i).st = 0) (ok : (s.seg i).createOk = true) (v : Nat) :
    s.createSeg i v = s.setSeg i { s.seg i with st := 1 } :=
  if_pos ⟨used, free, ok⟩

theorem State.freeSeg_unused (used : i ≠ 0) (valid : (s.seg i).st = 1) (unused : (s.seg i).refs = 0) (v : Nat) :
    s.freeSeg i v = s.retireSeg i := by
  simp [State.freeSeg, used, valid, unused]

theorem State.freeSeg_used (used : i ≠ 0) (valid : (s.seg i).st = 1) (users : (s.seg i).refs ≠ 0) (v : Nat) :
    s.freeSeg i v = s.setSeg i { s.seg i with st := 2 } := by
  simp [State.freeSeg, used, valid, users]

/-- At the last generation the entry is RETIRED for good (R259). -/
theorem State.retireSeg_last (last : (s.seg i).gen = 0xFFFF) :
    (s.retireSeg i).segs = tset Seg.zero s.segs i { s.seg i with st := 3 } := by
  obtain ⟨g, offered⟩ := (s.setSeg i { s.seg i with st := 3 }).offer_changes 0x8601 srcBlock i 0xFFFF 0
  rw [State.retireSeg, if_pos last, offered]
  rfl

theorem State.retireSeg_next (more : (s.seg i).gen ≠ 0xFFFF) :
    s.retireSeg i = s.setSeg i { s.seg i with st := 0, gen := (s.seg i).gen + 1 } :=
  if_neg more

/-- A command that frees the entry makes it RETIRED at the last generation, and FREE at the next one before. -/
theorem State.freed_of_retireSeg {c : Instr} (frees : exec c s = .next (s.retireSeg i)) :
    if (s.seg i).gen = 0xFFFF then ∃ t, exec c s = .next t ∧ t.segs = tset Seg.zero s.segs i { s.seg i with st := 3 }
    else exec c s = .next (s.setSeg i { s.seg i with st := 0, gen := (s.seg i).gen + 1 }) := by
  split
  · next last => exact ⟨_, frees, State.retireSeg_last last⟩
  · next more => exact frees.trans (congrArg _ (State.retireSeg_next more))

end

section
variable (s : State) (i : BitVec 15)

/-! ### The commands -/

theorem exec_segmentFieldWrite_takes (takes : s.takesWrites) (reg : Fin 3) (v : W64) :
    exec (.segmentFieldWrite i reg v) s = .next (s.writeSeg i.toNat reg.val v) :=
  congrArg _ (s.hostWrite_of_takes takes _ _ _)

theorem exec_segmentCreate_takes (takes : s.takesWrites) : exec (.segmentCreate i) s = .next (s.createSeg i.toNat 0x10) :=
  congrArg _ (s.hostWrite_of_takes takes _ _ _)

theorem exec_segmentFree_takes (takes : s.takesWrites) : exec (.segmentFree i) s = .next (s.freeSeg i.toNat 0x20) :=
  congrArg _ (s.hostWrite_of_takes takes _ _ _)

theorem exec_segmentRelease_dying (dying : (s.seg i.toNat).st = 2) (unused : (s.seg i.toNat).refs = 0) (alive : s.dead = false) :
    exec (.segmentRelease i) s = .next (s.retireSeg i.toNat) :=
  if_pos ⟨dying, unused, by simp [alive]⟩

end

/-- Settles O33: each write, op and release of an entry other than 0 is its equation on the entry's state. -/
theorem segmentTable : Obligations.SegmentTable := by
  unfold Obligations.SegmentTable
  intro i reg v s n g new freed used
  refine ⟨fun takes => ⟨fun field => ?write, fun free ok => ?create, fun valid unused => ?free, fun valid users => ?dying⟩,
    fun dying unused alive => State.freed_of_retireSeg (exec_segmentRelease_dying s i dying unused alive)⟩
  case write => exact (exec_segmentFieldWrite_takes s i takes reg v).trans (congrArg _ (State.writeSeg_taken used field))
  case create => exact (exec_segmentCreate_takes s i takes).trans (congrArg _ (State.createSeg_free used free ok _))
  case free =>
    exact State.freed_of_retireSeg ((exec_segmentFree_takes s i takes).trans (congrArg _ (State.freeSeg_unused used valid unused _)))
  case dying => exact (exec_segmentFree_takes s i takes).trans (congrArg _ (State.freeSeg_used used valid users _))

end Sys2Proof.Machine
end

section
/-! PROOFS. A SYN frame that finds another frame at its turn (R307, log 51). -/
namespace Sys2Proof.Machine

section
variable {s : State} {fr g : Frame}

/-! ### The frame comes to its pair -/

theorem exec_laneFrameDeliver_head {p : Nat} {rest : List (Frame × Nat)} (head : s.ms.arrivals = (fr, p) :: rest)
    (data : fr.isData = true) (runs : s.meshRuns = true) :
    exec .laneFrameDeliver s = .next ((s.setMs { s.ms with arrivals := rest }).deliver fr p) := by
  show execLaneFrameDeliver s = _
  simp [execLaneFrameDeliver, head, data, runs, eraseFirst]

theorem State.deliver_syn (valid : s.ms.valid = true) (runs : s.stopped = false) (source : tget false s.ms.frozenSrcs fr.src = false)
    (pair : (s.ms.recvLane fr.key).frozen = false) (syn : fr.syn = true) (p : Nat) :
    s.deliver fr p = (s.adoptSyn fr).receiveData fr p := by
  simp [State.deliver, valid, runs, source, pair, syn]

/-- The pair after a SYN frame that found another at its turn: it expects the SYN frame and has none. -/
def RecvLane.synced (x : RecvLane) (fr : Frame) : RecvLane :=
  { x with expect := fr.lseq, valid := true, held := [], cur := none, rows := 0, slots := none }

theorem State.adoptSyn_replaces (cur : (s.ms.recvLane fr.key).cur = some g) (other : g.lseq ≠ fr.lseq) :
    ∃ gl, s.adoptSyn fr = { (s.dropRow g).setMs (s.ms.setRecv fr.key ((s.ms.recvLane fr.key).synced fr)) with gl := gl } := by
  simp only [State.adoptSyn, cur, beq_eq_false_iff_ne.mpr other, Bool.false_eq_true, if_false]
  exact State.offer_changes _ _ _ _ _ _

/-- A frame that is no WRITE comes to its turn at a pair that expects it and has none; no furrow changes. -/
theorem State.furs_receiveData_turn (valid : (s.ms.recvLane fr.key).valid = true) (expected : (s.ms.recvLane fr.key).expect = fr.lseq)
    (empty : (s.ms.recvLane fr.key).cur = none) (noWrite : fr.type ≠ fWrite) (p : Nat) : (s.receiveData fr p).furs = s.furs := by
  simp [State.receiveData, valid, expected, empty, State.takeTurn, noWrite, State.setMs]

/-- What a SYN frame that is no WRITE does to the furrows: it gives up the row of the frame that it finds at its turn, and no more. -/
theorem State.furs_deliver_syn (valid : s.ms.valid = true) (runs : s.stopped = false) (source : tget false s.ms.frozenSrcs fr.src = false)
    (pair : (s.ms.recvLane fr.key).frozen = false) (syn : fr.syn = true) (cur : (s.ms.recvLane fr.key).cur = some g)
    (other : g.lseq ≠ fr.lseq) (noWrite : fr.type ≠ fWrite) (rise : keysRise none s.ms.recv = true) (p : Nat) :
    (s.deliver fr p).furs = (s.dropRow g).furs := by
  obtain ⟨gl, adopted⟩ := State.adoptSyn_replaces cur other
  have lane : (s.adoptSyn fr).ms.recvLane fr.key = (s.ms.recvLane fr.key).synced fr := by
    rw [adopted]
    exact tget_tset_self _ _ _ _ rise
  rw [State.deliver_syn valid runs source pair syn,
    State.furs_receiveData_turn (by rw [lane]; rfl) (by rw [lane]; rfl) (by rw [lane]; rfl) noWrite, adopted]
  rfl

/-- The row given up is known by the source and lane of the frame, not by the pair at whose turn the frame stands. -/
theorem State.xfers_dropRow (s : State) (g : Frame) : ((s.dropRow g).fur (furOf (frameFur g))).xfers =
    (s.fur (furOf (frameFur g))).xfers.filter (fun t => !(agentIsWindow t.agent && t.idx == g.key)) := by
  simp [State.dropRow, State.modFur]

end

/-! ### The state of the counterexample -/

/-- A CSIG frame of source 2 and lane 0 with SYN, LSEQ 5. -/
def Frame.synOfLane0 : Frame := ⟨mkH0 3 8 2 1 0, mkH1 0 0 1 0 5 0, 0, 0, []⟩

/-- A WRITE frame of source 2 and lane 1. -/
def Frame.writeOfLane1 : Frame := ⟨mkH0 1 8 2 1 512, mkH1 0 1 0 0 0 0, 0, 0, []⟩

/-- The pair of lane 0, with the frame of lane 1 at its turn. -/
def RecvLane.mixed : RecvLane := { RecvLane.clear with valid := true, cur := some Frame.writeOfLane1 }

/-- A row of window 0 in transfer for lane 0 of source 2. -/
def Xfer.ofLane0 : Xfer := ⟨.window 0, 0, 512, true, 3, none, [], false, laneKey 2 0, 0, false⟩

/-- The block running, the SYN frame arrived for that pair, the transfer of lane 0 on port S of furrow 0. -/
def State.mixedLanes : State := State.setFur { State.reset with
  release := 3
  ms := { Mesh.atReset with valid := true, arrivals := [(Frame.synOfLane0, 0)], recv := [(laneKey 2 0, RecvLane.mixed)] } }
  0 { Furrow.atReset false with xfers := [Xfer.ofLane0] }

/-- Refutes O46: the statement speaks of every state, and leaves out that the frame at a pair's turn has the source and lane of the pair, as
`State.takeTurn` puts it there. In a state where the frame is another lane's, a SYN frame gives up the row of that lane, and the row that port S has
in transfer under the pair's own key stays. -/
theorem not_laneReceiver : ¬ Obligations.LaneReceiver := by
  unfold Obligations.LaneReceiver
  intro h
  obtain ⟨arrival, -, -⟩ := h Frame.synOfLane0 0 0 State.mixedLanes
  obtain ⟨-, -, -, replaces⟩ := arrival 0 [] rfl (by decide) (by decide) rfl (by decide)
  have cur : (State.mixedLanes.ms.recvLane Frame.synOfLane0.key).cur = some Frame.writeOfLane1 := by decide
  obtain ⟨t, runs, -, gone, -⟩ := replaces Frame.writeOfLane1 (by decide) (by decide) (by decide) cur (by decide)
    (fun write => absurd write (by decide)) (by decide)
  rw [exec_laneFrameDeliver_head rfl (by decide) (by decide)] at runs
  cases runs
  have furs := State.furs_deliver_syn (s := State.mixedLanes.setMs { State.mixedLanes.ms with arrivals := [] }) (fr := Frame.synOfLane0)
    rfl (by decide) (by decide) (by decide) (by decide) cur (by decide) (by decide) (by decide) 0
  have stays : Xfer.ofLane0 ∈ ((State.mixedLanes.dropRow Frame.writeOfLane1).fur (furOf (frameFur Frame.writeOfLane1))).xfers := by
    rw [State.xfers_dropRow]
    decide
  rw [State.fur, furs] at gone
  exact gone Xfer.ofLane0 stays 0 rfl rfl

end Sys2Proof.Machine
end

section
/-! PROOFS. Fence signals, fence waits and SIGNAL_SET (R276 to R281, R287). -/
namespace Sys2Proof.Machine

/-! ### The read of a fence -/

section
variable {s : State} {l : Loc} {n : Nat} {out : ReadOutcome}

/-- Where the memory shows no error, the environment's word decides. -/
theorem State.readAnswer_clean (clean : (s.memRead l n).2 = .good) : s.readAnswer l n out = ((s.memRead l n).1, out) := by
  simp [State.readAnswer, clean]

theorem State.readAnswer_error (error : (s.memRead l n).2 ≠ .good) : s.readAnswer l n out = s.memRead l n := by
  unfold State.readAnswer
  dsimp only
  split
  · exact absurd ‹_› error
  · rfl

/-- The read fails by the environment's word or by the memory's own. -/
theorem State.readAnswer_fails (fails : out ≠ .good ∨ (s.memRead l n).2 ≠ .good) : (s.readAnswer l n out).2 ≠ .good := by
  by_cases clean : (s.memRead l n).2 = .good
  · rw [State.readAnswer_clean clean]
    exact fails.resolve_right (not_not.mpr clean)
  · rwa [State.readAnswer_error clean]

end

/-! ### The operation of a fence signal (R276) -/

section
variable {s : State} {h off since v : Nat} {source : W16} {from' : Nat} {out : ReadOutcome}

/-- After a good read, the signal's value is stored where it has reached the fence's, and is recorded as regressive where it has not. -/
theorem State.fenceOp_read (clean : (s.memRead ((s.locOf h off).checked since) 8).2 = .good) :
    let l := (s.locOf h off).checked since
    let cur := ofLe (s.memRead l 8).1
    s.fenceOp h off since v source from' .good =
      if reached (w64 v) (w64 cur) then ((s.memWrite l (toLe 8 v) false (hIndex h)).1, (stOk, v, 0))
      else (s.offer 0x0701 source h v (from' + cur % 2 ^ 24), (stOk, cur, 0)) := by
  unfold State.fenceOp
  dsimp only
  rw [State.readAnswer_clean clean]

/-- A read that fails is recorded, and the signal's value is stored without a comparison. -/
theorem State.fenceOp_failed (fails : (s.readAnswer ((s.locOf h off).checked since) 8 out).2 ≠ .good) :
    let l := (s.locOf h off).checked since
    s.fenceOp h off since v source from' out =
      (((s.offer 0x0703 source h off (1 + 16 * failReason (s.readAnswer l 8 out).2)).memWrite l (toLe 8 v) false (hIndex h)).1,
        (stPoisoned, v, 8)) := by
  unfold State.fenceOp
  dsimp only
  split
  · exact absurd ‹_› fails
  · rfl

end

/-! ### FENCE_SIGNAL and FENCE_OPERATION -/

/-- A command asks for the slots of its pieces at the priority of its queue. -/
theorem State.askPieces_of_ne_nil {s : State} {r : CmdRef} {ps : List Piece} (asks : ps ≠ []) : s.askPieces r ps =
    { s with fences := s.fences ++ [⟨r, (s.queue (slotOf r.q)).prio, s.requests, ps⟩], requests := s.requests + 1 } := if_neg asks

/-- A fence in HBM waits for two slots of its stack port; one in host memory for none (R140, R277). -/
theorem State.signalBody_eq (s : State) (p : Packet) (q : QSlot) : s.signalBody p (refOf q p) =
    let l := s.locOf (p.w 2) (p.w 3)
    let b := s.modCmd (refOf q p) (fun c => { c with stage := 2 })
    if l.host then b
    else { b with
      fences := b.fences ++ [⟨refOf q p, (s.queue q).prio, s.requests, List.replicate 2 ⟨l.addr, l.addr + 8, 0, false⟩⟩]
      requests := s.requests + 1 } := by
  have slot : slotOf (refOf q p).q = q := slotOf_val q
  unfold State.signalBody
  dsimp only
  split
  · rfl
  · rw [State.askPieces_of_ne_nil (by simp), slot, State.prio_modCmd]
    rfl

section
variable {q : QSlot} {seq : W32} {out : ReadOutcome} {s : State} {c : Cmd}

/-- A signal that waits for no slot acts on its fence and completes with the operation's results; one to host memory needs AtomicOps (R277). -/
theorem exec_fenceOperation_acts (work : s.atWork q seq 0x0300 = some c) (runs : s.stopped = false)
    (granted : s.fences.any (fun j => j.ref == ⟨q.val, seq⟩) = false) (atomic : (s.locOf (c.w 2) (c.w 3)).host = true → s.build.atomicOp = true) :
    let o := s.fenceOp (c.w 2) (c.w 3) c.since (c.w 4) (srcQueue q) (q.val * 2 ^ 24) out
    exec (.fenceOperation q seq out) s = .next (o.1.finish ⟨q.val, seq⟩ o.2.1 o.2.2.1 o.2.2.2) := by
  have able : ¬ (((s.locOf (c.w 2) (c.w 3)).host && !s.build.atomicOp) = true) := by simpa using atomic
  have waits : ¬ ((s.stopped || s.fences.any (fun j => j.ref == ⟨q.val, seq⟩)) = true) := by simp [runs, granted]
  show execFenceOperation q seq out s = _
  unfold execFenceOperation
  rw [work]
  dsimp only
  rw [if_neg waits, if_neg able]
  rfl

end

/-! ### The reads of a fence watch (R279 to R281) -/

section
variable {s : State} {k : Fin 256}

/-- A good read ends the wait that it satisfies; at the deadline, and once the queue has been drained or frozen, it ends any wait. -/
theorem State.watchRead_good (clean : (s.memRead (s.watchLoc (s.watch k)) 8).2 = .good) (slots : s.stackHeld (s.watchLoc (s.watch k)) 8 = false)
    (final : Bool) :
    let x := s.watch k
    let v := w64 (ofLe (s.memRead (s.watchLoc x) 8).1)
    let seen := s.setWatch k { x with last := v, reads := satInc x.reads }
    s.watchRead k .good final =
      if reached v x.target then seen.endWatch k false else if final || x.ending then seen.endWatch k true else seen := by
  unfold State.watchRead
  dsimp only
  rw [if_neg (ne_true_of_eq_false slots), State.readAnswer_clean clean]

theorem exec_fenceWatchRead_watching (watching : (s.watch k).st = 1) (runs : s.stopped = false) (out : ReadOutcome) :
    exec (.fenceWatchRead k out) s = .next (s.watchRead k out false) := if_pos ⟨watching, by rw [runs]; rfl⟩

theorem exec_fenceWaitDeadline_passed (watching : (s.watch k).st = 1) (runs : s.stopped = false) (timed : (s.watch k).deadline ≠ 0)
    (passed : reached s.time (s.watch k).deadline = true) (out : ReadOutcome) :
    exec (.fenceWaitDeadline k out) s = .next (s.watchRead k out true) := if_pos ⟨watching, timed, passed, by rw [runs]; rfl⟩

end

/-- A FENCE_WAIT reads its fence from the lowest FREE slot. -/
theorem State.waitBody_takes {s : State} {j : Fin 256} (free : s.freeSlot = some j) (p : Packet) (r : CmdRef) : s.waitBody p r =
    (((s.modCmd r (fun c => { c with stage := 2 })).setWatch j
      { st := 1, ref := r, timedOut := false, handle := BitVec.ofNat 32 (p.w 2), offset := BitVec.ofNat 44 (p.w 3), target := w64 (p.w 4),
        last := 0, deadline := if p.w 5 = 0 then 0 else s.time + BitVec.ofNat 64 (1000 * p.w 5), reads := 0, failed := 0,
        order := s.accepted, ending := false, since := s.erasures }).watchRead j (s.freeOutcome (s.locOf (p.w 2) (p.w 3))) false).bumpFree := by
  unfold State.waitBody State.waitRead
  rw [free]

/-! ### The statements -/

/-- Settles O35: each accepted command does its body, and each operation or read follows the value that the fence holds. -/
theorem fenceCommands : Obligations.FenceCommands := by
  unfold Obligations.FenceCommands
  intro q seq k s p r takes
  refine ⟨?signal, fun c work runs granted => ?operation, fun j free => ?wait, fun watching runs => ?watch, ?set⟩
  case signal => exact accepts_of_body rfl (State.signalBody_eq _ p q)
  case operation =>
    intro l cur atomic clean
    rw [exec_fenceOperation_acts work runs granted atomic, State.fenceOp_read clean]
    split <;> rfl
  case wait => exact accepts_of_body rfl (State.waitBody_takes free p (refOf q p))
  case watch =>
    intro x l v seen clean slots
    refine ⟨fun satisfied => ?satisfied, fun short => ?short, fun timed passed => ?deadline⟩
    case satisfied =>
      rw [exec_fenceWatchRead_watching watching runs, State.watchRead_good clean slots]
      exact congrArg _ (if_pos satisfied)
    case short =>
      rw [exec_fenceWatchRead_watching watching runs, State.watchRead_good clean slots]
      exact congrArg _ (if_neg (ne_true_of_eq_false short))
    case deadline =>
      rw [exec_fenceWaitDeadline_passed watching runs timed passed, State.watchRead_good clean slots]
      refine congrArg _ ?_
      cases answer : reached v x.target with
      | true => exact if_pos answer
      | false => exact if_neg (ne_true_of_eq_false answer)
  case set => exact accepts_of_body rfl rfl

/-- Settles O60: the command acts as the operation of R276 does, after a good read by the comparison and after a failed one without it. -/
theorem fenceSignal : Obligations.FenceSignal := by
  unfold Obligations.FenceSignal
  intro q seq out s c l v cur stored work runs granted atomic
  refine ⟨fun good clean => ⟨fun satisfied => ?_, fun regressive => ⟨q.val * 2 ^ 24 + cur % 2 ^ 24, ?_⟩⟩,
    fun fails => ⟨1 + 16 * failReason (s.readAnswer l 8 out).2, ?_⟩⟩
  · rw [exec_fenceOperation_acts work runs granted atomic, good, State.fenceOp_read clean]
    rw [if_pos satisfied]
    rfl
  · rw [exec_fenceOperation_acts work runs granted atomic, good, State.fenceOp_read clean]
    rw [if_neg (ne_true_of_eq_false regressive)]
    rfl
  · rw [exec_fenceOperation_acts work runs granted atomic, State.fenceOp_failed (State.readAnswer_fails fails)]
    rfl

end Sys2Proof.Machine
end

section
/-! PROOFS. The changes of other furrows that reach the signal counters of one (R283, R285, R286). -/
namespace Sys2Proof.Machine

/-! ### The changes that leave now (R285) -/

section
variable (s : State) (f : Fur)

/-- The changes to counters of furrow `f`, with those that leave now marked so. -/
def State.leaving : List Change :=
  (s.fur f).changes.map (fun c => if c.left = none ∧ s.hasLeft c = true then { c with left := some s.time } else c)

theorem State.leaveChanges_eq : s.leaveChanges f = s.setFur f { s.fur f with changes := s.leaving f } := by
  have mark : s.leaving f = (s.fur f).changes.map
      (fun c => if c.left.isNone && s.hasLeft c then { c with left := some s.time } else c) := by
    simp [State.leaving]
  unfold State.leaveChanges
  split
  · next empty =>
    have same : s.leaving f = (s.fur f).changes := by rw [mark, empty]; rfl
    rw [same]
    exact (s.setFur_fur f).symm
  · rw [mark]
    rfl

end

/-! ### Those that take effect and those that wait (R285) -/

/-- Changes of two domains, or to two counters: neither waits for the other. -/
def Change.apart (e c : Change) : Bool := e.src != c.src || e.ctr != c.ctr

theorem Change.apart_self (c : Change) : c.apart c = false := by simp [Change.apart]

/-- Changes that are not apart are apart from the same changes. -/
theorem Change.apart_congr {e c : Change} (same : e.apart c = false) (g : Change) : e.apart g = c.apart g := by
  obtain ⟨src, ctr⟩ : e.src = c.src ∧ e.ctr = c.ctr := by simpa [Change.apart] using same
  simp [Change.apart, src, ctr]

/-- A change that left its furrow at least 2 ns before. -/
def State.ripe (s : State) (c : Change) : Bool := c.left.any (fun t => decide (2 ≤ s.since t))

/-- Change `p.1`, at place `p.2` among `cs`, takes effect: it is ripe, and every earlier one of its domain to its counter is too. -/
def State.arrives (s : State) (cs : List Change) (p : Change × Nat) : Bool :=
  (cs.take (p.2 + 1)).all (fun e => e.apart p.1 || s.ripe e)

section
variable {s : State}

/-- The head of what is left arrives by what stands before it and by itself. -/
theorem State.arrives_head (pre : List Change) (c : Change) (rest : List Change) : s.arrives (pre ++ c :: rest) (c, pre.length) =
    (pre.all (fun e => e.apart c || s.ripe e) && s.ripe c) := by
  have upTo : (pre ++ c :: rest).take (pre.length + 1) = pre ++ [c] := by simp [List.take_append]
  simp [State.arrives, upTo, Change.apart_self]

/-- One step of the split: a ripe change that is apart from all kept before it takes effect, and any other is kept. -/
theorem State.splitChanges_cons (kept : List Change) (c : Change) (rest : List Change) : s.splitChanges kept (c :: rest) =
    if s.ripe c && kept.all (fun e => e.apart c) then (c :: (s.splitChanges kept rest).1, (s.splitChanges kept rest).2)
    else s.splitChanges (kept ++ [c]) rest := by
  cases left : c.left with
  | none => simp [State.splitChanges, State.ripe, left]
  | some t => simp [State.splitChanges, State.ripe, Change.apart, left]

/-- The kept changes stand for all before: a change is apart from each of them where each before it is apart from it or ripe. -/
def State.StandsFor (s : State) (kept pre : List Change) : Prop :=
  ∀ g : Change, kept.all (fun e => e.apart g) = pre.all (fun e => e.apart g || s.ripe e)

theorem State.StandsFor.taken {kept pre : List Change} (stands : s.StandsFor kept pre) {c : Change} (ripe : s.ripe c = true) :
    s.StandsFor kept (pre ++ [c]) := by
  intro g
  simp [stands g, ripe]

theorem State.StandsFor.kept {kept pre : List Change} (stands : s.StandsFor kept pre) {c : Change}
    (waits : (s.ripe c && kept.all (fun e => e.apart c)) = false) : s.StandsFor (kept ++ [c]) (pre ++ [c]) := by
  intro g
  rw [List.all_append, List.all_append, ← stands g]
  cases ripe : s.ripe c with
  | false => simp [ripe]
  | true =>
    -- A ripe change is kept behind one of its own domain and counter, which is apart from `g` only where this one is.
    have behind : kept.all (fun e => e.apart c) = false := by rwa [ripe, Bool.true_and] at waits
    obtain ⟨e, mem, same⟩ := List.all_eq_false.mp behind
    cases differs : c.apart g with
    | true => simp [differs]
    | false =>
      have blocked : kept.all (fun e => e.apart g) = false :=
        List.all_eq_false.mpr ⟨e, mem, by rw [Change.apart_congr (by simpa using same) g, differs]; exact Bool.false_ne_true⟩
      simp [blocked]

/-- The split keeps the order of both parts: of what is left, the changes that arrive take effect, and the others follow those kept. -/
theorem State.splitChanges_eq (rest : List Change) : ∀ kept pre : List Change, s.StandsFor kept pre →
    s.splitChanges kept rest = (((rest.zipIdx pre.length).filter (s.arrives (pre ++ rest))).map Prod.fst,
      kept ++ ((rest.zipIdx pre.length).filter (fun p => !s.arrives (pre ++ rest) p)).map Prod.fst) := by
  induction rest with
  | nil => intro kept pre _; simp [State.splitChanges]
  | cons c rest ih =>
    intro kept pre stands
    have arrives : s.arrives (pre ++ c :: rest) (c, pre.length) = (s.ripe c && kept.all (fun e => e.apart c)) := by
      rw [State.arrives_head, stands c, Bool.and_comm]
    have after := fun kept' (stands' : s.StandsFor kept' (pre ++ [c])) => ih kept' (pre ++ [c]) stands'
    simp only [List.length_append, List.length_singleton, List.append_assoc, List.singleton_append] at after
    rw [State.splitChanges_cons, List.zipIdx_cons, List.filter_cons, List.filter_cons, arrives]
    cases taken : s.ripe c && kept.all (fun e => e.apart c) with
    | true =>
      rw [after kept (stands.taken (Bool.and_eq_true_iff.mp taken).1)]
      simp
    | false =>
      rw [after (kept ++ [c]) (stands.kept taken)]
      simp

theorem State.ripe_leaveChanges (f : Fur) : (s.leaveChanges f).ripe = s.ripe := by rw [State.leaveChanges_eq]; rfl

theorem State.arrives_leaveChanges (f : Fur) (cs : List Change) : (s.leaveChanges f).arrives cs = s.arrives cs := by
  unfold State.arrives
  rw [State.ripe_leaveChanges]

end

/-- Of all changes to counters of furrow `f`: those that take effect now, and those that wait. -/
theorem State.splitChanges_leaveChanges (s : State) (f : Fur) : (s.leaveChanges f).splitChanges [] ((s.leaveChanges f).fur f).changes =
    (((s.leaving f).zipIdx.filter (s.arrives (s.leaving f))).map Prod.fst,
      ((s.leaving f).zipIdx.filter (fun p => !s.arrives (s.leaving f) p)).map Prod.fst) := by
  have marked : ((s.leaveChanges f).fur f).changes = s.leaving f := by rw [State.leaveChanges_eq, State.fur_setFur]
  rw [marked, State.splitChanges_eq _ [] [] (fun _ => rfl), State.arrives_leaveChanges]
  rfl

/-! ### Their effect on the counters (R283, R286) -/

/-- The changes act on the furrow's counters one after another. -/
def Furrow.changeAll (x : Furrow) (cs : List Change) : Furrow := cs.foldl (fun x c => x.changeCounter c.ctr c.op c.v) x

/-- They leave all but the counters. -/
theorem Furrow.changeAll_changes (cs : List Change) : ∀ x : Furrow, ∃ t, x.changeAll cs = { x with counters := t } := by
  induction cs with
  | nil => exact fun x => ⟨x.counters, rfl⟩
  | cons c cs ih =>
    intro x
    obtain ⟨t, e⟩ := ih (x.changeCounter c.ctr c.op c.v)
    exact ⟨t, e⟩

/-- Each counter sees its own changes alone, each acting on what the one before left. -/
theorem Furrow.counter_changeAll (j : Nat) (cs : List Change) : ∀ {x : Furrow}, twf 0 x.counters = true →
    tget 0 (x.changeAll cs).counters j = (cs.filter (fun c => c.ctr == j)).foldl (fun v c => counterOp c.op c.v v) (tget 0 x.counters j) := by
  induction cs with
  | nil => exact fun _ => rfl
  | cons c cs ih =>
    intro x wf
    have rise : keysRise none x.counters = true := ((twf_iff _ _).mp wf).1
    have rest := ih (x := x.changeCounter c.ctr c.op c.v) (twf_tset 0 _ _ _ wf)
    refine rest.trans ?_
    by_cases own : c.ctr = j
    · subst own
      rw [List.filter_cons_of_pos (by simp), List.foldl_cons]
      exact congrArg (List.foldl _ · _) (tget_tset_self _ _ _ _ rise)
    · rw [List.filter_cons_of_neg (by simpa using own)]
      exact congrArg (List.foldl _ · _) (tget_tset_of_ne _ _ _ (Ne.symm own) rise)

/-- SIGNAL_ARRIVE of a running block: what arrives acts in ascending furrow and domain, and the rest waits in its order. -/
theorem exec_signalArrive_runs {s : State} (runs : s.stopped = false) (f : Fur) :
    let effects := ((s.leaving f).zipIdx.filter (s.arrives (s.leaving f))).map Prod.fst
    exec (.signalArrive f) s = .next (s.setFur f (Furrow.changeAll
      { s.fur f with changes := ((s.leaving f).zipIdx.filter (fun p => !s.arrives (s.leaving f) p)).map Prod.fst }
      ((List.range 32).flatMap (fun n => effects.filter (fun c => c.src == n))))) := by
  show execSignalArrive f s = _
  unfold execSignalArrive
  dsimp only
  rw [if_neg (ne_true_of_eq_false runs), State.splitChanges_leaveChanges, State.leaveChanges_eq, State.modFur, State.fur_setFur,
    State.setFur_setFur]
  rfl

/-- Settles O36: the furrow after SIGNAL_ARRIVE has the changes that wait, and its counters as the changes that arrive leave them. -/
theorem counterChanges : Obligations.CounterChanges := by
  unfold Obligations.CounterChanges
  intro f s x cs ripe takes effects ordered change runs _ wf
  let waiting : Furrow := { x with changes := (cs.zipIdx.filter (fun p => !takes p)).map Prod.fst }
  have after : (s.setFur f (waiting.changeAll ordered)).fur f = waiting.changeAll ordered := s.fur_setFur f _
  obtain ⟨counters, only⟩ := Furrow.changeAll_changes ordered waiting
  refine ⟨s.setFur f (waiting.changeAll ordered), exec_signalArrive_runs runs f, ?_, fun j => ?_, ?_, ?_, fun g other => ?_⟩
  · rw [after, only]
  · rw [after]
    exact Furrow.counter_changeAll j ordered (x := waiting) wf
  · rw [after, only]
  · rw [after, only]
  · exact State.fur_setFur_ne s other _

end Sys2Proof.Machine
end

section
/-! PROOFS. The states of a mesh port (R298, R299). -/
namespace Sys2Proof.Machine

/-! ### What a change of a port can change -/

section
variable (s : State) (p : PortNo)

/-- A change of state changes its port, and its event the gleaner. -/
theorem State.portTo_changes (st : PortState) (cause : Nat) :
    ∃ g, s.portTo p st cause = { s.setPort p { s.port p with st := st, since := s.time } with gl := g } := by
  obtain ⟨g, e⟩ := (s.setPort p { s.port p with st := st, since := s.time }).offer_changes 0x0801 (srcOf 6 p.val) p.val
    (at' (portCode (s.port p).st) 4 + portCode st) cause
  exact ⟨g, e⟩

/-- A port whose training begins. -/
def Port.trains (x : Port) (now : W64) : Port := { x with st := .training, since := now, txSeq := 0, rxSeq := 0 }

theorem State.startTraining_changes (cause : Nat) : ∃ g, s.startTraining p cause = { s.setPort p ((s.port p).trains s.time) with gl := g } := by
  obtain ⟨g, e⟩ := s.portTo_changes p .training cause
  refine ⟨g, ?_⟩
  unfold State.startTraining
  dsimp only
  rw [e]
  show ({ (s.setPort p _).setPort p { (s.setPort p _).port p with txSeq := 0, rxSeq := 0 } with gl := g } : State) = _
  rw [State.setPort_setPort, State.port_setPort]
  rfl

/-- A port without what `State.dropBuffers` discards. -/
def Port.emptied (x : Port) : Port :=
  { x with
    replay := [], resend := 0, asked := false, askDue := false, ingress := [], ctl := [], credits := 0
    lastHello := none, lastLink := none }

/-- The mesh without the frames that arrived on port `p` and have not left the device or been processed. -/
def Mesh.without (m : Mesh) (p : PortNo) : Mesh :=
  { m with
    transit := m.transit.filter (fun t => t.port != p.val)
    arrivals := m.arrivals.filter (fun (a : Frame × Nat) => a.2 != p.val) }

theorem State.dropBuffers_eq : s.dropBuffers p = (s.setMs (s.ms.without p)).setPort p (s.port p).emptied := rfl

/-- A port that leaves its state with its buffers discarded. -/
theorem State.portTo_dropBuffers (st : PortState) (cause : Nat) : ∃ g, (s.dropBuffers p).portTo p st cause =
    { (s.setMs (s.ms.without p)).setPort p { (s.port p).emptied with st := st, since := s.time } with gl := g } := by
  obtain ⟨g, e⟩ := (s.dropBuffers p).portTo_changes p st cause
  refine ⟨g, e.trans ?_⟩
  rw [State.dropBuffers_eq, State.setPort_setPort, State.port_setPort]
  rfl

variable {s p}

/-- A command that leaves the mesh at `m` with port `p` at `y`: other ports, furrows and queues are as before. -/
theorem exec_becomes {c : Instr} {m : Mesh} {y : Port} {g : Gleaner} {n : Nat}
    (run : exec c s = .next { (s.setMs m).setPort p y with gl := g, free := n }) (ports : m.ports = s.ms.ports) :
    ∃ t, exec c s = .next t ∧ (t.port p = y ∧ t.ms = { m with ports := m.ports.set p y }) ∧
      (∀ p' : PortNo, p' ≠ p → t.port p' = s.port p') ∧ t.furs = s.furs ∧ t.queues = s.queues := by
  refine ⟨_, run, ⟨State.port_setPort (s.setMs m) p y, rfl⟩, fun p' other => ?_, rfl, rfl⟩
  refine (State.port_setPort_ne (s.setMs m) other y).trans ?_
  show m.ports[p'] = s.ms.ports[p']
  rw [ports]

/-! ### Enabling and disabling (R298) -/

theorem exec_meshPortEnable_takes (takes : s.takesWrites) (en : Bool) : exec (.meshPortEnable p en) s = .next (s.portEnable p en) :=
  congrArg Host.Outcome.next (s.hostWrite_of_takes takes _ _ _)

theorem State.portEnable_trains (disabled : (s.port p).st = .disabled) :
    ∃ g, s.portEnable p true = { s.setPort p ({ s.port p with en := true }.trains s.time) with gl := g } := by
  obtain ⟨g, e⟩ := (s.setPort p { s.port p with en := true }).startTraining_changes p 0
  refine ⟨g, ?_⟩
  rw [State.setPort_setPort, State.port_setPort] at e
  simpa [State.portEnable, disabled] using e

theorem State.portEnable_disables (enabled : (s.port p).st ≠ .disabled) : ∃ g, s.portEnable p false =
    { (s.setMs (s.ms.without p)).setPort p { (s.port p).emptied with en := false, st := .disabled, since := s.time, nbrSeen := false } with
      gl := g } := by
  obtain ⟨g, e⟩ := (s.setPort p { s.port p with en := false }).portTo_dropBuffers p .disabled 0
  have emptied : ∀ y : Port, ((s.setPort p { s.port p with en := false }).setMs ((s.setPort p { s.port p with en := false }).ms.without p)).setPort p y =
      (s.setMs (s.ms.without p)).setPort p y := State.setPort_setPort (s.setMs (s.ms.without p)) p _
  rw [emptied, State.port_setPort] at e
  refine ⟨g, ?_⟩
  unfold State.portEnable
  dsimp only
  rw [if_neg Bool.false_ne_true, if_neg enabled, e]
  show ({ (State.setPort _ p _).setPort p { (State.setPort _ p _).port p with nbrSeen := false } with gl := g } : State) = _
  rw [State.setPort_setPort, State.port_setPort]
  rfl

/-! ### The lock of the PCS, DOWN, and the training after it (R298) -/

theorem exec_pcsLock_trained (runs : s.meshRuns = true) (training : (s.port p).st = .training) :
    exec (.pcsLock p) s = .next (s.portTo p .hello 1) := if_pos (by rw [runs, training]; rfl)

theorem exec_linkDown_holds {cause : DownCause} (runs : s.meshRuns = true) (up : (s.port p).st = .up) (holds : s.downHolds p cause = true) :
    exec (.linkDown p cause) s = .next (s.portDown p cause) := if_pos (by rw [runs, up, holds]; rfl)

theorem State.portDown_changes (s : State) (p : PortNo) (cause : DownCause) : ∃ g, s.portDown p cause =
    { (s.setMs { s.ms.without p with sticky := setBit s.ms.sticky 0 true }).setPort p
        { (s.port p).emptied with st := .down, since := s.time } with gl := g } := by
  obtain ⟨g, e⟩ := s.portTo_dropBuffers p .down (downCode cause)
  refine ⟨g, ?_⟩
  unfold State.portDown
  dsimp only
  rw [e]
  rfl

/-- A DOWN port trains again; the cause of its event is a free value (log 2). -/
theorem exec_portRetrain_due (runs : s.meshRuns = true) (down : (s.port p).st = .down) (due : 1000000 ≤ s.since (s.port p).since) :
    ∃ g, exec (.portRetrain p) s = .next { s.setPort p ((s.port p).trains s.time) with gl := g, free := s.free + 1 } := by
  obtain ⟨g, e⟩ := s.startTraining_changes p (Config.freeWord s.free).toNat
  refine ⟨g, (if_pos (by rw [runs, down, decide_eq_true due]; rfl)).trans ?_⟩
  rw [e]
  rfl

/-! ### HELLO (R298, R299) -/

theorem length_toLe (n : Nat) : ∀ x, (toLe n x).length = n := by
  induction n with
  | zero => exact fun _ => rfl
  | succ n ih => exact fun x => congrArg Nat.succ (ih _)

theorem State.bytes_helloFor (s : State) (p : PortNo) : (s.helloFor p).bytes = 48 := by
  simp [State.helloFor, Frame.bytes, length_toLe]

theorem exec_helloSend_due (runs : s.meshRuns = true) (hello : (s.port p).st = .hello)
    (due : (s.port p).lastHello = none ∨ ∃ t0, (s.port p).lastHello = some t0 ∧ 10000 ≤ s.since t0) : exec (.helloSend p) s =
      .next (s.setPort p { s.port p with lastHello := some s.time, wire := some (s.helloFor p), tx := (s.port p).tx + 48 }) := by
  have now : (match (s.port p).lastHello with | none => true | some t => decide (10000 ≤ s.since t)) = true := by
    obtain never | ⟨t0, last, long⟩ := due
    · rw [never]
    · rw [last]
      exact decide_eq_true long
  refine (if_pos (by rw [runs, hello, Bool.true_and]; exact now)).trans (congrArg Host.Outcome.next ?_)
  unfold State.sendPlain
  dsimp only
  rw [State.setPort_setPort, State.port_setPort, State.bytes_helloFor]
  rfl

/-- The port with its neighbour as a HELLO tells it (R299). -/
def Port.meets (x : Port) (fr : Frame) : Port :=
  { x with
    nbrSerial := w64 (ofLe (fr.payload.take 8)), nbrId := BitVec.ofNat 16 (ofLe ((fr.payload.drop 8).take 8))
    nbrValid := ofLe ((fr.payload.drop 8).take 8) / 2 ^ 16 % 2 == 1, nbrSeen := true, nbrPort := BitVec.ofNat 4 (fld fr.h2 0 4) }

section
variable {fr : Frame}

theorem exec_helloFrame_first {rest : List Frame} (first : (s.port p).ctl = fr :: rest) (type : fr.type = 9) (runs : s.meshRuns = true) :
    exec (.helloFrame p) s = .next ((s.setPort p { s.port p with ctl := rest }).hello p fr) := by
  show execHelloFrame p s = _
  simp [execHelloFrame, first, fHello, type, runs, eraseFirst]

/-- The first HELLO takes the port UP. -/
theorem State.hello_first (hello : (s.port p).st = .hello) : s.hello p fr =
    (s.setPort p { (s.port p).meets fr with st := .up, since := s.time }).offer 0x0801 (srcOf 6 p.val) p.val 0x23 4 := by
  simp [State.hello, hello, State.portTo, Port.meets, portCode, at']

theorem State.hello_same (up : (s.port p).st = .up) (same : (s.port p).nbrSerial = w64 (ofLe (fr.payload.take 8))) :
    s.hello p fr = s.setPort p ((s.port p).meets fr) := by
  simp [State.hello, up, same, Port.meets]

/-- Another neighbour is noted, and reported (R299). -/
theorem State.hello_other (up : (s.port p).st = .up) (other : (s.port p).nbrSerial ≠ w64 (ofLe (fr.payload.take 8))) :
    ∃ g, s.hello p fr = { (s.setMs { s.ms with sticky := setBit s.ms.sticky 1 true }).setPort p ((s.port p).meets fr) with gl := g } := by
  obtain ⟨g, e⟩ := State.offer_changes ((s.setMs { s.ms with sticky := setBit s.ms.sticky 1 true }).setPort p ((s.port p).meets fr)) 0x0806
    (srcOf 6 p.val) p.val (s.port p).nbrSerial.toNat (w64 (ofLe (fr.payload.take 8))).toNat
  refine ⟨g, Eq.trans ?_ e⟩
  simp [State.hello, up, other, Port.meets, State.setMs, State.setPort]

end

end

/-! ### The statement -/

/-- Settles O43: each command of a port is its equation, whose only changes are of the port, of the frames that its buffers held, and of records. -/
theorem meshPorts : Obligations.MeshPorts := by
  unfold Obligations.MeshPorts
  intro p cause s x becomes emptied
  refine ⟨fun takes => ⟨fun disabled => ?enable, fun enabled => ?disable⟩, fun runs => ⟨fun training => ?lock, fun up holds => ?down,
    fun down due => ?retrain, fun hello due => exec_helloSend_due runs hello due, fun fr rest first type => ?hello⟩⟩
  case enable =>
    obtain ⟨g, e⟩ := State.portEnable_trains disabled
    obtain ⟨t, run, ⟨port, -⟩, rest⟩ := exec_becomes (m := s.ms) ((exec_meshPortEnable_takes takes true).trans (congrArg _ e)) rfl
    refine ⟨t, run, ?_, rest⟩
    rw [port]
    exact ⟨rfl, rfl, rfl, rfl, rfl⟩
  case disable =>
    obtain ⟨g, e⟩ := State.portEnable_disables enabled
    obtain ⟨t, run, ⟨port, mesh⟩, rest⟩ := exec_becomes ((exec_meshPortEnable_takes takes false).trans (congrArg _ e)) rfl
    refine ⟨t, run, ?_, rest⟩
    rw [port, mesh]
    exact ⟨rfl, rfl, rfl, rfl, rfl, rfl, rfl, rfl, rfl⟩
  case lock =>
    rw [exec_pcsLock_trained runs training]
    unfold State.portTo
    dsimp only
    rw [training]
    rfl
  case down =>
    obtain ⟨g, e⟩ := s.portDown_changes p cause
    obtain ⟨t, run, ⟨port, mesh⟩, rest⟩ := exec_becomes ((exec_linkDown_holds runs up holds).trans (congrArg _ e)) rfl
    refine ⟨t, run, ?_, rest⟩
    rw [port, mesh]
    exact ⟨rfl, ⟨rfl, rfl, rfl, rfl, rfl, rfl⟩, bitOf_setBit_true_self (by decide) _⟩
  case retrain =>
    obtain ⟨g, e⟩ := exec_portRetrain_due runs down due
    obtain ⟨t, run, ⟨port, -⟩, rest⟩ := exec_becomes (m := s.ms) e rfl
    refine ⟨t, run, ?_, rest⟩
    rw [port]
    exact ⟨rfl, rfl, rfl⟩
  case hello =>
    intro serial y
    have run := exec_helloFrame_first first type runs
    refine ⟨fun hello => ?_, fun up same => ?_, fun up other => ?_⟩
    · rw [run, State.hello_first (by rw [State.port_setPort]; exact hello), State.port_setPort, State.setPort_setPort]
      rfl
    · rw [run, State.hello_same (by rw [State.port_setPort]; exact up) (by rw [State.port_setPort]; exact same), State.port_setPort,
        State.setPort_setPort]
      rfl
    · obtain ⟨g, e⟩ := State.hello_other (s := s.setPort p { x with ctl := rest }) (by rw [State.port_setPort]; exact up)
        (by rw [State.port_setPort]; exact other)
      refine ⟨_, run.trans (congrArg _ e), ?_, bitOf_setBit_true_self (by decide) _⟩
      refine (State.port_setPort _ _ _).trans ?_
      rw [State.port_setPort]
      rfl

end Sys2Proof.Machine
end

section
/-! PROOFS. The link of a port that is UP: frames on the wire, sending, receiving, replay and credits (R293, R294, R296, R297). -/
namespace Sys2Proof.Machine

/-! ### The frame on the wire (R293) -/

section
variable (x : Frame)

/-- The bytes of a frame's header words. -/
def headerBytes (x : Frame) : List Byte := toLe 8 x.h0.toNat ++ (toLe 8 x.h1.toNat ++ toLe 8 x.h2.toNat ++ toLe 8 x.h3.toNat)

theorem length_headerBytes : (headerBytes x).length = 32 := by simp [headerBytes, length_toLe]

theorem Frame.body_eq : x.body = headerBytes x ++ (x.payload ++ List.replicate (60 - x.bytes) 0) := by
  have header : [x.h0, x.h1, x.h2, x.h3].flatMap (fun h => toLe 8 h.toNat) = headerBytes x := by simp [headerBytes]
  unfold Frame.body
  rw [header]
  simp [length_headerBytes, Frame.bytes]

theorem Frame.length_body : x.body.length = max 60 x.bytes := by
  simp only [Frame.body_eq, List.length_append, length_headerBytes, List.length_replicate, Frame.bytes]
  omega

/-- Preamble and start-of-frame delimiter take 8 bytes. -/
theorem Frame.drop_onWire (n : Nat) : x.onWire.drop (8 + n) = (x.body ++ toLe 4 (fcs x.body).toNat).drop n := by
  have split : x.onWire = (List.replicate 7 0x55 ++ [0xD5]) ++ (x.body ++ toLe 4 (fcs x.body).toNat) := List.append_assoc _ _ _
  rw [split, ← List.drop_drop]
  rfl

theorem Frame.length_onWire : x.onWire.length = 8 + max 64 (x.bytes + 4) := by
  simp only [Frame.onWire, List.length_append, List.length_replicate, List.length_singleton, Frame.length_body, length_toLe]
  omega

theorem Frame.h0_onWire : (x.onWire.drop 8).take 8 = toLe 8 x.h0.toNat := by
  rw [Frame.drop_onWire x 0, Frame.body_eq]
  simp only [headerBytes, List.drop_zero, List.append_assoc]
  exact List.take_left' (length_toLe 8 _)

theorem Frame.payload_onWire : (x.onWire.drop 40).take x.payload.length = x.payload := by
  rw [Frame.drop_onWire x 32, Frame.body_eq, List.append_assoc, List.drop_left' (length_headerBytes x), List.append_assoc]
  exact List.take_left' rfl

end

section
variable {s : State} {p : PortNo}

/-! ### Sending (R296, R297) -/

/-- The port once a Seq frame has been numbered, kept for replay and sent. -/
def Port.sends (x : Port) (g : Frame) (now : W64) : Port :=
  { x with
    wire := some (g.withLinkSeq x.txSeq), tx := x.tx + BitVec.ofNat 64 (g.withLinkSeq x.txSeq).bytes, txSeq := x.txSeq + 1
    credits := x.credits - 1, replay := x.replay ++ [⟨g.withLinkSeq x.txSeq, 0⟩]
    lastLink := if x.replay = [] then some now else x.lastLink }

theorem State.sendSeq_setPort (s : State) (p : PortNo) (y : Port) (g : Frame) : (s.setPort p y).sendSeq p g = s.setPort p (y.sends g s.time) := by
  unfold State.sendSeq
  dsimp only
  rw [State.setPort_setPort, State.port_setPort]
  rfl

theorem exec_linkSend_up (runs : s.meshRuns = true) (up : (s.port p).st = .up) :
    exec (.linkSend p) s = .next (s.sendPlain p (s.linkFor p false)) := if_pos (by rw [runs, up]; rfl)

theorem exec_portTransmit_up (runs : s.meshRuns = true) (up : (s.port p).st = .up) : exec (.portTransmit p) s = .next (s.transmit p) :=
  if_pos (by rw [runs, up]; rfl)

/-- A replay request goes before all else. -/
theorem State.transmit_asks (asks : (s.port p).askDue = true) : s.transmit p =
    s.setPort p { s.port p with askDue := false, wire := some (s.linkFor p true), tx := (s.port p).tx + 32 } := by
  unfold State.transmit
  dsimp only
  rw [if_pos asks]
  unfold State.sendPlain
  dsimp only
  rw [State.setPort_setPort, State.port_setPort]
  rfl

section
variable (quiet : (s.port p).askDue = false)
include quiet

theorem State.transmit_noCredit (none : (s.port p).credits = 0) : s.transmit p = s := by simp [State.transmit, quiet, none]

variable (credit : (s.port p).credits ≠ 0)
include credit

theorem State.transmit_replays {r : Replay} (asked : (s.port p).resend ≠ 0)
    (next : (s.port p).replay[(s.port p).replay.length - (s.port p).resend]? = some r) : s.transmit p =
    s.setPort p { s.port p with
      wire := some r.frame, tx := (s.port p).tx + BitVec.ofNat 64 r.frame.bytes, resend := (s.port p).resend - 1
      credits := (s.port p).credits - 1, replays := (s.port p).replays + 1
      replay := lset (s.port p).replay ((s.port p).replay.length - (s.port p).resend) { r with times := r.times + 1 } } := by
  simp [State.transmit, quiet, credit, asked, State.sendReplay, next]

variable (sent : (s.port p).resend = 0) (room : (s.port p).replay.length < 128)
include sent room

/-- With nothing to replay, and room to keep a frame, MGMT frames go first. -/
theorem State.transmit_mgmt {g : Frame} {rest : List Frame} (first : (s.port p).mgmtOut = g :: rest) :
    s.transmit p = s.setPort p ({ s.port p with mgmtOut := rest }.sends g s.time) := by
  rw [← State.sendSeq_setPort]
  simp [State.transmit, quiet, credit, sent, Nat.not_le.mpr room, first]

variable (noMgmt : (s.port p).mgmtOut = [])
include noMgmt

theorem State.transmit_transit {t : Transit} (waits : s.transitFor p.val = some t) : s.transmit p =
    (s.setMs { s.ms with transit := eraseFirst (fun u => u == t) s.ms.transit }).setPort p ((s.port p).sends t.frame s.time) := by
  simp only [State.transmit, quiet, credit, sent, Nat.not_le.mpr room, noMgmt, waits]
  rfl

theorem State.transmit_own {o : Frame × Mesh × Nat} (noTransit : s.transitFor p.val = none)
    (own : s.ownFrame p.val (s.port p).rr = some o) :
    s.transmit p = (s.setMs o.2.1).setPort p ({ s.port p with rr := o.2.2 }.sends o.1 s.time) := by
  refine Eq.trans ?_ (State.sendSeq_setPort (s.setMs o.2.1) p _ o.1)
  simp [State.transmit, quiet, credit, sent, Nat.not_le.mpr room, noMgmt, noTransit, own]

end

/-! ### Receiving (R296, R304) -/

section
variable {fr : Frame} {good : Bool}

/-- A frame dropped on a port: MS_DROPS, MS_STICKY.DROPPED and the event (R304). -/
theorem State.dropFrame_port (s : State) (p : PortNo) (reason : Nat) (fr : Frame) : s.dropFrame p.val reason fr =
    (s.setMs { s.ms with drops := s.ms.drops + 1, sticky := setBit s.ms.sticky 4 true }).offer 0x0805 (srcOf 6 p.val) p.val reason
      (fr.src * 2 ^ 16 + fr.dest) := by
  unfold State.dropFrame
  rw [if_pos p.isLt]
  rfl

theorem exec_meshFrameReceive_up (runs : s.meshRuns = true) (up : (s.port p).st = .up) :
    exec (.meshFrameReceive p good fr) s = .next (s.receiveUp p good fr) := by
  show execMeshFrameReceive p good fr s = _
  simp [execMeshFrameReceive, runs, up]

theorem Frame.isSeq_not_control (seq : fr.isSeq = true) : ¬ (fr.type = fLink ∨ fr.type = fHello) := by
  rintro (link | hello)
  · simp [Frame.isSeq, Frame.isLane, Frame.isData, link, fLink, fWrite, fFsig, fCsig, fAck, fNak, fMgmt] at seq
  · simp [Frame.isSeq, Frame.isLane, Frame.isData, hello, fHello, fWrite, fFsig, fCsig, fAck, fNak, fMgmt] at seq

theorem State.receiveUp_control_bad (control : fr.type = fLink ∨ fr.type = fHello) (bad : fr.headerOk = false) :
    s.receiveUp p true fr = s.dropFrame p.val 4 fr := by
  unfold State.receiveUp
  dsimp only
  rw [if_pos control, if_neg (by decide), if_pos (by rw [bad]; rfl)]

theorem exec_meshFrameReceive_hello_bad (runs : s.meshRuns = true) (hello : (s.port p).st = .hello) (type : fr.type = 9)
    (bad : fr.headerOk = false) : exec (.meshFrameReceive p true fr) s = .next (s.dropFrame p.val 4 fr) := by
  show execMeshFrameReceive p true fr s = _
  simp [execMeshFrameReceive, runs, hello, type, fHello, bad]

theorem State.receiveUp_control (control : fr.type = fLink ∨ fr.type = fHello) (ok : fr.headerOk = true) : s.receiveUp p true fr =
    s.setPort p { s.port p with ctl := (s.port p).ctl ++ [fr], rx := (s.port p).rx + BitVec.ofNat 64 fr.bytes } := by
  unfold State.receiveUp
  dsimp only
  rw [if_pos control, if_neg (by decide), if_neg (by rw [ok]; decide)]

section
variable (seq : fr.isSeq = true)
include seq

/-- The Seq frame expected, with room for it, is taken. -/
theorem State.receiveUp_taken (ok : fr.headerOk = true) (next : fr.linkSeq = (s.port p).rxSeq) (room : s.occupancy p < 32) :
    s.receiveUp p true fr = s.setPort p { s.port p with
      rxSeq := (s.port p).rxSeq + 1, asked := false, askDue := false, rx := (s.port p).rx + BitVec.ofNat 64 fr.bytes
      ingress := (s.port p).ingress ++ [fr] } := by
  unfold State.receiveUp
  dsimp only
  rw [if_neg (Frame.isSeq_not_control seq), if_neg (by decide), if_neg (by rw [seq]; decide),
    if_neg (not_or.mpr ⟨not_not.mpr next, Nat.not_le.mpr room⟩), if_pos ok, if_pos ok]

/-- Any other Seq frame is discarded. -/
theorem State.receiveUp_discarded (unfit : good = false ∨ fr.linkSeq ≠ (s.port p).rxSeq ∨ 32 ≤ s.occupancy p) :
    s.receiveUp p good fr = s.setPort p (s.port p).discard := by
  unfold State.receiveUp
  dsimp only
  rw [if_neg (Frame.isSeq_not_control seq)]
  cases good with
  | false => exact if_pos rfl
  | true => rw [if_neg (by decide), if_neg (by rw [seq]; decide), if_pos (unfit.resolve_left (by decide))]

end

/-- The oldest LINK frame received takes effect (R296). -/
theorem exec_linkFrame_first {rest : List Frame} (first : (s.port p).ctl = fr :: rest) (type : fr.type = 8) (runs : s.meshRuns = true) :
    exec (.linkFrame p) s = .next (s.setPort p { (s.port p).link fr s.time with ctl := rest }) := by
  show execLinkFrame p s = _
  simp [execLinkFrame, first, fLink, type, runs, eraseFirst]

/-- The frames that a LINK frame leaves in the replay buffer: from the first that it does not acknowledge. -/
def Port.unacknowledged (x : Port) (fr : Frame) : List Replay :=
  x.replay.dropWhile (fun r => !reached r.frame.linkSeq (BitVec.ofNat 16 (fld fr.h3 0 16)))

theorem Port.link_replay {x : Port} (asks : bitOf fr.h3 32 = true) (now : W64) : x.link fr now =
    { x with resend := (x.unacknowledged fr).length, credits := min 32 (fld fr.h3 16 16), lastLink := some now } := if_pos asks

theorem Port.link_frees {x : Port} (noReplay : bitOf fr.h3 32 = false) (sent : x.resend = 0) (now : W64) : x.link fr now =
    { x with
      replay := x.unacknowledged fr, credits := min 32 (fld fr.h3 16 16) - (x.unacknowledged fr).length, lastLink := some now } := by
  refine (if_neg (ne_true_of_eq_false noReplay)).trans ?_
  rw [sent, Nat.zero_min, Nat.sub_zero]
  rfl

end

end

/-! ### The statement -/

/-- Settles O44: each command of a link is its equation under the clause's conditions, and a frame on the wire is its parts one after another. -/
theorem meshLinks : Obligations.MeshLinks := by
  unfold Obligations.MeshLinks
  intro p fr good s x sent link
  refine ⟨fun g => ⟨Frame.length_onWire g, Frame.h0_onWire g, Frame.payload_onWire g⟩, fun runs st control bad => ?bad, fun runs up => ⟨?send, fun asks => ?ask,
    fun quiet none => ?noCredit, fun quiet credit => ⟨fun r asked next => ?replay, fun sent room => ⟨fun g rest first => ?mgmt,
      fun t noMgmt waits => ?transit, fun o noMgmt noTransit own => ?own⟩⟩, fun ok header => ⟨fun control => ?control, fun seq next room => ?taken⟩,
    fun seq unfit => ?discarded, fun g rest first type => ⟨fun asks => ?linkReplay, fun noReplay sent => ?linkFrees⟩⟩⟩
  case bad =>
    rw [← State.dropFrame_port]
    obtain up | ⟨hello, type⟩ := st
    · rw [exec_meshFrameReceive_up runs up, State.receiveUp_control_bad control bad]
    · exact exec_meshFrameReceive_hello_bad runs hello type bad
  case send => exact exec_linkSend_up runs up
  case ask => rw [exec_portTransmit_up runs up, State.transmit_asks asks]; rfl
  case noCredit => rw [exec_portTransmit_up runs up, State.transmit_noCredit quiet none]
  case replay => rw [exec_portTransmit_up runs up, State.transmit_replays quiet credit asked next]
  case mgmt => rw [exec_portTransmit_up runs up, State.transmit_mgmt quiet credit sent room first]; rfl
  case transit => rw [exec_portTransmit_up runs up, State.transmit_transit quiet credit sent room noMgmt waits]; rfl
  case own => rw [exec_portTransmit_up runs up, State.transmit_own quiet credit sent room noMgmt noTransit own]; rfl
  case control => rw [exec_meshFrameReceive_up runs up, ok, State.receiveUp_control control header]
  case taken => rw [exec_meshFrameReceive_up runs up, ok, State.receiveUp_taken seq header next room]
  case discarded => rw [exec_meshFrameReceive_up runs up, State.receiveUp_discarded seq unfit]; rfl
  case linkReplay => rw [exec_linkFrame_first first type runs, Port.link_replay asks]; rfl
  case linkFrees => rw [exec_linkFrame_first first type runs, Port.link_frees noReplay sent]; rfl

end Sys2Proof.Machine
end

section
/-! PROOFS. The way of a Lane frame through the device: delivery, forwarding, drops and the loopback (R300, R303, R304). -/
namespace Sys2Proof.Machine

/-- The first element of a list, where it passes the test, is the one found. -/
theorem eraseFirst_head {α : Type} [BEq α] [LawfulBEq α] (a : α) (rest : List α) : eraseFirst (fun b => b == a) (a :: rest) = rest := by
  simp [eraseFirst]

section
variable {s : State} {p : PortNo}

theorem portOf_val (p : PortNo) : portOf p.val = p := Fin.ofNat_val_eq_self p

/-- A frame for the device itself goes round the loopback (R303). -/
theorem State.routeOf_own (s : State) : s.routeOf s.ms.id.toNat = some 16 := if_pos rfl

/-! ### A Lane frame that has arrived (R303) -/

section
variable {fr : Frame}

theorem exec_frameForward_first {rest : List Frame} (runs : s.meshRuns = true) (first : (s.port p).ingress = fr :: rest)
    (lane : fr.isLane = true) :
    exec (.frameForward p.castSucc) s = .next ((s.setPort p { s.port p with ingress := rest }).forward p fr) := by
  have port : p.castSucc.val ≠ 16 := Nat.ne_of_lt p.isLt
  show execFrameForward p.castSucc s = _
  unfold execFrameForward
  dsimp only
  rw [if_neg (by rw [runs]; decide), if_neg port, Fin.val_castSucc, portOf_val, first, List.find?_cons_of_pos lane]
  dsimp only
  rw [eraseFirst_head]

theorem State.forward_invalid (invalid : s.ms.valid = false) : s.forward p fr = s.dropFrame p.val 6 fr := if_pos (by rw [invalid]; rfl)

variable (valid : s.ms.valid = true)
include valid

theorem State.forward_delivers (own : fr.dest = s.ms.id.toNat) :
    s.forward p fr = s.setMs { s.ms with arrivals := s.ms.arrivals ++ [(fr, p.val)] } := by
  simp [State.forward, valid, own]

variable (other : fr.dest ≠ s.ms.id.toNat)
include other

theorem State.forward_lastHop (last : fr.hops = 0) : s.forward p fr = s.dropFrame p.val 1 fr := by
  simp [State.forward, valid, other, last]

theorem State.forward_transit (more : fr.hops ≠ 0) : s.forward p fr =
    s.setMs { s.ms with transit := s.ms.transit ++ [⟨fr.withHops (fr.hops - 1), p.val, none, none⟩] } := by
  simp [State.forward, valid, other, more]

end

/-! ### The loopback (R303) -/

/-- While MS_ID.VALID is 0 no frame in transit has a way (R300). -/
theorem State.transitFor_invalid (invalid : s.ms.valid = false) (n : Nat) : s.transitFor n = none :=
  if_neg (ne_true_of_eq_false invalid)

theorem State.transitFor_empty (empty : s.ms.transit = []) (n : Nat) : s.transitFor n = none := by
  simp [State.transitFor, empty]

theorem State.transitFor_own {w : Transit} {rest : List Transit} (valid : s.ms.valid = true) (first : s.ms.transit = w :: rest)
    (own : w.frame.dest = s.ms.id.toNat) : s.transitFor 16 = some w := by
  simp [State.transitFor, valid, first, own, State.routeOf_own]

theorem State.ownFrame_invalid (invalid : s.ms.valid = false) (q pos : Nat) : s.ownFrame q pos = none := if_pos (by rw [invalid]; rfl)

section
variable (runs : s.meshRuns = true)
include runs

/-- A frame in transit for the device goes round the loopback first. -/
theorem exec_frameForward_transit {w : Transit} {rest : List Transit} (valid : s.ms.valid = true) (first : s.ms.transit = w :: rest)
    (own : w.frame.dest = s.ms.id.toNat) : exec (.frameForward (Fin.last 16)) s =
      .next (s.setMs { s.ms with transit := rest, arrivals := s.ms.arrivals ++ [(w.frame, w.port)] }) := by
  show execFrameForward (Fin.last 16) s = _
  unfold execFrameForward
  rw [if_neg (by rw [runs]; decide), if_pos (Fin.val_last 16), State.transitFor_own valid first own]
  dsimp only
  rw [first, eraseFirst_head]

/-- With none in transit for it, what the device sends to itself goes round. -/
theorem exec_frameForward_own {o : Frame × Mesh × Nat} (none : s.transitFor 16 = none) (own : s.ownFrame 16 s.ms.rr = some o) :
    exec (.frameForward (Fin.last 16)) s = .next (s.setMs { o.2.1 with rr := o.2.2, arrivals := o.2.1.arrivals ++ [(o.1, 16)] }) := by
  show execFrameForward (Fin.last 16) s = _
  unfold execFrameForward
  rw [if_neg (by rw [runs]; decide), if_pos (Fin.val_last 16), none, own]

theorem exec_frameForward_idle (none : s.transitFor 16 = none) (noOwn : s.ownFrame 16 s.ms.rr = Option.none) :
    exec (.frameForward (Fin.last 16)) s = .next s := by
  show execFrameForward (Fin.last 16) s = _
  unfold execFrameForward
  rw [if_neg (by rw [runs]; decide), if_pos (Fin.val_last 16), none, noOwn]

end

/-! ### Drops (R300, R304) -/

section
variable {w : Transit} {rest : List Transit}

theorem State.dropReason_invalid (invalid : s.ms.valid = false) : s.dropReason w = some 6 := if_pos (by rw [invalid]; rfl)

theorem State.msPassed_some {t0 : W64} (long : 1000000 ≤ s.since t0) : s.msPassed (some t0) = true := decide_eq_true long

section
variable (valid : s.ms.valid = true)
include valid

theorem State.dropReason_noRoute {t0 : W64} (none : s.routeOf w.frame.dest = none) (since : w.noPort = some t0)
    (long : 1000000 ≤ s.since t0) : s.dropReason w = some 2 := by
  simp [State.dropReason, valid, none, since, State.msPassed_some long]

theorem State.dropReason_noCredit {q : Nat} {t0 : W64} (route : s.routeOf w.frame.dest = some q) (port : q < 16)
    (none : (s.port (portOf q)).credits = 0) (since : w.noCredit = some t0) (long : 1000000 ≤ s.since t0) : s.dropReason w = some 3 := by
  simp [State.dropReason, valid, route, State.noCredit, port, none, since, State.msPassed_some long]

theorem State.dropReason_goes {q : Nat} (route : s.routeOf w.frame.dest = some q) (goes : q = 16 ∨ (s.port (portOf q)).credits ≠ 0) :
    s.dropReason w = none := by
  have credit : s.noCredit w.frame.dest = false := by
    obtain loop | credit := goes
    · simp [State.noCredit, route, loop]
    · simp [State.noCredit, route, credit]
  simp [State.dropReason, valid, route, credit]

end

variable (runs : s.meshRuns = true) (first : s.ms.transit = w :: rest) (port : w.port = p.val)
include runs first port

/-- The oldest frame in transit, where there is a reason to drop it. -/
theorem exec_frameDrop_first {reason : Nat} (why : s.dropReason w = some reason) : exec (.frameDrop p.castSucc) s =
    .next ((s.setMs { s.ms with transit := rest }).dropFrame p.val reason w.frame) := by
  have number : p.castSucc.val ≠ 16 := Nat.ne_of_lt p.isLt
  have found : s.ms.transit.find? (fun t => t.port == p.castSucc.val && (s.dropReason t).isSome) = some w := by
    rw [first]
    exact List.find?_cons_of_pos (by simp [port, why])
  show execFrameDrop p.castSucc s = _
  unfold execFrameDrop
  rw [if_neg (by rw [runs]; decide), if_neg number, found]
  dsimp only
  rw [why, first, eraseFirst_head]
  rfl

omit port in
theorem exec_frameDrop_none (only : rest = []) (why : s.dropReason w = none) : exec (.frameDrop p.castSucc) s = .next s := by
  have number : p.castSucc.val ≠ 16 := Nat.ne_of_lt p.isLt
  have found : s.ms.transit.find? (fun t => t.port == p.castSucc.val && (s.dropReason t).isSome) = none := by simp [first, only, why]
  show execFrameDrop p.castSucc s = _
  unfold execFrameDrop
  rw [if_neg (by rw [runs]; decide), if_neg number, found]

end

/-- An answer of the device that has found no port for 1 ms (R308). -/
theorem exec_frameDrop_answer {a : Frame × Option W64} {rest : List (Frame × Option W64)} {t0 : W64} (runs : s.meshRuns = true)
    (first : s.ms.answers = a :: rest) (since : a.2 = some t0) (long : 1000000 ≤ s.since t0) (none : s.routeOf a.1.dest = none) :
    exec (.frameDrop (Fin.last 16)) s = .next ((s.setMs { s.ms with answers := rest }).dropFrame 16 2 a.1) := by
  have old : s.ownDrop = some (a.1, { s.ms with answers := rest }) := by
    have found : s.ms.answers.find? (fun (a : Frame × Option W64) => (s.routeOf a.1.dest).isNone && s.msPassed a.2) = some a := by
      rw [first]
      exact List.find?_cons_of_pos (by simp [none, since, State.msPassed_some long])
    unfold State.ownDrop
    dsimp only
    rw [found]
    dsimp only
    rw [first, eraseFirst_head]
  show execFrameDrop (Fin.last 16) s = _
  unfold execFrameDrop
  rw [if_neg (by rw [runs]; decide), if_pos (Fin.val_last 16), old]

/-- At a reference cycle each frame in transit notes since when it has had no port, or no credit (log 82). -/
theorem State.noteWaits_transit (s : State) : s.noteWaits.ms.transit = s.ms.transit.map (fun t => { t with
    noPort := s.waitFrom t.noPort (s.routeOf t.frame.dest).isNone, noCredit := s.waitFrom t.noCredit (s.noCredit t.frame.dest) }) := by
  unfold State.noteWaits
  obtain ⟨send, e⟩ := Mesh.foldl_setSend s.ms.send (fun p => { p.2 with
    noPort := s.waitFrom p.2.noPort ((p.2.send s.time).isSome && (s.routeOf (p.1 / 64)).isNone) }) { s.ms with
      transit := s.ms.transit.map (fun t => { t with
        noPort := s.waitFrom t.noPort (s.routeOf t.frame.dest).isNone, noCredit := s.waitFrom t.noCredit (s.noCredit t.frame.dest) })
      answers := s.ms.answers.map (fun (a : Frame × Option W64) => (a.1, s.waitFrom a.2 (s.routeOf a.1.dest).isNone)) }
  exact congrArg Mesh.transit e

end

/-! ### The statement -/

/-- Settles O45: each frame's way is the equation of its command by the frame's destination, hops, route and wait. -/
theorem frameForwarding : Obligations.FrameForwarding := by
  unfold Obligations.FrameForwarding
  intro p s x dropped runs
  refine ⟨fun fr rest first lane => ?arrived, fun w rest valid first own => exec_frameForward_transit runs valid first own,
    fun o empty own => exec_frameForward_own runs (State.transitFor_empty empty 16) own,
    fun w rest first port => ⟨fun invalid => ⟨?dropInvalid, ?forwardInvalid, State.transitFor_invalid invalid⟩,
      fun t0 valid route since long => ?dropNoRoute, fun q t0 valid route q16 none since long => ?dropNoCredit,
      fun q valid only route goes => exec_frameDrop_none runs first only (State.dropReason_goes valid route goes)⟩,
    fun a rest t0 first since long route => exec_frameDrop_answer runs first since long route, fun w rest first => ?notes⟩
  case arrived =>
    intro t c
    have run := exec_frameForward_first runs first lane
    exact ⟨fun invalid => run.trans (congrArg _ (State.forward_invalid invalid)), fun valid =>
      ⟨fun own => run.trans (congrArg _ (State.forward_delivers valid own)),
        fun other last => run.trans (congrArg _ (State.forward_lastHop valid other last)),
        fun other more => run.trans (congrArg _ (State.forward_transit valid other more))⟩⟩
  case dropInvalid => exact exec_frameDrop_first runs first port (State.dropReason_invalid invalid)
  case forwardInvalid => exact exec_frameForward_idle runs (State.transitFor_invalid invalid 16) (State.ownFrame_invalid invalid 16 _)
  case dropNoRoute => exact exec_frameDrop_first runs first port (State.dropReason_noRoute valid route since long)
  case dropNoCredit => exact exec_frameDrop_first runs first port (State.dropReason_noCredit valid route q16 none since long)
  case notes =>
    refine ⟨_, _, (State.noteWaits_transit s).trans (congrArg _ first), rfl, rfl, ?_⟩
    simp only [State.waitFrom, Option.isNone_iff_eq_none]

end Sys2Proof.Machine
end

section
/-! PROOFS. A sender lane: ACK, NAK, resends, failure and reset (R306 to R309, R317). -/
namespace Sys2Proof.Machine

section
variable {s : State} {fr : Frame}

/-! ### An answer that has arrived (R317) -/

theorem State.takeArrival_first {p type : Nat} {rest : List (Frame × Nat)} (first : s.ms.arrivals = (fr, p) :: rest) (named : fr.type = type) :
    s.takeArrival type = some (fr, s.setMs { s.ms with arrivals := rest }) := by
  simp [State.takeArrival, first, named, eraseFirst_head]

section
variable {p : Nat} {rest : List (Frame × Nat)} (first : s.ms.arrivals = (fr, p) :: rest) (runs : s.meshRuns = true)
include first runs

theorem exec_ackFrame_first (ack : fr.type = fAck) : exec .ackFrame s = .next
    (if s.srcFrozen fr then s.setMs { s.ms with arrivals := rest } else (s.setMs { s.ms with arrivals := rest }).ackLane fr) := by
  show execAckFrame s = _
  unfold execAckFrame
  rw [if_neg (by rw [runs]; decide), State.takeArrival_first first ack]

theorem exec_nakFrame_first (nak : fr.type = fNak) : exec .nakFrame s = .next
    (if s.srcFrozen fr then s.setMs { s.ms with arrivals := rest } else (s.setMs { s.ms with arrivals := rest }).nakLane fr) := by
  show execNakFrame s = _
  unfold execNakFrame
  rw [if_neg (by rw [runs]; decide), State.takeArrival_first first nak]

end

/-! ### ACK (R306, R307) -/

/-- The state once the frames before `g` of the lane are free. -/
def State.freed (s : State) (k : Nat) (g : List LaneFrame) : State :=
  s.setMs (s.ms.setSend k { s.ms.sendLane k with unacked := g, synced := true, moved := s.time })

/-- The state once a frame of a command counts as acknowledged: its bytes, and poison where the ACK says so of it. -/
def State.counted (fr : Frame) (s : State) (f : LaneFrame) : State :=
  s.modCmd f.ref (fun c => { c with r0 := c.r0 + f.bytes, bufMark := c.bufMark || (f.frame.lseq == fr.lseq && fld fr.h3 0 16 == stPoisoned) })

/-- One frame of those that an ACK frees. -/
def State.ackedBy (fr : Frame) (s : State) (f : LaneFrame) : State := s.ackOne f (f.frame.lseq == fr.lseq && fld fr.h3 0 16 == stPoisoned)

/-- An ACK frees the run of frames that its LSEQ has reached. -/
theorem State.ackLane_frees {k : Nat} {acked g : List LaneFrame} (key : fr.key = k) (run : (s.ms.sendLane k).unacked = acked ++ g)
    (nonempty : acked ≠ []) (upTo : ∀ f ∈ acked, reached fr.lseq f.frame.lseq = true)
    (beyond : ∀ e, g.head? = some e → reached fr.lseq e.frame.lseq = false) :
    s.ackLane fr = acked.foldl (State.ackedBy fr) (s.freed k g) := by
  subst key
  have none : g.takeWhile (fun f => reached fr.lseq f.frame.lseq) = [] := by
    cases g with
    | nil => rfl
    | cons e g => exact List.takeWhile_cons_of_neg (ne_true_of_eq_false (beyond e rfl))
  have done : (s.ms.sendLane fr.key).unacked.takeWhile (fun f => reached fr.lseq f.frame.lseq) = acked := by
    rw [run, List.takeWhile_append_of_pos upTo, none, List.append_nil]
  have left : (s.ms.sendLane fr.key).unacked.drop acked.length = g := by rw [run, List.drop_left]
  unfold State.ackLane
  dsimp only
  rw [done, if_neg nonempty, left]
  rfl

theorem State.ackedBy_more {f : LaneFrame} (more : f.last = false) (s : State) : State.ackedBy fr s f = State.counted fr s f :=
  if_pos (by rw [more]; rfl)

/-- The last frame of a command completes it with the bytes counted. -/
theorem State.ackedBy_last {f : LaneFrame} {c : Cmd} (last : f.last = true) (found : (State.counted fr s f).cmd? f.ref = some c) :
    State.ackedBy fr s f = State.finish { State.counted fr s f with
      remotes := (State.counted fr s f).remotes.filter (fun j => j.ref != f.ref) } f.ref (if c.bufMark then stPoisoned else stOk) c.r0 0 := by
  have bytes : (State.counted fr s f).ackedBytes f.ref = c.r0 := by
    unfold State.ackedBytes
    rw [found]
  have ended : State.ackedBy fr s f = (State.counted fr s f).endRemote f.ref
      (match (State.counted fr s f).cmd? f.ref with | some c => if c.bufMark then stPoisoned else stOk | none => stOk) :=
    if_neg (by rw [last]; decide)
  rw [ended, found]
  unfold State.endRemote
  rw [bytes]

theorem State.ackedBy_all {acked : List LaneFrame} (more : ∀ f ∈ acked, f.last = false) (s : State) :
    acked.foldl (State.ackedBy fr) s = acked.foldl (State.counted fr) s :=
  List.foldl_ext _ _ s fun u f mem => State.ackedBy_more (more f mem) u

/-! ### What the end of a lane's commands leaves -/

/-- The mesh stays, and of the furrows all but the scoreboards. -/
def State.SameBut (s t : State) : Prop := t.ms = s.ms ∧ sameFurrows s t

theorem State.SameBut.trans {s t u : State} (h : s.SameBut t) (h' : t.SameBut u) : s.SameBut u :=
  ⟨h'.1.trans h.1, h.2.trans h'.2⟩

theorem State.SameBut.foldl {α : Type} {g : State → α → State} (step : ∀ (s : State) (a : α), s.SameBut (g s a)) (l : List α) : ∀ s : State,
    s.SameBut (l.foldl g s) := by
  induction l with
  | nil => exact fun s => ⟨rfl, .of_furs rfl⟩
  | cons a l ih => exact fun s => (step s a).trans (ih (g s a))

theorem State.sameBut_endRemote (s : State) (r : CmdRef) (status : Nat) : s.SameBut (s.endRemote r status) := by
  refine ⟨?_, sameFurrows.trans (.of_furs rfl) (State.finish_sameFurrows _ _ _ _ _)⟩
  obtain ⟨_, _, _, _, _, e⟩ := s.endRemote_changes r status
  rw [e]

theorem State.sameBut_ackedBy (fr : Frame) (s : State) (f : LaneFrame) : s.SameBut (State.ackedBy fr s f) := by
  have counted : s.SameBut (State.counted fr s f) := ⟨rfl, .of_furs rfl⟩
  unfold State.ackedBy State.ackOne
  dsimp only
  split
  · exact counted
  · exact counted.trans (State.sameBut_endRemote _ _ _)

/-! ### NAK (R307 to R309) -/

/-- A lane that has failed: no frame and no command left, and its status noted (R308). -/
def SendLane.fails (x : SendLane) (status : Nat) : SendLane := { x with failed := some status, jobs := [], unacked := [] }

theorem State.faultRecord_sameBut (s : State) (code : Nat) (source : W16) (p0 p1 p2 lev : Nat) :
    s.SameBut (s.faultRecord code source p0 p1 p2 lev) := by
  obtain ⟨m, b, c, g, e⟩ := s.faultRecord_changes code source p0 p1 p2 lev
  rw [e]
  exact ⟨rfl, .of_furs rfl⟩

theorem State.sameBut_endRemotes (ends : List (CmdRef × Nat)) (s : State) : s.SameBut (ends.foldl (fun s e => s.endRemote e.1 e.2) s) :=
  State.SameBut.foldl (g := fun s (e : CmdRef × Nat) => s.endRemote e.1 e.2) (fun s e => s.sameBut_endRemote e.1 e.2) ends s

/-- The failure of a lane changes the lane and MS_STICKY.LANEFAIL; the rest is records and the ends of commands. -/
theorem State.failLane_sameBut (s : State) (k status : Nat) (ends : List (CmdRef × Nat)) :
    State.SameBut (s.setMs { s.ms.setSend k ((s.ms.sendLane k).fails status) with sticky := setBit s.ms.sticky 2 true }) (s.failLane k status ends) := by
  unfold State.failLane
  dsimp only
  exact (State.faultRecord_sameBut _ _ _ _ _ _ _).trans (State.sameBut_endRemotes ends _)

theorem State.failLane_fails {k : Nat} (rise : keysRise none s.ms.send = true) (status : Nat) (ends : List (CmdRef × Nat)) :
    (s.failLane k status ends).ms.sendLane k = (s.ms.sendLane k).fails status ∧ bitOf (s.failLane k status ends).ms.sticky 2 = true ∧
      sameFurrows s (s.failLane k status ends) := by
  obtain ⟨mesh, furs⟩ := s.failLane_sameBut k status ends
  rw [mesh]
  exact ⟨tget_tset_self _ _ _ _ rise, bitOf_setBit_true_self (by decide) _, sameFurrows.trans (t := s.setMs _) (.of_furs rfl) furs⟩

section
variable {k : Nat} (key : fr.key = k) (hit : (s.ms.sendLane k).unacked.any (fun f => f.frame.lseq == fr.lseq) = true)
include key hit

/-- REASON 1 fails the lane. -/
theorem State.nakLane_refused (reason : fld fr.h3 16 8 = 1) :
    s.nakLane fr = s.failLane k (fld fr.h3 0 16) ((s.ms.sendLane k).refused fr.lseq (fld fr.h3 0 16)) := by
  subst key
  simp [State.nakLane, hit, reason]

/-- REASON 2 defers the frame that the NAK names. -/
theorem State.nakLane_busy (reason : fld fr.h3 16 8 = 2) : s.nakLane fr = s.setMs (s.ms.setSend k { s.ms.sendLane k with
    moved := s.time
    unacked := mapFirst (fun f => f.frame.lseq == fr.lseq) (fun f => { f with busyAt := some s.time }) (s.ms.sendLane k).unacked }) := by
  subst key
  simp [State.nakLane, hit, reason]

/-- A frame that is to be sent again. -/
def LaneFrame.again (now : W64) (f : LaneFrame) : LaneFrame := { f with due := true, sentAt := now, busyAt := none }

/-- REASON 3 sends all again. -/
theorem State.nakLane_unknown (reason : fld fr.h3 16 8 = 3) : s.nakLane fr = s.setMs (s.ms.setSend k { s.ms.sendLane k with
    moved := s.time, synced := false, unacked := (s.ms.sendLane k).unacked.map (LaneFrame.again s.time) }) := by
  subst key
  unfold State.nakLane
  dsimp only
  rw [if_neg (by rw [hit]; decide), reason]
  rfl

end

/-! ### Resends, timeouts and resets (R308) -/

section
variable {dest : W16} {lane : BitVec 6} (runs : s.meshRuns = true)
include runs

theorem exec_nakBusyResend_over (passed : (s.ms.sendLane (laneKey dest.toNat lane.toNat)).unacked.any s.busyOver = true) :
    exec (.nakBusyResend dest lane) s = .next (s.setMs (s.ms.setSend (laneKey dest.toNat lane.toNat)
      { s.ms.sendLane (laneKey dest.toNat lane.toNat) with
        unacked := mapFirst s.busyOver (LaneFrame.again s.time) (s.ms.sendLane (laneKey dest.toNat lane.toNat)).unacked })) :=
  if_pos (by rw [passed, runs]; rfl)

theorem exec_laneRetransmit_due {f : LaneFrame} {g : List LaneFrame} (first : (s.ms.sendLane (laneKey dest.toNat lane.toNat)).unacked = f :: g)
    (sent : f.due = false) (kept : f.busyAt = none) (frame : 1000 * s.ms.rto.toNat ≤ s.since f.sentAt)
    (still : 1000 * s.ms.rto.toNat ≤ s.since (s.ms.sendLane (laneKey dest.toNat lane.toNat)).moved) :
    exec (.laneRetransmit dest lane) s =
      .next (s.retransmit (laneKey dest.toNat lane.toNat) (s.ms.sendLane (laneKey dest.toNat lane.toNat)) f) := by
  show execLaneRetransmit dest lane s = _
  simp [execLaneRetransmit, first, runs, sent, kept, frame, still]

end

section
variable {k : Nat} {x : SendLane} {f : LaneFrame}

theorem State.retransmit_again {g : List LaneFrame} (first : x.unacked = f :: g) (more : f.retries < s.ms.retries.toNat) :
    s.retransmit k x f = s.setMs (s.ms.setSend k { x with
      unacked := { f with due := true, sentAt := s.time, retries := f.retries + 1 } :: g }) := by
  refine (if_pos more).trans ?_
  rw [first]
  rfl

theorem State.retransmit_fails (spent : s.ms.retries.toNat ≤ f.retries) : s.retransmit k x f =
    s.failLane k stTimeout (x.unacked.map (fun g => (g.ref, stTimeout)) ++ x.jobs.map (fun j => (j.ref, stTimeout))) :=
  if_neg (Nat.not_lt.mpr spent)

end

section
variable (takes : s.takesWrites)
include takes

theorem exec_resetSenderLane_failed {dest : W16} {lane : BitVec 6}
    (failed : (s.ms.sendLane (laneKey dest.toNat lane.toNat)).failed.isSome = true) : exec (.resetSenderLane dest lane) s =
      .next (s.setMs (s.ms.setSend (laneKey dest.toNat lane.toNat) SendLane.clear)) :=
  congrArg Host.Outcome.next ((s.hostWrite_of_takes takes _ _ _).trans (if_pos failed))

theorem exec_resetSenderLanes_takes (dest : W16) : exec (.resetSenderLanes dest) s = .next (s.resetSenderLanes dest.toNat) :=
  congrArg Host.Outcome.next (s.hostWrite_of_takes takes _ _ _)

end

end

/-! ### The statement -/

/-- Settles O47: each answer, timeout and reset is its equation; what completes with it leaves the mesh, and of the furrows all but scoreboards. -/
theorem laneSender : Obligations.LaneSender := by
  unfold Obligations.LaneSender
  intro dest lane fr s k x again
  refine ⟨fun p rest first runs key frozen => ⟨fun ack => ?ackFrozen, fun nak => ?nakFrozen⟩,
    fun p rest first runs key thawed => ⟨fun ack acked g run nonempty upTo beyond => ?ack, fun nak hit => ?nak⟩,
    fun runs => ⟨fun passed => exec_nakBusyResend_over runs passed, fun f g first sent kept frame still => ?retransmit⟩,
    fun takes => ⟨exec_resetSenderLane_failed takes, exec_resetSenderLanes_takes takes dest⟩⟩
  case ackFrozen => exact (exec_ackFrame_first first runs ack).trans (congrArg _ (if_pos frozen))
  case nakFrozen => exact (exec_nakFrame_first first runs nak).trans (congrArg _ (if_pos frozen))
  case ack =>
    intro freed counted
    have ran : exec .ackFrame s = .next (acked.foldl (State.ackedBy fr) freed) :=
      (exec_ackFrame_first first runs ack).trans (congrArg _ ((if_neg (ne_true_of_eq_false thawed)).trans
        (State.ackLane_frees (s := s.setMs { s.ms with arrivals := rest }) key run nonempty upTo beyond)))
    refine ⟨fun more => ran.trans (congrArg _ (State.ackedBy_all more freed)), fun before f c split more last => ?_, _, ran, ?_⟩
    · intro u found
      subst split
      have foldl : ∀ g : State → LaneFrame → State, (before ++ [f]).foldl g freed = g (before.foldl g freed) f := fun g => by simp
      have u_eq : u = State.counted fr (before.foldl (State.ackedBy fr) freed) f := by
        rw [State.ackedBy_all more]
        exact foldl _
      rw [ran, foldl]
      rw [u_eq] at found ⊢
      exact congrArg _ (State.ackedBy_last last found)
    · obtain ⟨mesh, furs⟩ := State.SameBut.foldl (State.sameBut_ackedBy fr) acked freed
      exact ⟨mesh, sameFurrows.trans (t := freed) (.of_furs rfl) furs⟩
  case nak =>
    have ran := (exec_nakFrame_first first runs nak).trans (congrArg _ (if_neg (ne_true_of_eq_false thawed)))
    refine ⟨fun busy => ran.trans (congrArg _ (State.nakLane_busy key hit busy)),
      fun unknown => ran.trans (congrArg _ (State.nakLane_unknown key hit unknown)), fun refused wf => ⟨_, ran, ?_⟩⟩
    rw [State.nakLane_refused (s := s.setMs { s.ms with arrivals := rest }) key hit refused]
    obtain ⟨failed, sticky, furs⟩ := State.failLane_fails (s := s.setMs { s.ms with arrivals := rest }) (k := k) ((twf_iff _ _).mp wf).1
      (fld fr.h3 0 16) (x.refused fr.lseq (fld fr.h3 0 16))
    exact ⟨congrArg SendLane.failed failed, congrArg SendLane.unacked failed, congrArg SendLane.jobs failed, sticky, furs⟩
  case retransmit =>
    have ran := exec_laneRetransmit_due runs first sent kept frame still
    refine ⟨fun more => ran.trans (congrArg _ (State.retransmit_again first more)), fun spent wf => ⟨_, ran, ?_⟩⟩
    rw [State.retransmit_fails spent]
    obtain ⟨failed, sticky, furs⟩ := State.failLane_fails (s := s) (k := k) ((twf_iff _ _).mp wf).1 stTimeout
      (x.unacked.map (fun g => (g.ref, stTimeout)) ++ x.jobs.map (fun j => (j.ref, stTimeout)))
    exact ⟨congrArg SendLane.failed failed, congrArg SendLane.unacked failed, sticky, furs⟩

end Sys2Proof.Machine
end

section
/-! PROOFS. Windows, REMOTE_SIGNAL and REMOTE_COPY (R310, R313 to R318). -/
namespace Sys2Proof.Machine

/-! ### Windows of a furrow -/

theorem vput_vput {α : Type} {n : Nat} (v : Vector α n) (i : Nat) (x y : α) : vput (vput v i x) i y = vput v i y := by
  unfold vput
  split
  · exact Vector.set_set _ _
  · rfl

section
variable (s : State) (f : Fur)

theorem State.window_setWindow {j : Nat} (h : j < 16) (w : Window) : (s.setWindow f j w).window f j = w := by
  unfold State.window State.setWindow State.modFur
  rw [State.fur_setFur]
  exact vat_vput_self h _ _ _

theorem State.window_setWindow_ne {i j : Nat} (h : i ≠ j) (w : Window) : (s.setWindow f j w).window f i = s.window f i := by
  unfold State.window State.setWindow State.modFur
  rw [State.fur_setFur]
  exact vat_vput_ne h _ _ _

theorem State.setWindow_setWindow (j : Nat) (w w' : Window) : (s.setWindow f j w).setWindow f j w' = s.setWindow f j w' := by
  unfold State.setWindow State.modFur
  dsimp only
  rw [State.fur_setFur, State.setFur_setFur, vput_vput]

/-- What only changes scoreboards changes no window. -/
theorem sameFurrows.window {s t : State} (h : sameFurrows s t) (f : Fur) (j : Nat) : t.window f j = s.window f j := by
  unfold State.window
  rw [h f]

end

section
variable {s : State} {p : Packet} {r : CmdRef}

/-! ### WINDOW_OPEN (R310) -/

theorem State.windowOpenBody_busy (open' : (s.window p.fur (nfld (p.w 1) 16 4)).isOpen = true) : s.windowOpenBody p r = s.finish r stBusy 0 0 :=
  if_pos open'

theorem State.windowOpenBody_opens (closed : (s.window p.fur (nfld (p.w 1) 16 4)).isOpen = false) : s.windowOpenBody p r =
    (s.setWindow p.fur (nfld (p.w 1) 16 4) { s.window p.fur (nfld (p.w 1) 16 4) with
      isOpen := true, base := BitVec.ofNat 25 (p.w 2), length := BitVec.ofNat 26 (p.w 3), lanes := w64 (p.w 4)
      srcId := BitVec.ofNat 16 (p.w 5), srcMask := BitVec.ofNat 16 (nfld (p.w 5) 16 16) }).finish r stOk 0 0 :=
  if_neg (ne_true_of_eq_false closed)

/-! ### WINDOW_CLOSE and WINDOW_CLOSED (R313) -/

theorem State.windowCloseBody_closed (closed : (s.window p.fur (nfld (p.w 1) 16 4)).isOpen = false) : s.windowCloseBody p r = s.finish r stOk 0 0 :=
  if_pos (by rw [closed]; rfl)

section
variable (open' : (s.window p.fur (nfld (p.w 1) 16 4)).isOpen = true)
include open'

theorem State.windowCloseBody_waits (busy : s.windowBusy p.fur (nfld (p.w 1) 16 4) = true) : s.windowCloseBody p r =
    s.setWindow p.fur (nfld (p.w 1) 16 4) { s.window p.fur (nfld (p.w 1) 16 4) with
      closing := (s.window p.fur (nfld (p.w 1) 16 4)).closing ++ [r] } :=
  (if_neg (by rw [open']; decide)).trans (if_pos busy)

/-- With no frame being committed into it, and no other WINDOW_CLOSE of it, the window closes at once. -/
theorem State.windowCloseBody_closes (idle : s.windowBusy p.fur (nfld (p.w 1) 16 4) = false)
    (alone : (s.window p.fur (nfld (p.w 1) 16 4)).closing = []) : s.windowCloseBody p r =
    (s.setWindow p.fur (nfld (p.w 1) 16 4) { s.window p.fur (nfld (p.w 1) 16 4) with isOpen := false }).finish r stOk 0 0 := by
  have inside : nfld (p.w 1) 16 4 < 16 := Nat.mod_lt _ (by decide)
  refine ((if_neg (by rw [open']; decide)).trans (if_neg (ne_true_of_eq_false idle))).trans ?_
  unfold State.closeWindow
  dsimp only
  rw [State.window_setWindow _ _ inside, State.setWindow_setWindow]
  simp only [alone, List.nil_append, List.foldl_cons, List.foldl_nil, Window.shut]

end

theorem exec_windowClosed_idle {f : Fur} {j : Fin 16} (waits : (s.window f j.val).closing ≠ []) (idle : s.windowBusy f j.val = false)
    (runs : s.stopped = false) : exec (.windowClosed f j) s = .next (s.closeWindow f j.val) :=
  if_pos ⟨waits, by rw [idle]; rfl, by rw [runs]; rfl⟩

theorem State.sameBut_finish (s : State) (r : CmdRef) (status r0 r1 : Nat) : s.SameBut (s.finish r status r0 r1) := by
  refine ⟨?_, s.finish_sameFurrows r status r0 r1⟩
  obtain ⟨_, _, _, _, e⟩ := s.finish_changes r status r0 r1
  rw [e]

/-- The WINDOW_CLOSEs that wait complete, and the window is closed. -/
theorem State.closeWindow_sameBut (s : State) (f : Fur) (j : Nat) :
    State.SameBut (s.setWindow f j (s.window f j).shut) (s.closeWindow f j) :=
  State.SameBut.foldl (g := fun s r => s.finish r stOk 0 0) (fun s r => s.sameBut_finish r stOk 0 0) _ _

/-! ### The state in which an accepted command takes effect -/

theorem State.admitted_ms (s : State) (q : QSlot) (op : Nat) (p : Packet) : (s.admitted q op p).ms = s.ms := by
  obtain ⟨qs, t, rr, g, n, e⟩ := s.admitted_changes q op p
  rw [e]

/-- The command that a head becomes. -/
def State.cmdOf (s : State) (p : Packet) (segs : List Nat) : Cmd :=
  { seq := p.seq, opcode := BitVec.ofNat 16 p.op, units := p.units, words := p.words, quiet := p.quiet, segs := segs,
    order := s.accepted + 1, stage := 0, done := false, r0 := 0, r1 := 0, buf := [], bufMark := false, since := s.erasures }

theorem State.queue_refSegs (s : State) (is : List Nat) (q : QSlot) : (is.foldl State.refSeg s).queue q = s.queue q := by
  obtain ⟨t, e⟩ := State.refSegs_changes is s
  rw [e]
  rfl

theorem State.queue_letIn (s : State) (q : QSlot) (p : Packet) (segs : List Nat) : (s.letIn q p segs).queue q =
    { s.queue q with fetched := (s.queue q).fetched.drop 1, headJudged := none, cmds := (s.queue q).cmds ++ [s.cmdOf p segs] } := by
  unfold State.letIn
  dsimp only
  rw [State.queue_refSegs, State.queue_modQueue]
  rfl

/-- A head whose name no other command bears is found by it once it has been accepted. -/
theorem State.cmd?_letIn {q : QSlot} (new : s.cmd? ⟨q.val, p.seq⟩ = none) (segs : List Nat) :
    (s.letIn q p segs).cmd? ⟨q.val, p.seq⟩ = some (s.cmdOf p segs) := by
  rw [State.cmd?_slot] at new ⊢
  unfold Queue.cmd? at new ⊢
  rw [State.queue_letIn, List.find?_append, new]
  simp [State.cmdOf]

/-! ### REMOTE_SIGNAL (R315, R316, R318) -/

theorem State.remoteSignalBody_failed {st : Nat} (failed : s.laneFailed p.w = some st) : s.remoteSignalBody p r = s.finish r st 0 0 := by
  simp [State.remoteSignalBody, failed]

theorem State.remoteSignalBody_sends (works : s.laneFailed p.w = none) : s.remoteSignalBody p r =
    (s.modCmd r (fun c => { c with stage := 2 })).addLaneJob (remoteKey p.w) ⟨r, s.accepted, [(s.signalFrame p.w, 0)], true⟩ := by
  simp [State.remoteSignalBody, works]

/-! ### REMOTE_COPY (R314, R318) -/

theorem State.remoteCopyBody_empty (empty : p.w 6 = 0) : s.remoteCopyBody p r = s.finish r stOk 0 0 := if_pos empty

/-- The state once a REMOTE_COPY has its place in the lane and among the engines, with no frame formed. -/
def State.remoteJob (s : State) (p : Packet) (r : CmdRef) : State :=
  let b := (s.modCmd r (fun c => { c with stage := 2 })).addLaneJob (remoteKey p.w) ⟨r, s.accepted, [], false⟩
  { b with
    remotes := b.remotes ++ [⟨r, (s.queue (slotOf r.q)).prio, s.requests, (s.locOf (p.w 2) (p.w 3)).pieces (p.w 6)⟩]
    requests := s.requests + 1 }

section
variable (moves : p.w 6 ≠ 0)
include moves

theorem State.remoteCopyBody_failed {st : Nat} (failed : s.laneFailed p.w = some st) : s.remoteCopyBody p r = s.finish r st 0 0 := by
  simp [State.remoteCopyBody, moves, failed]

theorem State.remoteCopyBody_takes (works : s.laneFailed p.w = none) :
    s.remoteCopyBody p r = (s.remoteJob p r).formFrames r (p.w 6 / 4096 + 1) := by
  simp [State.remoteCopyBody, moves, works, State.remoteJob]

end

/-! ### The frames of a REMOTE_COPY (R314) -/

/-- A run of host memory reads alike in states whose host memory and free values are alike. -/
theorem State.readMarked_congr {l : Loc} (host : l.host = true) (ps : List Piece) : ∀ {s u : State}, u.hostMem = s.hostMem →
    u.hostBad = s.hostBad → u.free = s.free → (u.readMarked l ps).2 = (s.readMarked l ps).2 := by
  induction ps with
  | nil => exact fun _ _ _ => rfl
  | cons a ps ih =>
    intro s u mem bad free
    have read : u.memRead { l with addr := a.lo } (a.hi - a.lo) = s.memRead { l with addr := a.lo } (a.hi - a.lo) := by
      simp only [State.memRead, host, if_true, State.freeBytes, State.hostRd, mem, bad, free]
    unfold State.readMarked
    dsimp only
    rw [read]
    cases out : (s.memRead { l with addr := a.lo } (a.hi - a.lo)).2 with
    | good => simp [ih mem bad free, host]
    | uncorrectable => simp [State.badMap, ih (s := s.bumpFree) (u := u.bumpFree) mem bad (congrArg (· + 1) free), host]
    | translation => simp [ih (s := s.bumpFree) (u := u.bumpFree) mem bad (congrArg (· + 1) free), host]

/-- The only frame of a REMOTE_COPY of up to 4 KiB. -/
theorem copyFrame_first (id : Nat) (w : Nat → Nat) (bs : List (Byte × Bool)) : copyFrame id w 0 bs =
    ⟨mkH0 1 0 id (nfld (w 1) 0 16) bs.length, mkH1 (poisonBits bs) (nfld (w 1) 16 6) 0 0 0 0,
      w64 (nfld (w 5) 0 26 * 2 ^ 8 + nfld (w 4) 16 4 * 2 ^ 4 + nfld (w 4) 0 4), 0, bs.map Prod.fst⟩ := by
  have offset : (nfld (w 5) 0 26 + 4096 * 0) % 2 ^ 26 = nfld (w 5) 0 26 := Nat.mod_eq_of_lt (Nat.mod_lt _ (by decide))
  unfold copyFrame
  rw [offset]
  rfl

theorem mapFirst_append {α : Type} {p : α → Bool} (g : α → α) {l : List α} {a : α} (none : ∀ b ∈ l, p b = false) (hit : p a = true) :
    mapFirst p g (l ++ [a]) = l ++ [g a] := by
  induction l with
  | nil => simp [mapFirst, hit]
  | cons b l ih =>
    have rest := ih (fun c mem => none c (List.mem_cons_of_mem b mem))
    simp [mapFirst, none b List.mem_cons_self, rest]

/-- With no engine left that the command holds, no further frame is formed. -/
theorem State.formFrames_idle (idle : s.remotes.find? (fun j => j.ref == r) = none) (n : Nat) : s.formFrames r n = s := by
  cases n with
  | zero => rfl
  | succ n =>
    unfold State.formFrames
    split
    · rfl
    · simp [State.formFrame, idle]

/-- The state once the one frame of a REMOTE_COPY from host memory has been formed: its bytes are read, it is the lane's, and the engine is free. -/
def State.formedOnly (s : State) (r : CmdRef) (c : Cmd) : State :=
  let o := s.readMarked ((s.locOf (c.w 2) (c.w 3)).checked c.since) (((s.locOf (c.w 2) (c.w 3)).checked c.since).runs (c.w 6))
  let x := o.1.ms.sendLane (remoteKey c.w)
  let jobs := mapFirst (fun (g : LaneJob) => g.ref == r)
    (fun g => { g with ready := g.ready ++ [(copyFrame s.ms.id.toNat c.w 0 o.2, c.w 6)], whole := true }) x.jobs
  let t := (o.1.setMs (o.1.ms.setSend (remoteKey c.w) { x with jobs := jobs })).modCmd r
    (fun c => { c with r1 := 1, bufMark := c.bufMark || o.2.any Prod.snd })
  { t with remotes := t.remotes.filter (fun g => g.ref != r) }

theorem Loc.at_zero (l : Loc) : l.at 0 = l := rfl

theorem State.formFrame_only {c : Cmd} {j : Job} (engine : s.remotes.find? (fun j => j.ref == r) = some j)
    (host : (s.locOf (c.w 2) (c.w 3)).host = true) (first : c.r1 = 0) (short : c.w 6 ≤ 4096) :
    s.formFrame r c = some (s.formedOnly r c) := by
  have host' : ((s.locOf (c.w 2) (c.w 3)).checked c.since).host = true := host
  have whole : decide (c.w 6 ≤ 4096 * (c.r1 + 1)) = true := decide_eq_true (by rw [first]; exact short)
  have all : min 4096 (c.w 6 - 4096 * c.r1) = c.w 6 := by rw [first]; exact Nat.min_eq_right short
  have here : Loc.at ((s.locOf (c.w 2) (c.w 3)).checked c.since) (4096 * c.r1) = (s.locOf (c.w 2) (c.w 3)).checked c.since := by
    rw [first]
    exact Loc.at_zero _
  unfold State.formFrame
  simp only [engine, whole, all, here, host', Bool.not_true, Bool.false_and, Bool.false_eq_true, if_false, if_true]
  rw [first]
  rfl

theorem find?_filter_ref (r : CmdRef) (l : List Job) : (l.filter (fun g => g.ref != r)).find? (fun j => j.ref == r) = none := by
  simp [List.find?_eq_none]

/-- The command holds no engine any more. -/
theorem State.remotes_formedOnly (s : State) (r : CmdRef) (c : Cmd) : (s.formedOnly r c).remotes.find? (fun j => j.ref == r) = none :=
  find?_filter_ref r _

theorem State.formFrames_succ {c : Cmd} {t : State} (found : s.cmd? r = some c) (forms : s.formFrame r c = some t) (n : Nat) :
    s.formFrames r (n + 1) = t.formFrames r n := by
  rw [State.formFrames, found]
  dsimp only
  rw [forms]

theorem State.formFrames_only {c : Cmd} {j : Job} (found : s.cmd? r = some c) (engine : s.remotes.find? (fun j => j.ref == r) = some j)
    (host : (s.locOf (c.w 2) (c.w 3)).host = true) (first : c.r1 = 0) (short : c.w 6 ≤ 4096) (n : Nat) :
    s.formFrames r (n + 1) = s.formedOnly r c := by
  exact (State.formFrames_succ found (State.formFrame_only engine host first short) n).trans (State.formFrames_idle (State.remotes_formedOnly s r c) n)

/-- The lane that the frame joins: its command's job, the last, is whole with it. -/
theorem State.jobs_formedOnly {c : Cmd} {jobs : List LaneJob} {order : Nat} (rise : keysRise none s.ms.send = true)
    (lane : (s.ms.sendLane (remoteKey c.w)).jobs = jobs ++ [⟨r, order, [], false⟩]) (others : ∀ j ∈ jobs, (j.ref == r) = false) :
    ((s.formedOnly r c).ms.sendLane (remoteKey c.w)).jobs = jobs ++ [⟨r, order, [(copyFrame s.ms.id.toNat c.w 0
      (s.readMarked ((s.locOf (c.w 2) (c.w 3)).checked c.since) (((s.locOf (c.w 2) (c.w 3)).checked c.since).runs (c.w 6))).2, c.w 6)], true⟩] := by
  obtain ⟨n, read⟩ := State.readMarked_changes ((s.locOf (c.w 2) (c.w 3)).checked c.since)
    (((s.locOf (c.w 2) (c.w 3)).checked c.since).runs (c.w 6)) s
  have mesh := congrArg State.ms read
  refine (congrArg SendLane.jobs (tget_tset_self _ _ _ _ (by rw [mesh]; exact rise))).trans ?_
  rw [mesh]
  refine (congrArg (mapFirst _ _) lane).trans ?_
  exact mapFirst_append _ others (beq_self_eq_true r)

section
variable (s p r)

theorem State.remoteJob_engine : ∃ j, (s.remoteJob p r).remotes.find? (fun j => j.ref == r) = some j :=
  Option.isSome_iff_exists.mp (List.find?_isSome.mpr ⟨_, List.mem_append_right _ (List.mem_singleton.mpr rfl), beq_self_eq_true r⟩)

theorem State.remoteJob_cmd? : (s.remoteJob p r).cmd? r = (s.cmd? r).map (fun c => { c with stage := 2 }) :=
  State.cmd?_modCmd (s := s) (g := fun c => { c with stage := 2 }) (fun _ => rfl) (fun _ => rfl) r

end

/-- A REMOTE_COPY of up to 4 KiB from host memory gives its lane one frame, of the bytes as they stand. -/
theorem State.remoteCopyBody_one {c : Cmd} (found : s.cmd? r = some c) (words : c.words = p.words) (first : c.r1 = 0)
    (moves : p.w 6 ≠ 0) (short : p.w 6 ≤ 4096) (host : (s.locOf (p.w 2) (p.w 3)).host = true) (works : s.laneFailed p.w = none)
    (rise : keysRise none s.ms.send = true) (others : ∀ j ∈ (s.ms.sendLane (remoteKey p.w)).jobs, (j.ref == r) = false) :
    ((s.remoteCopyBody p r).ms.sendLane (remoteKey p.w)).jobs = (s.ms.sendLane (remoteKey p.w)).jobs ++
      [⟨r, s.accepted, [(copyFrame s.ms.id.toNat p.w 0 (s.readMarked ((s.locOf (p.w 2) (p.w 3)).checked c.since)
        (((s.locOf (p.w 2) (p.w 3)).checked c.since).runs (p.w 6))).2, p.w 6)], true⟩] := by
  have found' : (s.remoteJob p r).cmd? r = some { c with stage := 2 } := by rw [State.remoteJob_cmd?, found]; rfl
  obtain ⟨j, engine⟩ := s.remoteJob_engine p r
  have same : Cmd.w { c with stage := 2 } = p.w := by unfold Cmd.w Packet.w; rw [words]
  have lane : ((s.remoteJob p r).ms.sendLane (remoteKey p.w)).jobs = (s.ms.sendLane (remoteKey p.w)).jobs ++ [⟨r, s.accepted, [], false⟩] :=
    congrArg SendLane.jobs (tget_tset_self _ _ _ _ rise)
  have rise' : keysRise none (s.remoteJob p r).ms.send = true := keysRise_tset _ _ _ _ _ rise (fun _ h => nomatch h)
  have alone := State.formFrames_only found' engine (by rw [same]; exact host) first (by rw [same]; exact short) (p.w 6 / 4096)
  rw [State.remoteCopyBody_takes moves works, alone]
  have jobs := State.jobs_formedOnly (c := { c with stage := 2 }) rise' (by rw [same]; exact lane) others
  rw [same] at jobs
  refine jobs.trans ?_
  have read := State.readMarked_congr (l := (s.locOf (p.w 2) (p.w 3)).checked c.since) host
    (((s.locOf (p.w 2) (p.w 3)).checked c.since).runs (p.w 6)) (s := s) (u := s.remoteJob p r) rfl rfl rfl
  exact congrArg (fun bs => _ ++ [LaneJob.mk r s.accepted [(copyFrame s.ms.id.toNat p.w 0 bs, p.w 6)] true]) read

end

/-! ### Poison bits of a frame -/

/-- The sum of the bits of a run, each at its place, has them at their places. -/
theorem testBit_sum_bits (f : Nat → Bool) (n : Nat) : ((List.range n).map (fun i => at' (b2n (f i)) i)).sum < 2 ^ n ∧
    ∀ i < n, ((List.range n).map (fun i => at' (b2n (f i)) i)).sum.testBit i = f i := by
  induction n with
  | zero => exact ⟨Nat.one_pos, fun i h => absurd h (Nat.not_lt_zero i)⟩
  | succ n ih =>
    obtain ⟨small, bits⟩ := ih
    have step : ((List.range (n + 1)).map (fun i => at' (b2n (f i)) i)).sum =
        2 ^ n * b2n (f n) + ((List.range n).map (fun i => at' (b2n (f i)) i)).sum := by
      rw [List.range_succ, List.map_append, List.sum_append]
      simp [at', Nat.mul_comm, Nat.add_comm]
    rw [step]
    refine ⟨?_, fun i h => ?_⟩
    · have top : b2n (f n) ≤ 1 := by cases f n <;> decide
      have := Nat.mul_le_mul_left (2 ^ n) top
      omega
    · rw [Nat.testBit_two_pow_mul_add _ small]
      split
      · next below => exact bits i below
      · next last =>
        rw [show i = n by omega, Nat.sub_self]
        cases f n <;> rfl

theorem bitOf_poisonBits (bs : List (Byte × Bool)) {i : Nat} (h : i < 8) :
    bitOf (w64 (poisonBits bs)) i = ((bs.drop (512 * i)).take 512).any Prod.snd := by
  unfold bitOf w64
  rw [BitVec.getLsbD_ofNat, decide_eq_true (Nat.lt_trans h (by decide)), Bool.true_and]
  exact (testBit_sum_bits (fun i => ((bs.drop (512 * i)).take 512).any Prod.snd) 8).2 i h

/-! ### The statement -/

/-- Settles O49: each command's instruction is its acceptance, and what it does then is its body by the state of its window or lane. -/
theorem remoteCommands : Obligations.RemoteCommands := by
  unfold Obligations.RemoteCommands
  intro q f j s p r takes n k
  refine ⟨⟨fun open' => ?busy, fun closed => ?opens⟩, ⟨fun closed => ?closed, fun open' busy => ?waits, fun open' idle alone => ?closes⟩,
    fun waits idle runs => ?windowClosed, ⟨fun st failed => ?signalFailed, fun works => ?signal⟩,
    fun empty => ?empty, fun st moves failed => ?copyFailed, fun moves works => ?copy, ?frame⟩
  case busy => exact accepts_of_body (body := State.windowOpenBody) rfl (State.windowOpenBody_busy open')
  case opens => exact accepts_of_body (body := State.windowOpenBody) rfl (State.windowOpenBody_opens closed)
  case closed => exact accepts_of_body (body := State.windowCloseBody) rfl (State.windowCloseBody_closed closed)
  case waits => exact accepts_of_body (body := State.windowCloseBody) rfl (State.windowCloseBody_waits open' busy)
  case closes => exact accepts_of_body (body := State.windowCloseBody) rfl (State.windowCloseBody_closes open' idle alone)
  case windowClosed =>
    have run := exec_windowClosed_idle waits idle runs
    refine ⟨fun r' only => ?_, _, run, ?_⟩
    · rw [run]
      unfold State.closeWindow
      dsimp only
      rw [only]
      rfl
    · obtain ⟨mesh, furs⟩ := s.closeWindow_sameBut f j.val
      have shut : (s.closeWindow f j.val).window f j.val = (s.window f j.val).shut := (furs.window f j.val).trans (s.window_setWindow f j.isLt _)
      exact ⟨congrArg Window.isOpen shut, congrArg Window.closing shut,
        fun i other => (furs.window f i.val).trans (s.window_setWindow_ne f (Fin.val_ne_of_ne other) _), mesh⟩
  case signalFailed => exact accepts_of_body (body := State.remoteSignalBody) rfl (State.remoteSignalBody_failed failed)
  case signal =>
    refine accepts_of_body (body := State.remoteSignalBody) rfl ((State.remoteSignalBody_sends works).trans ?_)
    unfold State.signalFrame
    rw [State.admitted_ms]
    rfl
  case empty => exact accepts_of_body (body := State.remoteCopyBody) rfl (State.remoteCopyBody_empty empty)
  case copyFailed => exact accepts_of_body (body := State.remoteCopyBody) rfl (State.remoteCopyBody_failed moves failed)
  case copy => exact accepts_of_body (body := State.remoteCopyBody) rfl (State.remoteCopyBody_takes moves works)
  case frame =>
    intro l bs head moves short host works new wf others
    have mesh := s.admitted_ms q 0x0402 p
    obtain ⟨segs, found⟩ : ∃ segs, (s.admitted q 0x0402 p).cmd? r = some (s.cmdOf p segs) := ⟨_, State.cmd?_letIn new _⟩
    have others' : ∀ j ∈ ((s.admitted q 0x0402 p).ms.sendLane (remoteKey p.w)).jobs, (j.ref == r) = false :=
      fun j mem => by simpa [bne] using List.all_eq_true.mp others j mem
    have one := State.remoteCopyBody_one found rfl rfl moves short host works (by rw [mesh]; exact ((twf_iff _ _).mp wf).1) others'
    rw [copyFrame_first, mesh] at one
    refine ⟨_, accepts_of_body (body := State.remoteCopyBody) rfl rfl head, ?_, fun i h => bitOf_poisonBits bs h⟩
    rw [mesh]
    exact one

end Sys2Proof.Machine
end
